-- ==== Sys2Proof/Word.lean ====
section
/-! DEFINITION. The word types of the TH-9 (spec/00_scope.md R5, R8; spec/01_task_state.md R15). -/
namespace Sys2Proof

/-- One byte. -/
abbrev Byte := BitVec 8
/-- A syllable, or any 32-bit field (R44). -/
abbrev W32 := BitVec 32
/-- A scalar register's pattern (R15). -/
abbrev W64 := BitVec 64
/-- A vector register, a latch or a stream element (R15). -/
abbrev V512 := BitVec 512

end Sys2Proof
end

