-- ==== Sys2Proof/Config.lean ====
section
/-! DEFINITION. What an implementation or the outside world fixes and the spec leaves open: constants without a body,
so that nothing can be proved of their values. -/
namespace Sys2Proof.Config

/-- Which of the enabled events happens next where no rule orders them (spec/15_die_clocks_errors.md R443), as a
function of the count of free choices made. Free value (log 1). -/
opaque choose : Nat → Nat

/-- A value that the firmware generates: key slot 0 (spec/20_package_host_firmware.md R403). Free value (log 7). -/
opaque generated : Nat → BitVec 512

/-- The key hash fused into the part (spec/20_package_host_firmware.md R402). Free value (log 7). -/
opaque fusedKeyHash : BitVec 256

/-- The minimum security version fused into the part (spec/20_package_host_firmware.md R402). Free value (log 7). -/
opaque fusedMinSvn : Nat

/-- The pod number that the firmware learns from the switch, modulo the 144 of a pod (spec/23_fabric.md R428). Free value
(log 7). -/
opaque podNumber : Nat

/-- The IPv6 address of an Ethernet port, and the key of an owner's MACsec secure association (spec/23_fabric.md R442): how they
are set is not given. Free values (log 114). -/
opaque etherAddr : Nat → Nat
opaque macsecKey : Nat → BitVec 256

/-- What data read under a key other than the one it was stored under reads as, and what a read of a granule that was
never stored returns (spec/19_package_memory.md R399). Free value (log 8). -/
opaque freeGranule : Nat → BitVec 512

/-- Bits that an instruction uses and the spec does not state: the elements of a flue entry past source bit 511
(spec/08_matrix_instructions.md R215), by the count of free choices made. Free value (log 98). -/
opaque unstated : Nat → BitVec 512

/-- Whether enough elastic headroom is left to meet the power limit while these squares of the package, in rising order, serve
fixed-timing contexts (spec/20_package_host_firmware.md R412). Free value (log 9). -/
opaque powerHeadroom : List Nat → Bool

/-- The byte offset that a peer's tensor gives to coordinates (spec/23_fabric.md R439): they are resolved against the
record at the exporter, which this package does not hold. By Ethernet or not, node, window and coordinates. Free value
(log 11). -/
opaque remoteOffset : Bool → Nat → Nat → List Int → Nat

/-- The j of a queue's ring of 2^j entries less 4, its priority, and the ring's address in host memory, by queue
(spec/20_package_host_firmware.md R405): how the host states them is not given. Free values (log 21). -/
opaque queueSize : Nat → Nat
opaque queuePriority : Nat → Nat
opaque queueBase : Nat → Nat

/-- The syndrome that a SECDED code gives for a flipped bit (spec/15_die_clocks_errors.md R348, R351). Free value
(log 10). -/
opaque syndrome : Nat → BitVec 8

/-- Whether the data of a request is late in a fixed-timing context because an error is being recovered from
(spec/06_scratchpad_flues_landing.md R166, R168), by request number. Free value (log 83). -/
opaque recovery : Nat → Bool

/-- The set of the memory-side cache in which the line of a physical address lies (spec/18_package_residency.md R370): the
spec gives the cache's ways and no index. Free value (log 84). -/
opaque sideSet : Nat → Nat

/-- The canonical poison that a copy writes into granules whose source data is in error (spec/09_memory_instructions.md R236):
its bits are not given. Free value (log 89). -/
opaque canonicalPoison : BitVec 512

/-- The granule writes that a die's egress buffer holds (spec/13_die_memory_model.md R313): the spec gives no size. Free
value (log 55). -/
opaque egressRoom : Nat

end Sys2Proof.Config
end

