-- ==== Sys2Proof/Machine/Bits.lean ====
section
/-! DEFINITION. Bit fields, sign extension, byte order and packed elements over natural numbers
(spec/00_scope.md R5, spec/05_number_formats.md R125, R131). -/
namespace Sys2Proof

/-- Bits [lo + n - 1 : lo] of a natural number, bit 0 least significant (R5). -/
def bits (w lo n : Nat) : Nat := w / 2 ^ lo % 2 ^ n

/-- Bit `i` of a natural number. -/
def bit (w i : Nat) : Bool := w / 2 ^ i % 2 == 1

/-- A flag as a bit. -/
def ofBool (b : Bool) : Nat := if b then 1 else 0

/-- An `n`-bit pattern read as two's complement (R125). -/
def signed (n w : Nat) : Int :=
  if w % 2 ^ n < 2 ^ (n - 1) then ((w % 2 ^ n : Nat) : Int) else ((w % 2 ^ n : Nat) : Int) - 2 ^ n

/-- The `n`-bit pattern of an exact integer (R125). -/
def wrap (n : Nat) (i : Int) : Nat := (i % (2 ^ n : Int)).toNat

/-- An exact integer clamped to [lo, hi] (R125). -/
def clampInt (lo hi i : Int) : Int := if i < lo then lo else if hi < i then hi else i

/-- Ceil(a / b). -/
def ceilDiv (a b : Nat) : Nat := (a + b - 1) / b

/-- Element `i` of a little-endian string of `w`-bit elements (R131, R178). -/
def elemAt (w : Nat) (v i : Nat) : Nat := v / 2 ^ (w * i) % 2 ^ w

/-- The string whose element `i`, for `i < n`, is `f i` (R131, R178). -/
def packElems (w : Nat) : Nat → (Nat → Nat) → Nat
  | 0, _ => 0
  | n + 1, f => packElems w n f + f n % 2 ^ w * 2 ^ (w * n)

/-- A vector register whose element `i`, for `i < n`, is `f i`, the bits above them zero. -/
def packV (w n : Nat) (f : Nat → Nat) : V512 := BitVec.ofNat 512 (packElems w n f)

/-- A little-endian list of bytes as a number (R5). -/
def ofBytes : List Byte → Nat
  | [] => 0
  | b :: bs => b.toNat + 256 * ofBytes bs

/-- The `n` bytes of a number, little-endian (R5). -/
def toBytes : Nat → Nat → List Byte
  | 0, _ => []
  | n + 1, v => BitVec.ofNat 8 v :: toBytes n (v / 256)

/-- The 1-bits of a pattern below bit `n`. -/
def popCount (w : Nat) : Nat → Nat
  | 0 => 0
  | n + 1 => popCount w n + ofBool (bit w n)

/-- Leading zero bits of an `n`-bit pattern. -/
def leadingZeros (w : Nat) : Nat → Nat
  | 0 => 0
  | n + 1 => if bit w n then 0 else 1 + leadingZeros w n

/-- Trailing zero bits of the low `n` bits of a pattern, from bit `i` up. -/
def trailingZerosFrom (w : Nat) : Nat → Nat → Nat
  | 0, _ => 0
  | n + 1, i => if bit w i then 0 else 1 + trailingZerosFrom w n (i + 1)

/-- Trailing zero bits of an `n`-bit pattern. -/
def trailingZeros (w n : Nat) : Nat := trailingZerosFrom w n 0

end Sys2Proof
end

