-- ==== Sys2Proof/Machine/Formats.lean ====
section
/-! DEFINITION. Element formats, V-slot type and rounding codes, and the shape menu of the matrix array
(spec/05_number_formats.md R124, R127, R134, R138; spec/08_matrix_instructions.md R205, R206; spec/06 R155, R170). -/
namespace Sys2Proof

/-- The element formats (R124). -/
inductive Fmt where
  | i8 | i16 | i32 | i64
  | n8 | n16 | n32 | n64
  | f32 | f16 | bf16 | e5m2 | e4m3 | e3m2 | e2m3 | e2m1
  | t2
  | mx8e4 | mx8e5 | mx6e3 | mx6e2 | mx4 | mxi8
  | e8m0
  deriving DecidableEq, Repr

/-- Rounding modes (R138). -/
inductive Rnd where
  | rne | rtz | rdn | rup | rs
  deriving DecidableEq, Repr

namespace Fmt

/-- The format of a 5-bit code; codes 0x18 to 0x1F are reserved (R124). -/
def ofCode : Nat → Option Fmt
  | 0x00 => some i8 | 0x01 => some i16 | 0x02 => some i32 | 0x03 => some i64
  | 0x04 => some n8 | 0x05 => some n16 | 0x06 => some n32 | 0x07 => some n64
  | 0x08 => some f32 | 0x09 => some f16 | 0x0A => some bf16 | 0x0B => some e5m2
  | 0x0C => some e4m3 | 0x0D => some e3m2 | 0x0E => some e2m3 | 0x0F => some e2m1
  | 0x10 => some t2
  | 0x11 => some mx8e4 | 0x12 => some mx8e5 | 0x13 => some mx6e3 | 0x14 => some mx6e2
  | 0x15 => some mx4 | 0x16 => some mxi8 | 0x17 => some e8m0
  | _ => none

/-- Bits of one element, MX elements without their scale (R124, R366). -/
def width : Fmt → Nat
  | i8 | n8 | e5m2 | e4m3 | e8m0 | mx8e4 | mx8e5 | mxi8 => 8
  | i16 | n16 | f16 | bf16 => 16
  | i32 | n32 | f32 => 32
  | i64 | n64 => 64
  | e3m2 | e2m3 | mx6e3 | mx6e2 => 6
  | e2m1 | mx4 => 4
  | t2 => 2

/-- The signed and unsigned integer formats (R125). -/
def isInt : Fmt → Bool
  | i8 | i16 | i32 | i64 | n8 | n16 | n32 | n64 => true
  | _ => false

/-- The signed integer formats. -/
def isSigned : Fmt → Bool
  | i8 | i16 | i32 | i64 => true
  | _ => false

/-- The MX block formats (R134). -/
def isMx : Fmt → Bool
  | mx8e4 | mx8e5 | mx6e3 | mx6e2 | mx4 | mxi8 => true
  | _ => false

/-- The floating-point element formats (R127). -/
def isFloat : Fmt → Bool
  | f32 | f16 | bf16 | e5m2 | e4m3 | e3m2 | e2m3 | e2m1 => true
  | _ => false

/-- The element format of an MX format; MXINT8's elements are bytes (R134). -/
def mxElem : Fmt → Fmt
  | mx8e4 => e4m3 | mx8e5 => e5m2 | mx6e3 => e3m2 | mx6e2 => e2m3 | mx4 => e2m1 | mxi8 => i8
  | f => f

/-- Exponent bits of a floating-point format (R127). -/
def expBits : Fmt → Nat
  | f32 | bf16 => 8
  | f16 | e5m2 => 5
  | e4m3 => 4
  | e3m2 => 3
  | e2m3 | e2m1 => 2
  | _ => 0

/-- Mantissa bits of a floating-point format (R127). -/
def manBits : Fmt → Nat
  | f32 => 23 | f16 => 10 | bf16 => 7 | e5m2 => 2 | e4m3 => 3 | e3m2 => 2 | e2m3 => 3 | e2m1 => 1
  | _ => 0

/-- Exponent bias of a floating-point format (R127). -/
def bias : Fmt → Int
  | f32 | bf16 => 127
  | f16 | e5m2 => 15
  | e4m3 => 7
  | e3m2 => 3
  | e2m3 | e2m1 => 1
  | _ => 0

/-- Formats with an infinity; they also have signalling NaNs (R127, R128). -/
def hasInf : Fmt → Bool
  | f32 | f16 | bf16 | e5m2 => true
  | _ => false

/-- The canonical NaN's pattern, in the formats that have one (R127). -/
def canonicalNan : Fmt → Nat
  | f32 => 0x7FC00000 | f16 => 0x7E00 | bf16 => 0x7FC0 | e5m2 => 0x7E | e4m3 => 0x7F
  | _ => 0

/-- The magnitude pattern of the largest finite value (R127). -/
def maxFinite : Fmt → Nat
  | f32 => 0x7F7FFFFF | f16 => 0x7BFF | bf16 => 0x7F7F | e5m2 => 0x7B | e4m3 => 0x7E
  | e3m2 => 0x1F | e2m3 => 0x1F | e2m1 => 0x7
  | _ => 0

/-- The exponent of the largest finite value of an MX element format (R134). -/
def emax : Fmt → Int
  | e5m2 => 15 | e4m3 => 8 | e3m2 => 4 | e2m3 => 2 | e2m1 => 2
  | _ => 0

end Fmt

/-- The integer format of a V-slot TY code: TY 0 to 7 are codes 0x00 to 0x07 (R124, R74). -/
def intTy (ty : Nat) : Option Fmt := if ty < 8 then Fmt.ofCode ty else none

/-- The float format of a V-slot TY code: TY 0, 1, 2 are .f32, .f16, .bf16 (R124, R74). -/
def floatTy (ty : Nat) : Option Fmt := if ty < 3 then Fmt.ofCode (ty + 8) else none

/-- The rounding mode of a float MD code (R138). -/
def rndOf : Nat → Option Rnd
  | 0 => some .rne | 1 => some .rtz | 2 => some .rdn | 3 => some .rup | 4 => some .rs
  | _ => none

/-- The defined BFMT codes: raw (0x80) or an element format up to T2 (R155). -/
def bfmtOk (c : Nat) : Bool := c == 0x80 || c ≤ 0x10

/-- FLCFG's legal flue pairs: codes up to 0x16, and an MX side only against a non-MX side of 16 bits or fewer (R170). -/
def fluePairOk (src sink : Nat) : Bool :=
  match Fmt.ofCode src, Fmt.ofCode sink with
  | some a, some b =>
    src ≤ 0x16 && sink ≤ 0x16 &&
      (if a.isMx then !b.isMx && b.width ≤ 16 else if b.isMx then a.width ≤ 16 else true)
  | _, _ => false

/-- One line of the shape menu: rows M, depth K, plane row bytes R, A units G (R205). -/
structure Shape where
  rows : Nat
  depth : Nat
  rowBytes : Nat
  units : Nat
  deriving DecidableEq, Repr

/-- The shape menu (R205). -/
def shapeOf : Nat → Shape
  | 0 => ⟨128, 128, 128, 2⟩
  | 1 => ⟨128, 128, 96, 2⟩
  | 2 => ⟨128, 64, 128, 2⟩
  | 3 => ⟨128, 256, 128, 2⟩
  | 4 => ⟨128, 256, 64, 4⟩
  | 5 => ⟨16, 128, 128, 2⟩
  | 6 => ⟨16, 64, 128, 2⟩
  | _ => ⟨16, 256, 128, 2⟩

/-- The operand formats A × B of a shape and a format code; none is a reserved pair (R206). -/
def matFormats (ty md : Nat) : Option (Fmt × Fmt) :=
  match ty, md with
  | 0, 0 | 5, 0 => some (.e4m3, .e4m3)
  | 0, 1 | 5, 1 => some (.e5m2, .e5m2)
  | 0, 2 | 5, 2 => some (.e4m3, .e5m2)
  | 0, 3 | 5, 3 => some (.e5m2, .e4m3)
  | 0, 4 | 5, 4 => some (.i8, .i8)
  | 0, 5 | 5, 5 => some (.mx8e4, .mx8e4)
  | 0, 6 | 5, 6 => some (.mx8e5, .mx8e5)
  | 0, 7 | 5, 7 => some (.mxi8, .mxi8)
  | 1, 0 => some (.e3m2, .e3m2)
  | 1, 1 => some (.e2m3, .e2m3)
  | 1, 2 => some (.e3m2, .e2m3)
  | 1, 3 => some (.e2m3, .e3m2)
  | 1, 4 => some (.mx6e3, .mx6e3)
  | 1, 5 => some (.mx6e2, .mx6e2)
  | 2, 0 | 6, 0 => some (.bf16, .bf16)
  | 2, 1 | 6, 1 => some (.f16, .f16)
  | 2, 2 | 6, 2 => some (.bf16, .f16)
  | 2, 3 | 6, 3 => some (.f16, .bf16)
  | 3, 0 | 7, 0 => some (.e2m1, .e2m1)
  | 3, 1 | 7, 1 => some (.mx4, .mx4)
  | 4, 0 => some (.i8, .t2)
  | 4, 1 => some (.e4m3, .t2)
  | 4, 2 => some (.mxi8, .t2)
  | 4, 3 => some (.mx8e4, .t2)
  | _, _ => none

/-- A vector register group vN to v(N+k-1) neither passes v1023 nor crosses from v511 to v512 (R216, R231). -/
def vGroupOk (n k : Nat) : Bool := n + k ≤ 1024 && (n + k ≤ 512 || 512 ≤ n)

end Sys2Proof
end

