-- ==== Sys2Proof/Syntax.lean ====
section
/-! DEFINITION. The instructions, events and commands of the TH-9 as syntax: one constructor of `Instr` per row of the
table of operations and events. Register numbers, immediates and field values are natural numbers, bounded by
`Instr.WellFormed`; the formats are those of spec/02_bundle_encoding.md R51 to R58 and, for operator-stream
records, of spec/14, 18, 19 and 23. -/
namespace Sys2Proof

/-- Uniform-select bits K1, K2, K3 of an extension syllable (R53, R54). -/
structure KSel where
  k1 : Bool
  k2 : Bool
  k3 : Bool
  deriving DecidableEq, Repr

/-- Format S0: no operands (R52). `bt` is the binding-time mark, `g` the guard predicate (R60, R61). -/
structure S0 where
  bt : Bool
  g : Nat
  deriving DecidableEq, Repr

/-- Format S3: three 6-bit fields; an extension carries uniform-select bits only (R52, R53). -/
structure S3 where
  bt : Bool
  g : Nat
  f1 : Nat
  f2 : Nat
  f3 : Nat
  ext : Option KSel
  deriving DecidableEq, Repr

/-- Format S3X: three 6-bit fields and a mandatory extension, whose EXT[27:0] is `x` (R52, R53). -/
structure S3X where
  bt : Bool
  g : Nat
  f1 : Nat
  f2 : Nat
  f3 : Nat
  k : KSel
  x : Nat
  deriving DecidableEq, Repr

/-- Format S2I: two 6-bit fields and a 6-bit immediate, widened to 34 bits by an extension (R52, R53). -/
structure S2I where
  bt : Bool
  g : Nat
  f1 : Nat
  f2 : Nat
  i : Nat
  ext : Option (KSel × Nat)
  deriving DecidableEq, Repr

/-- Format S1I: one 6-bit field and a 12-bit immediate, widened to 40 bits by an extension (R52, R53). -/
structure S1I where
  bt : Bool
  g : Nat
  f1 : Nat
  i : Nat
  ext : Option (KSel × Nat)
  deriving DecidableEq, Repr

/-- Format SI: an 18-bit immediate, widened to 49 bits by an extension (R52, R53). -/
structure SI where
  bt : Bool
  g : Nat
  i : Nat
  ext : Option Nat
  deriving DecidableEq, Repr

/-- Format SPI: a predicate and a 14-bit immediate, widened to 45 bits by an extension (R52, R53). -/
structure SPI where
  bt : Bool
  g : Nat
  p1 : Nat
  i : Nat
  ext : Option Nat
  deriving DecidableEq, Repr

/-- Format SC: a predicate and two 6-bit fields (R52). -/
structure SC where
  bt : Bool
  g : Nat
  p1 : Nat
  f2 : Nat
  f3 : Nat
  ext : Option KSel
  deriving DecidableEq, Repr

/-- Format SL: three predicates (R52). -/
structure SL where
  bt : Bool
  g : Nat
  p1 : Nat
  p2 : Nat
  p3 : Nat
  deriving DecidableEq, Repr

/-- The 62-bit body of an X, V or M operation without OP, which the constructor names, and BT, which is 0
on every long operation (R55, R61, R74). -/
structure Long where
  g : Nat
  wbs : Bool
  ty : Nat
  md : Nat
  dst : Nat
  sa : Nat
  sb : Nat
  sc : Nat
  deriving DecidableEq, Repr

/-- A resident stream: a die and one of its sixteen slots (R318). -/
structure StreamId where
  die : Nat
  slot : Nat
  deriving DecidableEq, Repr

/-- OPLAUNCH's fields (R322). -/
structure OpLaunch where
  sigId : Nat
  sigKind : Nat
  pri : Nat
  slot : Nat
  kernel : Nat
  args : Nat
  deriving DecidableEq, Repr

/-- TASKDEF's fields (R327). -/
structure TaskDef where
  n : Nat
  pri : Nat
  slot : Nat
  kernel : Nat
  args : Nat
  deriving DecidableEq, Repr

/-- MBOXBIND's fields (R328). -/
structure MboxBind where
  m : Nat
  pri : Nat
  kernel : Nat
  args : Nat
  deriving DecidableEq, Repr

/-- TDECL's fields (R384, R385); `ext` holds e0 to e3. -/
structure TDecl where
  fmt : Nat
  raw : Bool
  rank : Nat
  die : Nat
  place : Nat
  key : Nat
  handle : Nat
  e0 : Nat
  e1 : Nat
  e2 : Nat
  e3 : Nat
  deriving DecidableEq, Repr

/-- TRECIPE's fields (R384, R387); `nrec` is the field, one less than the number of records. -/
structure TRecipe where
  nin : Nat
  target : Nat
  nrec : Nat
  stream : Nat
  off : Nat
  work : Nat
  in0 : Nat
  in1 : Nat
  in2 : Nat
  in3 : Nat
  deriving DecidableEq, Repr

/-- SCAN's fields (R396). -/
structure Scan where
  sigKind : Nat
  sigId : Nat
  ge : Bool
  abs : Bool
  fmt : Nat
  src : Nat
  res : Nat
  thr : Nat
  first : Nat
  count : Nat
  cap : Nat
  deriving DecidableEq, Repr

/-- TEXPORT's fields (R437). -/
structure TExport where
  w : Nat
  acc : Nat
  handle : Nat
  first : Nat
  count : Nat
  peer : Nat
  deriving DecidableEq, Repr

/-- One buffer of a command packet (R409). -/
structure Buffer where
  addr : Nat
  len : Nat
  mode : Nat
  deriving DecidableEq, Repr

/-- The header of a command packet: its context slot, queue and ring index, completion address, buffers, and
whether a reserved field of it is nonzero (R405, R409). -/
structure Packet where
  slot : Nat
  queue : Nat
  index : Nat
  caddr : Nat
  bufs : List Buffer
  bad : Bool
  deriving DecidableEq, Repr

/-- The residency settings of a context; the die fields have one value for each die (R369). -/
structure Residency where
  rbres : List Nat
  hbmq : List Nat
  poolq : List Nat
  lpdq : Nat
  packRatio : Nat
  recompCost : Nat
  packCost : Nat
  spillCost : Nat
  deriving DecidableEq, Repr

/-- One Ethernet peer of a context (R442). -/
structure Peer where
  addr : Nat
  qp : Nat
  owner : Nat
  deriving DecidableEq, Repr

/-- The context-set command's operands: mode word, residency settings, fabric owner index and Ethernet peers
(R407, R442). -/
structure ContextSet where
  id : Nat
  mode : Nat
  res : Residency
  owner : Option Nat
  peers : List (Nat × Peer)
  deriving DecidableEq, Repr

/-- The stream-admit command's operands (R318, R409). -/
structure StreamAdmit where
  id : Nat
  die : Nat
  handle : Nat
  start : Nat
  len : Nat
  pri : Nat
  deriving DecidableEq, Repr

/-- The sync-allocate command's operands: a range of one space of a die (0 words, 1 deques, 2 mailboxes, 3 named
tasks), and the size of the overflow area where the command sets it (R287, R409). -/
structure SyncAllocate where
  id : Nat
  die : Nat
  space : Nat
  lo : Nat
  hi : Nat
  ovf : Option Nat
  deriving DecidableEq, Repr

/-- A host access to device memory over CXL.mem: the bytes of one tensor, read or written (R303, R311). -/
structure HostAccess where
  ctx : Nat
  handle : Nat
  off : Nat
  len : Nat
  data : Option (List Byte)
  deriving DecidableEq, Repr

/-- A fabric packet: header fields, payload and tag (R430), with the link's epoch and the sending port, which its nonce holds.
Over Ethernet SRC and DST are the ends' addresses, OWNER the owner of the secure association, and QP the queue pair (R442). -/
structure FabPacket where
  bmask : Nat
  off : Nat
  seq : Nat
  owner : Nat
  op : Nat
  src : Nat
  dst : Nat
  win : Nat
  tag : Nat
  ng : Nat
  status : Nat
  payload : List V512
  mac : BitVec 128
  epoch : Nat
  sender : Nat
  qp : Nat
  deriving DecidableEq, Repr

/-- The steps of the TH-9: one constructor per row of the table of operations and events,
those with operands first. An event that happens at a unit (a hearth, a die, a launch, a port) happens at the unit
that the state names; host commands carry their operands, slot operations carry the fields of their format;
operator-stream records name the stream that holds them. -/
inductive Instr where
  /-- R406. A 4-byte write to a queue's kick register is accepted when it is less than 2^31 ahead of the held value; any other write is discarded, and a write of another size is also logged. -/
  | kick (slot queue size v : Nat)
  /-- R401. A write to a BAR0 register without behaviour of its own, such as FWBASE (writable in STATE 1 only), updates the register under its access rule. -/
  | registerWrite (off size v : Nat)
  /-- R409. The context create command binds an identifier to a free context slot and writes a completion with a release at .sy. -/
  | contextCreate (k : Packet) (id : Nat)
  /-- R407. The context set command writes the mode word, residency settings, handler, fabric owner index and Ethernet peer table; it returns status 0x05 while any stream is resident. -/
  | contextSet (k : Packet) (o : ContextSet)
  /-- R409. The context destroy command stops the context's streams, ends its tasks as failed, waits for accepted operations, and frees its records, partitions and sync ranges. -/
  | contextDestroy (k : Packet) (id : Nat)
  /-- R408. The partition command sets each die's hearth mask (die 0's, then those of dies 1 to 3), pre-empting and swapping resident tasks; a fixed-timing mask that does not cover whole squares returns status 0x04. -/
  | partition (k : Packet) (id : Nat) (mask0 : Nat) (masks : List Nat)
  /-- R318. The stream admit command places a stream in the lowest free resident-stream slot of a die, with all launch slots empty. -/
  | streamAdmit (k : Packet) (o : StreamAdmit)
  /-- R409. The stream stop command ends a stream at its next record and frees its slot. -/
  | streamStop (k : Packet) (st : StreamId)
  /-- R400. The key load command loads a memory encryption key slot into every copy of the key table. -/
  | keyLoad (k : Packet) (slot owner key1 key2 : Nat)
  /-- R400. The key destroy command destroys a key slot; it is refused while any record or LPDDR-6 data names the slot. -/
  | keyDestroy (k : Packet) (slot : Nat)
  /-- R431. The key load command, with the fabric owner table as its operand, loads an owner entry in the named ports and makes it active. -/
  | ownerKeyLoad (k : Packet) (entry owner key : Nat) (ports : List Nat)
  /-- R431. The key destroy command, with the fabric owner table as its operand, empties an owner entry in the named ports. -/
  | ownerKeyDestroy (k : Packet) (entry : Nat) (ports : List Nat)
  /-- R287. The sync allocate command allocates ranges of sync words, deques, mailboxes and named tasks to a context and sets OVFWORDS. -/
  | syncAllocate (k : Packet) (o : SyncAllocate)
  /-- R370. The pool ways command sets POOLWAYS of a die, writing back and invalidating the cache ways that become pool, and evicting context pages from ways that leave the pool. -/
  | poolWays (k : Packet) (die ways : Nat)
  /-- R409. The map command exposes HBM pages of a context to the host as an HDM range. -/
  | map (k : Packet) (id handle base : Nat)
  /-- R404. The slot table command sets the executive's 32 service-slot assignments. -/
  | slotTable (k : Packet) (die : Nat) (entries : List (Option (Nat × Nat)))
  /-- R411. The service command reloads one die's firmware, which requires an idle die and an image of the running IFVER. -/
  | dieFirmwareReload (k : Packet) (die addr : Nat)
  /-- R411. The service command migrates every record off an HBM range with the victim loop and then applies the repair, or returns status 0x03. -/
  | hbmRepair (k : Packet) (die first count : Nat)
  /-- R411. The service command retrains one fabric or Ethernet port; a second such request waits. -/
  | portRetrain (k : Packet) (port : Nat)
  /-- R411. The service command replaces a free hearth with a fuse spare, or removes it from every partition when no spare remains. -/
  | hearthRetirement (k : Packet) (h : Nat)
  /-- R409. The event read command copies stream faults, launch failures, rollback reports and the error log into buffer 0. -/
  | eventRead (k : Packet) (id : Nat)
  /-- R165. Data for a pending landing record arrives from the memory system and is held until its landing cycle, ending any freeze that waited for it. -/
  | dataArrival (n : Nat)
  /-- R232. The copy engine performs an accepted copy-queue or collective-queue operation in acceptance order, converting under R157. -/
  | copyPerform (coll : Bool)
  /-- R236. A copy's last write has been performed; it frees its entry and delivers its signal with a status. -/
  | copyComplete (coll : Bool)
  /-- R292. The home sync engine performs a request on a word, deque, mailbox or counter as one step of its modification order, and replies. -/
  | atomicPerform (n : Nat)
  /-- R294. An atomic's reply or acknowledgement returns to the hearth, ending its acquire-side or outstanding wait. -/
  | atomicAck (n : Nat)
  /-- R298. A NOTIFY waiting at a full mailbox posts its message once an entry frees, and its status returns. -/
  | mailboxPost (m : Nat)
  /-- R328. A bound mailbox launches one handler task for its oldest message once the previous handler has ended. -/
  | mailboxHandlerLaunch (m : Nat)
  /-- R267. A street or square chimney line reads high after the last member arrives, which completes a FUSE, REJOIN, SBAR or SQBAR. -/
  | chimneyLineHigh (square : Bool)
  /-- R263. Every hearth of a partition has written its image, so each exchanges it with its slot in the shadow region. -/
  | partitionSwap (id : Nat)
  /-- R331. Each 1 ms that a task waits ready raises its current priority by one level, stopping at 0. -/
  | priorityAging (n : Nat)
  /-- R379. A reference to a spilled or dropped tensor brings it back, or recomputes it by re-issuing its recipe, or sets RFAIL. -/
  | makeResident (id handle : Nat)
  /-- R394. The base die performs a read, write or masked write as a read-modify-write, with ECC, check value and encryption. -/
  | hbmRequestPerform (n : Nat)
  /-- R393. A reply packet returns to the port and frees its tag. -/
  | hbmReply (n : Nat)
  /-- R311. A host CXL.mem read or write of device memory is performed at the home die's directory, with check values made at entry. -/
  | hostMemAccess (a : HostAccess)
  /-- R432. A link end checks a received fabric packet's owner, tag and destination, and discards it on failure. -/
  | packetReceive (p : FabPacket)
  /-- R96. Branch to PC + 4 x I when the guard is true, after two delay bundles. -/
  | br (o : SI)
  /-- R96. Branch when the guard is true and pN is false, after two delay bundles. -/
  | brp (o : SPI)
  /-- R97. Indirect branch to xA + xB, after two delay bundles. -/
  | bri (o : S3)
  /-- R98. Branch to a PC-relative target, writing the link value to x31. -/
  | call (o : SI)
  /-- R97. Return to the target held in xA, after two delay bundles. -/
  | ret (o : S3)
  /-- R101. Push a plain loop entry with a count taken from xC, or skip the body when the count is 0. -/
  | loop (o : S1I)
  /-- R101. Push a pipelined loop, setting trip, stage count, exe, rot and the stage predicates. -/
  | sloop (o : S2I)
  /-- R36. Close an iteration: advance INDEX, invalidate latches, rotate a pipelined loop, and either continue at START or pop the entry. -/
  | next (o : S0)
  /-- R103. Pop the innermost loop entry and continue after its END. -/
  | lexit (o : S0)
  /-- R104. Write the INDEX of loop-stack entry e to xD. -/
  | lix (o : S1I)
  /-- R105. End the task after this bundle; its completion waits for in-flight results. -/
  | halt (o : S0)
  /-- R106. Raise software trap cause 0x28 with the code, after the bundle's other slots take effect. -/
  | trap (o : SI)
  /-- R255. End the trap handler and resume the task from its frame, replaying abandoned groups when GRP is nonzero. -/
  | eret (o : S0)
  /-- R275. Arrive on the chimney line to fuse the street with skew s. -/
  | fuse (o : S1I)
  /-- R276. Leave lock step; each member fetches from its own PC. -/
  | decouple (o : S0)
  /-- R275. Arrive on the chimney line to re-enter lock step. -/
  | rejoin (o : S0)
  /-- R277. Street barrier: fence.ar.st, wait for release atomics, then arrive on the chimney line. -/
  | sbar (o : S0)
  /-- R277. Square barrier: fence.ar.sq, wait for release atomics, then arrive on the square chimney line. -/
  | sqbar (o : S0)
  /-- R279. Enter paired mode with the partner hearth through the pair line, or leave it. -/
  | pair (o : S1I)
  /-- R108. xD = A + B mod 2^64. -/
  | add (o : S3)
  /-- R108. xD = A - B mod 2^64. -/
  | sub (o : S3)
  /-- R108. xD = the low 64 bits of A x B. -/
  | mul (o : S3)
  /-- R108. xD = the high 64 bits of the signed product. -/
  | mulhs (o : S3)
  /-- R108. xD = the high 64 bits of the unsigned product. -/
  | mulhn (o : S3)
  /-- R109. Signed quotient, truncated toward zero, without trapping. -/
  | divs (o : S3)
  /-- R109. Unsigned quotient, without trapping. -/
  | divn (o : S3)
  /-- R109. Signed remainder, with the sign of the dividend. -/
  | rems (o : S3)
  /-- R109. Unsigned remainder. -/
  | remn (o : S3)
  /-- R108. xD = A AND B. -/
  | and (o : S3)
  /-- R108. xD = A OR B. -/
  | or (o : S3)
  /-- R108. xD = A XOR B. -/
  | xor (o : S3)
  /-- R108. xD = A AND NOT B. -/
  | andn (o : S3)
  /-- R108. Shift A left by B[5:0]. -/
  | shl (o : S3)
  /-- R108. Logical shift right of A by B[5:0]. -/
  | shrn (o : S3)
  /-- R108. Arithmetic shift right of A by B[5:0]. -/
  | shrs (o : S3)
  /-- R108. Rotate A left by B[5:0]. -/
  | rotl (o : S3)
  /-- R108. Signed minimum of A and B. -/
  | mins (o : S3)
  /-- R108. Signed maximum of A and B. -/
  | maxs (o : S3)
  /-- R108. Unsigned minimum of A and B. -/
  | minn (o : S3)
  /-- R108. Unsigned maximum of A and B. -/
  | maxn (o : S3)
  /-- R108. Count the leading zero bits of A. -/
  | clz (o : S3)
  /-- R108. Count the trailing zero bits of A. -/
  | ctz (o : S3)
  /-- R108. Count the one bits of A. -/
  | popc (o : S3)
  /-- R111. Extract a bit field of A, zero- or sign-extended. -/
  | bext (o : S3X)
  /-- R111. Insert the low bits of A into a bit field of B. -/
  | bins (o : S3X)
  /-- R112. 128-bit add of register pairs. -/
  | add128 (o : S3)
  /-- R110. xD = xA + the sign-extended immediate. -/
  | addi (o : S2I)
  /-- R110. xD = the sign-extended immediate. -/
  | movi (o : S1I)
  /-- R113. pN = (A == B). -/
  | cmpEq (o : SC)
  /-- R113. pN = (A != B). -/
  | cmpNe (o : SC)
  /-- R113. pN = (A < B), signed. -/
  | cmpLts (o : SC)
  /-- R113. pN = (A <= B), signed. -/
  | cmpLes (o : SC)
  /-- R113. pN = (A < B), unsigned. -/
  | cmpLtn (o : SC)
  /-- R113. pN = (A <= B), unsigned. -/
  | cmpLen (o : SC)
  /-- R113. pN = ((A AND B) != 0). -/
  | cmpAny (o : SC)
  /-- R113. pN = ((A AND B) == 0). -/
  | cmpNone (o : SC)
  /-- R114. xD = A when pN is true, otherwise B. -/
  | sel (o : S3X)
  /-- R115. pD = pA AND pB. -/
  | pand (o : SL)
  /-- R115. pD = pA OR pB. -/
  | por (o : SL)
  /-- R115. pD = pA XOR pB. -/
  | pxor (o : SL)
  /-- R115. pD = NOT pA. -/
  | pnot (o : SL)
  /-- R115. pD = pA. -/
  | pmov (o : SL)
  /-- R116. Write the task's work identifier to xD. -/
  | wid (o : S3)
  /-- R116. Write the hearth's street rank, or all ones before any FUSE, to xD. -/
  | rank (o : S3)
  /-- R117. Read a system register into xD, after the access checks. -/
  | mfs (o : S1I)
  /-- R117. Write xA to a system register under its access rules, for example to clear FLAGS or LANDSTAT bits or to arm EINJ. -/
  | mts (o : S1I)
  /-- R244. Set aD.VAL = xB + the sign-extended immediate. -/
  | alea (o : S2I)
  /-- R244. Set aD.VAL = xA and STEP = xB[31:0]. -/
  | aset (o : S3)
  /-- R244. Step aD by xB under the ring rule. -/
  | astep (o : S3)
  /-- R244. Set the ring base and length of aD from xA. -/
  | aring (o : S3)
  /-- R246. Open window W on a rank-2 tensor, queue fills of n rows and set the ring address register. -/
  | wopen (o : S3X)
  /-- R247. Retire K rows of a window and queue fills of their successors. -/
  | wadv (o : S3)
  /-- R248. Cancel a window's pending fills and close it. -/
  | wclose (o : S3)
  /-- R174. Write n bytes of an address-bound pattern from xB into the scratchpad through the linear view. -/
  | fill (o : S2I)
  /-- R175. Configure a flue's source and sink formats, emptying it, or set a bank format register. -/
  | flcfg (o : S3X)
  /-- R176. Push a vector or stream element into a flue. -/
  | flpush (o : S3X)
  /-- R177. Pop a flue entry, convert it and write vD and b7. -/
  | flpop (o : S3X)
  /-- R227. Load a scalar from the scratchpad into xD. -/
  | lds (o : Long)
  /-- R227. Store a scalar to the scratchpad. -/
  | sts (o : Long)
  /-- R227. Load 64 bytes from the scratchpad through the linear view. -/
  | vld (o : Long)
  /-- R227. Store 64 bytes to the scratchpad through the linear view. -/
  | vst (o : Long)
  /-- R227. Load a row or column through the swizzled view. -/
  | vldx (o : Long)
  /-- R227. Store a row or column through the swizzled view. -/
  | vstx (o : Long)
  /-- R230. Request k tensor granules to land in a stream register at distance D. -/
  | tld (o : Long)
  /-- R231. Queue a store of k vector registers to tensor granules. -/
  | tst (o : Long)
  /-- R234. Queue a described copy with conversion between tensors, scratchpad, flues or remote windows. -/
  | tcopy (o : Long)
  /-- R238. Prefetch part of a tensor into square L2. -/
  | tpref (o : Long)
  /-- R242. Wait for all queues, then write back or invalidate lines homed on other dies. -/
  | fence (o : Long)
  /-- R241. Wait until the operations accepted into the named engine queues have completed. -/
  | qfence (o : Long)
  /-- R243. Wait for writes to the named banks, then set their view state to CLEAN. -/
  | vjoin (o : Long)
  /-- R292. Atomic add to a sync word. -/
  | aadd (o : Long)
  /-- R292. Atomic signed or unsigned minimum on a sync word. -/
  | amin (o : Long)
  /-- R292. Atomic signed or unsigned maximum on a sync word. -/
  | amax (o : Long)
  /-- R292. Atomic AND on a sync word. -/
  | aand (o : Long)
  /-- R292. Atomic OR on a sync word. -/
  | aor (o : Long)
  /-- R292. Atomic XOR on a sync word. -/
  | axor (o : Long)
  /-- R292. Atomic exchange on a sync word. -/
  | axchg (o : Long)
  /-- R292. Atomic compare-and-swap on a sync word. -/
  | acas (o : Long)
  /-- R292. Atomic load of a sync word into a stream register. -/
  | ald (o : Long)
  /-- R292. Atomic store to a sync word. -/
  | ast (o : Long)
  /-- R293. Atomic FP32 add on a sync word; raises cause 0x19 in a deterministic context. -/
  | afadd (o : Long)
  /-- R296. Wait until a sync word differs from an expected value, with optional timeout, writing pD. -/
  | waita (o : Long)
  /-- R298. Post a message to a mailbox. -/
  | notify (o : Long)
  /-- R297. Push a value at the bottom of a deque. -/
  | dqpush (o : Long)
  /-- R297. Pop a value from the bottom of a deque. -/
  | dqpop (o : Long)
  /-- R297. Take a value from the top of a deque. -/
  | dqsteal (o : Long)
  /-- R299. Decrement a named task's dependence counter, stopping at 0. -/
  | dcnt (o : Long)
  /-- R184. Lane-wise integer add. -/
  | vadd (o : Long)
  /-- R184. Lane-wise integer subtract. -/
  | vsub (o : Long)
  /-- R184. Lane-wise saturating add. -/
  | vadds (o : Long)
  /-- R184. Lane-wise saturating subtract. -/
  | vsubs (o : Long)
  /-- R184. Lane-wise low product. -/
  | vmul (o : Long)
  /-- R184. Lane-wise high product. -/
  | vmulh (o : Long)
  /-- R184. Lane-wise A + B x C. -/
  | vmad (o : Long)
  /-- R184. Lane-wise absolute value. -/
  | vabs (o : Long)
  /-- R184. Lane-wise negation. -/
  | vneg (o : Long)
  /-- R184. Lane-wise minimum. -/
  | vmin (o : Long)
  /-- R184. Lane-wise maximum. -/
  | vmax (o : Long)
  /-- R184. Lane-wise AND. -/
  | vand (o : Long)
  /-- R184. Lane-wise OR. -/
  | vor (o : Long)
  /-- R184. Lane-wise XOR. -/
  | vxor (o : Long)
  /-- R185. Lane-wise shift left by a register or immediate amount. -/
  | vshl (o : Long)
  /-- R185. Lane-wise logical shift right. -/
  | vshr (o : Long)
  /-- R185. Lane-wise arithmetic shift right. -/
  | vsar (o : Long)
  /-- R186. Lane-wise integer compare into a mask register. -/
  | vcmp (o : Long)
  /-- R187. Lane-wise select by a mask register. -/
  | vsel (o : Long)
  /-- R184. Lane-wise count of leading zeros. -/
  | vclz (o : Long)
  /-- R184. Lane-wise population count. -/
  | vpopc (o : Long)
  /-- R188. Lane-wise float add. -/
  | vfadd (o : Long)
  /-- R188. Lane-wise float subtract. -/
  | vfsub (o : Long)
  /-- R188. Lane-wise float multiply. -/
  | vfmul (o : Long)
  /-- R188. Lane-wise fused A + B x C. -/
  | vfma (o : Long)
  /-- R188. Lane-wise fused A - B x C. -/
  | vfnma (o : Long)
  /-- R189. Lane-wise IEEE minimum. -/
  | vfmin (o : Long)
  /-- R189. Lane-wise IEEE maximum. -/
  | vfmax (o : Long)
  /-- R189. Lane-wise sign clear. -/
  | vfabs (o : Long)
  /-- R189. Lane-wise sign flip. -/
  | vfneg (o : Long)
  /-- R190. Lane-wise float compare into a mask register. -/
  | vfcmp (o : Long)
  /-- R191. Lane-wise class test into a mask register. -/
  | vfclass (o : Long)
  /-- R188. Lane-wise A x 2^n. -/
  | vfscale (o : Long)
  /-- R192. Lane-wise correctly rounded reciprocal. -/
  | vfrcp (o : Long)
  /-- R192. Lane-wise reciprocal square root. -/
  | vfrsq (o : Long)
  /-- R192. Lane-wise 2^A. -/
  | vfexp2 (o : Long)
  /-- R192. Lane-wise log2 A. -/
  | vflog2 (o : Long)
  /-- R193. Convert packed elements between formats, by part. -/
  | vcvt (o : Long)
  /-- R194. Quantise 32 values into an MX block. -/
  | vqmx (o : Long)
  /-- R195. Decode an MX block into float lanes. -/
  | vdqmx (o : Long)
  /-- R196. Narrow two integer vectors with clamping. -/
  | vpack (o : Long)
  /-- R196. Widen half of an integer vector. -/
  | vunpack (o : Long)
  /-- R197. Integer sum reduction. -/
  | vradd (o : Long)
  /-- R198. Float sum reduction by a fixed tree. -/
  | vrfadd (o : Long)
  /-- R197. Integer maximum reduction. -/
  | vrmax (o : Long)
  /-- R197. Integer minimum reduction. -/
  | vrmin (o : Long)
  /-- R197. Float maximum reduction. -/
  | vrfmax (o : Long)
  /-- R199. Lane permutation by an index vector. -/
  | vperm (o : Long)
  /-- R199. Broadcast a lane or a scalar. -/
  | vbcast (o : Long)
  /-- R199. Rotate lanes. -/
  | vlrot (o : Long)
  /-- R199. Zip or unzip two vectors. -/
  | vshuf (o : Long)
  /-- R199. Compress the selected lanes. -/
  | vcmpr (o : Long)
  /-- R199. Expand into the selected lanes. -/
  | vexpd (o : Long)
  /-- R199. Write running counts of mask bits. -/
  | viota (o : Long)
  /-- R200. Mask AND. -/
  | mand (o : Long)
  /-- R200. Mask OR. -/
  | mor (o : Long)
  /-- R200. Mask NOT. -/
  | mnot (o : Long)
  /-- R200. Population count of a mask into xD. -/
  | mpop (o : Long)
  /-- R202. Philox-4x32-10 block for each lane group. -/
  | vrng (o : Long)
  /-- R212. Fill the staging plane from the scratchpad, landing at t + D. -/
  | mldb (o : Long)
  /-- R215. Write elements into the staging plane from a vector or a flue. -/
  | mpush (o : Long)
  /-- R221. Copy or exchange the staging plane into the active plane. -/
  | mshift (o : Long)
  /-- R216. Accumulate one row of a matrix beat. -/
  | macc (o : Long)
  /-- R216. Accumulate one ternary sign-select beat. -/
  | mtern (o : Long)
  /-- R220. Read accumulator cells out to a vector or a flue, optionally clearing them. -/
  | mdrain (o : Long)
  /-- R218. Clear a live accumulator as the first beat of a group. -/
  | mzero (o : Long)
  /-- R219. Copy live to shadow and retire the accumulation group. -/
  | mswap (o : Long)
  /-- R213. Fill the staging plane from square L2 with conversion, landing at t + D. -/
  | mtfetch (o : Long)
  /-- R323. Launch a kernel into a launch slot: check, specialise, enumerate and ready its tasks. -/
  | oplaunch (st : StreamId) (o : OpLaunch)
  /-- R326. Wait until every stream of the context stands at PHASE, then commit the phase. -/
  | phase (st : StreamId)
  /-- R327. Bind a named task to a kernel, arguments, priority and slot. -/
  | taskdef (st : StreamId) (o : TaskDef)
  /-- R327. Set and arm a named task's counter. -/
  | taskarm (st : StreamId) (n count : Nat)
  /-- R325. Block the stream until the masked launch slots complete, optionally writing their records. -/
  | opwait (st : StreamId) (mask : Nat) (cont : Bool) (handle : Nat)
  /-- R328. Bind a mailbox to a handler kernel. -/
  | mboxbind (st : StreamId) (o : MboxBind)
  /-- R328. Wait for the running handler, discard queued messages and unbind the mailbox. -/
  | mboxfree (st : StreamId) (m : Nat)
  /-- R341. Remove the context's specialisation cache entries for a kernel, or all of them. -/
  | specflush (st : StreamId) (all : Bool) (handle : Nat)
  /-- R385. Declare a tensor record and allocate its pages, making room if needed. -/
  | tdecl (st : StreamId) (o : TDecl)
  /-- R386. Set next-use steps for up to seven handles. -/
  | tuse (st : StreamId) (uses : List (Nat × Nat))
  /-- R387. Bind a recompute recipe to a tensor. -/
  | trecipe (st : StreamId) (o : TRecipe)
  /-- R388. End a tensor's handle, retaining its record while a recipe names it. -/
  | trelease (st : StreamId) (handle : Nat)
  /-- R389. Make a tensor resident and unpacked in a tier, and pin it. -/
  | tpin (st : StreamId) (tier handle : Nat)
  /-- R389. Decrement a tensor's pin count. -/
  | tunpin (st : StreamId) (handle : Nat)
  /-- R390. Write a residency record image into a result tensor. -/
  | tquery (st : StreamId) (handle result : Nat)
  /-- R396. Check and start a threshold scan of a tensor over the HBM scan units. -/
  | scan (st : StreamId) (o : Scan)
  /-- R437. Export a window of a tensor to a peer owner, pinning the tensor. -/
  | texport (st : StreamId) (o : TExport)
  /-- R438. Start revocation of an exported window. -/
  | trevoke (st : StreamId) (w : Nat)
  /-- R343. A droop detector in an elastic square stretches a cycle to 1 + n/8 nominal periods, which delays wall-clock time without changing cycle counts. -/
  | droopStretch (n : Nat)
  /-- R402. Power is applied; the device enters STATE 1, awaits a firmware image and accepts no command. -/
  | powerUp
  /-- R410. A CXL Reset of the device performs a warm reset: in-flight work is abandoned, keys, contexts and firmware are lost, and STATE returns to 1. -/
  | cxlReset
  /-- R401. A CXL link error that link-level replay cannot correct brings the link down, and the device treats it as a warm reset. -/
  | cxlLinkLoss
  /-- R402. Writing 1 to FWGO makes die 0's boot ROM fetch the image at FWBASE and check its magic, key hash, signature and SVN; it then copies the image to dies 1-3 and sets STATE 3, or sets STATE 5 with a FAIL code. -/
  | fwgo
  /-- R410. Writing 0x5245_5354 to the RESET register performs a warm reset. -/
  | reset
  /-- R403. After verification the firmware trains the HBM, LPDDR-6, fabric and Ethernet PHYs, generates key slot 0, zeroes the stacked SRAM and sets STATE 4. -/
  | training
  /-- R412. At a junction temperature of 105 degrees C the module removes its own power, and a cold start follows. -/
  | thermalShutdown
  /-- R412. To hold the 2,800 W limit, the firmware lowers the nominal clock of elastic squares in 50 MHz steps. -/
  | powerLimitThrottle
  /-- R404. Each 500 ns service slot of the executive reads its queue's kick register and starts up to 4 pending packets, or serves the best non-empty queue. -/
  | serviceSlot
  /-- R62. A hearth issues one execution of a bundle: each slot issues its named operation, re-issues its sticky record, or idles. -/
  | bundleIssue
  /-- R66. A fixed-latency result is written to its destination and latch at the end of cycle t + L - 1, and its flags enter FLAGS. -/
  | resultWriteback
  /-- R163. A pending stream-register or flue element reaches its landing cycle and becomes readable. -/
  | landing
  /-- R214. A pending MLDB or MTFETCH fill is written into the staging plane at the start of its landing cycle. -/
  | planeFillLanding
  /-- R245. A window fill row is converted and written into its ring slot no later than the start of its landing cycle. -/
  | windowRowLanding
  /-- R232. When an entry of a full copy or collective queue frees, the waiting operation is accepted and the domain unfreezes. -/
  | copyQueueAccept
  /-- R240. The awaited operations of a fence, join or ordering wait have completed or reached their padded time, and the next bundle issues. -/
  | fenceWaitEnd
  /-- R294. When a hearth with 32 outstanding sync requests sees one complete, the waiting atomic is accepted and the domain unfreezes. -/
  | syncRequestAccept
  /-- R296. A WAITA's timeout of T cycles expires without a reply, so the hearth cancels its monitor. -/
  | waitaTimeout
  /-- R296. The acknowledgement of a monitor cancel returns and sets pD, true if the monitor had fired first. -/
  | monitorCancelAck
  /-- R279. The partner's PAIR on arrives on the pair line, and both hearths become paired. -/
  | pairLineMeet
  /-- R105. A halted task's in-flight fixed-latency results have all been written: its landing records are cancelled and its hearth becomes free. -/
  | haltComplete
  /-- R260. The dispatch sequencer requests pre-emption of a task, which then runs to its next eligible iteration boundary. -/
  | preemptRequest
  /-- R260. A task reaches an iteration boundary with every accumulator count 0, no pending transfer and no privilege, and stops issuing. -/
  | preemptLand
  /-- R262. Once deliveries to hearth state have finished, the hearth writes the task's context image. -/
  | contextImageWrite
  /-- R264. A pre-empted image resumes on a hearth of its launch, with held results and landing records restored. -/
  | taskResume
  /-- R329. The sequencer places the best ready task or group on free hearths in strict order, requesting pre-emption where no shape is free. -/
  | taskPlace
  /-- R323. Every task of a launch has ended and its accepted operations have completed, so the launch slot is written and the signal delivered. -/
  | launchComplete
  /-- R312. The context's phase commits: write-backs, invalidations, recovery point, race-map and record clearing, then held egress is released. -/
  | phaseCommit
  /-- R383. After cause 0x20 the context rolls back to its last commit: tasks end, pages, records and sync state are restored, and streams restart after their last PHASE. -/
  | rollback
  /-- R392. The die port sends its head request once a tag of its pseudo-channel is free; otherwise the whole port stalls. -/
  | hbmRequestSend
  /-- R397. The scan units finish: the result header and pairs are written with a release at .sy, and the signal is delivered. -/
  | scanComplete
  /-- R429. A received flit fails its CRC and the receiver asks for replay; after 8 replays the port goes down. -/
  | flitReplay
  /-- R432. A 1 ms interval ends, and a new count of discarded packets per owner begins. -/
  | discardInterval
  /-- R435. The exporter's home die checks a remote request against its window and performs it whole, replying done, error, revoked or refused. -/
  | remoteRequest
  /-- R441. A reply to a remote copy packet arrives and gives that packet its status. -/
  | remoteReply
  /-- R441. A remote request has had no reply after 250 us, so it is resent once on another plane, or given status 4 after a second timeout. -/
  | remoteTimeout
  /-- R438. At effect point E, within 4 us of TREVOKE, the window enters state revoking. -/
  | revokeEffect
  /-- R438. Every request begun before E has been performed and replied, so the pin is dropped, the window enters quarantine and the stream goes on. -/
  | revokeDrainDone
  /-- R438. 1 ms after the stream went on, the revoked window becomes free. -/
  | windowQuarantineEnd
  /-- R62. A C-slot no-operation; any nonzero field raises cause 0x01. -/
  | cNop
  /-- R62. An S-slot no-operation, which disarms the slot. -/
  | sNop
  /-- R62. An A-slot no-operation. -/
  | aNop
  /-- R62. An F-slot no-operation. -/
  | fNop
  /-- R62. An X-slot no-operation. -/
  | xNop
  /-- R62. A vector-slot no-operation. -/
  | vNop
  /-- R62. A matrix-slot no-operation. -/
  | mNop
  deriving DecidableEq, Repr

end Sys2Proof
end

