-- ==== Sys2Proof/WellFormed.lean ====
section
/-! DEFINITION. Which instructions are well formed: each field in its range and every condition that an entry
puts on its fields. A slot operation that is not well formed raises cause 0x01 (spec/00_scope.md R11,
spec/02_bundle_encoding.md R53 to R61, R75, and the entries of the other chapters). -/
namespace Sys2Proof

/-- A uniform-select bit is legal on a field that the entry defines as a scalar source and that names k0 to k31
(R53, R54). -/
def selOk (k : Bool) (source : Bool) (f : Nat) : Bool := !k || (source && f < 32)

/-- The guard is a predicate number, and BT is set only where the opcode map marks it (R60, R61). -/
def gbOk (g : Nat) (bt btAllowed : Bool) : Bool := g < 16 && (!bt || btAllowed)

def S0.ok (o : S0) (bt : Bool) : Bool := gbOk o.g o.bt bt

/-- Ranges of S3 and its uniform-select bits; `s1 s2 s3` say which fields are scalar sources. -/
def S3.ok (o : S3) (bt s1 s2 s3 : Bool) : Bool :=
  gbOk o.g o.bt bt && o.f1 < 64 && o.f2 < 64 && o.f3 < 64 &&
    (match o.ext with
     | none => true
     | some k => selOk k.k1 s1 o.f1 && selOk k.k2 s2 o.f2 && selOk k.k3 s3 o.f3)

def S3X.ok (o : S3X) (bt s2 s3 : Bool) : Bool :=
  gbOk o.g o.bt bt && o.f1 < 64 && o.f2 < 64 && o.f3 < 64 && o.x < 2 ^ 28 &&
    !o.k.k1 && selOk o.k.k2 s2 o.f2 && selOk o.k.k3 s3 o.f3

def S2I.ok (o : S2I) (bt s1 s2 : Bool) : Bool :=
  gbOk o.g o.bt bt && o.f1 < 64 && o.f2 < 64 && o.i < 64 &&
    (match o.ext with
     | none => true
     | some (k, h) => h < 2 ^ 28 && selOk k.k1 s1 o.f1 && selOk k.k2 s2 o.f2 && !k.k3)

def S1I.ok (o : S1I) (bt s1 : Bool) : Bool :=
  gbOk o.g o.bt bt && o.f1 < 64 && o.i < 4096 &&
    (match o.ext with
     | none => true
     | some (k, h) => h < 2 ^ 28 && selOk k.k1 s1 o.f1 && !k.k2 && !k.k3)

def SI.ok (o : SI) (bt : Bool) : Bool :=
  gbOk o.g o.bt bt && o.i < 2 ^ 18 && (match o.ext with | none => true | some h => h < 2 ^ 31)

def SPI.ok (o : SPI) (bt : Bool) : Bool :=
  gbOk o.g o.bt bt && o.p1 < 16 && o.i < 2 ^ 14 && (match o.ext with | none => true | some h => h < 2 ^ 31)

def SC.ok (o : SC) : Bool :=
  gbOk o.g o.bt true && o.p1 < 16 && o.f2 < 64 && o.f3 < 64 &&
    (match o.ext with
     | none => true
     | some k => !k.k1 && selOk k.k2 true o.f2 && selOk k.k3 true o.f3)

def SL.ok (o : SL) : Bool := gbOk o.g o.bt true && o.p1 < 16 && o.p2 < 16 && o.p3 < 16

/-- The immediate of S2I, its extension above the six bits (R53). -/
def S2I.imm (o : S2I) : Nat := match o.ext with | none => o.i | some (_, h) => h * 64 + o.i
/-- The immediate of S1I, its extension above the twelve bits (R53). -/
def S1I.imm (o : S1I) : Nat := match o.ext with | none => o.i | some (_, h) => h * 4096 + o.i
/-- The immediate of SI (R53). -/
def SI.imm (o : SI) : Nat := match o.ext with | none => o.i | some h => h * 2 ^ 18 + o.i
/-- The immediate of SPI (R53). -/
def SPI.imm (o : SPI) : Nat := match o.ext with | none => o.i | some h => h * 2 ^ 14 + o.i

/-- The destination and sources of three-register scalar operations (R108). -/
def S3.aluOk (o : S3) : Bool := o.ok true false true true
/-- CLZ, CTZ and POPC: F3 is zero (R108). -/
def S3.alu1Ok (o : S3) : Bool := o.ok true false true false && o.f3 == 0

/-- Ranges of a long body (R55). -/
def Long.inRange (o : Long) : Bool :=
  o.g < 16 && o.ty < 8 && o.md < 8 && o.dst < 1024 && o.sa < 2048 && o.sb < 2048 && o.sc < 2048

/-- A vector source: v0 to v1023, or a latch with bits [9:3] zero (R56). -/
def vSrcOk (n : Nat) : Bool := n < 1032
/-- A scalar source: x0 to x63, k0 to k31 as 64 to 95, or a latch (R56). -/
def xSrcOk (n : Nat) : Bool := n < 96 || (1024 ≤ n && n < 1032)
/-- A scalar source pair: even, no latch (R56, R228, R289). -/
def xPairOk (n : Nat) : Bool := n < 96 && n % 2 == 0
/-- An address, mask, predicate or stream register field (R56). -/
def r16Ok (n : Nat) : Bool := n < 16

/-- The operation has a register result: WBS = 1 needs DST = 0 (R57). -/
def Long.resOk (o : Long) : Bool := !o.wbs || o.dst == 0
/-- The operation has no register result (R57). -/
def Long.noRes (o : Long) : Bool := !o.wbs && o.dst == 0

/-- The lane mask number of a control field, SC[10:7] (R58). -/
def Long.lm (o : Long) : Nat := bits o.sc 7 4
/-- The immediate of a control field, SC[6:0] (R58). -/
def Long.ci (o : Long) : Nat := bits o.sc 0 7

/-- Integer V operations with a control field and CI = 0 (R184). -/
def Long.viOk (o : Long) (two : Bool) : Bool :=
  o.inRange && o.resOk && vSrcOk o.sa && (if two then vSrcOk o.sb else o.sb == 0) && o.ci == 0 && o.md == 0

/-- Shifts: SB with CI = 0, or an immediate below the width with SB = 0 (R185). -/
def Long.vshOk (o : Long) : Bool :=
  o.inRange && o.resOk && vSrcOk o.sa && o.md == 0 &&
    (if bit o.ci 6 then o.sb == 0 && (match intTy o.ty with | some f => bits o.ci 0 6 < f.width | none => false)
     else vSrcOk o.sb && o.ci == 0)

/-- Float V operations with a control field and CI = 0; `rnd` bounds MD (R188). -/
def Long.vfOk (o : Long) (two : Bool) (maxMd : Nat) : Bool :=
  o.inRange && o.resOk && o.ty < 3 && o.md ≤ maxMd && vSrcOk o.sa &&
    (if two then vSrcOk o.sb else o.sb == 0) && o.ci == 0

/-- A mask destination (R181): WBS as R57, and a mask number. -/
def Long.mDst (o : Long) : Bool := o.resOk && o.dst < 16

/-- Reductions (R197). -/
def Long.redOk (o : Long) : Bool := o.inRange && o.resOk && vSrcOk o.sa && o.sb == 0 && o.ci == 0

/-- VCVT's formats and part (R193). -/
def Long.vcvtOk (o : Long) : Bool :=
  o.inRange && o.resOk && vSrcOk o.sa && o.ty == 0 && o.md ≤ 4 && o.sb < 1024 &&
    (match Fmt.ofCode (bits o.sb 5 5), Fmt.ofCode (bits o.sb 0 5) with
     | some d, some s =>
       let n := 512 / max s.width d.width
       bits o.sb 5 5 ≤ 0x10 && bits o.sb 0 5 ≤ 0x10 && bits o.ci 0 3 < 512 / (n * min s.width d.width) &&
         o.ci < 8 && !(o.md == 4 && 64 < n)
     | _, _ => false)

/-- The MX code of VQMX and VDQMX (R194, R195). -/
def mxCodeOk (c : Nat) : Bool := 0x11 ≤ c && c ≤ 0x16

/-- A matrix operation's shape and formats are a pair of R206, `wt` says whether shape .wt is required or barred. -/
def Long.matOk (o : Long) (wt : Option Bool) : Bool :=
  (matFormats o.ty o.md).isSome && (match wt with | none => true | some b => (o.ty == 4) == b)

/-- MACC and MTERN: fields and the vector group (R209, R216). -/
def Long.beatOk (o : Long) (wt : Bool) : Bool :=
  o.inRange && o.noRes && o.matOk (some wt) && r16Ok o.sb &&
    bits o.sc 5 4 == 0 && bits o.sc 0 3 == 0 &&
    (match matFormats o.ty o.md with
     | some (fa, _) =>
       let g := (shapeOf o.ty).units + ofBool fa.isMx
       if bit o.sc 4 then o.sa < 16 else o.sa < 1024 && vGroupOk o.sa g
     | none => false)

/-- The orders an atomic allows: 0 all, 1 loads (.rlx, .acq, .sc), 2 stores (.rlx, .rel, .sc) (R292). -/
def orderOk (set md : Nat) : Bool :=
  match set with
  | 0 => md ≤ 4
  | 1 => md == 0 || md == 1 || md == 4
  | _ => md == 0 || md == 2 || md == 4

/-- The SC layout of an atomic and its destination (R289): `ret0 ret1` say which RET values the operation allows. -/
def Long.atomOk (o : Long) (orders : Nat) (sbKind : Nat) (ret0 ret1 u : Bool) : Bool :=
  o.inRange && !o.wbs && o.ty ≤ 5 && orderOk orders o.md && xSrcOk o.sa &&
    (match sbKind with | 0 => o.sb == 0 | 1 => xSrcOk o.sb | _ => xPairOk o.sb) &&
    !bit o.sc 9 && (u || !bit o.sc 8) &&
    (if bit o.sc 10 then ret1 && o.dst < 16 && 2 ≤ bits o.sc 0 8 else ret0 && o.dst == 0 && bits o.sc 0 8 == 0)

/-- System register numbers of the map (R120). -/
def sysRegOk (n : Nat) : Bool :=
  n ≤ 0x006 || (0x008 ≤ n && n ≤ 0x00A) || (0x010 ≤ n && n ≤ 0x012) || n == 0x018 ||
    (0x020 ≤ n && n ≤ 0x02A) || (0x040 ≤ n && n ≤ 0x042) || n == 0x050 || n == 0x051

/-- The records of operator streams: every field within its bits (R320, R322, R327, R384, R396, R437). -/
def handleOk (h : Nat) : Bool := h < 2 ^ 20

def TDecl.ok (o : TDecl) : Bool :=
  o.fmt < 32 && o.rank < 4 && o.die < 4 && o.place < 2 && o.key < 512 && handleOk o.handle &&
    o.e0 < 2 ^ 32 && o.e1 < 2 ^ 32 && o.e2 < 2 ^ 32 && o.e3 < 2 ^ 32

def TRecipe.ok (o : TRecipe) : Bool :=
  o.nin < 8 && handleOk o.target && o.nrec < 8 && handleOk o.stream && o.off < 2 ^ 32 && o.work < 2 ^ 32 &&
    handleOk o.in0 && handleOk o.in1 && handleOk o.in2 && handleOk o.in3

def Scan.ok (o : Scan) : Bool :=
  o.sigKind < 4 && o.sigId < 4096 && o.fmt < 32 && handleOk o.src && handleOk o.res && o.thr < 2 ^ 32 &&
    o.first < 2 ^ 32 && o.count < 2 ^ 32 && o.cap < 2 ^ 32

/-- Which instructions are well formed. Events and host commands have no encoding, and their checks are part of
their meanings. -/
def Instr.wf : Instr → Bool
  | .kick _ _ _ _ => true
  | .registerWrite _ _ _ => true
  | .contextCreate _ _ => true
  | .contextSet _ _ => true
  | .contextDestroy _ _ => true
  | .partition _ _ _ _ => true
  | .streamAdmit _ _ => true
  | .streamStop _ _ => true
  | .keyLoad _ _ _ _ _ => true
  | .keyDestroy _ _ => true
  | .ownerKeyLoad _ _ _ _ _ => true
  | .ownerKeyDestroy _ _ _ => true
  | .syncAllocate _ _ => true
  | .poolWays _ _ _ => true
  | .map _ _ _ _ => true
  | .slotTable _ _ _ => true
  | .dieFirmwareReload _ _ _ => true
  | .hbmRepair _ _ _ _ => true
  | .portRetrain _ _ => true
  | .hearthRetirement _ _ => true
  | .eventRead _ _ => true
  | .dataArrival _ => true
  | .copyPerform _ => true
  | .copyComplete _ => true
  | .atomicPerform _ => true
  | .atomicAck _ => true
  | .mailboxPost _ => true
  | .mailboxHandlerLaunch _ => true
  | .chimneyLineHigh _ => true
  | .partitionSwap _ => true
  | .priorityAging _ => true
  | .makeResident _ _ => true
  | .hbmRequestPerform _ => true
  | .hbmReply _ => true
  | .hostMemAccess _ => true
  | .packetReceive _ => true
  | .br o => o.ok true
  | .brp o => o.ok true
  | .bri o => o.ok false false true true && o.f1 == 0
  | .call o => o.ok false
  | .ret o => o.ok false false true false && o.f1 == 0 && o.f3 == 0
  | .loop o => o.ok true true
  | .sloop o => o.ok true true false && 1 ≤ o.f2 && o.f2 ≤ 8
  | .next o => o.ok true
  | .lexit o => o.ok true
  | .lix o => o.ok false false && o.imm < 6
  | .halt o => o.ok false
  | .trap o => o.ok false
  | .eret o => o.ok false
  | .fuse o => o.ok false false && o.f1 == 0 && o.imm < 8
  | .decouple o => o.ok false
  | .rejoin o => o.ok false
  | .sbar o => o.ok false
  | .sqbar o => o.ok false
  | .pair o => o.ok false false && o.f1 == 0 && o.imm < 2
  | .add o => o.aluOk
  | .sub o => o.aluOk
  | .mul o => o.aluOk
  | .mulhs o => o.aluOk
  | .mulhn o => o.aluOk
  | .divs o => o.aluOk
  | .divn o => o.aluOk
  | .rems o => o.aluOk
  | .remn o => o.aluOk
  | .and o => o.aluOk
  | .or o => o.aluOk
  | .xor o => o.aluOk
  | .andn o => o.aluOk
  | .shl o => o.aluOk
  | .shrn o => o.aluOk
  | .shrs o => o.aluOk
  | .rotl o => o.aluOk
  | .mins o => o.aluOk
  | .maxs o => o.aluOk
  | .minn o => o.aluOk
  | .maxn o => o.aluOk
  | .clz o => o.alu1Ok
  | .ctz o => o.alu1Ok
  | .popc o => o.alu1Ok
  | .bext o => o.ok true true false && o.f3 == 0 && o.x < 2 ^ 13 && bits o.x 0 6 + bits o.x 6 6 + 1 ≤ 64
  | .bins o => o.ok true true true && o.x < 2 ^ 12 && bits o.x 0 6 + bits o.x 6 6 + 1 ≤ 64
  | .add128 o => o.ok true false true true && o.f1 % 2 == 0 && o.f2 % 2 == 0 && o.f3 % 2 == 0
  | .addi o => o.ok true false true
  | .movi o => o.ok true false
  | .cmpEq o => o.ok
  | .cmpNe o => o.ok
  | .cmpLts o => o.ok
  | .cmpLes o => o.ok
  | .cmpLtn o => o.ok
  | .cmpLen o => o.ok
  | .cmpAny o => o.ok
  | .cmpNone o => o.ok
  | .sel o => o.ok true true true && o.x < 16
  | .pand o => o.ok
  | .por o => o.ok
  | .pxor o => o.ok
  | .pnot o => o.ok && o.p3 == 0
  | .pmov o => o.ok && o.p3 == 0
  | .wid o => o.ok false false false false && o.f2 == 0 && o.f3 == 0
  | .rank o => o.ok false false false false && o.f2 == 0 && o.f3 == 0
  | .mfs o => o.ok false false && o.ext.isNone && sysRegOk o.i
  | .mts o => o.ok false true && o.ext.isNone && sysRegOk o.i
  | .alea o => o.ok true false true && o.f1 < 16
  | .aset o => o.ok true false true true && o.f1 < 16
  | .astep o => o.ok true false false true && o.f1 < 16 && o.f2 == 0
  | .aring o => o.ok false false true false && o.f1 < 16 && o.f3 == 0
  | .wopen o => o.ok false true true && o.f1 < 16 && o.x < 2 ^ 23 && 8 ≤ bits o.x 13 10
  | .wadv o => o.ok false false true false && o.f1 < 4 && o.f3 == 0
  | .wclose o => o.ok false false false false && o.f1 < 4 && o.f2 == 0 && o.f3 == 0
  | .fill o => o.ok false false true && o.f1 < 16 && o.imm < 64
  | .flcfg o => o.ok false false false && o.f2 == 0 && o.f3 == 0 && o.x < 2 ^ 16 &&
      (if o.f1 < 8 then fluePairOk (bits o.x 0 8) (bits o.x 8 8) else 32 ≤ o.f1 && bfmtOk (bits o.x 0 8) && bits o.x 8 8 == 0)
  | .flpush o => o.ok false false false && o.f1 < 8 && o.f2 == 0 && o.f3 == 0 && (o.x < 2 ^ 10 || (2 ^ 10 ≤ o.x && o.x < 2 ^ 10 + 16))
  | .flpop o => o.ok false false false && o.f1 < 8 && o.f2 == 0 && o.f3 == 0 && o.x < 2 ^ 10
  | .lds o => o.inRange && o.resOk && o.dst < 64 && o.md == 0 && r16Ok o.sa && o.sb == 0 && o.sc < 1024
  | .sts o => o.inRange && o.noRes && o.ty < 4 && o.md == 0 && r16Ok o.sa && xSrcOk o.sb && o.sc < 1024
  | .vld o => o.inRange && o.resOk && o.ty == 0 && o.md == 0 && r16Ok o.sa && o.sb == 0 && o.sc < 1024
  | .vst o => o.inRange && o.noRes && o.ty == 0 && o.md == 0 && r16Ok o.sa && vSrcOk o.sb && o.sc < 1024
  | .vldx o => o.inRange && o.resOk && o.ty < 2 && o.md == 0 && r16Ok o.sa && o.sb == 0 && o.sc < 1024
  | .vstx o => o.inRange && o.noRes && o.ty < 2 && o.md == 0 && r16Ok o.sa && vSrcOk o.sb && o.sc < 1024
  | .tld o => o.inRange && !o.wbs && r16Ok o.dst && xSrcOk o.sa && xPairOk o.sb && o.sc < 256 && 2 ≤ o.sc
  | .tst o => o.inRange && o.noRes && xSrcOk o.sa && xPairOk o.sb && o.sc < 1024 && vGroupOk o.sc (o.ty + 1)
  | .tcopy o => o.inRange && o.noRes && o.ty == 0 && vSrcOk o.sa && r16Ok o.sb && r16Ok o.sc
  | .tpref o => o.inRange && o.noRes && xSrcOk o.sa && xPairOk o.sb && o.sc == 0
  | .fence o => o.inRange && o.noRes && o.ty ≤ 5 && o.md == 0 && o.sa == 0 && o.sb == 0 && 1 ≤ o.sc && o.sc ≤ 3
  | .qfence o => o.inRange && o.noRes && o.ty == 0 && o.md == 0 && o.sa == 0 && o.sb == 0 && o.sc < 32
  | .vjoin o => o.inRange && o.noRes && o.ty == 0 && o.md == 0 && xSrcOk o.sa && o.sb == 0 && o.sc == 0
  | .aadd o => o.atomOk 0 1 true true false
  | .amin o => o.atomOk 0 1 true true true
  | .amax o => o.atomOk 0 1 true true true
  | .aand o => o.atomOk 0 1 true true false
  | .aor o => o.atomOk 0 1 true true false
  | .axor o => o.atomOk 0 1 true true false
  | .axchg o => o.atomOk 0 1 true true false
  | .acas o => o.atomOk 0 2 true true false
  | .ald o => o.atomOk 1 0 false true false
  | .ast o => o.atomOk 2 1 true false false
  | .afadd o => o.atomOk 0 1 true true false
  | .waita o => o.inRange && !o.wbs && o.ty ≤ 5 && orderOk 1 o.md && xSrcOk o.sa && xPairOk o.sb && o.sc == 0 && r16Ok o.dst
  | .notify o => o.atomOk 2 1 true true false
  | .dqpush o => o.atomOk 0 1 true true false
  | .dqpop o => o.atomOk 0 0 false true false
  | .dqsteal o => o.atomOk 0 0 false true false
  | .dcnt o => o.atomOk 0 1 true true false
  | .vadd o => o.viOk true
  | .vsub o => o.viOk true
  | .vadds o => o.viOk true
  | .vsubs o => o.viOk true
  | .vmul o => o.viOk true
  | .vmulh o => o.viOk true
  | .vmad o => o.inRange && o.resOk && vSrcOk o.sa && vSrcOk o.sb && vSrcOk o.sc && o.md == 0
  | .vabs o => o.viOk false
  | .vneg o => o.viOk false
  | .vmin o => o.viOk true
  | .vmax o => o.viOk true
  | .vand o => o.viOk true
  | .vor o => o.viOk true
  | .vxor o => o.viOk true
  | .vshl o => o.vshOk
  | .vshr o => o.vshOk
  | .vsar o => o.vshOk
  | .vcmp o => o.inRange && o.mDst && vSrcOk o.sa && vSrcOk o.sb && o.ci == 0 && o.md ≤ 5
  | .vsel o => o.inRange && o.resOk && vSrcOk o.sa && vSrcOk o.sb && r16Ok o.sc && o.md == 0
  | .vclz o => o.viOk false
  | .vpopc o => o.viOk false
  | .vfadd o => o.vfOk true 4
  | .vfsub o => o.vfOk true 4
  | .vfmul o => o.vfOk true 4
  | .vfma o => o.inRange && o.resOk && o.ty < 3 && o.md ≤ 4 && vSrcOk o.sa && vSrcOk o.sb && vSrcOk o.sc
  | .vfnma o => o.inRange && o.resOk && o.ty < 3 && o.md ≤ 4 && vSrcOk o.sa && vSrcOk o.sb && vSrcOk o.sc
  | .vfmin o => o.vfOk true 0
  | .vfmax o => o.vfOk true 0
  | .vfabs o => o.vfOk false 0
  | .vfneg o => o.vfOk false 0
  | .vfcmp o => o.vfOk true 4 && o.dst < 16
  | .vfclass o => o.inRange && o.mDst && o.ty < 3 && o.md == 0 && vSrcOk o.sa && o.sb == 0
  | .vfscale o => o.vfOk true 4
  | .vfrcp o => o.vfOk false 4
  | .vfrsq o => o.vfOk false 4
  | .vfexp2 o => o.vfOk false 4
  | .vflog2 o => o.vfOk false 4
  | .vcvt o => o.vcvtOk
  | .vqmx o => o.inRange && o.resOk && o.ty < 3 && o.md == 0 && vSrcOk o.sa && (if o.ty == 0 then vSrcOk o.sb else o.sb == 0) &&
      o.lm == 0 && mxCodeOk o.ci
  | .vdqmx o => o.inRange && o.resOk && o.ty < 3 && o.md ≤ 4 && vSrcOk o.sa && o.sb == 0 && mxCodeOk (bits o.ci 0 5) &&
      o.ci < 64 && (o.ty == 0 || o.ci < 32)
  | .vpack o => o.viOk true && o.ty % 4 != 0
  | .vunpack o => o.inRange && o.resOk && vSrcOk o.sa && o.sb == 0 && o.md == 0 && o.ci < 2 && o.ty % 4 != 3
  | .vradd o => o.redOk && o.md == 0
  | .vrfadd o => o.redOk && o.ty < 3 && o.md ≤ 4
  | .vrmax o => o.redOk && o.md == 0
  | .vrmin o => o.redOk && o.md == 0
  | .vrfmax o => o.redOk && o.ty < 3 && o.md == 0
  | .vperm o => o.inRange && o.resOk && vSrcOk o.sa && vSrcOk o.sb && vSrcOk o.sc && o.md == 0
  | .vbcast o => o.inRange && o.resOk && o.md == 0 && o.sb == 0 &&
      (if bit o.ci 6 then xSrcOk o.sa && bits o.ci 0 6 == 0
       else vSrcOk o.sa && (match intTy o.ty with | some f => o.ci < 512 / f.width | none => false))
  | .vlrot o => o.inRange && o.resOk && o.md == 0 && vSrcOk o.sa &&
      (if bit o.ci 6 then xSrcOk o.sb && bits o.ci 0 6 == 0
       else o.sb == 0 && (match intTy o.ty with | some f => o.ci < 512 / f.width | none => false))
  | .vshuf o => o.inRange && o.resOk && vSrcOk o.sa && vSrcOk o.sb && o.md == 0 && o.ci < 4
  | .vcmpr o => o.viOk false
  | .vexpd o => o.viOk false
  | .viota o => o.inRange && o.resOk && o.sa == 0 && o.sb == 0 && o.md == 0 && o.ci == 0
  | .mand o => o.inRange && o.mDst && o.ty == 0 && o.md == 0 && r16Ok o.sa && r16Ok o.sb && o.sc == 0
  | .mor o => o.inRange && o.mDst && o.ty == 0 && o.md == 0 && r16Ok o.sa && r16Ok o.sb && o.sc == 0
  | .mnot o => o.inRange && o.mDst && o.ty == 0 && o.md == 0 && r16Ok o.sa && o.sb == 0 && o.sc == 0
  | .mpop o => o.inRange && o.resOk && o.dst < 64 && o.ty == 0 && o.md == 0 && r16Ok o.sa && o.sb == 0 && o.ci == 0
  | .vrng o => o.inRange && o.resOk && o.ty == 0 && o.md == 0 && vSrcOk o.sa && xSrcOk o.sb
  | .mldb o => o.inRange && o.noRes && o.matOk none && o.ty != 4 && r16Ok o.sa && 136 ≤ o.sb && o.sb < 1024 && o.sc == 0
  | .mpush o => o.inRange && o.noRes && o.matOk none && o.ty != 4 && (if bit o.sc 4 then o.sa < 8 else o.sa < 1024) && r16Ok o.sb && (o.sc == 0 || o.sc == 16)
  | .mshift o => o.inRange && o.noRes && o.matOk none && o.ty != 4 && o.sa == 0 && o.sb == 0 && o.sc < 2
  | .macc o => o.beatOk false
  | .mtern o => o.beatOk true
  | .mdrain o => o.inRange && o.ty != 4 && o.sa == 0 && r16Ok o.sb && o.md ≤ 6 && bits o.sc 5 4 == 0 &&
      (if bit o.sc 4 then o.noRes else o.resOk && bits o.sc 0 3 == 0)
  | .mzero o => o.inRange && o.noRes && o.ty == 0 && o.md == 0 && o.sa == 0 && o.sb == 0 && bits o.sc 0 9 == 0
  | .mswap o => o.inRange && o.noRes && o.ty == 0 && o.md == 0 && o.sa == 0 && o.sb == 0 && bits o.sc 0 9 == 0
  | .mtfetch o => o.inRange && o.noRes && o.ty != 4 && (matFormats o.ty (bits o.sc 8 3)).isSome && xSrcOk o.sa && xSrcOk o.sb && 2 ≤ bits o.sc 0 8
  | .oplaunch _ o => o.sigId < 4096 && o.sigKind < 4 && o.pri < 4 && o.slot < 16 && handleOk o.kernel && handleOk o.args
  | .phase _ => true
  | .taskdef _ o => o.n < 4096 && o.pri < 4 && o.slot < 16 && handleOk o.kernel && handleOk o.args
  | .taskarm _ n count => n < 4096 && count < 2 ^ 32
  | .opwait _ mask _ handle => mask < 2 ^ 16 && handleOk handle
  | .mboxbind _ o => o.m < 256 && o.pri < 4 && handleOk o.kernel && handleOk o.args
  | .mboxfree _ m => m < 256
  | .specflush _ all handle => handleOk handle && (!all || handle == 0)
  | .tdecl _ o => o.ok
  | .tuse _ uses => uses.length ≤ 7 && uses.all (fun u => handleOk u.1 && u.2 < 4096)
  | .trecipe _ o => o.ok
  | .trelease _ handle => handleOk handle
  | .tpin _ tier handle => tier < 4 && handleOk handle
  | .tunpin _ handle => handleOk handle
  | .tquery _ handle result => handleOk handle && handleOk result
  | .scan _ o => o.ok
  | .texport _ o => o.w < 1024 && o.acc < 4 && handleOk o.handle && o.first < 2 ^ 32 && o.count < 2 ^ 32 && o.peer < 2 ^ 16
  | .trevoke _ w => w < 1024
  | .droopStretch _ => true
  | .powerUp => true
  | .cxlReset => true
  | .cxlLinkLoss => true
  | .fwgo => true
  | .reset => true
  | .training => true
  | .thermalShutdown => true
  | .powerLimitThrottle => true
  | .serviceSlot => true
  | .bundleIssue => true
  | .resultWriteback => true
  | .landing => true
  | .planeFillLanding => true
  | .windowRowLanding => true
  | .copyQueueAccept => true
  | .fenceWaitEnd => true
  | .syncRequestAccept => true
  | .waitaTimeout => true
  | .monitorCancelAck => true
  | .pairLineMeet => true
  | .haltComplete => true
  | .preemptRequest => true
  | .preemptLand => true
  | .contextImageWrite => true
  | .taskResume => true
  | .taskPlace => true
  | .launchComplete => true
  | .phaseCommit => true
  | .rollback => true
  | .hbmRequestSend => true
  | .scanComplete => true
  | .flitReplay => true
  | .discardInterval => true
  | .remoteRequest => true
  | .remoteReply => true
  | .remoteTimeout => true
  | .revokeEffect => true
  | .revokeDrainDone => true
  | .windowQuarantineEnd => true
  | .cNop => true
  | .sNop => true
  | .aNop => true
  | .fNop => true
  | .xNop => true
  | .vNop => true
  | .mNop => true

/-- The instruction is well formed. -/
abbrev Instr.WellFormed (i : Instr) : Prop := i.wf = true

end Sys2Proof
end

