-- ==== Sys2Proof/Decode.lean ====
section
/-! DEFINITION. The decoder of slot operations and of operator-stream records, and after it their encoder. A word
list is accepted exactly when the instruction read from its fields is well formed and encodes to it again, so
that no bit is dropped and every reserved bit must be zero (spec/00_scope.md R11, spec/02_bundle_encoding.md
R49 to R58 and R74, R75; spec/14_die_dispatch_specialisation.md R320). -/
namespace Sys2Proof

/-- The eight slots in slot order (R50). -/
inductive Slot where
  | c | s | a | x | v0 | v1 | m | f
  deriving DecidableEq, Repr

/-- The number of a slot in slot order (R50, R253). -/
def Slot.num : Slot → Nat
  | .c => 0 | .s => 1 | .a => 2 | .x => 3 | .v0 => 4 | .v1 => 5 | .m => 6 | .f => 7

/-- The slots in slot order. -/
def Slot.all : List Slot := [.c, .s, .a, .x, .v0, .v1, .m, .f]

/-- X, V0, V1 and M operations take two syllables (R50). -/
def Slot.isLong : Slot → Bool
  | .x | .v0 | .v1 | .m => true
  | _ => false

/-! Encoding: the fields at their places. -/

/-- A short operation syllable (R51). -/
def shortWord (e bt : Bool) (g op fld : Nat) : Nat :=
  ofBool e * 2 ^ 30 + ofBool bt * 2 ^ 29 + g * 2 ^ 25 + op * 2 ^ 18 + fld

/-- The uniform-select bits in an extension syllable (R53). -/
def KSel.enc (k : KSel) : Nat := ofBool k.k1 * 2 ^ 30 + ofBool k.k2 * 2 ^ 29 + ofBool k.k3 * 2 ^ 28

def S0.enc (op : Nat) (o : S0) : List Nat := [shortWord false o.bt o.g op 0]
def S3.enc (op : Nat) (o : S3) : List Nat :=
  let w e := shortWord e o.bt o.g op (o.f1 * 2 ^ 12 + o.f2 * 2 ^ 6 + o.f3)
  match o.ext with | none => [w false] | some k => [w true, k.enc]
def S3X.enc (op : Nat) (o : S3X) : List Nat :=
  [shortWord true o.bt o.g op (o.f1 * 2 ^ 12 + o.f2 * 2 ^ 6 + o.f3), o.k.enc + o.x]
def S2I.enc (op : Nat) (o : S2I) : List Nat :=
  let w e := shortWord e o.bt o.g op (o.f1 * 2 ^ 12 + o.f2 * 2 ^ 6 + o.i)
  match o.ext with | none => [w false] | some (k, h) => [w true, k.enc + h]
def S1I.enc (op : Nat) (o : S1I) : List Nat :=
  let w e := shortWord e o.bt o.g op (o.f1 * 2 ^ 12 + o.i)
  match o.ext with | none => [w false] | some (k, h) => [w true, k.enc + h]
def SI.enc (op : Nat) (o : SI) : List Nat :=
  match o.ext with
  | none => [shortWord false o.bt o.g op o.i]
  | some h => [shortWord true o.bt o.g op o.i, h]
def SPI.enc (op : Nat) (o : SPI) : List Nat :=
  let w e := shortWord e o.bt o.g op (o.p1 * 2 ^ 14 + o.i)
  match o.ext with | none => [w false] | some h => [w true, h]
def SC.enc (op : Nat) (o : SC) : List Nat :=
  let w e := shortWord e o.bt o.g op (o.p1 * 2 ^ 14 + o.f2 * 2 ^ 6 + o.f3)
  match o.ext with | none => [w false] | some k => [w true, k.enc]
def SL.enc (op : Nat) (o : SL) : List Nat :=
  [shortWord false o.bt o.g op (o.p1 * 2 ^ 14 + o.p2 * 2 ^ 10 + o.p3 * 2 ^ 6)]

/-- The 62-bit body of a long operation (R55). -/
def Long.body (op : Nat) (o : Long) : Nat :=
  o.g * 2 ^ 57 + op * 2 ^ 50 + ofBool o.wbs * 2 ^ 49 + o.ty * 2 ^ 46 + o.md * 2 ^ 43 + o.dst * 2 ^ 33 +
    o.sa * 2 ^ 22 + o.sb * 2 ^ 11 + o.sc
/-- The two syllables of a long operation (R55). -/
def Long.enc (op : Nat) (o : Long) : List Nat := [o.body op % 2 ^ 31, o.body op / 2 ^ 31]

/-! Decoding: the fields read from their places. -/

def KSel.dec (x : Nat) : KSel := ⟨bit x 30, bit x 29, bit x 28⟩
def S0.dec (w : Nat) : S0 := ⟨bit w 29, bits w 25 4⟩
def S3.dec (w : Nat) (x : Option Nat) : S3 :=
  ⟨bit w 29, bits w 25 4, bits w 12 6, bits w 6 6, bits w 0 6, x.map KSel.dec⟩
def S3X.dec (w : Nat) (x : Option Nat) : S3X :=
  ⟨bit w 29, bits w 25 4, bits w 12 6, bits w 6 6, bits w 0 6, KSel.dec (x.getD 0), bits (x.getD 0) 0 28⟩
def S2I.dec (w : Nat) (x : Option Nat) : S2I :=
  ⟨bit w 29, bits w 25 4, bits w 12 6, bits w 6 6, bits w 0 6, x.map fun y => (KSel.dec y, bits y 0 28)⟩
def S1I.dec (w : Nat) (x : Option Nat) : S1I :=
  ⟨bit w 29, bits w 25 4, bits w 12 6, bits w 0 12, x.map fun y => (KSel.dec y, bits y 0 28)⟩
def SI.dec (w : Nat) (x : Option Nat) : SI := ⟨bit w 29, bits w 25 4, bits w 0 18, x.map fun y => bits y 0 31⟩
def SPI.dec (w : Nat) (x : Option Nat) : SPI :=
  ⟨bit w 29, bits w 25 4, bits w 14 4, bits w 0 14, x.map fun y => bits y 0 31⟩
def SC.dec (w : Nat) (x : Option Nat) : SC :=
  ⟨bit w 29, bits w 25 4, bits w 14 4, bits w 6 6, bits w 0 6, x.map KSel.dec⟩
def SL.dec (w : Nat) : SL := ⟨bit w 29, bits w 25 4, bits w 14 4, bits w 10 4, bits w 6 4⟩
def Long.dec (b : Nat) : Long :=
  ⟨bits b 57 4, bit b 49, bits b 46 3, bits b 43 3, bits b 33 10, bits b 22 11, bits b 11 11, bits b 0 11⟩

/-- The C slot's opcode map (R74): the operation that the fields of a syllable and its extension name. -/
def readOpC (w : Nat) (x : Option Nat) : Option Instr :=
  match bits w 18 7 with
  | 0x00 => some .cNop
  | 0x01 => some (.br (SI.dec w x))
  | 0x02 => some (.brp (SPI.dec w x))
  | 0x03 => some (.bri (S3.dec w x))
  | 0x04 => some (.call (SI.dec w x))
  | 0x05 => some (.ret (S3.dec w x))
  | 0x06 => some (.loop (S1I.dec w x))
  | 0x07 => some (.sloop (S2I.dec w x))
  | 0x08 => some (.next (S0.dec w))
  | 0x09 => some (.lexit (S0.dec w))
  | 0x0A => some (.lix (S1I.dec w x))
  | 0x0B => some (.halt (S0.dec w))
  | 0x0C => some (.trap (SI.dec w x))
  | 0x0D => some (.eret (S0.dec w))
  | 0x10 => some (.fuse (S1I.dec w x))
  | 0x11 => some (.decouple (S0.dec w))
  | 0x12 => some (.rejoin (S0.dec w))
  | 0x13 => some (.sbar (S0.dec w))
  | 0x14 => some (.sqbar (S0.dec w))
  | 0x15 => some (.pair (S1I.dec w x))
  | _ => none

/-- The S slot's opcode map (R74): the operation that the fields of a syllable and its extension name. -/
def readOpS (w : Nat) (x : Option Nat) : Option Instr :=
  match bits w 18 7 with
  | 0x00 => some .sNop
  | 0x01 => some (.add (S3.dec w x))
  | 0x02 => some (.sub (S3.dec w x))
  | 0x03 => some (.mul (S3.dec w x))
  | 0x04 => some (.mulhs (S3.dec w x))
  | 0x05 => some (.mulhn (S3.dec w x))
  | 0x06 => some (.divs (S3.dec w x))
  | 0x07 => some (.divn (S3.dec w x))
  | 0x08 => some (.rems (S3.dec w x))
  | 0x09 => some (.remn (S3.dec w x))
  | 0x0A => some (.and (S3.dec w x))
  | 0x0B => some (.or (S3.dec w x))
  | 0x0C => some (.xor (S3.dec w x))
  | 0x0D => some (.andn (S3.dec w x))
  | 0x0E => some (.shl (S3.dec w x))
  | 0x0F => some (.shrn (S3.dec w x))
  | 0x10 => some (.shrs (S3.dec w x))
  | 0x11 => some (.rotl (S3.dec w x))
  | 0x12 => some (.mins (S3.dec w x))
  | 0x13 => some (.maxs (S3.dec w x))
  | 0x14 => some (.minn (S3.dec w x))
  | 0x15 => some (.maxn (S3.dec w x))
  | 0x16 => some (.clz (S3.dec w x))
  | 0x17 => some (.ctz (S3.dec w x))
  | 0x18 => some (.popc (S3.dec w x))
  | 0x19 => some (.bext (S3X.dec w x))
  | 0x1A => some (.bins (S3X.dec w x))
  | 0x1B => some (.add128 (S3.dec w x))
  | 0x1C => some (.addi (S2I.dec w x))
  | 0x1D => some (.movi (S1I.dec w x))
  | 0x20 => some (.cmpEq (SC.dec w x))
  | 0x21 => some (.cmpNe (SC.dec w x))
  | 0x22 => some (.cmpLts (SC.dec w x))
  | 0x23 => some (.cmpLes (SC.dec w x))
  | 0x24 => some (.cmpLtn (SC.dec w x))
  | 0x25 => some (.cmpLen (SC.dec w x))
  | 0x26 => some (.cmpAny (SC.dec w x))
  | 0x27 => some (.cmpNone (SC.dec w x))
  | 0x28 => some (.sel (S3X.dec w x))
  | 0x29 => some (.pand (SL.dec w))
  | 0x2A => some (.por (SL.dec w))
  | 0x2B => some (.pxor (SL.dec w))
  | 0x2C => some (.pnot (SL.dec w))
  | 0x2D => some (.pmov (SL.dec w))
  | 0x30 => some (.wid (S3.dec w x))
  | 0x31 => some (.rank (S3.dec w x))
  | 0x38 => some (.mfs (S1I.dec w x))
  | 0x39 => some (.mts (S1I.dec w x))
  | _ => none

/-- The A slot's opcode map (R74): the operation that the fields of a syllable and its extension name. -/
def readOpA (w : Nat) (x : Option Nat) : Option Instr :=
  match bits w 18 7 with
  | 0x00 => some .aNop
  | 0x01 => some (.alea (S2I.dec w x))
  | 0x02 => some (.aset (S3.dec w x))
  | 0x03 => some (.astep (S3.dec w x))
  | 0x04 => some (.aring (S3.dec w x))
  | 0x05 => some (.wopen (S3X.dec w x))
  | 0x06 => some (.wadv (S3.dec w x))
  | 0x07 => some (.wclose (S3.dec w x))
  | _ => none

/-- The F slot's opcode map (R74): the operation that the fields of a syllable and its extension name. -/
def readOpF (w : Nat) (x : Option Nat) : Option Instr :=
  match bits w 18 7 with
  | 0x00 => some .fNop
  | 0x01 => some (.fill (S2I.dec w x))
  | 0x02 => some (.flcfg (S3X.dec w x))
  | 0x03 => some (.flpush (S3X.dec w x))
  | 0x04 => some (.flpop (S3X.dec w x))
  | _ => none

/-- The X slot's opcode map (R74): the operation that a 62-bit body names. -/
def readOpX (b : Nat) : Option Instr :=
  match bits b 50 7 with
  | 0x00 => some .xNop
  | 0x01 => some (.lds (Long.dec b))
  | 0x02 => some (.sts (Long.dec b))
  | 0x03 => some (.vld (Long.dec b))
  | 0x04 => some (.vst (Long.dec b))
  | 0x05 => some (.vldx (Long.dec b))
  | 0x06 => some (.vstx (Long.dec b))
  | 0x07 => some (.tld (Long.dec b))
  | 0x08 => some (.tst (Long.dec b))
  | 0x09 => some (.tcopy (Long.dec b))
  | 0x0A => some (.tpref (Long.dec b))
  | 0x0B => some (.fence (Long.dec b))
  | 0x0C => some (.qfence (Long.dec b))
  | 0x0D => some (.vjoin (Long.dec b))
  | 0x20 => some (.aadd (Long.dec b))
  | 0x21 => some (.amin (Long.dec b))
  | 0x22 => some (.amax (Long.dec b))
  | 0x23 => some (.aand (Long.dec b))
  | 0x24 => some (.aor (Long.dec b))
  | 0x25 => some (.axor (Long.dec b))
  | 0x26 => some (.axchg (Long.dec b))
  | 0x27 => some (.acas (Long.dec b))
  | 0x28 => some (.ald (Long.dec b))
  | 0x29 => some (.ast (Long.dec b))
  | 0x2A => some (.afadd (Long.dec b))
  | 0x2B => some (.waita (Long.dec b))
  | 0x2C => some (.notify (Long.dec b))
  | 0x2D => some (.dqpush (Long.dec b))
  | 0x2E => some (.dqpop (Long.dec b))
  | 0x2F => some (.dqsteal (Long.dec b))
  | 0x30 => some (.dcnt (Long.dec b))
  | _ => none

/-- The V slot's opcode map (R74): the operation that a 62-bit body names. -/
def readOpV (b : Nat) : Option Instr :=
  match bits b 50 7 with
  | 0x00 => some .vNop
  | 0x01 => some (.vadd (Long.dec b))
  | 0x02 => some (.vsub (Long.dec b))
  | 0x03 => some (.vadds (Long.dec b))
  | 0x04 => some (.vsubs (Long.dec b))
  | 0x05 => some (.vmul (Long.dec b))
  | 0x06 => some (.vmulh (Long.dec b))
  | 0x07 => some (.vmad (Long.dec b))
  | 0x08 => some (.vabs (Long.dec b))
  | 0x09 => some (.vneg (Long.dec b))
  | 0x0A => some (.vmin (Long.dec b))
  | 0x0B => some (.vmax (Long.dec b))
  | 0x0C => some (.vand (Long.dec b))
  | 0x0D => some (.vor (Long.dec b))
  | 0x0E => some (.vxor (Long.dec b))
  | 0x0F => some (.vshl (Long.dec b))
  | 0x10 => some (.vshr (Long.dec b))
  | 0x11 => some (.vsar (Long.dec b))
  | 0x12 => some (.vcmp (Long.dec b))
  | 0x13 => some (.vsel (Long.dec b))
  | 0x14 => some (.vclz (Long.dec b))
  | 0x15 => some (.vpopc (Long.dec b))
  | 0x20 => some (.vfadd (Long.dec b))
  | 0x21 => some (.vfsub (Long.dec b))
  | 0x22 => some (.vfmul (Long.dec b))
  | 0x23 => some (.vfma (Long.dec b))
  | 0x24 => some (.vfnma (Long.dec b))
  | 0x25 => some (.vfmin (Long.dec b))
  | 0x26 => some (.vfmax (Long.dec b))
  | 0x27 => some (.vfabs (Long.dec b))
  | 0x28 => some (.vfneg (Long.dec b))
  | 0x29 => some (.vfcmp (Long.dec b))
  | 0x2A => some (.vfclass (Long.dec b))
  | 0x2B => some (.vfscale (Long.dec b))
  | 0x2C => some (.vfrcp (Long.dec b))
  | 0x2D => some (.vfrsq (Long.dec b))
  | 0x2E => some (.vfexp2 (Long.dec b))
  | 0x2F => some (.vflog2 (Long.dec b))
  | 0x30 => some (.vcvt (Long.dec b))
  | 0x31 => some (.vqmx (Long.dec b))
  | 0x32 => some (.vdqmx (Long.dec b))
  | 0x33 => some (.vpack (Long.dec b))
  | 0x34 => some (.vunpack (Long.dec b))
  | 0x38 => some (.vradd (Long.dec b))
  | 0x39 => some (.vrfadd (Long.dec b))
  | 0x3A => some (.vrmax (Long.dec b))
  | 0x3B => some (.vrmin (Long.dec b))
  | 0x3C => some (.vrfmax (Long.dec b))
  | 0x40 => some (.vperm (Long.dec b))
  | 0x41 => some (.vbcast (Long.dec b))
  | 0x42 => some (.vlrot (Long.dec b))
  | 0x43 => some (.vshuf (Long.dec b))
  | 0x44 => some (.vcmpr (Long.dec b))
  | 0x45 => some (.vexpd (Long.dec b))
  | 0x46 => some (.viota (Long.dec b))
  | 0x48 => some (.mand (Long.dec b))
  | 0x49 => some (.mor (Long.dec b))
  | 0x4A => some (.mnot (Long.dec b))
  | 0x4B => some (.mpop (Long.dec b))
  | 0x50 => some (.vrng (Long.dec b))
  | _ => none

/-- The M slot's opcode map (R74): the operation that a 62-bit body names. -/
def readOpM (b : Nat) : Option Instr :=
  match bits b 50 7 with
  | 0x00 => some .mNop
  | 0x01 => some (.mldb (Long.dec b))
  | 0x02 => some (.mpush (Long.dec b))
  | 0x03 => some (.mshift (Long.dec b))
  | 0x04 => some (.macc (Long.dec b))
  | 0x05 => some (.mtern (Long.dec b))
  | 0x06 => some (.mdrain (Long.dec b))
  | 0x07 => some (.mzero (Long.dec b))
  | 0x08 => some (.mswap (Long.dec b))
  | 0x09 => some (.mtfetch (Long.dec b))
  | _ => none

/-- The syllables of a slot operation; events, commands and records have none. -/
def encode : Instr → List Nat
  | .kick _ _ _ _ => []
  | .registerWrite _ _ _ => []
  | .contextCreate _ _ => []
  | .contextSet _ _ => []
  | .contextDestroy _ _ => []
  | .partition _ _ _ _ => []
  | .streamAdmit _ _ => []
  | .streamStop _ _ => []
  | .keyLoad _ _ _ _ _ => []
  | .keyDestroy _ _ => []
  | .ownerKeyLoad _ _ _ _ _ => []
  | .ownerKeyDestroy _ _ _ => []
  | .syncAllocate _ _ => []
  | .poolWays _ _ _ => []
  | .map _ _ _ _ => []
  | .slotTable _ _ _ => []
  | .dieFirmwareReload _ _ _ => []
  | .hbmRepair _ _ _ _ => []
  | .portRetrain _ _ => []
  | .hearthRetirement _ _ => []
  | .eventRead _ _ => []
  | .dataArrival _ => []
  | .copyPerform _ => []
  | .copyComplete _ => []
  | .atomicPerform _ => []
  | .atomicAck _ => []
  | .mailboxPost _ => []
  | .mailboxHandlerLaunch _ => []
  | .chimneyLineHigh _ => []
  | .partitionSwap _ => []
  | .priorityAging _ => []
  | .makeResident _ _ => []
  | .hbmRequestPerform _ => []
  | .hbmReply _ => []
  | .hostMemAccess _ => []
  | .packetReceive _ => []
  | .br o => o.enc 0x01
  | .brp o => o.enc 0x02
  | .bri o => o.enc 0x03
  | .call o => o.enc 0x04
  | .ret o => o.enc 0x05
  | .loop o => o.enc 0x06
  | .sloop o => o.enc 0x07
  | .next o => o.enc 0x08
  | .lexit o => o.enc 0x09
  | .lix o => o.enc 0x0A
  | .halt o => o.enc 0x0B
  | .trap o => o.enc 0x0C
  | .eret o => o.enc 0x0D
  | .fuse o => o.enc 0x10
  | .decouple o => o.enc 0x11
  | .rejoin o => o.enc 0x12
  | .sbar o => o.enc 0x13
  | .sqbar o => o.enc 0x14
  | .pair o => o.enc 0x15
  | .add o => o.enc 0x01
  | .sub o => o.enc 0x02
  | .mul o => o.enc 0x03
  | .mulhs o => o.enc 0x04
  | .mulhn o => o.enc 0x05
  | .divs o => o.enc 0x06
  | .divn o => o.enc 0x07
  | .rems o => o.enc 0x08
  | .remn o => o.enc 0x09
  | .and o => o.enc 0x0A
  | .or o => o.enc 0x0B
  | .xor o => o.enc 0x0C
  | .andn o => o.enc 0x0D
  | .shl o => o.enc 0x0E
  | .shrn o => o.enc 0x0F
  | .shrs o => o.enc 0x10
  | .rotl o => o.enc 0x11
  | .mins o => o.enc 0x12
  | .maxs o => o.enc 0x13
  | .minn o => o.enc 0x14
  | .maxn o => o.enc 0x15
  | .clz o => o.enc 0x16
  | .ctz o => o.enc 0x17
  | .popc o => o.enc 0x18
  | .bext o => o.enc 0x19
  | .bins o => o.enc 0x1A
  | .add128 o => o.enc 0x1B
  | .addi o => o.enc 0x1C
  | .movi o => o.enc 0x1D
  | .cmpEq o => o.enc 0x20
  | .cmpNe o => o.enc 0x21
  | .cmpLts o => o.enc 0x22
  | .cmpLes o => o.enc 0x23
  | .cmpLtn o => o.enc 0x24
  | .cmpLen o => o.enc 0x25
  | .cmpAny o => o.enc 0x26
  | .cmpNone o => o.enc 0x27
  | .sel o => o.enc 0x28
  | .pand o => o.enc 0x29
  | .por o => o.enc 0x2A
  | .pxor o => o.enc 0x2B
  | .pnot o => o.enc 0x2C
  | .pmov o => o.enc 0x2D
  | .wid o => o.enc 0x30
  | .rank o => o.enc 0x31
  | .mfs o => o.enc 0x38
  | .mts o => o.enc 0x39
  | .alea o => o.enc 0x01
  | .aset o => o.enc 0x02
  | .astep o => o.enc 0x03
  | .aring o => o.enc 0x04
  | .wopen o => o.enc 0x05
  | .wadv o => o.enc 0x06
  | .wclose o => o.enc 0x07
  | .fill o => o.enc 0x01
  | .flcfg o => o.enc 0x02
  | .flpush o => o.enc 0x03
  | .flpop o => o.enc 0x04
  | .lds o => o.enc 0x01
  | .sts o => o.enc 0x02
  | .vld o => o.enc 0x03
  | .vst o => o.enc 0x04
  | .vldx o => o.enc 0x05
  | .vstx o => o.enc 0x06
  | .tld o => o.enc 0x07
  | .tst o => o.enc 0x08
  | .tcopy o => o.enc 0x09
  | .tpref o => o.enc 0x0A
  | .fence o => o.enc 0x0B
  | .qfence o => o.enc 0x0C
  | .vjoin o => o.enc 0x0D
  | .aadd o => o.enc 0x20
  | .amin o => o.enc 0x21
  | .amax o => o.enc 0x22
  | .aand o => o.enc 0x23
  | .aor o => o.enc 0x24
  | .axor o => o.enc 0x25
  | .axchg o => o.enc 0x26
  | .acas o => o.enc 0x27
  | .ald o => o.enc 0x28
  | .ast o => o.enc 0x29
  | .afadd o => o.enc 0x2A
  | .waita o => o.enc 0x2B
  | .notify o => o.enc 0x2C
  | .dqpush o => o.enc 0x2D
  | .dqpop o => o.enc 0x2E
  | .dqsteal o => o.enc 0x2F
  | .dcnt o => o.enc 0x30
  | .vadd o => o.enc 0x01
  | .vsub o => o.enc 0x02
  | .vadds o => o.enc 0x03
  | .vsubs o => o.enc 0x04
  | .vmul o => o.enc 0x05
  | .vmulh o => o.enc 0x06
  | .vmad o => o.enc 0x07
  | .vabs o => o.enc 0x08
  | .vneg o => o.enc 0x09
  | .vmin o => o.enc 0x0A
  | .vmax o => o.enc 0x0B
  | .vand o => o.enc 0x0C
  | .vor o => o.enc 0x0D
  | .vxor o => o.enc 0x0E
  | .vshl o => o.enc 0x0F
  | .vshr o => o.enc 0x10
  | .vsar o => o.enc 0x11
  | .vcmp o => o.enc 0x12
  | .vsel o => o.enc 0x13
  | .vclz o => o.enc 0x14
  | .vpopc o => o.enc 0x15
  | .vfadd o => o.enc 0x20
  | .vfsub o => o.enc 0x21
  | .vfmul o => o.enc 0x22
  | .vfma o => o.enc 0x23
  | .vfnma o => o.enc 0x24
  | .vfmin o => o.enc 0x25
  | .vfmax o => o.enc 0x26
  | .vfabs o => o.enc 0x27
  | .vfneg o => o.enc 0x28
  | .vfcmp o => o.enc 0x29
  | .vfclass o => o.enc 0x2A
  | .vfscale o => o.enc 0x2B
  | .vfrcp o => o.enc 0x2C
  | .vfrsq o => o.enc 0x2D
  | .vfexp2 o => o.enc 0x2E
  | .vflog2 o => o.enc 0x2F
  | .vcvt o => o.enc 0x30
  | .vqmx o => o.enc 0x31
  | .vdqmx o => o.enc 0x32
  | .vpack o => o.enc 0x33
  | .vunpack o => o.enc 0x34
  | .vradd o => o.enc 0x38
  | .vrfadd o => o.enc 0x39
  | .vrmax o => o.enc 0x3A
  | .vrmin o => o.enc 0x3B
  | .vrfmax o => o.enc 0x3C
  | .vperm o => o.enc 0x40
  | .vbcast o => o.enc 0x41
  | .vlrot o => o.enc 0x42
  | .vshuf o => o.enc 0x43
  | .vcmpr o => o.enc 0x44
  | .vexpd o => o.enc 0x45
  | .viota o => o.enc 0x46
  | .mand o => o.enc 0x48
  | .mor o => o.enc 0x49
  | .mnot o => o.enc 0x4A
  | .mpop o => o.enc 0x4B
  | .vrng o => o.enc 0x50
  | .mldb o => o.enc 0x01
  | .mpush o => o.enc 0x02
  | .mshift o => o.enc 0x03
  | .macc o => o.enc 0x04
  | .mtern o => o.enc 0x05
  | .mdrain o => o.enc 0x06
  | .mzero o => o.enc 0x07
  | .mswap o => o.enc 0x08
  | .mtfetch o => o.enc 0x09
  | .oplaunch _ _ => []
  | .phase _ => []
  | .taskdef _ _ => []
  | .taskarm _ _ _ => []
  | .opwait _ _ _ _ => []
  | .mboxbind _ _ => []
  | .mboxfree _ _ => []
  | .specflush _ _ _ => []
  | .tdecl _ _ => []
  | .tuse _ _ => []
  | .trecipe _ _ => []
  | .trelease _ _ => []
  | .tpin _ _ _ => []
  | .tunpin _ _ => []
  | .tquery _ _ _ => []
  | .scan _ _ => []
  | .texport _ _ => []
  | .trevoke _ _ => []
  | .droopStretch _ => []
  | .powerUp => []
  | .cxlReset => []
  | .cxlLinkLoss => []
  | .fwgo => []
  | .reset => []
  | .training => []
  | .thermalShutdown => []
  | .powerLimitThrottle => []
  | .serviceSlot => []
  | .bundleIssue => []
  | .resultWriteback => []
  | .landing => []
  | .planeFillLanding => []
  | .windowRowLanding => []
  | .copyQueueAccept => []
  | .fenceWaitEnd => []
  | .syncRequestAccept => []
  | .waitaTimeout => []
  | .monitorCancelAck => []
  | .pairLineMeet => []
  | .haltComplete => []
  | .preemptRequest => []
  | .preemptLand => []
  | .contextImageWrite => []
  | .taskResume => []
  | .taskPlace => []
  | .launchComplete => []
  | .phaseCommit => []
  | .rollback => []
  | .hbmRequestSend => []
  | .scanComplete => []
  | .flitReplay => []
  | .discardInterval => []
  | .remoteRequest => []
  | .remoteReply => []
  | .remoteTimeout => []
  | .revokeEffect => []
  | .revokeDrainDone => []
  | .windowQuarantineEnd => []
  | .cNop => [0]
  | .sNop => [0]
  | .aNop => [0]
  | .fNop => [0]
  | .xNop => [0, 0]
  | .vNop => [0, 0]
  | .mNop => [0, 0]

/-- The slot that a slot operation belongs to (V0 stands for either vector slot). -/
def Instr.slot : Instr → Option Slot
  | .kick _ _ _ _ => none
  | .registerWrite _ _ _ => none
  | .contextCreate _ _ => none
  | .contextSet _ _ => none
  | .contextDestroy _ _ => none
  | .partition _ _ _ _ => none
  | .streamAdmit _ _ => none
  | .streamStop _ _ => none
  | .keyLoad _ _ _ _ _ => none
  | .keyDestroy _ _ => none
  | .ownerKeyLoad _ _ _ _ _ => none
  | .ownerKeyDestroy _ _ _ => none
  | .syncAllocate _ _ => none
  | .poolWays _ _ _ => none
  | .map _ _ _ _ => none
  | .slotTable _ _ _ => none
  | .dieFirmwareReload _ _ _ => none
  | .hbmRepair _ _ _ _ => none
  | .portRetrain _ _ => none
  | .hearthRetirement _ _ => none
  | .eventRead _ _ => none
  | .dataArrival _ => none
  | .copyPerform _ => none
  | .copyComplete _ => none
  | .atomicPerform _ => none
  | .atomicAck _ => none
  | .mailboxPost _ => none
  | .mailboxHandlerLaunch _ => none
  | .chimneyLineHigh _ => none
  | .partitionSwap _ => none
  | .priorityAging _ => none
  | .makeResident _ _ => none
  | .hbmRequestPerform _ => none
  | .hbmReply _ => none
  | .hostMemAccess _ => none
  | .packetReceive _ => none
  | .br _ => some .c
  | .brp _ => some .c
  | .bri _ => some .c
  | .call _ => some .c
  | .ret _ => some .c
  | .loop _ => some .c
  | .sloop _ => some .c
  | .next _ => some .c
  | .lexit _ => some .c
  | .lix _ => some .c
  | .halt _ => some .c
  | .trap _ => some .c
  | .eret _ => some .c
  | .fuse _ => some .c
  | .decouple _ => some .c
  | .rejoin _ => some .c
  | .sbar _ => some .c
  | .sqbar _ => some .c
  | .pair _ => some .c
  | .add _ => some .s
  | .sub _ => some .s
  | .mul _ => some .s
  | .mulhs _ => some .s
  | .mulhn _ => some .s
  | .divs _ => some .s
  | .divn _ => some .s
  | .rems _ => some .s
  | .remn _ => some .s
  | .and _ => some .s
  | .or _ => some .s
  | .xor _ => some .s
  | .andn _ => some .s
  | .shl _ => some .s
  | .shrn _ => some .s
  | .shrs _ => some .s
  | .rotl _ => some .s
  | .mins _ => some .s
  | .maxs _ => some .s
  | .minn _ => some .s
  | .maxn _ => some .s
  | .clz _ => some .s
  | .ctz _ => some .s
  | .popc _ => some .s
  | .bext _ => some .s
  | .bins _ => some .s
  | .add128 _ => some .s
  | .addi _ => some .s
  | .movi _ => some .s
  | .cmpEq _ => some .s
  | .cmpNe _ => some .s
  | .cmpLts _ => some .s
  | .cmpLes _ => some .s
  | .cmpLtn _ => some .s
  | .cmpLen _ => some .s
  | .cmpAny _ => some .s
  | .cmpNone _ => some .s
  | .sel _ => some .s
  | .pand _ => some .s
  | .por _ => some .s
  | .pxor _ => some .s
  | .pnot _ => some .s
  | .pmov _ => some .s
  | .wid _ => some .s
  | .rank _ => some .s
  | .mfs _ => some .s
  | .mts _ => some .s
  | .alea _ => some .a
  | .aset _ => some .a
  | .astep _ => some .a
  | .aring _ => some .a
  | .wopen _ => some .a
  | .wadv _ => some .a
  | .wclose _ => some .a
  | .fill _ => some .f
  | .flcfg _ => some .f
  | .flpush _ => some .f
  | .flpop _ => some .f
  | .lds _ => some .x
  | .sts _ => some .x
  | .vld _ => some .x
  | .vst _ => some .x
  | .vldx _ => some .x
  | .vstx _ => some .x
  | .tld _ => some .x
  | .tst _ => some .x
  | .tcopy _ => some .x
  | .tpref _ => some .x
  | .fence _ => some .x
  | .qfence _ => some .x
  | .vjoin _ => some .x
  | .aadd _ => some .x
  | .amin _ => some .x
  | .amax _ => some .x
  | .aand _ => some .x
  | .aor _ => some .x
  | .axor _ => some .x
  | .axchg _ => some .x
  | .acas _ => some .x
  | .ald _ => some .x
  | .ast _ => some .x
  | .afadd _ => some .x
  | .waita _ => some .x
  | .notify _ => some .x
  | .dqpush _ => some .x
  | .dqpop _ => some .x
  | .dqsteal _ => some .x
  | .dcnt _ => some .x
  | .vadd _ => some .v0
  | .vsub _ => some .v0
  | .vadds _ => some .v0
  | .vsubs _ => some .v0
  | .vmul _ => some .v0
  | .vmulh _ => some .v0
  | .vmad _ => some .v0
  | .vabs _ => some .v0
  | .vneg _ => some .v0
  | .vmin _ => some .v0
  | .vmax _ => some .v0
  | .vand _ => some .v0
  | .vor _ => some .v0
  | .vxor _ => some .v0
  | .vshl _ => some .v0
  | .vshr _ => some .v0
  | .vsar _ => some .v0
  | .vcmp _ => some .v0
  | .vsel _ => some .v0
  | .vclz _ => some .v0
  | .vpopc _ => some .v0
  | .vfadd _ => some .v0
  | .vfsub _ => some .v0
  | .vfmul _ => some .v0
  | .vfma _ => some .v0
  | .vfnma _ => some .v0
  | .vfmin _ => some .v0
  | .vfmax _ => some .v0
  | .vfabs _ => some .v0
  | .vfneg _ => some .v0
  | .vfcmp _ => some .v0
  | .vfclass _ => some .v0
  | .vfscale _ => some .v0
  | .vfrcp _ => some .v0
  | .vfrsq _ => some .v0
  | .vfexp2 _ => some .v0
  | .vflog2 _ => some .v0
  | .vcvt _ => some .v0
  | .vqmx _ => some .v0
  | .vdqmx _ => some .v0
  | .vpack _ => some .v0
  | .vunpack _ => some .v0
  | .vradd _ => some .v0
  | .vrfadd _ => some .v0
  | .vrmax _ => some .v0
  | .vrmin _ => some .v0
  | .vrfmax _ => some .v0
  | .vperm _ => some .v0
  | .vbcast _ => some .v0
  | .vlrot _ => some .v0
  | .vshuf _ => some .v0
  | .vcmpr _ => some .v0
  | .vexpd _ => some .v0
  | .viota _ => some .v0
  | .mand _ => some .v0
  | .mor _ => some .v0
  | .mnot _ => some .v0
  | .mpop _ => some .v0
  | .vrng _ => some .v0
  | .mldb _ => some .m
  | .mpush _ => some .m
  | .mshift _ => some .m
  | .macc _ => some .m
  | .mtern _ => some .m
  | .mdrain _ => some .m
  | .mzero _ => some .m
  | .mswap _ => some .m
  | .mtfetch _ => some .m
  | .oplaunch _ _ => none
  | .phase _ => none
  | .taskdef _ _ => none
  | .taskarm _ _ _ => none
  | .opwait _ _ _ _ => none
  | .mboxbind _ _ => none
  | .mboxfree _ _ => none
  | .specflush _ _ _ => none
  | .tdecl _ _ => none
  | .tuse _ _ => none
  | .trecipe _ _ => none
  | .trelease _ _ => none
  | .tpin _ _ _ => none
  | .tunpin _ _ => none
  | .tquery _ _ _ => none
  | .scan _ _ => none
  | .texport _ _ => none
  | .trevoke _ _ => none
  | .droopStretch _ => none
  | .powerUp => none
  | .cxlReset => none
  | .cxlLinkLoss => none
  | .fwgo => none
  | .reset => none
  | .training => none
  | .thermalShutdown => none
  | .powerLimitThrottle => none
  | .serviceSlot => none
  | .bundleIssue => none
  | .resultWriteback => none
  | .landing => none
  | .planeFillLanding => none
  | .windowRowLanding => none
  | .copyQueueAccept => none
  | .fenceWaitEnd => none
  | .syncRequestAccept => none
  | .waitaTimeout => none
  | .monitorCancelAck => none
  | .pairLineMeet => none
  | .haltComplete => none
  | .preemptRequest => none
  | .preemptLand => none
  | .contextImageWrite => none
  | .taskResume => none
  | .taskPlace => none
  | .launchComplete => none
  | .phaseCommit => none
  | .rollback => none
  | .hbmRequestSend => none
  | .scanComplete => none
  | .flitReplay => none
  | .discardInterval => none
  | .remoteRequest => none
  | .remoteReply => none
  | .remoteTimeout => none
  | .revokeEffect => none
  | .revokeDrainDone => none
  | .windowQuarantineEnd => none
  | .cNop => some .c
  | .sNop => some .s
  | .aNop => some .a
  | .fNop => some .f
  | .xNop => some .x
  | .vNop => some .v0
  | .mNop => some .m

/-- The fields that the syllables of one operation in a slot name, before any check (R50, R51, R55). -/
def readOp (sl : Slot) (ws : List Nat) : Option Instr :=
  match sl, ws with
  | .c, [w] => readOpC w none
  | .c, [w, x] => readOpC w (some x)
  | .s, [w] => readOpS w none
  | .s, [w, x] => readOpS w (some x)
  | .a, [w] => readOpA w none
  | .a, [w, x] => readOpA w (some x)
  | .f, [w] => readOpF w none
  | .f, [w, x] => readOpF w (some x)
  | .x, [w, y] => readOpX (w + y * 2 ^ 31)
  | .v0, [w, y] => readOpV (w + y * 2 ^ 31)
  | .v1, [w, y] => readOpV (w + y * 2 ^ 31)
  | .m, [w, y] => readOpM (w + y * 2 ^ 31)
  | _, _ => none

/-- Decode the syllables of one operation in a slot; none is cause 0x01 (R75). -/
def decode (sl : Slot) (ws : List Nat) : Option Instr :=
  (readOp sl ws).bind fun i => if i.wf && encode i == ws then some i else none

/-! Operator-stream records: eight words (R320). -/

/-- The eight words W0 to W7 of a record: the fields at their places (R322, R325 to R328, R341, R384, R396,
R437, R438). -/
def encodeRecord : Instr → List Nat
  | .oplaunch _ o =>
    [o.sigId * 2 ^ 16 + o.sigKind * 2 ^ 14 + o.pri * 2 ^ 12 + o.slot * 2 ^ 8 + 0x01, o.kernel, o.args, 0, 0, 0, 0, 0]
  | .phase _ => [0x02, 0, 0, 0, 0, 0, 0, 0]
  | .taskdef _ o => [o.n * 2 ^ 16 + o.pri * 2 ^ 12 + o.slot * 2 ^ 8 + 0x03, o.kernel, o.args, 0, 0, 0, 0, 0]
  | .taskarm _ n count => [n * 2 ^ 16 + 0x04, count, 0, 0, 0, 0, 0, 0]
  | .opwait _ mask cont handle => [ofBool cont * 2 ^ 8 + 0x05, mask, handle, 0, 0, 0, 0, 0]
  | .mboxbind _ o => [o.m * 2 ^ 16 + o.pri * 2 ^ 12 + 0x06, o.kernel, o.args, 0, 0, 0, 0, 0]
  | .mboxfree _ m => [m * 2 ^ 16 + 0x07, 0, 0, 0, 0, 0, 0, 0]
  | .specflush _ all handle => [ofBool all * 2 ^ 8 + 0x08, handle, 0, 0, 0, 0, 0, 0]
  | .tdecl _ o =>
    [o.key * 2 ^ 19 + o.place * 2 ^ 18 + o.die * 2 ^ 16 + o.rank * 2 ^ 14 + ofBool o.raw * 2 ^ 13 + o.fmt * 2 ^ 8 +
        0x10, o.handle, o.e0, o.e1, o.e2, o.e3, 0, 0]
  | .tuse _ uses =>
    (uses.length * 2 ^ 8 + 0x11) :: ((uses.map fun u => u.2 * 2 ^ 20 + u.1) ++ List.replicate (7 - uses.length) 0)
  | .trecipe _ o =>
    [o.in3 * 2 ^ 12 + o.nin * 2 ^ 8 + 0x12, o.nrec * 2 ^ 20 + o.target, o.stream, o.off, o.work, o.in0, o.in1, o.in2]
  | .trelease _ h => [0x13, h, 0, 0, 0, 0, 0, 0]
  | .tpin _ tier h => [tier * 2 ^ 8 + 0x14, h, 0, 0, 0, 0, 0, 0]
  | .tunpin _ h => [0x15, h, 0, 0, 0, 0, 0, 0]
  | .tquery _ h r => [0x16, h, r, 0, 0, 0, 0, 0]
  | .scan _ o =>
    [o.sigKind * 2 ^ 28 + o.sigId * 2 ^ 16 + ofBool o.ge * 2 ^ 14 + ofBool o.abs * 2 ^ 13 + o.fmt * 2 ^ 8 + 0x20,
      o.src, o.res, o.thr, o.first, o.count, o.cap, 0]
  | .texport _ o => [o.w * 2 ^ 16 + o.acc * 2 ^ 8 + 0x28, o.handle, o.first, o.count, o.peer, 0, 0, 0]
  | .trevoke _ w => [w * 2 ^ 16 + 0x29, 0, 0, 0, 0, 0, 0, 0]
  | _ => []

/-- The fields that a record names, before any check. -/
def readRecord (st : StreamId) (ws : List Nat) : Option Instr :=
  match ws with
  | [w0, w1, w2, w3, w4, w5, w6, w7] =>
    let h1 := bits w1 0 20
    let h2 := bits w2 0 20
    match bits w0 0 8 with
    | 0x01 => some (.oplaunch st ⟨bits w0 16 12, bits w0 14 2, bits w0 12 2, bits w0 8 4, h1, h2⟩)
    | 0x02 => some (.phase st)
    | 0x03 => some (.taskdef st ⟨bits w0 16 12, bits w0 12 2, bits w0 8 4, h1, h2⟩)
    | 0x04 => some (.taskarm st (bits w0 16 12) w1)
    | 0x05 => some (.opwait st (bits w1 0 16) (bit w0 8) h2)
    | 0x06 => some (.mboxbind st ⟨bits w0 16 8, bits w0 12 2, h1, h2⟩)
    | 0x07 => some (.mboxfree st (bits w0 16 8))
    | 0x08 => some (.specflush st (bit w0 8) h1)
    | 0x10 =>
      some (.tdecl st ⟨bits w0 8 5, bit w0 13, bits w0 14 2, bits w0 16 2, bits w0 18 1, bits w0 19 9, h1,
        w2, w3, w4, w5⟩)
    | 0x11 =>
      some (.tuse st (([w1, w2, w3, w4, w5, w6, w7].take (bits w0 8 3)).map fun u => (bits u 0 20, bits u 20 12)))
    | 0x12 =>
      some (.trecipe st ⟨bits w0 8 3, h1, bits w1 20 3, h2, w3, w4, bits w5 0 20, bits w6 0 20, bits w7 0 20,
        bits w0 12 20⟩)
    | 0x13 => some (.trelease st h1)
    | 0x14 => some (.tpin st (bits w0 8 2) h1)
    | 0x15 => some (.tunpin st h1)
    | 0x16 => some (.tquery st h1 h2)
    | 0x20 =>
      some (.scan st ⟨bits w0 28 2, bits w0 16 12, bit w0 14, bit w0 13, bits w0 8 5, h1, h2, w3, w4, w5, w6⟩)
    | 0x28 => some (.texport st ⟨bits w0 16 10, bits w0 8 2, h1, w2, w3, bits w4 0 16⟩)
    | 0x29 => some (.trevoke st (bits w0 16 10))
    | _ => none
  | _ => none

/-- Decode a record of a stream; none is stream fault 0x01 (R321). -/
def decodeRecord (st : StreamId) (ws : List Nat) : Option Instr :=
  (readRecord st ws).bind fun i => if i.wf && encodeRecord i == ws then some i else none

/-! The bundle header (R49, R50). -/

/-- The fields of a header syllable: which slots it names, REP, HOLD, PAD, and the bits that must be zero. -/
structure Header where
  slots : List Slot
  rep : Nat
  hold : Bool
  pad : Bool
  low : Nat
  deriving DecidableEq, Repr

/-- The header syllable's fields (R49). -/
def Header.dec (w : Nat) : Header :=
  ⟨Slot.all.filter (fun sl => bit w (30 - sl.num)), bits w 17 6, bit w 16, bit w 15, bits w 0 15⟩

/-- The header syllable that names `slots` (R49). -/
def Header.enc (slots : List Slot) (rep : Nat) (hold pad : Bool) : Nat :=
  2 ^ 31 + (Slot.all.map fun sl => if sl ∈ slots then 2 ^ (30 - sl.num) else 0).sum + rep * 2 ^ 17 +
    ofBool hold * 2 ^ 16 + ofBool pad * 2 ^ 15

/-! The words of the opcode table (a bare operation syllable stands in no slot). -/

/-- The slots in which a bare operation syllable is tried, in slot order. DESIGN CHOICE (log 6): the table gives
one 32-bit word without its slot, and the first slot whose decoder accepts it is taken. -/
def decodeBare (ws : List Nat) : List Slot → Option (Slot × Instr)
  | [] => none
  | sl :: sls =>
    match decode sl ws with
    | some i => some (sl, i)
    | none => decodeBare ws sls

/-- The syllables of a table word of `nbits` bits: a second syllable where the first asks for an extension or
where the table gives a second word (R53, R55). -/
def tableWords (nbits w : Nat) : List Nat :=
  if bit w 30 || 32 < nbits then [bits w 0 32, bits w 32 32] else [bits w 0 32]

/-- The slot and instruction of a table word. -/
def decodeTableSlot (nbits w : Nat) : Option (Slot × Instr) := decodeBare (tableWords nbits w) Slot.all

/-- The instruction that the decoder reads from the bits of a table row (log 6). -/
def decodeTableWord (nbits w : Nat) : Option Instr := (decodeTableSlot nbits w).map Prod.snd

end Sys2Proof
end

