-- ==== Sys2Proof/Machine/Store.lean ====
section
/-! DEFINITION. Sparse stores: lists of (key, value) pairs in one canonical form, keys strictly rising and no entry
equal to what an unlisted key reads as. Memory is a store of bytes (spec/06_scratchpad_flues_landing.md R151;
spec/18_package_residency.md R385). -/
namespace Sys2Proof.Machine

/-- A sparse store. -/
abbrev Store (α : Type) := List (Nat × α)

/-- Read a key; an unlisted key reads as `d`. -/
def Store.get {α : Type} (d : α) : Store α → Nat → α
  | [], _ => d
  | (j, v) :: r, k => if j = k then v else Store.get d r k

/-- Put an entry before the first greater key. -/
def Store.put {α : Type} : Store α → Nat → α → Store α
  | [], k, v => [(k, v)]
  | (j, w) :: r, k, v => if k < j then (k, v) :: (j, w) :: r else (j, w) :: Store.put r k v

/-- Write a key, keeping the canonical form: writing `d` removes the entry. -/
def Store.set {α : Type} [DecidableEq α] (d : α) (s : Store α) (k : Nat) (v : α) : Store α :=
  let r := s.filter fun e => e.1 != k
  if v = d then r else Store.put r k v

/-- Change every value of a store by a function that keeps `d`, in canonical form. -/
def Store.mapVals {α : Type} [DecidableEq α] (d : α) (f : α → α) (s : Store α) : Store α :=
  (s.map Prod.fst).foldl (fun m k => Store.set d m k (f (Store.get d s k))) []

/-- Every key of the store is at least `lo`, keys rise strictly, and no value is `d`. -/
def Store.wfFrom {α : Type} [DecidableEq α] (d : α) : Nat → Store α → Bool
  | _, [] => true
  | lo, (k, v) :: r => decide (lo ≤ k) && !decide (v = d) && Store.wfFrom d (k + 1) r

/-- The canonical form of a store. -/
def Store.wf {α : Type} [DecidableEq α] (d : α) (s : Store α) : Bool := Store.wfFrom d 0 s

/-- Memory: a store of bytes. -/
abbrev Memory := List Host.Cell

/-- What an unlisted byte of memory reads as. Tensors are zero when TDECL makes them (R385); scratchpad and host
memory that nothing has written read 0: DESIGN CHOICE (log 3), unsafe. -/
def Memory.default : Byte := 0

/-- The byte at an address. -/
def Memory.read (m : Memory) (a : Nat) : Byte := Store.get Memory.default m a

/-- Write one byte. -/
def Memory.write (m : Memory) (a : Nat) (b : Byte) : Memory := Store.set Memory.default m a b

/-- The bytes at `a` to `a + n - 1`. -/
def Memory.readN (m : Memory) (a : Nat) : Nat → List Byte
  | 0 => []
  | n + 1 => m.read a :: Memory.readN m (a + 1) n

/-- Write bytes upwards from `a`. -/
def Memory.writeN (m : Memory) (a : Nat) : List Byte → Memory
  | [] => m
  | b :: bs => Memory.writeN (m.write a b) (a + 1) bs

/-- The canonical form of memory. -/
def Memory.wf (m : Memory) : Bool := Store.wf Memory.default m

end Sys2Proof.Machine
end

