-- ==== Sys2Proof/Machine/State.lean ====
section
/-! DEFINITION. The state of the TH-9: one record for each part of the machine, from the task's registers to the
package, the host and the fabric, and the state after reset. All of it is plain data. -/
namespace Sys2Proof.Machine

/-- The named stops of a step. -/
inductive Fault where
  /-- An event was scheduled at a unit that the device does not have (spec/00_scope.md R1): raised by any event. Safe. -/
  | noSuchUnit
  deriving DecidableEq, Repr

/-- What a step refuses. -/
inductive Refusal where
  /-- An instruction that has no meaning yet, by its mnemonic: raised by `exec`. Safe. -/
  | notModelled (mnemonic : String)
  deriving DecidableEq, Repr

/-! ## Errors of stored bits (spec/15 R348 to R350) -/

/-- What is wrong with a protected unit of storage: its bits that stand flipped, by place, whether its check value is inverted,
whether it came poisoned, and whether an injection made the error. What is stored is the unit's value with those bits
flipped. -/
structure Flaw where
  flips : List Nat
  check : Bool
  poison : Bool
  inj : Bool
  deriving DecidableEq, Repr

/-- A unit without an error. -/
def Flaw.clean : Flaw := ⟨[], false, false, false⟩

/-- A protected unit of a hearth's own arrays, by physical number: a scratchpad unit, a register, a latch, a row of an
accumulator's live or shadow copy, a row of the operand planes W and S. -/
inductive OwnUnit where
  | pad (unit : Nat)
  | v (n : Nat)
  | x (n : Nat)
  | p (n : Nat)
  | m (n : Nat)
  | a (n : Nat)
  | latch (n : Nat)
  | live (n row : Nat)
  | shadow (n row : Nat)
  | planeW (row : Nat)
  | planeS (row : Nat)
  deriving DecidableEq, Repr

/-- Where bits can flip by themselves: a hearth's own arrays, a line of a square's L2 or of a memory-side cache, by its way, a
granule of a tensor at its home, a sync word, a word of a deque, mailbox or named task. -/
inductive Strike where
  | own (h : Nat) (p : OwnUnit)
  | l2 (q way : Nat)
  | side (d way : Nat)
  | gran (ctx handle g : Nat)
  | word (d i : Nat)
  | sync (d space i part : Nat)
  deriving DecidableEq, Repr

/-! ## Task registers (spec/01_task_state.md) -/

/-- An address register (R20). -/
structure AReg where
  val : W64
  step : W32
  rbase : BitVec 16
  rlen : BitVec 16
  deriving DecidableEq, Repr

/-- The value of a0, and of every address register at start (R15, R16). -/
def AReg.zero : AReg := ⟨0, 0, 0, 0⟩

/-- A latch: its value and valid bit (R23). -/
structure Latch where
  val : V512
  valid : Bool
  deriving DecidableEq, Repr

def Latch.init : Latch := ⟨0, false⟩

/-- The register files (R15). Rotating files are held by physical number (R37). -/
structure Regs where
  x : Store W64
  k : Store W64
  p : Store Bool
  m : Store W64
  a : Store AReg
  v : Store V512
  latch : Store Latch
  deriving DecidableEq, Repr

def Regs.init : Regs := ⟨[], [], [], [], [], [], []⟩

/-- A loop-stack entry (R33); START and END are byte offsets as PC is. -/
structure LoopEntry where
  piped : Bool
  start : Nat
  stop : Nat
  remain : Nat
  index : Nat
  deriving DecidableEq, Repr

/-- The loop stack, innermost first, and trip, exe, stg, rot (R15, R33, R38). -/
structure Loops where
  stack : List LoopEntry
  trip : Nat
  exe : Nat
  stg : Nat
  rot : Nat
  deriving DecidableEq, Repr

def Loops.init : Loops := ⟨[], 0, 0, 0, 0⟩

/-- The sticky records: the operation of an armed slot (R28). -/
structure Sticky where
  s : Option Instr
  a : Option Instr
  x : Option Instr
  v0 : Option Instr
  v1 : Option Instr
  m : Option Instr
  f : Option Instr
  deriving DecidableEq, Repr

def Sticky.idle : Sticky := ⟨none, none, none, none, none, none, none⟩

/-- A pending control transfer: target, delay bundles left, and the PC of the bundle that transferred (R70, R71). -/
structure Pending where
  target : Nat
  left : Nat
  src : Nat
  deriving DecidableEq, Repr

/-- The PC state: PC, executions of its bundle done, pending transfer, the PC of the bundle that led here and whether by
a transfer, and whether the hearth stands at an iteration boundary (R18, R40, R48, R62, R71). -/
structure Seq where
  pc : Nat
  done : Nat
  pend : Option Pending
  from_ : Nat
  jumped : Bool
  edge : Bool := false
  deriving DecidableEq, Repr

def Seq.init : Seq := ⟨0, 0, none, 0, false, true⟩

/-- One write of a result: to a physical register, an address register's parts, or a system register (R66, R117). -/
inductive Eff where
  | x (n : Nat) (v : W64)
  | p (n : Nat) (b : Bool)
  | m (n : Nat) (v : W64)
  | v (n : Nat) (v : V512)
  | aval (n : Nat) (v : W64)
  | astep (n : Nat) (v : W32)
  | aring (n : Nat) (base len : BitVec 16)
  | sys (n : Nat) (v : W64)
  deriving DecidableEq, Repr

/-- A result in flight: its slot, the cycles left until it is written, its writes, its latch write with the valid bit
it sets, its flags (R25 bits), and whether it interlocks (R91). -/
structure Flight where
  slot : Slot
  left : Nat
  effs : List Eff
  latch : Option (Nat × V512 × Bool)
  flags : Nat
  lock : Bool
  deriving DecidableEq, Repr

/-- What one C-slot operation does at the end of its bundle (spec/04 R94 to R107, spec/11 R275 to R279). -/
inductive Ctl where
  /-- A taken branch, call or return, with two delay bundles. -/
  | jump (target : Nat)
  /-- Continue at an offset without delay bundles: a LOOP or SLOOP of count 0. -/
  | goto (pc : Nat)
  /-- LOOP or SLOOP pushes an entry; a pipelined one sets trip and stg. -/
  | push (e : LoopEntry) (trip stg : Nat)
  | next
  | lexit
  | halt
  | trap (code : Nat)
  | eret
  /-- FUSE (with its skew) or REJOIN, SBAR or SQBAR arrives on a chimney line. -/
  | fuse (skew : Nat)
  | rejoin
  | decouple
  | sbar
  | sqbar
  | pair (on : Bool)
  deriving DecidableEq, Repr

/-! ## Landing records (spec/06 R163 to R168) -/

/-- An element of a stream register or an entry of a flue: its landing cycle, its request and place in it, its data
once arrived, whether it has landed, a cause and address that a read of it raises, whether the trap handler asked
for it, and whether its lateness has been counted. -/
structure Elem where
  land : Nat
  req : Nat
  j : Nat
  data : Option V512
  landed : Bool
  mark : Option (Nat × Nat)
  hand : Bool
  late : Bool
  deriving DecidableEq, Repr

/-- A flue: configuration and entries (R170). -/
structure Flue where
  source : Nat
  sink : Nat
  q : List Elem
  deriving DecidableEq, Repr

/-- A flue at reset: SOURCE and SINK 0x08 (R170). -/
def Flue.init : Flue := ⟨8, 8, []⟩

/-! ## Matrix array (spec/08 R203) -/

/-- An operand plane: 128 × 128 element bytes and 128 × 8 scale bytes. -/
structure Plane where
  bytes : Memory
  scale : Memory
  deriving DecidableEq, Repr

/-- Where a plane fill's rows come from: a scratchpad image (R212) or a tile of a tensor (R213). -/
inductive FillSrc where
  | pad (base : Nat)
  | tile (handle : Nat) (n0 k0 : Nat) (hint : Nat)
  deriving DecidableEq, Repr

/-- The pending fill of S: landing cycle, request, source, shape and format codes, rows arrived and their bytes, flags
raised, mark, whether the handler issued it, whether its lateness is counted, the lines it pins with the square that
holds them, the granules or scale chunks of its source that it has read, each once and whole (R212, R283), as
(granule or offset, bytes, mark), and the read packets at die ports that its next row awaits (spec/19 R392). -/
structure Fill where
  land : Nat
  req : Nat
  src : FillSrc
  ty : Nat
  md : Nat
  got : Nat
  img : Plane
  flags : Nat
  mark : Option (Nat × Nat)
  hand : Bool
  late : Bool
  epoch : Nat
  known : List (Nat × Nat × Nat)
  sat : Bool
  pins : List Nat
  square : Nat
  seen : List (Nat × List Byte × Option (Nat × Nat))
  port : List Nat
  deriving DecidableEq, Repr

/-- A group start record: PC, repetition and the six INDEX values (R203). -/
structure GroupStart where
  pc : Nat
  rep : Nat
  index : List Nat
  deriving DecidableEq, Repr

/-- A replay checkpoint (R257): requests numbered `req` and above came later, `fill` is the request of the plane fill then
pending, `tick` the cycle of a fused street's schedule, `cfg` and `late` what an FLCFG and an MTS of its bundle leave to the
next one. `taken` says that an element has been taken since, which makes
REPLAYOK 0. -/
structure Checkpoint where
  a : Store AReg
  loops : Loops
  sticky : Sticky
  srctr : BitVec 128
  cycle : Nat
  tick : Nat
  req : Nat
  fill : Option Nat
  cfg : Option (Nat × Nat)
  late : List Flight
  start : GroupStart
  taken : Bool
  deriving DecidableEq, Repr

/-- The matrix array. Cell (row, column) of accumulator n has key n × 16384 + row × 128 + column. `smark` is the mark of a
landed fill whose data a read by MSHIFT must report (R316, R381). -/
structure Mat where
  live : Store W32
  shadow : Store W32
  count : Store Nat
  groups : List (Nat × Checkpoint)
  w : Plane
  s : Plane
  fill : Option Fill
  smark : Option (Nat × Nat)
  deriving DecidableEq, Repr

def Plane.init : Plane := ⟨[], []⟩
def Mat.init : Mat := ⟨[], [], [], [], Plane.init, Plane.init, none, none⟩

/-! ## Windows and the copy queues (spec/09) -/

/-- A pending fill of a window slot: its row, landing cycle, request, data once arrived with its flags, its mark,
whether the handler asked for it, whether its lateness is counted (R245), and the ranges, as (offset, bytes), that later
operations of the queue have written, which its own write leaves alone (R232). -/
structure WinFill where
  row : Int
  land : Nat
  req : Nat
  data : Option (List Byte)
  flags : Nat
  mark : Option (Nat × Nat)
  hand : Bool
  late : Bool
  later : List (Nat × Nat)
  deriving DecidableEq, Repr

/-- A window (R245, R246), with the rows that have landed and carry the mark of an error or a race (R316, R381). -/
structure Win where
  opened : Bool
  handle : Nat
  r0 : Int
  n : Nat
  size : Nat
  base : Nat
  d : Nat
  fills : List WinFill
  marks : List (Int × (Nat × Nat))
  deriving DecidableEq, Repr

def Win.closed : Win := ⟨false, 0, 0, 0, 0, 0, 0, [], []⟩

/-- A remote side of a TCOPY: whether it is the destination, whether over Ethernet, node and window (R439). -/
structure Remote where
  dst : Bool
  eth : Bool
  node : Nat
  win : Nat
  deriving DecidableEq, Repr

/-- A TCOPY as accepted: its descriptor's fields with the address registers' values and the BFMT values in force
(R234, R235). -/
structure CopyDesc where
  kind : Nat
  shandle : Nat
  dhandle : Nat
  sc : List Int
  dc : List Int
  soff : Int
  doff : Int
  pitch : Int
  rows : Nat
  count : Nat
  d : Nat
  sigKind : Nat
  sigId : Nat
  flue : Nat
  wdim : Nat
  adv : Int
  remote : Option Remote
  bfmt : Store Nat
  deriving DecidableEq, Repr

/-- What a queue entry asks for (R232). -/
inductive CopyKind where
  | tld (q handle off k : Nat)
  | tst (handle off : Nat) (data : List V512)
  | tpref (handle off len : Nat)
  | win (w handle : Nat) (rows : List Int) (bfmt : Store Nat)
  | copy (c : CopyDesc)
  deriving DecidableEq, Repr

/-- What a queue entry takes of the hearth's state when its task's image leaves the hearth: scratchpad, window rings and flue as
they are then, and the poisoned units among them (R43, R262). -/
structure Snap where
  mem : Memory
  flue : Flue
  bad : List (OwnUnit × Flaw)
  win : Store Win
  deriving DecidableEq, Repr

/-- An entry of the copy or collective queue: its number, request, hint, padded completion time with the part of it that
follows the landing of the units that it pops (R345),
the task that issued it with its epoch, race record and saturation at acceptance (R315), whether it has been performed,
its status and the packets it still awaits, and what it took along when its task left the hearth. -/
structure CopyOp where
  id : Nat
  req : Nat
  kind : CopyKind
  hint : Nat
  padded : Nat
  tail : Nat
  epoch : Nat
  launch : Nat
  ord : Nat
  ctx : Nat
  known : List (Nat × Nat × Nat)
  sat : Bool
  performed : Bool
  status : Nat
  awaits : Nat
  snap : Option Snap
  deriving DecidableEq, Repr

/-- Where data on its way to a hearth goes (DATA_ARRIVAL): a stream element, a flue entry, a window row. -/
inductive Dest where
  | q (n req j : Nat)
  | flue (n req j : Nat)
  | win (w : Nat) (req : Nat) (row : Int)
  deriving DecidableEq, Repr

/-- Data on its way: destination, bytes, the flags of its conversion, its mark, the queue entry that awaits it, and the read
packets at die ports that bring it (spec/19 R392). -/
structure Transit where
  dest : Dest
  data : List Byte
  flags : Nat
  mark : Option (Nat × Nat)
  op : Nat
  port : List Nat
  deriving DecidableEq, Repr

/-- The copy engine of a hearth (R232): its two queues, and the data on its way to the hearth. -/
structure Engine where
  cp : List CopyOp
  cl : List CopyOp
  transit : List Transit
  deriving DecidableEq, Repr

def Engine.init : Engine := ⟨[], [], []⟩

/-! ## Waiting (R240, R268, R294, R296) -/

/-- Why a hearth issues no bundle. -/
inductive Wait where
  | none
  /-- A fence, join or ordering wait: the awaited queue entries and sync requests, whether fills are awaited (bits tf,
  mx of R241), the padded end in a fixed-timing context, whether dirty lines are written back and clean ones
  invalidated when it ends (R242), the banks it cleans (R243), and the request to release after it (R294). -/
  | fence (ops reqs : List Nat) (fills : Nat) (padded : Nat) (wb inv : Bool) (banks : Nat) (release : Option Nat)
      (arrive : Option Ctl)
  /-- The acquire side of an atomic: its request, its padded end and whether it invalidates. -/
  | acquire (req padded : Nat) (inv : Bool)
  /-- A chimney line. -/
  | line (c : Ctl)
  /-- The pair line, with the cycle of arrival. -/
  | pairLine (at_ : Nat)
  /-- WAITA: request, physical predicate, issue cycle, timeout, whether its monitor is being cancelled. -/
  | waita (req pd issued timeout : Nat) (inv : Bool) (cancelling : Bool)
  /-- HALT: until every fixed-latency result has been written. -/
  | halting
  /-- ERET: until the handler's results have been written. -/
  | ereting
  deriving DecidableEq, Repr

/-- What freezes the domain: the queue without room (R232, R294), or a handler's image that is to be brought back. -/
inductive Stuck where
  | no
  | cp
  | cl
  | sync
  /-- The trap handler's image is not resident (spec/18 R379, spec/19 R398). -/
  | handler
  deriving DecidableEq, Repr

/-! ## Scratchpad, traps and the hearth -/

/-- The view state of a bank (R160). -/
inductive View where
  | clean
  | lin
  | swz
  deriving DecidableEq, Repr

/-- The scratchpad, its bank formats and view states (spec/06 R151, R155, R160), and of the execution in progress the view
changes, made at its end, the uses of sub-bank ports as (write, bank × 8 + sub-bank) (R161), and the 64-bit words read. -/
structure Pad where
  mem : Memory
  bfmt : Store Nat
  view : Store View
  viewSet : List (Nat × View)
  ports : List (Bool × Nat)
  seen : List Nat
  deriving DecidableEq, Repr

/-- Every bank format holds 0x80 at device reset (R155); the view state that a bank holds at reset is CLEAN: DESIGN
CHOICE (log 2). -/
def Pad.init : Pad := ⟨[], [], [], [], [], []⟩

/-- The value of an unwritten BFMT register (R155). -/
def Pad.bfmtReset : Nat := 0x80

/-- The origin of a residual bundle: its original PC and the unrolled loops around it as (POS, iteration) (R339). -/
structure Origin where
  opc : Nat
  loops : List (Nat × Nat)
  deriving DecidableEq, Repr

/-- The code a task runs: offset and syllables of the code region, header values with the entry PC (spec/03 R86), and for
residual code the origin of each bundle by its PC (spec/14 R339). -/
structure Code where
  off : Nat
  words : List Nat
  lat : List Nat
  maxBeats : Nat
  maxIter : Nat
  fuseReq : Bool
  origin : Option (List (Nat × Origin))
  entry : Nat
  deriving DecidableEq, Repr

def Code.empty : Code := ⟨0x100, [], [], 0, 65536, false, none, 0x100⟩

/-- The trap registers (spec/04 R120, spec/10 R253). -/
structure TrapRegs where
  cause : W64
  pc : W64
  rpc : W64
  addr : W64
  coord : List W64
  loop : List W64
  deriving DecidableEq, Repr

def TrapRegs.init : TrapRegs := ⟨0, 0, 0, 0, [0, 0, 0, 0], [0, 0, 0]⟩

/-- The held part of a trap frame (R250, R253): results in flight, latches, sticky records, sequencer, code, the
configuration that its bundle leaves to the next one, the abandoned groups' checkpoints, and whether they may be
replayed. -/
structure Frame where
  fly : List Flight
  latch : Store Latch
  sticky : Sticky
  seq : Seq
  code : Code
  cfg : Option (Nat × Nat)
  groups : List Checkpoint
  replayOk : Bool
  deriving DecidableEq, Repr

/-- Floating-point flags, with those that engines raised in the cycle under way and those raised in the cycle that has
ended, which a write of FLAGS made in that cycle leaves set (R26), landing status, error injection, stochastic rounding
(R25, R27, R169, spec/15 R350). -/
structure Status where
  flags : Nat
  fresh : Nat
  kept : Nat
  ovrCnt : Nat
  lateCnt : Nat
  iterLate : Bool
  beatLate : Bool
  srkey : W64
  srctr : BitVec 128
  einj : W64
  deriving DecidableEq, Repr

def Status.init : Status := ⟨0, 0, 0, 0, 0, false, false, 0, 0, 0⟩

/-- Which task runs on the hearth: launch number, ordinal, work identifier, priority, context, start order, the cycle at
which its current iteration began (R41), and of its launch FUSEREQ and the width of field f0 (R265). -/
structure TaskId where
  launch : Nat
  ord : Nat
  wid : W64
  pri : Nat
  ctx : Nat
  started : Nat
  iter : Nat
  fuse : Bool
  w0 : Nat
  deriving DecidableEq, Repr

/-- The race detector's task state (spec/13 R315): epoch, record of (launch, ordinal, epoch), saturation; and the
granule of a reported access whose cause waits for the next point of use (R316), with its queue (0 copy, 1 tile
fetch, 4 collective). -/
structure Race where
  epoch : Nat
  known : List (Nat × Nat × Nat)
  sat : Bool
  reports : List (Nat × Nat)
  deriving DecidableEq, Repr

def Race.init : Race := ⟨0, [], false, []⟩

/-- A bundle execution on its way to a member of a fused street (spec/11 R269, R270): the member cycle in which it
executes, the sequencer and the loop state before it, the outcome of its C-slot operation, and the scalar results of CALL and LIX. -/
structure Delivery where
  at_ : Nat
  seq : Seq
  loops : Loops
  ctl : Option Ctl
  xres : List (Nat × W64)
  deriving DecidableEq, Repr

/-- A hearth's links to its street and its pair (spec/11 R266 to R280): rank (none before a FUSE), whether it is in a
fused street, its cycles since the street fused, bundles delivered to it and not yet executed, those executed while a
group was open, the cycle up to which it has delivered as the leader (R272), whether it is frozen by late data of its
own, whether it stands (stopped by its partner's trap, or annulled behind another member's), pair state, the MSWAPs
issued for each accumulator since PAIR on, the accumulator at whose MSWAP it stalls (R280), the cycle of the schedule from
which the leader issues after a line (R275, R278), and what a partner's trap made it hold (R280). -/
structure Link where
  rank : Option Nat
  fused : Bool
  tick : Nat
  inbox : List Delivery
  past : List Delivery
  sent : Nat
  frozen : Bool
  stopped : Bool
  paired : Bool
  mswaps : Store Nat
  atSwap : Option Nat
  start : Nat
  held : Option Frame
  deriving DecidableEq, Repr

def Link.init : Link := ⟨none, false, 0, [], [], 0, false, false, false, [], none, 0, none⟩

/-- What the hearth is doing: no task, running one, waiting for pre-emption to land with the request made, landed and
waiting for deliveries, image written. -/
inductive Mode where
  | free
  | running
  | preempting
  | landed
  | saved
  deriving DecidableEq, Repr

/-- One hearth with its task. `clk` counts the cycles of its square that it has taken (R342), `vt` those of
its task that were not frozen, by which lines are timed in a fixed-timing context (R268, R347), `owed` the frozen cycles that
port conflicts leave (R161), and `cfg` is the FLCFG, as target and value, that takes effect from the next bundle (R175).
`past` holds the task's queue entries that have left their queue before their padded completion, until which they count as
pending in a fixed-timing context (spec/15 R345).
`bad` holds the units of its own arrays that are in error (spec/15 R348 to R350). -/
structure Core where
  mode : Mode
  task : TaskId
  code : Code
  regs : Regs
  loops : Loops
  sticky : Sticky
  seq : Seq
  fly : List Flight
  ctl : Option Ctl
  q : Store (List Elem)
  flue : Store Flue
  mat : Mat
  pad : Pad
  win : Store Win
  st : Status
  cycle : Nat
  clk : Nat
  vt : Nat
  owed : Nat
  cfg : Option (Nat × Nat)
  priv : Bool
  hclk : Nat
  trap : TrapRegs
  frame : Option Frame
  eng : Engine
  past : List CopyOp
  wait : Wait
  stuck : Stuck
  race : Race
  link : Link
  bad : List (OwnUnit × Flaw)
  deriving DecidableEq, Repr

/-- A hearth with no task: registers at their start values (R15, R203); what the spec gives no reset value reads 0:
DESIGN CHOICE (log 2). -/
def Core.init : Core :=
  { mode := .free, task := ⟨0, 0, 0, 0, 0, 0, 0, false, 0⟩, code := Code.empty, regs := Regs.init, loops := Loops.init,
    sticky := Sticky.idle, seq := Seq.init, fly := [], ctl := none, q := [], flue := [], mat := Mat.init,
    pad := Pad.init, win := [], st := Status.init, cycle := 0, clk := 0, vt := 0, owed := 0, cfg := none, priv := false, hclk := 0,
    trap := TrapRegs.init,
    frame := none, eng := Engine.init, past := [], wait := .none, stuck := .no, race := Race.init, link := Link.init,
    bad := [] }

/-! ## Street, square and die -/

/-- The state of a street (spec/11 street state, R267): MODE, SKEW, LEADER, MEMB, the arrivals on its chimney line as
(place, PC of the bundle, what it does when the line reads high, cycle of arrival), the rank whose trap stopped it, the
street group that stands on it as launch and identifier without f0[2:0] (R265), and the cycle after the last in which a
member's HALT completed (R267). -/
structure Street where
  mode : Nat
  skew : Nat
  leader : Nat
  memb : Nat
  arrived : List (Nat × Nat × Ctl × Nat)
  trapped : Option Nat
  launch : Nat
  group : Nat
  halted : Nat
  deriving DecidableEq, Repr

def Street.init : Street := ⟨0, 0, 0, 0, [], none, 0, 0, 0⟩

/-- A line of square L2 or of a memory-side cache: physical address, tensor granule (context, handle, granule), data held
while it may differ from the home copy, dirty bit, RRIP value, pin count, the error that it holds (spec/11 R281, R282, R284),
and the task that wrote it last, on whose behalf its data is written on (spec/15 R350). -/
structure Line where
  addr : Nat
  ctx : Nat
  handle : Nat
  gran : Nat
  data : V512
  dirty : Bool
  rrpv : Nat
  pins : Nat
  flaw : Flaw
  by_ : Nat × Nat
  deriving DecidableEq, Repr

/-- An entry of a square's translation cache: of a record its context and handle, owner, rank, format, strides, BYTES, tier
and location, as home die and spans of pages (spec/18 R368). -/
structure Xlat where
  ctx : Nat
  handle : Nat
  rank : Nat
  fmt : Nat
  raw : Bool
  strides : List Nat
  bytes : Nat
  tier : Nat
  home : Nat
  pages : List (Nat × Nat)
  deriving DecidableEq, Repr

/-- A square: L2 lines by way (set and way number), translation cache entries, arrivals at
SQBAR on the second chimney line as (hearth, cycle), nominal clock in MHz while it is elastic, and the droop stretch of its current cycle
in eighths (spec/15 R342 to R344). -/
structure Square where
  lines : Store (Option Line)
  xlat : List Xlat
  sqbar : List (Nat × Nat)
  mhz : Nat
  stretch : Nat
  deriving DecidableEq, Repr

/-- A square at reset: nominal clock 1,600 MHz (CLKMODE's reset value, spec/15 R344). -/
def Square.init : Square := ⟨[], [], [], 1600, 0⟩

/-- Who issued a request, as the scopes see it (spec/13 R308): launch, ordinal, the launch's die, its FUSEREQ, its work
identifier and the width of field f0. -/
structure Ident where
  launch : Nat
  ord : Nat
  die : Nat
  fuse : Bool
  wid : W64
  w0 : Nat
  deriving DecidableEq, Repr

/-- The head of a release sequence (spec/12 R300, spec/13 R315): who wrote it, the scope of its release, and its race
record joined with its own entry. -/
structure RelSeq where
  who : Ident
  scope : Nat
  known : List (Nat × Nat × Nat)
  deriving DecidableEq, Repr

/-- A sync word: value, the heads of the release sequences that its last write belongs to, the error that its SRAM word
holds (spec/12 R286, R300, R302). -/
structure SWord where
  val : W64
  rel : List RelSeq
  flaw : Flaw
  deriving DecidableEq, Repr

def SWord.init : SWord := ⟨0, [], Flaw.clean⟩

/-- A deque of 256 entries with top and bottom counters, each entry with its release record (spec/12 R297). -/
structure Deque where
  entries : Store (W64 × List RelSeq)
  top : W32
  bottom : W32
  deriving DecidableEq, Repr

def Deque.init : Deque := ⟨[], 0, 0⟩

/-- A mailbox: its binding (priority, kernel, arguments, context), queued messages with the race record each carries,
messages that found the queue full, in arrival order, each with the request that awaits its post (0 for a signal), and
whether a handler runs, and whether an MBOXFREE waits for it (spec/12 R298, spec/14 R328). -/
structure Mailbox where
  bound : Option (Nat × Nat × Nat × Nat)
  queue : List (W64 × List (Nat × Nat × Nat))
  waiting : List (Nat × W64 × List (Nat × Nat × Nat))
  busy : Bool
  closing : Bool
  deriving DecidableEq, Repr

def Mailbox.init : Mailbox := ⟨none, [], [], false, false⟩

/-- A named task's definition (spec/14 R327): context, stream slot with the number of the stream's admission (R324), launch
slot, priority, kernel, argument block. -/
structure NamedDef where
  ctx : Nat
  stream : Nat
  serial : Nat
  slot : Nat
  pri : Nat
  kernel : Nat
  args : Nat
  deriving DecidableEq, Repr

/-- A named task: counter, armed, definition, the race record carried by the copies that signalled it, and for each time
that it became ready and has not launched the definition then in force (spec/12 R299, spec/14 R327). -/
structure Named where
  count : Nat
  armed : Bool
  defn : Option NamedDef
  known : List (Nat × Nat × Nat)
  ready : List NamedDef
  deriving DecidableEq, Repr

def Named.init : Named := ⟨0, false, none, [], []⟩

/-- An armed WAITA monitor: the request that armed it, word and expected value (spec/12 R296). -/
structure Monitor where
  req : Nat
  word : Nat
  exp : W64
  deriving DecidableEq, Repr

/-- The state of an operator stream (spec/14 R318). -/
inductive StreamRun where
  | running
  /-- Waiting at a record: it is tried again when what it waits for may have changed. -/
  | waiting
  /-- Standing at a PHASE (R326). -/
  | atPhase
  | faulted (code : Nat)
  | ended
  deriving DecidableEq, Repr

/-- The record of a launch slot (R323). -/
structure LaunchSlot where
  status : Nat
  cause : Nat
  nfail : Nat
  ford : Nat
  launch : Nat
  deriving DecidableEq, Repr

/-- An empty launch slot: STATUS 0xFE (R324). -/
def LaunchSlot.empty : LaunchSlot := ⟨0xFE, 0, 0, 0, 0⟩

/-- A resident stream (R318): context, tensor, offset of its next record, the offset at which it ends, priority, state, launch slots, whether
the host asked it to stop, the offset after its last PHASE (R383), and the number of its admission. -/
structure Stream where
  ctx : Nat
  handle : Nat
  off : Nat
  stop_ : Nat
  pri : Nat
  run : StreamRun
  slots : Store LaunchSlot
  stop : Bool
  afterPhase : Nat
  phaseSlots : Store LaunchSlot
  serial : Nat
  deriving DecidableEq, Repr

/-- An entry of the specialisation cache: context, key, kernel digest, residual code or a decline, the order of its last
use, and whether it goes when its last user ends (R333, R334, R341). -/
structure SpecEntry where
  ctx : Nat
  key : BitVec 256
  digest : BitVec 256
  code : Option Code
  used : Nat
  flushed : Bool
  deriving DecidableEq, Repr

/-- An entry of the race map (spec/13 R315): granule, writer and readers as (launch, ordinal, epoch). -/
structure RaceEntry where
  ctx : Nat
  gran : Nat
  writer : Option (Nat × Nat × Nat)
  readers : List (Nat × Nat × Nat)
  deriving DecidableEq, Repr

/-- One die. `side` holds the lines of its memory-side cache, by set × 16 + way (spec/18 R370, spec/09 R239), and `flaws` the
errors of its sync SRAM beside those of sync words, as (space, index, part): part 0 is the word that says how a deque, mailbox or
named task stands, part 1 + e entry e of a deque (spec/12 R302, spec/15 R348). `fwImage` is what its firmware SRAM holds
(spec/20 R402). -/
structure Die where
  words : Store SWord
  ovfWords : Nat
  deques : Store Deque
  boxes : Store Mailbox
  named : Store Named
  monitors : List Monitor
  streams : Store (Option Stream)
  lastStream : Nat
  spec : List SpecEntry
  errlog : List W64
  flaws : List ((Nat × Nat × Nat) × Flaw)
  raceMap : List RaceEntry
  side : Store (Option Line)
  poolWays : Nat
  slotTable : Store (Option (Nat × Nat))
  serviceSlot : Nat
  fwVer : Nat
  fwImage : List Byte
  absent : Bool
  spares : Nat
  retired : List Nat
  deriving DecidableEq, Repr

/-- A die at reset. POOLWAYS 0 and an idle slot table: DESIGN CHOICE (log 2). A die has four fuse spares (R1, R411). -/
def Die.init : Die :=
  { words := [], ovfWords := 0, deques := [], boxes := [], named := [], monitors := [], streams := [], lastStream := 15,
    spec := [], errlog := [], flaws := [], raceMap := [], side := [], poolWays := 0, slotTable := [], serviceSlot := 0, fwVer := 0,
    fwImage := [], absent := false, spares := 4, retired := [] }

/-! ## Sync requests, launches and tasks -/

/-- A sync request (spec/12 R294): number, hearth, opcode (0x20 to 0x30), address, operands, U, scope, order, issue
cycle, stream register of its result, physical predicate of a WAITA, the issuing task with its context, epoch and race
record, whether it has left the hearth and been performed, its value and status, the race record that it acquired,
and whether its word read poisoned. A request whose acknowledgement has returned is gone. -/
structure SyncReq where
  id : Nat
  hearth : Nat
  op : Nat
  addr : W64
  b : W64
  b1 : W64
  uns : Bool
  scope : Nat
  order : Nat
  issued : Nat
  ret : Option Nat
  pd : Nat
  who : Ident
  ctx : Nat
  epoch : Nat
  known : List (Nat × Nat × Nat)
  sent : Bool
  done : Bool
  val : W64
  status : Nat
  got : List (Nat × Nat × Nat)
  bad : Bool
  deriving DecidableEq, Repr

/-- Where a launch reports: a launch slot of a stream, with the number of its admission (R324), a mailbox handler, a recipe re-issue (R323, R328, R379). -/
inductive Report where
  | slot (st : StreamId) (serial l : Nat)
  | handler (m : Nat)
  | recipe (handle : Nat)
  deriving DecidableEq, Repr

/-- A launch (R323): number, context, die, where it reports, signal, code, uniform values, seed, field widths and
extents, base and current priority, ready time, tasks in all, the ordinal of the next task to be placed, whether
pre-emption has been requested for that one (R332), tasks ended, failures with their lowest ordinal and its cause, the
race record its tasks start with, its specialisation key and BFMT initial values. -/
structure Launch where
  id : Nat
  ctx : Nat
  die : Nat
  dst : Report
  sigKind : Nat
  sigId : Nat
  code : Code
  kvals : List W64
  seed : W64
  widths : List Nat
  extents : List Nat
  pri : Nat
  cur : Nat
  time : Nat
  total : Nat
  next : Nat
  asked : Bool
  ended : Nat
  nfail : Nat
  ford : Nat
  cause : Nat
  known : List (Nat × Nat × Nat)
  key : Option (BitVec 256)
  bankInit : Option (List Nat)
  deriving DecidableEq, Repr

/-- A pre-empted image that waits to resume (R264, R332): its hearth's image, the street it left, current priority,
original ready time and whether pre-emption has been requested for it. -/
structure Ready where
  image : Core
  street : Street
  cur : Nat
  time : Nat
  asked : Bool
  deriving DecidableEq, Repr

/-! ## Residency, contexts, HBM, host and fabric -/

/-- The tier of a tensor (spec/18 R365). -/
inductive Tier where
  | pool
  | hbm
  | lpddr
  | poolPacked
  | hbmPacked
  | dropped
  deriving DecidableEq, Repr

/-- A recipe: stream, offset of its first record in bytes, number of records, work and inputs (R387), and the kernels and argument
blocks of its records, as they read when its stream was last there (R378). -/
structure Recipe where
  stream : Nat
  off : Nat
  nrec : Nat
  work : Nat
  inputs : List Nat
  refs : List Nat
  deriving DecidableEq, Repr

/-- A residency record (R365) with the tensor's contents. `pages` lists its 4 KiB pages in its tier as
spans (first page, number) (R366, R398), `image` holds the packed image while it is packed (R376), `bad` lists
the errors of its granules, `redo` is the recipe that a re-issue under way follows (R379), `copies` lists the pages copied in
the phase, each with the page of the home die's HBM that holds the copy (R382), `declared` the phase of its TDECL, `live` whether it is live, `users` the counts of accepted operations that
name it, of open windows on it, and of recipe re-issues and moves (R373). -/
structure Rec where
  ctx : Nat
  handle : Nat
  fmt : Nat
  raw : Bool
  ext : List Nat
  home : Nat
  place : Nat
  key : Nat
  tier : Tier
  live : Bool
  retained : Bool
  nextUse : Nat
  recipe : Option Recipe
  redo : Option Recipe
  rcp : Bool
  pver : Nat
  mratio : Nat
  pins : Nat
  ddepth : Nat
  moving : Bool
  rfail : Bool
  users : Nat
  rebuild : Nat
  pages : List (Nat × Nat)
  packed : Nat
  image : List Byte
  mem : Memory
  bad : Store Flaw
  copies : List (Nat × Nat)
  declared : Nat
  releasedIn : Option Nat
  deriving DecidableEq, Repr

/-- A packet that has arrived (spec/23 R432, R435): number, port, packet, the deterministic context for whose commit it is
held (R436), and whether its window has been revoked and freed since (R438). -/
structure RemoteIn where
  id : Nat
  port : Nat
  pkt : FabPacket
  held : Option Nat
  gone : Bool
  deriving DecidableEq, Repr

/-- A request packet of a remote copy (spec/23 R441): number, the copy it belongs to (hearth and queue entry), packet,
port (or Ethernet), row and remote offset of that row's first byte, the payload granules that leave marked poisoned as a bit
mask (spec/15 R349), how often sent (0 while it waits for a TAG), status once it has one, whether held in egress. -/
structure RemoteOut where
  id : Nat
  hearth : Nat
  op : Nat
  ctx : Nat
  eth : Bool
  port : Nat
  pkt : FabPacket
  row : Nat
  rowOff : Nat
  poison : Nat
  tries : Nat
  status : Option Nat
  held : Bool
  deriving DecidableEq, Repr

/-- A context (spec/20 R405 to R408): identifier and slot, mode word fields, residency settings, fabric owner index and
peers, partition masks, the masks that a swap under way will set (R263, R408), sync allocations (die, space, low,
high), phase number (R382), CSTEP (R372), race status (R314), whether the phase's rollback is lost, whether a rollback
is due, sync state at the last commit (R301), of this phase the written handles and the copies (hearth, request) whose
egress has left (R383), events for the host, the flag that tells it of them with the completion word of its first queue as
(host address, value) (R409). Its key slots stand in the key table. -/
structure Context where
  id : Nat
  slot : Nat
  fixed : Bool
  det : Bool
  adaptive : Bool
  raceEn : Bool
  handler : Nat
  res : Residency
  owner : Option Nat
  peers : List (Nat × Peer)
  masks : Store Nat
  newMask : Store (Option Nat)
  sync : List (Nat × Nat × Nat × Nat)
  phase : Nat
  cstep : Nat
  satCnt : Nat
  rdrFull : Bool
  mapFull : Bool
  lost : Bool
  rollback : Bool
  savedWords : List (Nat × Nat × SWord)
  savedDeques : List (Nat × Nat × Deque)
  savedNamed : List (Nat × Nat × Named)
  dirtyOut : List Nat
  egressGone : List (Nat × Nat)
  events : List W64
  flag : Bool
  word : Option (Nat × Nat)
  maps : List (Nat × Nat)
  deriving DecidableEq, Repr

/-- A key slot (spec/19 R400). -/
structure KeySlot where
  valid : Bool
  owner : Nat
  key1 : BitVec 256
  key2 : BitVec 256
  deriving DecidableEq, Repr

def KeySlot.empty : KeySlot := ⟨false, 0, 0, 0⟩

/-- A request at an HBM die port (spec/19 R391, R392): operation (0 read, 1 write, 2 masked write), pseudo-channel,
key, granule, payload, mask, the error that its data brings or an injection makes of it (spec/15 R350), and once sent its tag,
once performed its reply status, data and check value. -/
structure HbmReq where
  id : Nat
  op : Nat
  pc : Nat
  key : Nat
  gran : Nat
  data : V512
  mask : W64
  flaw : Flaw
  tag : Option Nat
  reply : Option (Nat × V512 × BitVec 16)
  deriving DecidableEq, Repr

/-- A granule as stored in an HBM stack or in LPDDR-6: the ciphertext with its flipped bits, the check value of the plaintext,
and the error that the two hold (R348, R349, R399). -/
structure HbmCell where
  cipher : V512
  check : BitVec 16
  flaw : Flaw
  deriving DecidableEq, Repr

/-- One HBM stack: its requests waiting and in flight in port order, its stored granules, its repaired ranges. -/
structure Stack where
  queue : List HbmReq
  cells : Store (Option HbmCell)
  repaired : List (Nat × Nat)
  deriving DecidableEq, Repr

def Stack.init : Stack := ⟨[], [], []⟩

/-- A SCAN in progress (spec/19 R396): number, die, context, record fields. -/
structure ScanJob where
  id : Nat
  die : Nat
  ctx : Nat
  o : Scan
  deriving DecidableEq, Repr

/-- An owner-table entry (spec/23 R431): STATE, OWNERID, DISCARDS, KEY. -/
structure OwnerEntry where
  state : Nat
  owner : Nat
  discards : Nat
  key : BitVec 256
  deriving DecidableEq, Repr

def OwnerEntry.empty : OwnerEntry := ⟨0, 0, 0, 0⟩

/-- A scale-up port (spec/23 R428 to R432): owner table, whether it is down, replays of the current flit, epoch,
sequence numbers by owner, and the packet, by context slot, queue and index, for which it retrains (spec/20 R411). -/
structure Port where
  owners : Store OwnerEntry
  down : Bool
  replays : Nat
  epoch : Nat
  seq : Store Nat
  retraining : Option (Nat × Nat × Nat)
  deriving DecidableEq, Repr

def Port.init : Port := ⟨[], false, 0, 0, [], none⟩

/-- A window entry (spec/23 R434), with the requests begun before its revocation, and the stream whose TREVOKE waits. -/
structure Window where
  state : Nat
  acc : Nat
  ctx : Nat
  peer : Nat
  firstg : Nat
  ngran : Nat
  handle : Nat
  revoker : Option StreamId
  deriving DecidableEq, Repr

def Window.free : Window := ⟨0, 0, 0, 0, 0, 0, 0, none⟩

/-- The form in which the device is sold (spec/00 R1). -/
inductive Form where
  | package
  | module_
  | bareDie
  deriving DecidableEq, Repr

/-- The host's side (spec/20 R401 to R409): STATE, FAIL, FWSVN and FWBASE, the running IFVER, kick registers and consumer
indices by queue (slot × 64 + queue), stopped queues, the commands that the operand bytes of the rings' packets ask for, host
memory with the rings, the packets started whose completion is not yet written with the host accesses that wait, and the last
answer to a host read with its poison mark. -/
structure HostSide where
  state : Nat
  fail : Nat
  svn : Nat
  fwbase : W64
  fwVer : Nat
  kick : Store Nat
  consumed : Store Nat
  stopped : List Nat
  ring : List Instr
  mem : Memory
  started : List Instr
  reply : List Byte
  replyBad : Bool
  deriving DecidableEq, Repr

/-- The host side at reset: STATE 1 and every register 0 (R401, R410). -/
def HostSide.init : HostSide := ⟨1, 0, 0, 0, 0, [], [], [], [], [], [], [], false⟩

/-- The fabric: ports, window table, requests sent and received, replies sent, and which of a path's ports comes next
(spec/23). -/
structure Fabric where
  ports : Store Port
  windows : Store Window
  out : List RemoteOut
  inn : List RemoteIn
  replies : List FabPacket
  rotate : Nat
  deriving DecidableEq, Repr

def Fabric.init : Fabric := ⟨[], [], [], [], [], 0⟩

/-- The whole machine. `unit` is the unit at which the next event happens; `agenda` holds what the outside world does,
each item with the steps of the device that pass before it, its unit and its event; `free` counts the choices that no
rule decides (the model's own fields, log 1); `nextId` numbers requests and launches.
`core` is the hearth `coreId`, the one an event acts at; the others lie in `others`, by die × 64 + hearth. `shadow` holds
the images in the dies' shadow regions by hearth slot (R263), `spill` the granules stored in LPDDR-6 by spill page × 64 +
granule (R398, R399), `spillLost` the spill pages that the LPDDR-6 repair map takes out (R410), `upsets` the bits that flip by themselves, each item with the steps that pass before it (spec/15 R348). -/
structure State where
  form : Form
  powered : Bool
  unit : Nat
  agenda : List (Nat × Nat × Instr)
  free : Nat
  nextId : Nat
  coreId : Nat
  core : Core
  others : Store Core
  streets : Store Street
  squares : Store Square
  dies : Store Die
  reqs : List SyncReq
  launches : List Launch
  ready : List Ready
  shadow : Store (Option Ready)
  recs : List Rec
  contexts : List Context
  keys : Store KeySlot
  hbmStacks : Store Stack
  spill : Store (Option HbmCell)
  spillLost : List (Nat × Nat)
  scans : List ScanJob
  fabric : Fabric
  host : HostSide
  upsets : List (Nat × Strike × List Nat)
  deriving DecidableEq, Repr

/-- The machine right after reset: a module (R1: the form with the LPDDR-6 tier, DESIGN CHOICE log 2) in STATE 1 with
no context, no task and no key (spec/20 R402, R410). -/
def State.reset : State :=
  { form := .module_, powered := true, unit := 0, agenda := [], free := 0, nextId := 1, coreId := 0,
    core := Core.init, others := [], streets := [], squares := [], dies := [], reqs := [], launches := [],
    ready := [], shadow := [], recs := [], contexts := [], keys := [], hbmStacks := [], spill := [], spillLost := [], scans := [],
    fabric := Fabric.init, host := HostSide.init, upsets := [] }

end Sys2Proof.Machine
end

