-- ==== Sys2Proof/Machine/Flaws.lean ====
section
/-! DEFINITION. Errors of stored bits: what reading a unit meets, correction, what a write leaves, injections, and the words of
the error log (spec/15_die_clocks_errors.md R348 to R351). -/
namespace Sys2Proof.Machine

/-- The bits that stand flipped in a 64-bit word of a unit. -/
def Flaw.inWord (x : Flaw) (w : Nat) : Nat := (x.flips.filter fun i => i / 64 == w).length
/-- The words of a unit with flipped bits. -/
def Flaw.words (x : Flaw) : List Nat := (x.flips.map (· / 64)).eraseDups

/-- What reading some words of a unit meets: 1 an uncorrectable error, where two bits of a SECDED word are flipped or the data
came poisoned; 2 a check value that does not match; 3 a correctable error; 0 nothing (R348, R349). -/
def Flaw.kindOf (x : Flaw) (ws : List Nat) : Nat :=
  if x.poison || ws.any (fun w => 2 ≤ x.inWord w) then 1
  else if x.check then 2
  else if ws.any fun w => x.inWord w == 1 then 3
  else 0
/-- What reading the whole unit meets. -/
def Flaw.kind (x : Flaw) : Nat := x.kindOf x.words
/-- The mark that the unit gives to what reads it: 1 uncorrectable, 2 a check value that does not match, 0 none. -/
def Flaw.mark (x : Flaw) : Nat := if x.kind = 3 then 0 else x.kind

/-- An error that is over leaves nothing. -/
def Flaw.tidy (x : Flaw) : Flaw := if x.flips.isEmpty && !x.check && !x.poison then Flaw.clean else x
/-- The single flipped bits of some words are corrected in place (R348). -/
def Flaw.corrected (x : Flaw) (ws : List Nat) : Flaw :=
  { x with flips := x.flips.filter fun i => !(ws.contains (i / 64) && x.inWord (i / 64) == 1) }.tidy
/-- Some words are written whole; a unit that is written whole takes nothing of the error that it held (R349). -/
def Flaw.rewritten (x : Flaw) (ws : List Nat) (whole : Bool) : Flaw :=
  if whole then Flaw.clean else { x with flips := x.flips.filter fun i => !ws.contains (i / 64) }.tidy
/-- What goes along with data that is read and moved as it is (R284, R348). -/
def Flaw.carried (x : Flaw) : Flaw :=
  match x.mark with
  | 0 => Flaw.clean
  | 2 => ⟨[], true, false, x.inj⟩
  | _ => ⟨[], false, true, x.inj⟩
/-- The error of a unit that is written as marked (R236). -/
def Flaw.ofMark (m : Nat) : Flaw := match m with | 0 => Flaw.clean | 2 => ⟨[], true, false, false⟩ | _ => ⟨[], false, true, false⟩
/-- A further error of a unit. -/
def Flaw.with_ (x y : Flaw) : Flaw := ⟨x.flips ++ y.flips, x.check || y.check, x.poison || y.poison, x.inj || y.inj⟩
/-- The system ECC of HBM and LPDDR-6 has a whole granule as its word, of which two flipped bits are uncorrectable (R348): DEDUCED
(log 10). -/
def Flaw.granule (x : Flaw) : Flaw := if 2 ≤ x.flips.length then { x with poison := true } else x

/-- The flipped bits of a 64-byte unit as a mask. -/
def Flaw.bits (x : Flaw) : V512 := BitVec.ofNat 512 ((x.flips.map fun i => 2 ^ (i % 512)).foldl Nat.xor 0)

/-! ## A hearth's own arrays -/

/-- The array code of a place (R350). -/
def OwnUnit.array : OwnUnit → Nat
  | .pad _ => 1
  | .live _ _ | .shadow _ _ | .planeW _ | .planeS _ => 3
  | _ => 2

/-- The 64-byte unit of a place in its array, as the error log numbers it (R351): scratchpad units and vector registers by their
numbers; the units behind the vector registers and those of array 3 are DESIGN CHOICE (log 14). -/
def OwnUnit.unit : OwnUnit → Nat
  | .pad u => u
  | .v n => n
  | .latch n => 1024 + n
  | .x n => 1032 + n / 8
  | .m n => 1044 + n / 8
  | .p _ => 1048
  | .a n => 1049 + n / 4
  | .live n r => 8 * (128 * n + r)
  | .shadow n r => 4096 + 8 * (128 * n + r)
  | .planeW r => 8192 + 2 * r
  | .planeS r => 8448 + 2 * r

/-! ## The error log (R351) -/

/-- An error log entry's word. -/
def errWord (ctx array inst : Nat) (inj : Bool) (syn kind addr : Nat) : W64 :=
  BitVec.ofNat 64 (ctx * 2 ^ 52 + array * 2 ^ 46 + inst * 2 ^ 42 + ofBool inj * 2 ^ 41 + syn * 2 ^ 32 + kind * 2 ^ 30 +
    addr % 2 ^ 30)

/-- The entry of an error that reading a unit met: KIND is 1 where it was corrected, 2 for an uncorrectable one and 3 for a check
value that does not match, which is inverted. -/
def Flaw.entry (x : Flaw) (ctx array inst addr kind : Nat) : W64 :=
  errWord ctx array inst x.inj (if kind = 2 then 0xFF else (Config.syndrome (x.flips.headD 512)).toNat)
    (match kind with | 3 => 1 | 2 => 3 | _ => 2) addr

/-! ## Injection (R350) -/

/-- EINJ's fields. -/
def einjMode (w : W64) : Nat := bits w.toNat 62 2
def einjArray (w : W64) : Nat := bits w.toNat 48 6
def einjBit (w : W64) : Nat := bits w.toNat 39 9
def einjAddr (w : W64) : Nat := bits w.toNat 0 30

/-- What a value written to EINJ must meet, whatever its MODE; otherwise cause 0x01 (log 13). -/
def einjOk (w : W64) : Bool :=
  bits w.toNat 54 8 == 0 && bits w.toNat 30 9 == 0 && [1, 2, 4, 5, 6, 7, 8].contains (einjArray w) &&
    (einjArray w == 1 || einjArray w == 2 || einjAddr w == 0)

/-- The error that an armed injection makes in the unit that is written. -/
def einjFlaw (w : W64) : Flaw :=
  match einjMode w with
  | 1 => ⟨[einjBit w], false, false, true⟩
  | 2 => ⟨[einjBit w, (einjBit w + 1) % 512], false, false, true⟩
  | _ => ⟨[], true, false, true⟩

/-- The armed injection selects a write to a unit of an array: ADDR selects among scratchpad units and vector registers; every
other array fires at its next write. -/
def einjHits (w : W64) (array unit : Nat) : Bool :=
  einjMode w != 0 && einjArray w == array && (!(array == 1 || array == 2) || einjAddr w == unit)

/-- EINJ after it has fired: MODE 0. -/
def einjSpent (w : W64) : W64 := BitVec.ofNat 64 (w.toNat % 2 ^ 62)

end Sys2Proof.Machine
end

