-- ==== Sys2Proof/Machine/Ops.lean ====
section
/-! DEFINITION. The named operations that the meanings share: hearths and their registers, results in flight, landing
records, taking a trap and returning from it (spec/01_task_state.md, spec/02_bundle_encoding.md R66 to R73,
spec/10_hearth_traps.md R250 to R258). -/
namespace Sys2Proof.Machine

/-! ## Hearths -/

/-- The number of hearths that the device can number: four dies of 64 (R1). -/
def hearthCount : Nat := 256

/-- The hearth `h`, whether or not it is the one in focus. -/
def State.coreAt (s : State) (h : Nat) : Core :=
  if h = s.coreId then s.core else Store.get Core.init s.others h

/-- Replace the hearth `h`. -/
def State.setCoreAt (s : State) (h : Nat) (c : Core) : State :=
  if h = s.coreId then { s with core := c } else { s with others := Store.set Core.init s.others h c }

/-- Bring hearth `h` into focus. -/
def State.focus (s : State) (h : Nat) : State :=
  if h = s.coreId then s
  else
    { s with
      core := Store.get Core.init s.others h
      others := Store.set Core.init (Store.set Core.init s.others h Core.init) s.coreId s.core
      coreId := h }

/-- Change the hearth in focus. -/
def State.mapCore (s : State) (f : Core → Core) : State := { s with core := f s.core }

/-- Change the hearth `h`. -/
def State.mapCoreAt (s : State) (h : Nat) (f : Core → Core) : State := s.setCoreAt h (f (s.coreAt h))

/-- The die, square and street of a hearth (spec/00_scope.md R1; spec/11_square_streets.md). -/
def dieOf (h : Nat) : Nat := h / 64
def squareOf (h : Nat) : Nat := h / 16
def streetOf (h : Nat) : Nat := h / 8
/-- The clock that a hearth's square runs on, by number: in fixed-timing mode the squares q and q XOR 1 share one, since both
run at 1.40 GHz (spec/15 R342, R344). -/
def clockOf (fixed : Bool) (h : Nat) : Nat := if fixed then 1000 + h / 32 else h / 16
/-- The partner of a hearth in the paired square, q XOR 1 (spec/11 R265). -/
def partnerOf (h : Nat) : Nat := Nat.xor (squareOf h) 1 * 16 + h % 16

/-- The die in focus: that of the hearth in focus. -/
def State.die (s : State) : Nat := dieOf s.coreId

def State.dieAt (s : State) (d : Nat) : Die := Store.get Die.init s.dies d
def State.setDie (s : State) (d : Nat) (x : Die) : State := { s with dies := Store.set Die.init s.dies d x }
def State.mapDie (s : State) (d : Nat) (f : Die → Die) : State := s.setDie d (f (s.dieAt d))
def State.streetAt (s : State) (n : Nat) : Street := Store.get Street.init s.streets n
def State.setStreet (s : State) (n : Nat) (x : Street) : State :=
  { s with streets := Store.set Street.init s.streets n x }
def State.squareAt (s : State) (n : Nat) : Square := Store.get Square.init s.squares n
def State.setSquare (s : State) (n : Nat) (x : Square) : State :=
  { s with squares := Store.set Square.init s.squares n x }

/-- A die is present: all four of a package or module, and one of a bare die (R1). As which of the four dies a bare die behaves
R2 leaves open: die 0 is a DESIGN CHOICE (log 103). -/
def State.diePresent (s : State) (d : Nat) : Bool :=
  d < 4 && (match s.form with | .bareDie => d == 0 | _ => true) && !(s.dieAt d).absent

/-- The LPDDR-6 tier is present on a module (R3). That LPDDR-6 is never attached to another form, which R3 leaves open, is
a DESIGN CHOICE (log 79). -/
def State.lpddr (s : State) : Bool :=
  match s.form with | .module_ => true | _ => false

/-- The context with an identifier. -/
def State.ctx? (s : State) (id : Nat) : Option Context := s.contexts.find? (fun c => c.id == id)
/-- Change the context with an identifier. -/
def State.mapCtx (s : State) (id : Nat) (f : Context → Context) : State :=
  { s with contexts := s.contexts.map fun c => if c.id = id then f c else c }

/-- The context of the task in focus. -/
def State.myCtx (s : State) : Option Context := s.ctx? s.core.task.ctx
/-- The context of the task in focus is in fixed-timing mode (R344). -/
def State.fixed (s : State) : Bool := match s.myCtx with | some c => c.fixed | none => false
/-- The time by which a hearth arrives at a line: the cycles of its square, in a fixed-timing context its task's that were not
frozen (R267, R268, R347). -/
def Core.lineTime (c : Core) (fixed : Bool) : Nat := if fixed then c.vt else c.clk
def State.lineTime (s : State) : Nat := s.core.lineTime s.fixed
/-- The context of the task in focus is deterministic (R346). -/
def State.det (s : State) : Bool := match s.myCtx with | some c => c.det | none => false

/-- A context's race detection (R314): on when the host set it or the context is deterministic. -/
def Context.raceOn (c : Context) : Bool := c.raceEn || c.det

/-- The device has hearth `h` and it is not retired (R1, spec/20 R411). -/
def State.hearthOk (s : State) (h : Nat) : Bool :=
  h < hearthCount && s.diePresent (dieOf h) && !((s.dieAt (dieOf h)).retired.contains h)

/-- An event of a hearth: it happens at the hearth that `unit` names, brought into focus. -/
def atHearth (s : State) (k : State → State) : Host.Outcome State Fault Refusal :=
  if s.hearthOk s.unit then .next (k (s.focus s.unit)) else .fault .noSuchUnit

/-- An event of a die: it happens at the die that `unit` names. -/
def atDie (s : State) (k : Nat → State → State) : Host.Outcome State Fault Refusal :=
  if s.diePresent s.unit then .next (k s.unit s) else .fault .noSuchUnit

/-- Take a fresh number. -/
def State.fresh (s : State) : Nat × State := (s.nextId, { s with nextId := s.nextId + 1 })

/-! ## Outcomes of an operation within an execution -/

/-- A raised cause: cause code, TRAPADDR and TRAPCOORD (R253, R254). -/
structure Trap where
  cause : Nat
  addr : Nat
  coords : List Int
  deriving DecidableEq, Repr

/-- Why a cycle is frozen (R166): an action on the tensor or a port that leaves nothing to count, a queue without room,
late data of a stream register, a flue, the plane fill or a window row (R165, R214, R249), or the operations that a wait
awaits (R240, R344). -/
inductive Freeze where
  | plain
  | full (q : Stuck)
  | stream (n req : Nat)
  | flue (n req : Nat)
  | fill
  | win (w : Nat) (row : Int)
  | wait
  deriving DecidableEq, Repr

/-- The outcome of one operation: done, a raised cause, or a frozen cycle (R165, R166). -/
inductive Res where
  | ok (s : State)
  | trap (t : Trap)
  | freeze (f : Freeze)
  deriving DecidableEq, Repr

def Res.bind (r : Res) (f : State → Res) : Res :=
  match r with
  | .ok s => f s
  | .trap t => .trap t
  | .freeze f => .freeze f

/-- Raise a cause without coordinates. -/
def raise (cause addr : Nat) : Res := .trap ⟨cause, addr, []⟩

/-! ## Registers (R15 to R17, R37) -/

/-- The physical number of a scalar register under rotation `rot`. -/
def physX (rot n : Nat) : Nat := if 32 ≤ n ∧ n < 64 then 32 + (n - 32 + (32 - rot % 32)) % 32 else n
/-- The physical number of a vector register. -/
def physV (rot n : Nat) : Nat := if 512 ≤ n ∧ n < 1024 then 512 + (n - 512 + (512 - rot % 512)) % 512 else n
/-- The physical number of a predicate. -/
def physP (rot n : Nat) : Nat := if 8 ≤ n ∧ n < 16 then 8 + (n - 8 + (8 - rot % 8)) % 8 else n

/-- Read a scalar source: x0 to x63 renamed, numbers 64 to 95 k0 to k31; x0 reads 0 (R16, R37, R56). -/
def Core.readX (c : Core) (n : Nat) : W64 :=
  if n = 0 then 0
  else if 64 ≤ n then Store.get 0 c.regs.k (n - 64)
  else Store.get 0 c.regs.x (physX c.loops.rot n)

/-- Read a predicate; p0 is true. -/
def Core.readP (c : Core) (n : Nat) : Bool := n == 0 || Store.get false c.regs.p (physP c.loops.rot n)

/-- Read a lane mask; m0 is all ones. -/
def Core.readM (c : Core) (n : Nat) : W64 := if n = 0 then BitVec.allOnes 64 else Store.get 0 c.regs.m n

/-- Read an address register; a0 is zero without a ring. -/
def Core.readA (c : Core) (n : Nat) : AReg := if n = 0 then AReg.zero else Store.get AReg.zero c.regs.a n

/-- Read a vector register. -/
def Core.readV (c : Core) (n : Nat) : V512 := Store.get 0 c.regs.v (physV c.loops.rot n)

/-- Read a latch; b0 is zero and always valid (R16, R23). -/
def Core.readLatch (c : Core) (n : Nat) : Latch := if n = 0 then ⟨0, true⟩ else Store.get Latch.init c.regs.latch n

/-- Write a scalar register by physical number; a write to x0 is discarded. -/
def Regs.setX (r : Regs) (n : Nat) (v : W64) : Regs := if n = 0 then r else { r with x := Store.set 0 r.x n v }
def Regs.setP (r : Regs) (n : Nat) (b : Bool) : Regs := if n = 0 then r else { r with p := Store.set false r.p n b }
def Regs.setM (r : Regs) (n : Nat) (v : W64) : Regs := if n = 0 then r else { r with m := Store.set 0 r.m n v }
def Regs.setV (r : Regs) (n : Nat) (v : V512) : Regs := { r with v := Store.set 0 r.v n v }
def Regs.mapA (r : Regs) (n : Nat) (f : AReg → AReg) : Regs :=
  if n = 0 then r else { r with a := Store.set AReg.zero r.a n (f (Store.get AReg.zero r.a n)) }
def Regs.setLatch (r : Regs) (n : Nat) (l : Latch) : Regs :=
  if n = 0 then r else { r with latch := Store.set Latch.init r.latch n l }

/-- Every latch b1 to b7 becomes invalid, keeping its value (R23). -/
def Regs.dropLatches (r : Regs) : Regs :=
  { r with latch := Store.mapVals Latch.init (fun l => ⟨l.val, false⟩) r.latch }

/-- The current value of an address register as a signed number (R20). -/
def AReg.int (a : AReg) : Int := a.val.toInt

/-- Step an address register by a signed distance (R21); none is cause 0x12. -/
def AReg.stepBy (a : AReg) (d : Int) : Option W64 :=
  if a.rlen = 0 then
    let n := a.val.toInt + d
    if n < -(2 ^ 63) ∨ 2 ^ 63 ≤ n then none else some (BitVec.ofInt 64 n)
  else
    let base : Int := a.rbase.toNat * 64
    let len : Int := a.rlen.toNat * 64
    some (BitVec.ofInt 64 (base + (a.val.toInt - base + d).fmod len))

/-! ## Errors in the hearth's own arrays (spec/15 R348 to R351) -/

/-- The error that a place of the hearth's own arrays holds. -/
def Core.flawOf (c : Core) (p : OwnUnit) : Flaw := match c.bad.find? fun e => e.1 == p with | some e => e.2 | none => Flaw.clean
/-- Change the error that a place holds. -/
def Core.mapFlaw (c : Core) (p : OwnUnit) (f : Flaw → Flaw) : Core :=
  let x := f (c.flawOf p)
  let rest := c.bad.filter fun e => e.1 != p
  { c with bad := if x = Flaw.clean then rest else (p, x) :: rest }

/-- The cause that reading what meets a kind of error raises, if any: 0x20, or 0x21 for a check-value mismatch. TRAPADDR holds the
unit (log 14); above bit 64, which no register holds, stands the array, for the error log. -/
def OwnUnit.cause (p : OwnUnit) (kind : Nat) : Option Trap :=
  match kind with
  | 1 => some ⟨0x20, p.unit + p.array * 2 ^ 64, []⟩
  | 2 => some ⟨0x21, p.unit + p.array * 2 ^ 64, []⟩
  | _ => none

/-- The cause that reading a place of the hearth's own arrays raises, if it is poisoned. -/
def Core.cause (c : Core) (p : OwnUnit) : Option Trap := p.cause (c.flawOf p).kind

/-- Put an entry into a die's log: a ring of 256, newest first. -/
def State.logError (s : State) (d : Nat) (w : W64) : State :=
  s.mapDie d fun x => { x with errlog := (w :: x.errlog).take 256 }

/-- What reading some words of a place of the hearth in focus met is logged for a context, and single flipped bits are corrected. -/
def State.sawWords (s : State) (ctx : Nat) (p : OwnUnit) (ws : List Nat) : State :=
  let x := s.core.flawOf p
  match x.kindOf ws with
  | 0 => s
  | k =>
    (s.logError s.die (x.entry ctx p.array (s.coreId % 16) p.unit k)).mapCore fun c =>
      if k = 3 then c.mapFlaw p (·.corrected ws) else c

/-- A trap that an error of the hearth's own arrays raises is logged. -/
def State.logTrap (s : State) (t : Trap) : State :=
  match s.core.bad.find? fun e => t.addr == e.1.unit + e.1.array * 2 ^ 64 with
  | some e => s.sawWords s.core.task.ctx e.1 e.2.words
  | none => s

/-! ## Results in flight (R66 to R69, R91) -/

/-- A result that its bundle's end makes due: an MTS's, but for FLAGS and LANDSTAT, in which a write of 1 clears (R39, R117). -/
def Flight.late (f : Flight) : Bool :=
  f.effs.any fun e => match e with | .sys n _ => n != 0x000 && n != 0x012 | _ => false

/-- The native latency of each class (R69). -/
def nativeLat : List Nat := [1, 3, 18, 1, 4, 2, 4, 8, 3, 6, 6, 3, 10, 8, 2, 0]

/-- The latency table's value for a class, native where the code has no table. -/
def Code.latOf (k : Code) (cls : Nat) : Nat := (k.lat[cls]?).getD ((nativeLat[cls]?).getD 1)

/-- Cycles from issue to write: the larger of header and native latency (R66, R91). -/
def Core.latency (c : Core) (cls : Nat) : Nat := max (c.code.latOf cls) ((nativeLat[cls]?).getD 1)

/-- The result interlocks: its header latency is below the native one (R91). -/
def Core.locks (c : Core) (cls : Nat) : Bool := c.code.latOf cls < (nativeLat[cls]?).getD 1

/-- The latch that a slot writes: S, A, X, V0, V1, M, F write b1 to b7 (R23, R68). -/
def latchNo : Slot → Nat
  | .c => 0 | .s => 1 | .a => 2 | .x => 3 | .v0 => 4 | .v1 => 5 | .m => 6 | .f => 7

/-- Put a result in flight, to be written after `left` cycles. -/
def Core.putFlight (c : Core) (f : Flight) : Core := { c with fly := c.fly ++ [f] }

/-- Issue a result of a latency class: its writes, and its value for the slot's latch where it writes one. -/
def State.result (s : State) (sl : Slot) (cls : Nat) (effs : List Eff) (latch : Option V512) (flags : Nat) : State :=
  s.mapCore fun c =>
    c.putFlight
      { slot := sl, left := c.latency cls, effs := effs, latch := latch.map fun v => (latchNo sl, v, true),
        flags := flags, lock := c.locks cls }

/-- Put a write to be made at the end of the issue cycle (R117, R63). -/
def State.atEnd (s : State) (sl : Slot) (effs : List Eff) (flags : Nat) : State :=
  s.mapCore fun c =>
    c.putFlight { slot := sl, left := 1, effs := effs, latch := none, flags := flags, lock := false }

/-! ## Landing records (R163 to R166) -/

/-- The current cycle of the hearth: the handler's own while it runs (R250), else the task's. -/
def Core.now (c : Core) : Nat := if c.priv then c.hclk else c.cycle

/-- The cycles from now to a landing cycle, a handler's being counted in its own (R250). -/
def Core.until_ (c : Core) (hand : Bool) (land : Nat) : Nat := land - (if hand then c.hclk else c.cycle)

/-- An element's landing cycle counted in task cycles: a handler's request keeps its distance (R255). -/
def Core.landAt (c : Core) (e : Elem) : Nat := if e.hand then c.cycle + (e.land - c.hclk) else e.land

/-- An element's landing cycle has come. -/
def Core.due (c : Core) (hand : Bool) (land : Nat) : Bool := if hand then land ≤ c.hclk else land ≤ c.cycle

/-- Insert an element in the order of R164: by landing cycle, then by request, then by place in it. -/
def Core.insertElem (c : Core) (e : Elem) : List Elem → List Elem
  | [] => [e]
  | x :: r =>
    if c.landAt x < c.landAt e ∨ (c.landAt x = c.landAt e ∧ (x.req < e.req ∨ (x.req = e.req ∧ x.j ≤ e.j)))
    then x :: c.insertElem e r else e :: x :: r

/-- Reserve `k` elements of a request that land from `land` on (R163). -/
def Core.reserve (c : Core) (l : List Elem) (req land : Nat) : Nat → List Elem
  | 0 => l
  | k + 1 => c.insertElem
      { land := land + k, req := req, j := k, data := none, landed := false, mark := none, hand := c.priv, late := false }
      (c.reserve l req land k)

/-- The elements of stream register `n`. -/
def Core.qOf (c : Core) (n : Nat) : List Elem := Store.get [] c.q n
def Core.setQ (c : Core) (n : Nat) (l : List Elem) : Core := { c with q := Store.set [] c.q n l }
def Core.flueOf (c : Core) (n : Nat) : Flue := Store.get Flue.init c.flue n
def Core.setFlue (c : Core) (n : Nat) (f : Flue) : Core := { c with flue := Store.set Flue.init c.flue n f }

/-- FLCFG takes effect (R158, R175): a flue's formats as SOURCE + 2^8 × SINK, which empties it, or a bank format register. -/
def Core.applyCfg (c : Core) : Core :=
  match c.cfg with
  | none => c
  | some (n, x) =>
    let c := { c with cfg := none }
    if n < 8 then c.setFlue n ⟨x % 2 ^ 8, x / 2 ^ 8, []⟩
    else { c with pad := { c.pad with bfmt := Store.set Pad.bfmtReset c.pad.bfmt (n - 32) x } }

/-- A stream register holds at most 8 elements (R22, R164). -/
def Core.qRoom (c : Core) (n k : Nat) : Bool := (c.qOf n).length + k ≤ 8
/-- A flue holds at most 16 entries (R170, R172). -/
def Core.flueRoom (c : Core) (n k : Nat) : Bool := (c.flueOf n).q.length + k ≤ 16

/-- The hearth runs a task that issues. -/
def Core.live (c : Core) : Bool := c.mode == .running || c.mode == .preempting

/-- The hearth holds the task with a launch number and ordinal. -/
def Core.holds (c : Core) (launch ord : Nat) : Bool := c.mode != .free && c.task.launch == launch && c.task.ord == ord

/-- Change a task where it stands: on a hearth, or in its image while that waits to resume (R262, R264). A task that has ended
is nowhere. -/
def State.mapTask (s : State) (launch ord : Nat) (f : Core → Core) : State :=
  let g (c : Core) : Core := if c.holds launch ord then f c else c
  { s with core := g s.core, others := s.others.map fun e => (e.1, g e.2)
           ready := s.ready.map (fun r => { r with image := g r.image })
           shadow := s.shadow.map fun e => (e.1, e.2.map fun r => { r with image := g r.image }) }

/-- The images that wait to resume: those in the dies' shadow regions and those that the firmware executive has moved on
(R263, R332). -/
def State.images (s : State) : List Ready := s.ready ++ s.shadow.filterMap (·.2)
/-- Change, or drop, the images that wait to resume. -/
def State.mapImages (s : State) (f : Ready → Option Ready) : State :=
  { s with ready := s.ready.filterMap f
           shadow := (s.shadow.map fun e => (e.1, e.2.bind f)).filter fun e => e.2.isSome }

/-- Every queue entry of the device's copy engines. -/
def State.allOps (s : State) : List CopyOp :=
  s.core.eng.cp ++ s.core.eng.cl ++ s.others.flatMap fun e => e.2.eng.cp ++ e.2.eng.cl

/-- An element has been taken: every open group's checkpoint can no longer be replayed (R257). -/
def Core.took (c : Core) : Core :=
  { c with mat := { c.mat with groups := c.mat.groups.map fun g => (g.1, { g.2 with taken := true }) } }

/-- Count a request whose lateness freezes the domain: OVRCNT in a fixed-timing context, LATECNT in an elastic one;
both saturate (R168, R169). -/
def State.countLate (s : State) : State :=
  let fx := s.fixed
  s.mapCore fun c =>
    { c with st := if fx then { c.st with ovrCnt := min (c.st.ovrCnt + 1) (2 ^ 32 - 1) }
                   else { c.st with lateCnt := min (c.st.lateCnt + 1) (2 ^ 16 - 1) } }

/-- Mark the elements of a request as counted late. -/
def markLate (req : Nat) (l : List Elem) : List Elem := l.map fun e => if e.req = req then { e with late := true } else e

/-- What a read of a list of elements finds (R165): nothing due, a late element, or an element and the rest. -/
inductive Take where
  | early
  | late (e : Elem)
  | got (e : Elem) (rest : List Elem)
  deriving DecidableEq, Repr

def takeElem : List Elem → Take
  | [] => .early
  | e :: r => if !e.landed then .early else match e.data with | none => .late e | some _ => .got e r

/-- Read stream register `n` at issue (R165): the element's data, or cause 0x06, a frozen cycle, or the cause that its
data carries. -/
def readStream (s : State) (n : Nat) (k : V512 → State → Res) : Res :=
  match takeElem (s.core.qOf n) with
  | .early => raise 0x06 n
  | .late e => .freeze (.stream n e.req)
  | .got e r =>
    match e.mark with
    | some (cause, addr) => raise cause addr
    | none => k (e.data.getD 0) (s.mapCore fun c => (c.setQ n r).took)

/-- Take the oldest entry of flue `n` at issue (R165, R177). -/
def readFlue (s : State) (n : Nat) (k : V512 → State → Res) : Res :=
  match takeElem (s.core.flueOf n).q with
  | .early => raise 0x06 n
  | .late e => .freeze (.flue n e.req)
  | .got e r =>
    match e.mark with
    | some (cause, addr) => raise cause addr
    | none => k (e.data.getD 0) (s.mapCore fun c => (c.setFlue n { c.flueOf n with q := r }).took)

/-- The wait with its padded end struck off, once that it has been counted as late. -/
def Wait.counted : Wait → Wait
  | .fence ops reqs fills _ wb inv banks rel arr => .fence ops reqs fills 0 wb inv banks rel arr
  | .acquire req _ inv => .acquire req 0 inv
  | w => w

/-- The effect of a frozen cycle on the hearth: a request without room stands, a late one is counted once (R168, R232,
R294), and so is a wait that passes its padded end in a fixed-timing context (R344). -/
def State.freezeBy (s : State) (f : Freeze) : State :=
  match f with
  | .plain => s
  | .full q => s.mapCore fun c => { c with stuck := q }
  | .wait =>
    if s.fixed && s.core.wait.counted != s.core.wait then s.countLate.mapCore fun c => { c with wait := c.wait.counted } else s
  | .stream n req =>
    if (s.core.qOf n).any (fun e => e.req == req && e.late) then s
    else (s.mapCore fun c => c.setQ n (markLate req (c.qOf n))).countLate
  | .flue n req =>
    if (s.core.flueOf n).q.any (fun e => e.req == req && e.late) then s
    else (s.mapCore fun c => c.setFlue n { c.flueOf n with q := markLate req (c.flueOf n).q }).countLate
  | .fill =>
    if (match s.core.mat.fill with | some x => x.late | none => true) then s
    else (s.mapCore fun c => { c with mat := { c.mat with fill := c.mat.fill.map fun x => { x with late := true } } }).countLate
  | .win w row =>
    let x := Store.get Win.closed s.core.win w
    if x.fills.any (fun e => e.row == row && e.late) then s
    else
      let req := (x.fills.find? fun e => e.row == row).elim 0 (·.req)
      let y := { x with fills := x.fills.map fun e => if e.req = req then { e with late := true } else e }
      (s.mapCore fun c => { c with win := Store.set Win.closed c.win w y }).countLate

/-! ## Accumulators -/

def accKey (n row col : Nat) : Nat := n * 16384 + row * 128 + col

/-- The cells of accumulator `n` in a copy. -/
def accCells (n : Nat) (a : Store W32) : Store W32 := a.filter fun e => e.1 / 16384 = n

/-- Replace accumulator `n`'s cells in `dst` by those of `src`. -/
def accCopy (n : Nat) (src dst : Store W32) : Store W32 :=
  (dst.filter fun e => e.1 / 16384 < n) ++ accCells n src ++ dst.filter fun e => n < e.1 / 16384

/-- Abandon every group with a nonzero count (R222): live returns to shadow and the count to 0. -/
def Mat.abandon (m : Mat) : Mat :=
  let one (m : Mat) (n : Nat) : Mat :=
    if Store.get 0 m.count n = 0 then m
    else { m with live := accCopy n m.shadow m.live, count := Store.set 0 m.count n 0 }
  let m' := [0, 1, 2, 3].foldl one m
  { m' with groups := [] }

/-- The errors of the hearth's own arrays once its open groups are abandoned: a live row takes that of its shadow (R222, spec/15
R348). -/
def Core.badAbandoned (c : Core) : List (OwnUnit × Flaw) :=
  let open_ (n : Nat) : Bool := Store.get 0 c.mat.count n != 0
  c.bad.flatMap fun e => match e.1 with
    | .live n _ => if open_ n then [] else [e]
    | .shadow n r => if open_ n then [e, (.live n r, e.2)] else [e]
    | _ => [e]

/-- The mask of accumulators with a nonzero count (GRP of TRAPCAUSE). -/
def Mat.grp (m : Mat) : Nat :=
  ([0, 1, 2, 3].map fun n => if Store.get 0 m.count n = 0 then 0 else 2 ^ n).sum

/-! ## Ending a task -/

/-- An operation that names some tensors counts as running them (spec/18 R373). -/
def State.useRecs (s : State) (ctx : Nat) (hs : List Nat) : State :=
  { s with recs := s.recs.map fun r => if r.ctx = ctx then { r with users := r.users + hs.count r.handle } else r }
def State.unuseRecs (s : State) (ctx : Nat) (hs : List Nat) : State :=
  { s with recs := s.recs.map fun r => if r.ctx = ctx then { r with users := r.users - hs.count r.handle } else r }

/-- Lower the pins that a fill holds on lines of a square (spec/11 R283). -/
def State.unpin (s : State) (q : Nat) (as : List Nat) : State :=
  if as.isEmpty then s
  else
    let sq := s.squareAt q
    s.setSquare q { sq with lines := sq.lines.map fun e =>
      (e.1, e.2.map fun l => { l with pins := l.pins - as.count l.addr }) }

/-- The tensors that a hearth's open windows and pending tile fill hold as running. -/
def Core.held (c : Core) : List Nat :=
  (c.win.filterMap fun e => if e.2.opened then some e.2.handle else none) ++
    (match c.mat.fill with
     | some f => (match f.src with | .tile h _ _ _ => [h] | .pad _ => [])
     | none => [])

/-- The pending fill of S goes without landing: its pins and its use of a tensor end. -/
def State.dropFill (s : State) : State :=
  match s.core.mat.fill with
  | none => s
  | some f =>
    let s1 := (s.unpin f.square f.pins).mapCore fun c => { c with mat := { c.mat with fill := none } }
    match f.src with
    | .tile h _ _ _ => s1.unuseRecs s.core.task.ctx [h]
    | .pad _ => s1

/-- The lowest set bit of an 8-bit mask, 0 when none is set. -/
def lowBit (m : Nat) : Nat := ([0, 1, 2, 3, 4, 5, 6, 7].find? fun i => m / 2 ^ i % 2 == 1).getD 0

/-- A task leaves its street (spec/11 R267, R274): its MEMB bit clears, which counts as its arrival in the cycle before
`clk`, the next member present leads, a trap of its own no longer stops the street, and a street without members returns
to its start, but for the time of that halt, which the square's line counts (R277). -/
def Street.leave (t : Street) (place clk : Nat) : Street :=
  let memb := if t.memb / 2 ^ place % 2 = 1 then t.memb - 2 ^ place else t.memb
  if memb = 0 then { Street.init with launch := t.launch, group := t.group, halted := max t.halted clk }
  else { t with memb := memb, leader := if t.leader = place then lowBit memb else t.leader,
                arrived := t.arrived.filter fun a => a.1 != place, halted := max t.halted clk,
                trapped := if t.trapped = some place then none else t.trapped }

/-- The street group that a task belongs to is the one whose state a street holds (spec/11 R265). -/
def TaskId.inStreet (t : TaskId) (x : Street) : Bool :=
  t.fuse && x.launch == t.launch && x.group == t.wid.toNat / 2 ^ min t.w0 3

/-- A street whose group has left its hearths returns to its start, but for the time of the last halt. -/
def State.vacate (s : State) (n : Nat) : State :=
  let x := s.streetAt n
  if (List.range 8).any fun i => let c := s.coreAt (8 * n + i); c.mode != .free && c.task.inStreet x then s
  else s.setStreet n { Street.init with launch := x.launch, group := x.group, halted := x.halted }

/-- The state of a task's street, also as the images of its street group hold it (spec/11 R273, R274). -/
def State.mapGroup (s : State) (t : TaskId) (f : Street → Street) : State :=
  s.mapImages fun r => some (if t.inStreet r.street then { r with street := f r.street } else r)

/-- The task on the hearth in focus leaves its street group, of which other members may be out on images (spec/11 R274). -/
def State.leaveStreet (s : State) : State :=
  let n := streetOf s.coreId
  let f (x : Street) : Street := x.leave (s.coreId % 8) s.lineTime
  if s.core.task.inStreet (s.streetAt n) then
    (((s.setStreet n (f (s.streetAt n))).mapGroup s.core.task f).mapCore fun c => { c with mode := .free }).vacate n
  else s

/-- The pair of a hearth dissolves (spec/11 R280). -/
def Core.unpair (c : Core) : Core :=
  if c.link.paired then { c with link := { c.link with paired := false, stopped := false, held := none, mswaps := [] } } else c

/-- The task on the hearth has ended: the hearth is free, its pending landing records are cancelled (R105), its street and
its pair lose it (R274, R280), and its launch counts it; `fail` is the cause of a failed task, DOUBLE adding 0x80
(R323). -/
def State.taskEnd (s : State) (fail : Option Nat) : State :=
  let t := s.core.task
  let s0 := s.dropFill.unuseRecs t.ctx (s.core.win.filterMap fun e => if e.2.opened then some e.2.handle else none)
  let sA := if t.fuse then s0.leaveStreet else s0
  let sB := if sA.core.link.paired then sA.mapCoreAt (partnerOf sA.coreId) Core.unpair else sA
  let s1 := sB.mapCore fun c =>
    { c with mode := .free, wait := .none, stuck := .no, owed := 0, cfg := none, fly := [], ctl := none, q := [], win := [], past := [],
             frame := none,
             flue := (c.flue.map fun e => (e.1, { e.2 with q := e.2.q.filter (·.landed) })).filter
               fun e => !decide (e.2 = Flue.init)
             priv := false, mat := { c.mat with fill := none, groups := [] },
             eng := { c.eng with transit := [] }, race := Race.init, link := Link.init }
  { s1 with
    launches := s1.launches.map fun l =>
      if l.id = t.launch then
        match fail with
        | none => { l with ended := l.ended + 1 }
        | some cause =>
          let first := l.nfail == 0 || t.ord < l.ford
          { l with ended := l.ended + 1, nfail := min (l.nfail + 1) (2 ^ 32 - 1),
                   ford := if first then t.ord else l.ford, cause := if first then cause else l.cause }
      else l }

/-- The hearths of a fused street with hearth `h`, which is among them; a hearth that is not fused stands alone. -/
def State.fusedWith (s : State) (h : Nat) : List Nat :=
  if (s.coreAt h).link.fused then
    ((List.range 8).map fun i => streetOf h * 8 + i).filter fun g =>
      g == h || ((s.coreAt g).link.fused && (s.coreAt g).task.launch == (s.coreAt h).task.launch)
  else [h]

/-- The hearths that fail together (spec/11 R272, R280, R285): a fused street, and of each of its hearths that is paired the
partner with its own fused street. -/
def State.failsWith (s : State) (h : Nat) : List Nat :=
  let own := s.fusedWith h
  (own ++ (own.filter fun g => (s.coreAt g).link.paired).flatMap fun g => s.fusedWith (partnerOf g)).eraseDups

/-- End the task on the hearth in focus as failed, and with it every task of its fused street and of its pair (R272, R280,
R285). Cause 0x20 asks for a rollback of the context (R252). -/
def State.fail (s : State) (cause : Nat) (double : Bool) : State :=
  let code := cause % 128 + (if double then 0x80 else 0)
  let h := s.coreId
  let s0 := if cause = 0x20 then s.mapCtx s.core.task.ctx (fun c => { c with rollback := true }) else s
  let s1 := ((s.failsWith h).filter (· != h)).foldl (fun s g => ((s.focus g).taskEnd (some code))) s0
  (s1.focus h).taskEnd (some code)

/-! ## Taking a trap (R250 to R254) -/

/-- INDEX of a loop-stack entry, 0 at or beyond the depth. -/
def Loops.indexOf (l : Loops) (e : Nat) : Nat := match l.stack[e]? with | some x => x.index | none => 0

/-- The loop indices that a trap reports: each unrolled loop's iteration at its POS and the hardware entries in the
other positions in order (R340). -/
def reportIndex (l : Loops) (un : List (Nat × Nat)) : Nat → Nat → List Nat
  | 0, _ => []
  | n + 1, hw =>
    let pos := 6 - (n + 1)
    match un.find? (fun u => u.1 == pos) with
    | some u => u.2 :: reportIndex l un n hw
    | none => l.indexOf hw :: reportIndex l un n (hw + 1)

/-- The origin of the bundle at a PC in residual code (R339, R340). -/
def Code.originOf (k : Code) (pc : Nat) : Option Origin :=
  match k.origin with
  | none => none
  | some m => (m.find? fun e => e.1 == pc).map Prod.snd

/-- Cause codes that never enter the handler (R252). -/
def fatalCause (c : Nat) : Bool := c == 0x20 || c == 0x21

/-- TRAPCAUSE's fields (R253). -/
def trapWord (cause slot : Nat) (reissue delay : Bool) (repleft grp : Nat) (replay double resid : Bool) : W64 :=
  BitVec.ofNat 64 (cause + slot * 2 ^ 8 + ofBool reissue * 2 ^ 12 + ofBool delay * 2 ^ 13 + repleft * 2 ^ 14 +
    grp * 2 ^ 21 + ofBool replay * 2 ^ 25 + ofBool double * 2 ^ 26 + ofBool resid * 2 ^ 27)

/-- The bytes of a kernel image's header field, little-endian (spec/03 R86). -/
def Rec.word (r : Rec) (off n : Nat) : Nat := ofBytes (Memory.readN r.mem off n)

/-- The code of a kernel image, as its header describes it (spec/03 R86). -/
def Rec.kernelCode (r : Rec) : Code :=
  let off := r.word 0x08 4
  { off := off
    words := (List.range (r.word 0x0C 4 / 4)).map fun i => r.word (off + 4 * i) 4
    lat := (Memory.readN r.mem 0x40 16).map BitVec.toNat
    maxBeats := r.word 0x1C 2, maxIter := r.word 0x20 4, fuseReq := bit (r.word 0x14 4) 0, origin := none
    entry := r.word 0x10 4 }

/-- The kernel image that the host set as the context's handler (R251, R407). The launch checks do not apply to it; one that is
absent or cannot be brought back (spec/18 R381) counts as no handler (log 12). -/
def State.handlerRec (s : State) : Option Rec :=
  match s.myCtx with
  | none => none
  | some c =>
    if c.handler = 0 then none else s.recs.find? fun r => r.ctx == c.id && r.handle == c.handler && r.live && !r.rfail

/-- A record's contents lie neither in the pool nor in HBM. -/
def Tier.away (t : Tier) : Bool := match t with | .lpddr => true | .dropped => true | _ => false

/-- The handler's code, in a strict context with the native latencies, the only ones there (spec/03 R91). An image that is not
resident is brought back first, and until then there is no code (spec/18 R379, spec/19 R398). -/
def State.handlerCode (s : State) : Option Code :=
  s.handlerRec.map fun r =>
    if r.tier.away then Code.empty
    else if (match s.myCtx with | some c => c.adaptive | none => false) then r.kernelCode
    else { r.kernelCode with lat := nativeLat }

/-- The domain stands until the handler's image is resident (log 111). -/
def State.handlerAway (s : State) : Bool := match s.handlerRec with | some r => r.tier.away | none => false

/-- The sequencer state in which a handler's code begins. -/
def Code.begin_ (k : Code) : Seq := { pc := k.entry, done := 0, pend := none, from_ := k.entry, jumped := true }

/-- Take a cause-and-address mark off an element. -/
def Elem.unmark (g : Nat) (e : Elem) : Elem := if e.mark = some (0x18, g) then { e with mark := none } else e

def Transit.unmark (g : Nat) (e : Transit) : Transit := if e.mark = some (0x18, g) then { e with mark := none } else e
def Fill.unmark (g : Nat) (e : Fill) : Fill := if e.mark = some (0x18, g) then { e with mark := none } else e
def WinFill.unmark (g : Nat) (e : WinFill) : WinFill := if e.mark = some (0x18, g) then { e with mark := none } else e

/-- A race report is raised once: when cause 0x18 is taken for granule `g`, its marks and its report go (R316). -/
def Core.dropRace (c : Core) (g : Nat) : Core :=
  { c with
    q := c.q.map fun e => (e.1, e.2.map (Elem.unmark g))
    flue := c.flue.map fun e => (e.1, { e.2 with q := e.2.q.map (Elem.unmark g) })
    eng := { c.eng with transit := c.eng.transit.map (Transit.unmark g) }
    mat := { c.mat with fill := c.mat.fill.map (Fill.unmark g)
                        smark := if c.mat.smark = some (0x18, g) then none else c.mat.smark }
    win := c.win.map fun e => (e.1, { e.2 with fills := e.2.fills.map (WinFill.unmark g)
                                               marks := e.2.marks.filter fun m => m.2 != (0x18, g) })
    race := { c.race with reports := c.race.reports.filter fun r => r.2 != g } }

/-- The frame of a hearth that stops: what is in flight, and the checkpoints of its abandoned groups (R250, R253). `resume`
gives the sequencer state from which it goes on. -/
def Core.frameAt (c : Core) (resume : Seq) : Frame :=
  { fly := c.fly, latch := c.regs.latch, sticky := c.sticky, seq := resume, code := c.code, cfg := c.cfg,
    groups := c.mat.groups.map Prod.snd, replayOk := c.mat.groups.all fun g => !g.2.taken }

/-- The partner of a paired hearth that traps with a group open abandons its own groups and stands as frozen, holding
the checkpoints for a replay (R280), beside the frame of its own where its handler runs. -/
def State.stopPartner (s : State) : State :=
  if s.core.link.paired then
    let g := partnerOf s.coreId
    let d := s.coreAt g
    if s.core.mat.grp = 0 ∧ d.mat.grp = 0 then s
    else
      s.setCoreAt g
        { d with mat := d.mat.abandon, bad := d.badAbandoned, link := { d.link with stopped := true, held := some (d.frameAt d.seq) } }
  else s

/-- Take a trap at the end of the cycle (R250): abandon the open groups, hold the results in flight, write the trap
frame and enter the handler in privileged mode; in the handler or without one the task ends as failed with DOUBLE set
(R251), and for a fatal cause it ends as failed (R252). DOUBLE is set where R251 sets it and not by a fatal cause outside the
handler: DEDUCED (log 107). `resume` gives the sequencer state at which ERET resumes and
`repleft` REPLEFT. -/
def State.takeTrap (s : State) (t : Trap) (slot : Nat) (reissue : Bool) (resume : Seq) (repleft pcRep : Nat) : State :=
  let c := s.core
  let org := c.code.originOf pcRep
  let idx := reportIndex c.loops (match org with | some o => o.loops | none => []) 6 0
  let i (n : Nat) : Nat := (idx[n]?).getD 0
  let grp := c.mat.grp
  let rok := grp != 0 && c.mat.groups.all (fun g => !g.2.taken)
  let double := c.priv || (!fatalCause t.cause && s.handlerCode.isNone)
  let tr : TrapRegs :=
    { cause := trapWord t.cause slot reissue resume.pend.isSome repleft grp rok double c.code.origin.isSome
      pc := BitVec.ofNat 64 (match org with | some o => o.opc | none => pcRep)
      rpc := BitVec.ofNat 64 pcRep
      addr := BitVec.ofNat 64 t.addr
      coord := (List.range 4).map fun k => BitVec.ofInt 64 ((t.coords[k]?).getD 0)
      loop := [BitVec.ofNat 64 (i 0 + i 1 * 2 ^ 32), BitVec.ofNat 64 (i 2 + i 3 * 2 ^ 32),
               BitVec.ofNat 64 (i 4 + i 5 * 2 ^ 32)] }
  let s0 := if fatalCause t.cause then s.logTrap t else s
  let s1 := s0.stopPartner.mapCore fun c =>
    let c := if t.cause = 0x18 then c.dropRace t.addr else c
    { c with trap := tr }
  if c.priv || fatalCause t.cause then s1.fail t.cause double
  else
    match s.handlerCode with
    | none => s1.fail t.cause double
    | some code =>
      let s2 := s1.mapCore fun c =>
        { c with
          frame := some { c.frameAt resume with replayOk := rok }
          fly := [], sticky := Sticky.idle, regs := c.regs.dropLatches, mat := c.mat.abandon, bad := c.badAbandoned, cfg := none
          priv := true, hclk := 0, code := code, ctl := none, seq := code.begin_
          stuck := if s.handlerAway then .handler else c.stuck }
      if s2.core.link.fused then
        s2.setStreet (streetOf s2.coreId) { s2.streetAt (streetOf s2.coreId) with trapped := s2.core.link.rank }
      else s2

end Sys2Proof.Machine
end

