-- ==== Sys2Proof/Machine/Fetch.lean ====
section
/-! DEFINITION. Fetch: syllables, bundles and their places in packets (spec/02_bundle_encoding.md R44 to R50,
spec/01_task_state.md R36). -/
namespace Sys2Proof.Machine

/-- The offset at which the code region ends (R86). -/
def Code.stop (k : Code) : Nat := k.off + 4 * k.words.length

/-- The syllable at a byte offset of the code region; none outside it or off a multiple of 4 (R48). -/
def Code.syl (k : Code) (pc : Nat) : Option Nat :=
  if pc % 4 = 0 ∧ k.off ≤ pc then k.words[(pc - k.off) / 4]? else none

/-- The syllable at an offset of the region is a header (R45). -/
def Code.isHeader (k : Code) (pc : Nat) : Bool := match k.syl pc with | some w => bit w 31 | none => false

/-- The index of a byte offset's syllable in its packet (R44). -/
def inPacket (pc : Nat) : Nat := pc / 4 % 16

/-- A bundle: its header, its length in syllables, and each named slot's syllables with their offset (R49, R50). -/
structure Bundle where
  hdr : Header
  len : Nat
  ops : List (Slot × Nat × List Nat)
  deriving DecidableEq, Repr

/-- The syllables of the named slots, in slot order, from the syllables that follow the header in the packet; none when
they do not suffice (R47, R50). -/
def splitOps : List Slot → Nat → List Nat → Option (List (Slot × Nat × List Nat))
  | [], _, _ => some []
  | sl :: sls, at_, ws =>
    let n := if sl.isLong then 2 else match ws with | w :: _ => 1 + ofBool (bit w 30) | [] => 1
    if ws.length < n then none
    else (splitOps sls (at_ + 4 * n) (ws.drop n)).map fun r => (sl, at_, ws.take n) :: r

/-- The bundle that begins at an offset holding a header; none is an illegal bundle, cause 0x03 (R47). -/
def Code.bundleAt (k : Code) (pc : Nat) : Option Bundle :=
  match k.syl pc with
  | none => none
  | some h =>
    let rest := (List.range (15 - inPacket pc)).filterMap fun i => k.syl (pc + 4 + 4 * i)
    match splitOps (Header.dec h).slots (pc + 4) rest with
    | none => none
    | some ops =>
      let body := (ops.map fun o => o.2.2).flatten
      if 16 ≤ body.length ∨ body.any (fun w => bit w 31) then none
      else some ⟨Header.dec h, 1 + body.length, ops⟩

/-- The bundle after the bundle at `pc` (R36, R46). -/
def Code.nextBundle (k : Code) (pc : Nat) : Nat :=
  match k.bundleAt pc with
  | none => pc + 4
  | some b => if b.hdr.pad || 15 < inPacket pc + b.len then (pc / 64 + 1) * 64 else pc + 4 * b.len

/-- A well-formed bundle starts at an offset (BundleStart of R101). -/
def Code.bundleStart (k : Code) (pc : Nat) : Bool := k.isHeader pc && (k.bundleAt pc).isSome

/-- What fetch finds at the sequencer's PC: a bundle, or the trap that fetching it raises with the PC reported and REP of the
header that stands there, at slot code 8 (R46 to R48, R73, R253). -/
inductive Fetched where
  | bundle (b : Bundle)
  | bad (t : Trap) (pc rep : Nat)
  deriving DecidableEq, Repr

def Core.fetch (c : Core) : Fetched :=
  let pc := c.seq.pc
  if c.seq.jumped && !c.code.isHeader pc then .bad ⟨0x02, pc, []⟩ c.seq.from_ 0
  else if c.code.stop ≤ pc then .bad ⟨0x02, c.code.stop, []⟩ c.seq.from_ 0
  else if !c.code.isHeader pc then .bad ⟨0x03, pc, []⟩ pc 0
  else match c.code.bundleAt pc with
    | none => .bad ⟨0x03, pc, []⟩ pc ((c.code.syl pc).elim 0 fun h => (Header.dec h).rep)
    | some b => .bundle b

end Sys2Proof.Machine
end

