-- ==== Sys2Proof/Machine/Operands.lean ====
section
/-! DEFINITION. Operand forms: guards, scalar and vector sources with latches, scalar pairs, uniform-select bits,
destinations, and how an operation's outcome becomes a step (spec/02_bundle_encoding.md R53 to R60, R68). -/
namespace Sys2Proof.Machine

/-- An operation takes effect only when its guard is true (R60). -/
def guarded (g : Nat) (s : State) (k : Res) : Res := if s.core.readP g then k else .ok s

/-- A vector source: a register, whose poison raises its cause (R348), or a latch, whose invalidity is cause 0x05 (R56,
R68). The source is the whole register, whatever lanes LM leaves clear: DESIGN CHOICE (log 105). -/
def withV (s : State) (n : Nat) (k : V512 → Res) : Res :=
  if n < 1024 then
    match s.core.cause (.v (physV s.core.loops.rot n)) with
    | some t => .trap t
    | none => k (s.core.readV n)
  else
    let l := s.core.readLatch (n - 1024)
    if l.valid then k l.val else raise 0x05 (n - 1024)

/-- A scalar source of a long operation: x, k, or the low 64 bits of a latch (R56, R68). -/
def withX (s : State) (n : Nat) (k : W64 → Res) : Res :=
  if n < 1024 then k (s.core.readX n)
  else
    let l := s.core.readLatch (n - 1024)
    if l.valid then k (l.val.setWidth 64) else raise 0x05 (n - 1024)

/-- The number of a short operation's scalar source: a k register when its uniform-select bit is set (R53, R54). -/
def selNum (k : Bool) (f : Nat) : Nat := if k then 64 + f else f

/-- The uniform-select bits of an optional extension. -/
def KSel.ofExt : Option KSel → KSel
  | some k => k
  | none => ⟨false, false, false⟩

end Sys2Proof.Machine

namespace Sys2Proof
open Machine

/-- The fields of the short formats as scalar sources (R53, R54). -/
def S3.src2 (o : S3) (c : Core) : W64 := c.readX (selNum (KSel.ofExt o.ext).k2 o.f2)
def S3.src3 (o : S3) (c : Core) : W64 := c.readX (selNum (KSel.ofExt o.ext).k3 o.f3)
def S3X.src2 (o : S3X) (c : Core) : W64 := c.readX (selNum o.k.k2 o.f2)
def S3X.src3 (o : S3X) (c : Core) : W64 := c.readX (selNum o.k.k3 o.f3)
def S2I.src1 (o : S2I) (c : Core) : W64 := c.readX (selNum (KSel.ofExt (o.ext.map Prod.fst)).k1 o.f1)
def S2I.src2 (o : S2I) (c : Core) : W64 := c.readX (selNum (KSel.ofExt (o.ext.map Prod.fst)).k2 o.f2)
def S1I.src1 (o : S1I) (c : Core) : W64 := c.readX (selNum (KSel.ofExt (o.ext.map Prod.fst)).k1 o.f1)
def SC.src2 (o : SC) (c : Core) : W64 := c.readX (selNum (KSel.ofExt o.ext).k2 o.f2)
def SC.src3 (o : SC) (c : Core) : W64 := c.readX (selNum (KSel.ofExt o.ext).k3 o.f3)

/-- The width of an immediate: `n` bits, or `n + e` bits when it is extended (R53). -/
def immWidth (n e : Nat) (ext : Bool) : Nat := if ext then n + e else n

/-- The sign-extended immediates (R53, R94, R110). -/
def S2I.simm (o : S2I) : Int := signed (immWidth 6 28 o.ext.isSome) o.imm
def S1I.simm (o : S1I) : Int := signed (immWidth 12 28 o.ext.isSome) o.imm
def SI.simm (o : SI) : Int := signed (immWidth 18 31 o.ext.isSome) o.imm
def SPI.simm (o : SPI) : Int := signed (immWidth 14 31 o.ext.isSome) o.imm

end Sys2Proof

namespace Sys2Proof.Machine

/-- The write of a scalar result to logical xD, renamed at issue (R37). -/
def Core.toX (c : Core) (d : Nat) (v : W64) : Eff := .x (physX c.loops.rot d) v
def Core.toP (c : Core) (d : Nat) (b : Bool) : Eff := .p (physP c.loops.rot d) b
def Core.toV (c : Core) (d : Nat) (v : V512) : Eff := .v (physV c.loops.rot d) v

/-- The writes of a long operation's vector result: the register unless WBS is set (R57). -/
def vdst (o : Long) (c : Core) (v : V512) : List Eff := if o.wbs then [] else [c.toV o.dst v]

/-- A flag as the number a latch or a scalar holds. -/
def boolV (b : Bool) : V512 := BitVec.ofNat 512 (ofBool b)

/-- The view changes of an execution take place at its end (R160), and the ports are free again (R161); what it has read is
forgotten. -/
def State.setViews (s : State) : State :=
  s.mapCore fun c =>
    { c with pad := { c.pad with
        view := c.pad.viewSet.foldl (fun m e => Store.set View.clean m e.1 e.2) c.pad.view, viewSet := [], ports := [], seen := [] } }

/-- How an operation outside the C slot ends as a step of its own: its effects, the trap it raises at its bundle, or a
frozen cycle. The trap's REPLEFT counts the bundle as unrepeated. -/
def settle (s : State) (sl : Slot) (r : Res) : Host.Outcome State Fault Refusal :=
  match r with
  | .ok t => .next t.setViews
  | .trap t => .next (s.takeTrap t sl.num false s.core.seq 1 s.core.seq.pc)
  | .freeze f => .next (s.freezeBy f)

end Sys2Proof.Machine
end

