-- ==== Sys2Proof/Machine/Address.lean ====
section
/-! DEFINITION. The address operations of the A slot (spec/09_memory_instructions.md R244; spec/01_task_state.md R20, R21). -/
namespace Sys2Proof.Machine

/-- Put an A-slot result in flight: its writes, and the new VAL in b2 (R244). -/
def aResult (s : State) (val : W64) (effs : List Eff) : Res := .ok (s.result .a 3 effs (some (val.setWidth 512)) 0)

/-- An exact value as VAL, or cause 0x12 with the register's number (R244). -/
def withVal (n : Nat) (v : Int) (k : W64 → Res) : Res :=
  if v < -(2 ^ 63) ∨ 2 ^ 63 ≤ v then raise 0x12 n else k (BitVec.ofInt 64 v)

/-- ALEA (R244). -/
def opAlea (o : S2I) (s : State) : Res :=
  guarded o.g s (withVal o.f1 ((o.src2 s.core).toInt + o.simm) fun v => aResult s v [.aval o.f1 v])
def execAlea (o : S2I) (s : State) : Host.Outcome State Fault Refusal := settle s .a (opAlea o s)

/-- ASET (R244). -/
def opAset (o : S3) (s : State) : Res :=
  let v := o.src2 s.core
  guarded o.g s (aResult s v [.aval o.f1 v, .astep o.f1 ((o.src3 s.core).setWidth 32)])
def execAset (o : S3) (s : State) : Host.Outcome State Fault Refusal := settle s .a (opAset o s)

/-- ASTEP: the stepping of R21 by a signed register (R244). -/
def opAstep (o : S3) (s : State) : Res :=
  guarded o.g s
    (match (s.core.readA o.f1).stepBy (o.src3 s.core).toInt with
     | none => raise 0x12 o.f1
     | some v => aResult s v [.aval o.f1 v])
def execAstep (o : S3) (s : State) : Host.Outcome State Fault Refusal := settle s .a (opAstep o s)

/-- ARING: VAL and STEP stay (R244). -/
def opAring (o : S3) (s : State) : Res :=
  let v := o.src2 s.core
  guarded o.g s
    (aResult s (s.core.readA o.f1).val [.aring o.f1 (v.setWidth 16) ((v >>> 16).setWidth 16)])
def execAring (o : S3) (s : State) : Host.Outcome State Fault Refusal := settle s .a (opAring o s)

/-- The A-slot NOP (R62). -/
def execANop (s : State) : Host.Outcome State Fault Refusal :=
  .next (s.mapCore fun c => { c with sticky := { c.sticky with a := none } })

end Sys2Proof.Machine
end

