-- ==== Sys2Proof/Machine/Crypto.lean ====
section
/-! DEFINITION. The cryptographic functions that the spec names, over natural numbers: SHA-256 (spec/14 R333, spec/20
R402), AES-256 with XTS (spec/19 R399) and GMAC (spec/23 R430), and ECDSA verification on P-256 (spec/20 R402). Their
definitions are those of FIPS 180-4, FIPS 197, IEEE 1619, NIST SP 800-38D and FIPS 186-5. -/
namespace Sys2Proof.Crypto
open Sys2Proof

/-! ## Bytes and words -/

/-- A big-endian list of bytes as a number. -/
def beNat (l : List Byte) : Nat := l.foldl (fun a b => a * 256 + b.toNat) 0
/-- The `n` bytes of a number, big-endian. -/
def beBytes (n v : Nat) : List Byte := (toBytes n v).reverse

/-- Rotate a 32-bit word right. -/
def rotr (x n : Nat) : Nat := x / 2 ^ n + x % 2 ^ n * 2 ^ (32 - n)

def xor3 (a b c : Nat) : Nat := Nat.xor a (Nat.xor b c)

/-! ## SHA-256 -/

/-- The exclusive or of a word's rotations. -/
def spin (x : Nat) (by_ : List Nat) : Nat := (by_.map (rotr x)).foldl Nat.xor 0

/-- The largest number below `r + 2 ^ b` whose `k`th power does not exceed `n`. -/
def rootFrom (k n : Nat) : Nat → Nat → Nat
  | 0, r => r
  | b + 1, r => rootFrom k n b (if (r + 2 ^ b) ^ k ≤ n then r + 2 ^ b else r)

/-- The first 32 bits of the fraction of the `k`th root of `p`. -/
def rootFraction (k p : Nat) : Nat := rootFrom k (p * 2 ^ (32 * k)) 37 0 % 2 ^ 32

/-- The primes below 312, the first 64. -/
def smallPrimes : List Nat := (List.range 312).filter fun n => 2 ≤ n && [2, 3, 5, 7, 11, 13, 17].all fun d => n == d || n % d != 0

/-- Where the hash starts, newest word of each half first: the square roots of the first eight primes. -/
def shaStart : List Nat × List Nat :=
  let l := (smallPrimes.take 8).map (rootFraction 2)
  (l.take 4, l.drop 4)

/-- `n` more words of the message schedule on those already there, newest first. -/
def moreWords : Nat → List Nat → List Nat
  | 0, w => w
  | n + 1, w =>
    let back (i : Nat) : Nat := w.getD (i - 1) 0
    let low := Nat.xor (spin (back 15) [7, 18]) (back 15 / 2 ^ 3)
    let high := Nat.xor (spin (back 2) [17, 19]) (back 2 / 2 ^ 10)
    moreWords n ((back 16 + low + back 7 + high) % 2 ^ 32 :: w)

/-- One round on the two halves of the state, four words each, newest first; `m` is the sum of the round's constant and
word. -/
def shaTurn (v : List Nat × List Nat) (m : Nat) : List Nat × List Nat :=
  match v with
  | (a :: b :: c :: d :: _, e :: f :: g :: h :: _) =>
    let pick := Nat.xor g (Nat.land e (Nat.xor f g))
    let most := Nat.lor (Nat.land a (Nat.lor b c)) (Nat.land b c)
    let sum := m + h + pick + spin e [6, 11, 25]
    ([(sum + most + spin a [2, 13, 22]) % 2 ^ 32, a, b, c], [(sum + d) % 2 ^ 32, e, f, g])
  | v => v

/-- The state after a 64-byte block. -/
def shaStep (v : List Nat × List Nat) (block : List Byte) : List Nat × List Nat :=
  let first := (List.range 16).map fun i => beNat ((block.drop (4 * i)).take 4)
  let w := (moreWords 48 first.reverse).reverse
  let u := (List.zipWith (· + ·) (smallPrimes.map (rootFraction 3)) w).foldl shaTurn v
  let add := List.zipWith fun a b => (a + b) % 2 ^ 32
  (add v.1 u.1, add v.2 u.2)

/-- The state after `n` blocks of a padded message. -/
def shaRun : Nat → List Nat × List Nat → List Byte → List Nat × List Nat
  | 0, v, _ => v
  | n + 1, v, m => shaRun n (shaStep v (m.take 64)) (m.drop 64)

/-- SHA-256 of a byte string, its 32 bytes read big-endian. -/
def sha256 (m : List Byte) : Nat :=
  let fill := List.replicate ((119 - m.length % 64) % 64) (0 : Byte)
  let v := shaRun ((m.length + fill.length + 9) / 64) shaStart (m ++ 0x80 :: (fill ++ beBytes 8 (8 * m.length)))
  (v.1 ++ v.2).foldl (fun a x => a * 2 ^ 32 + x) 0

/-! ## AES-256 -/

/-- Multiply by x in GF(2^8). -/
def xtime (a : Nat) : Nat := if a < 128 then 2 * a else Nat.xor (2 * a - 256) 0x1B

/-- The product in GF(2^8), over `n` bits of `b`. -/
def gmul (a b : Nat) : Nat → Nat
  | 0 => 0
  | n + 1 => Nat.xor (if b % 2 = 1 then a else 0) (gmul (xtime a) (b / 2) n)

def gsq (a : Nat) : Nat := gmul a a 8

/-- The inverse in GF(2^8), a^254. -/
def ginv (a : Nat) : Nat :=
  let a2 := gsq a
  let a4 := gsq a2
  let a8 := gsq a4
  let a16 := gsq a8
  let a32 := gsq a16
  let a64 := gsq a32
  let a128 := gsq a64
  gmul a128 (gmul a64 (gmul a32 (gmul a16 (gmul a8 (gmul a4 a2 8) 8) 8) 8) 8) 8

def rotl8 (x n : Nat) : Nat := (x * 2 ^ n) % 256 + x / 2 ^ (8 - n)

/-- The S-box and its inverse. -/
def sbox (a : Nat) : Nat :=
  let b := ginv a
  Nat.xor b (Nat.xor (rotl8 b 1) (Nat.xor (rotl8 b 2) (Nat.xor (rotl8 b 3) (Nat.xor (rotl8 b 4) 0x63))))
def sboxInv (a : Nat) : Nat := ginv (xor3 (rotl8 a 1) (rotl8 a 3) (Nat.xor (rotl8 a 6) 0x05))

/-- A key expansion word from the previous words, newest first; `i` is its number. -/
def keyWord (ws : List (List Nat)) (i rcon : Nat) : List Nat :=
  let prev := (ws[0]?).getD []
  let old := (ws[7]?).getD []
  let t :=
    if i % 8 = 0 then
      match prev with
      | [a, b, c, d] => [Nat.xor (sbox b) rcon, sbox c, sbox d, sbox a]
      | l => l
    else if i % 8 = 4 then prev.map sbox
    else prev
  List.zipWith Nat.xor old t

/-- The expanded key's words, newest first. -/
def expand : Nat → Nat → Nat → List (List Nat) → List (List Nat)
  | 0, _, _, ws => ws
  | n + 1, i, rcon, ws => expand n (i + 1) (if i % 8 = 0 then xtime rcon else rcon) (keyWord ws i rcon :: ws)

/-- Groups of four. -/
def quads : List Nat → List (List Nat)
  | a :: b :: c :: d :: r => [a, b, c, d] :: quads r
  | _ => []

/-- The 15 round keys of a 256-bit key given as its 32 bytes. -/
def roundKeys (key : List Nat) : List (List Nat) :=
  let ws := (expand 52 8 1 (quads key).reverse).reverse
  (List.range 15).map fun r => ((ws.drop (4 * r)).take 4).flatten

def addKey (s k : List Nat) : List Nat := List.zipWith Nat.xor s k

/-- ShiftRows, and its inverse, on 16 bytes in column order. -/
def shiftRows (s : List Nat) : List Nat := (List.range 16).map fun i => (s[(i + 4 * (i % 4)) % 16]?).getD 0
def shiftRowsInv (s : List Nat) : List Nat := (List.range 16).map fun i => (s[(i + 12 * (i % 4)) % 16]?).getD 0

/-- One column times the circulant matrix with first row `m`. -/
def mixColumn (m cl : List Nat) : List Nat :=
  (List.range 4).map fun r =>
    (List.range 4).foldl (fun x k => Nat.xor x (gmul ((cl[k]?).getD 0) ((m[(k + 4 - r) % 4]?).getD 0) 8)) 0
def mixWith (m s : List Nat) : List Nat := ((quads s).map (mixColumn m)).flatten

/-- AES-256 of one 16-byte block. -/
def aesEncrypt (rk : List (List Nat)) (s : List Nat) : List Nat :=
  match rk with
  | [] => s
  | k0 :: ks =>
    let s1 := (ks.dropLast).foldl (fun s k => addKey (mixWith [2, 3, 1, 1] (shiftRows (s.map sbox))) k) (addKey s k0)
    addKey (shiftRows (s1.map sbox)) (ks.getLastD [])
def aesDecrypt (rk : List (List Nat)) (s : List Nat) : List Nat :=
  match rk.reverse with
  | [] => s
  | k0 :: ks =>
    let s1 := (ks.dropLast).foldl (fun s k => mixWith [14, 11, 13, 9] (addKey ((shiftRowsInv s).map sboxInv) k)) (addKey s k0)
    addKey ((shiftRowsInv s1).map sboxInv) (ks.getLastD [])

def natBytes (n v : Nat) : List Nat := (toBytes n v).map BitVec.toNat
def bytesNat (l : List Nat) : Nat := l.foldr (fun b a => b + 256 * a) 0

/-! ## XTS -/

/-- Multiply a tweak, read little-endian, by the primitive element of GF(2^128). -/
def xtsDouble (t : Nat) : Nat := if t < 2 ^ 127 then 2 * t else Nat.xor (2 * t - 2 ^ 128) 0x87

/-- The blocks of a data unit, each XORed before and after the cipher with its tweak. -/
def xtsBlocks (f : List Nat → List Nat) : Nat → Nat → Nat → Nat
  | 0, _, _ => 0
  | n + 1, t, v =>
    let b := bytesNat (f (natBytes 16 (Nat.xor (v % 2 ^ 128) t)))
    Nat.xor b t + xtsBlocks f n (xtsDouble t) (v / 2 ^ 128) * 2 ^ 128

/-- AES-XTS-256 of a 64-byte granule, encrypted or decrypted, under a data key, a tweak key and a tweak (R399). -/
def xts (enc : Bool) (key1 key2 tweak v : Nat) : Nat :=
  let rk := roundKeys (natBytes 32 key1)
  let t := bytesNat (aesEncrypt (roundKeys (natBytes 32 key2)) (natBytes 16 tweak))
  xtsBlocks (if enc then aesEncrypt rk else aesDecrypt rk) 4 t v

/-! ## GMAC -/

/-- The product in GF(2^128) of GCM, whose bit 0 is the most significant, over `n` bits of `x` from the top. -/
def ghashMul (x : Nat) : Nat → Nat → Nat → Nat
  | 0, _, z => z
  | n + 1, v, z =>
    ghashMul x n (if v % 2 = 1 then Nat.xor (v / 2) (0xE1 * 2 ^ 120) else v / 2) (if bit x n then Nat.xor z v else z)

/-- GHASH over a list of 16-byte blocks read big-endian. -/
def ghash (h : Nat) (blocks : List Nat) : Nat := blocks.foldl (fun y b => ghashMul (Nat.xor y b) 128 h 0) 0

/-- The AES-256-GMAC tag of a message whose length is a multiple of 16 bytes, under a 96-bit nonce. -/
def gmac (key : Nat) (nonce : List Nat) (m : List Byte) : Nat :=
  let rk := roundKeys (natBytes 32 key)
  let beOf (l : List Nat) : Nat := l.foldl (fun a b => a * 256 + b) 0
  let h := beOf (aesEncrypt rk (List.replicate 16 0))
  let blocks := (List.range (m.length / 16)).map fun i => beNat ((m.drop (16 * i)).take 16)
  let e := beOf (aesEncrypt rk (nonce ++ [0, 0, 0, 1]))
  Nat.xor (ghash h (blocks ++ [8 * m.length * 2 ^ 64])) e

/-! ## ECDSA on P-256 -/

def p256p : Nat := 2 ^ 256 - 2 ^ 224 + 2 ^ 192 + 2 ^ 96 - 1
def p256n : Nat := 0xFFFFFFFF00000000FFFFFFFFFFFFFFFFBCE6FAADA7179E84F3B9CAC2FC632551
def p256b : Nat := 0x5AC635D8AA3A93E7B3EBBD55769886BC651D06B0CC53B0F63BCE3C3E27D2604B
def p256g : Nat × Nat :=
  (0x6B17D1F2E12C4247F8BCE6E563A440F277037D812DEB33A0F4A13945D898C296,
   0x4FE342E2FE1A7F9B8EE7EB4A7C0F9E162BCE33576B315ECECBB6406837BF51F5)

/-- b^e mod m over `n` bits of `e`. -/
def powMod (m b e : Nat) : Nat → Nat
  | 0 => 1 % m
  | n + 1 =>
    let r := powMod m b (e / 2) n
    if e % 2 = 1 then r * r % m * b % m else r * r % m
def invMod (m a : Nat) : Nat := powMod m (a % m) (m - 2) 256
def subMod (m a b : Nat) : Nat := (a + m - b % m) % m

/-- The sum of two points of the curve; none is the point at infinity. -/
def ecAdd (a b : Option (Nat × Nat)) : Option (Nat × Nat) :=
  match a, b with
  | none, _ => b
  | _, none => a
  | some (x1, y1), some (x2, y2) =>
    if x1 = x2 ∧ (y1 + y2) % p256p = 0 then none
    else
      let l := if x1 = x2 then subMod p256p (3 * x1 * x1) 3 * invMod p256p (2 * y1) % p256p
               else subMod p256p y2 y1 * invMod p256p (subMod p256p x2 x1) % p256p
      let x3 := subMod p256p (subMod p256p (l * l) x1) x2
      some (x3, subMod p256p (l * subMod p256p x1 x3) y1)

/-- A multiple of a point, over `n` bits of the factor. -/
def ecMul (k : Nat) (a : Option (Nat × Nat)) : Nat → Option (Nat × Nat)
  | 0 => none
  | n + 1 =>
    let r := ecMul (k / 2) a n
    let d := ecAdd r r
    if k % 2 = 1 then ecAdd d a else d

/-- A public key is a point of the curve. -/
def onCurve (x y : Nat) : Bool := x < p256p && y < p256p && y * y % p256p == subMod p256p (x * x * x + p256b) (3 * x)

/-- The signature (r, s) verifies over a digest. -/
def ecdsaVerify (x y r s digest : Nat) : Bool :=
  onCurve x y && 0 < r && r < p256n && 0 < s && s < p256n &&
    (let w := invMod p256n s
     match ecAdd (ecMul (digest * w % p256n) (some p256g) 256) (ecMul (r * w % p256n) (some (x, y)) 256) with
     | none => false
     | some (v, _) => v % p256n == r)

end Sys2Proof.Crypto
end

