-- ==== Sys2Proof/Machine/Errors.lean ====
section
/-! DEFINITION. Check values, the error log and error injection (spec/15_die_clocks_errors.md R348 to R351). -/
namespace Sys2Proof.Machine

/-- One bit into a CRC-16 with polynomial 0x1021 (R349). -/
def crcBit (c : BitVec 16) (b : Bool) : BitVec 16 :=
  if Bool.xor (c.getLsbD 15) b then (c <<< 1) ^^^ 0x1021 else c <<< 1

/-- One byte, most significant bit first. -/
def crcByte (c : BitVec 16) (x : Byte) : BitVec 16 :=
  [7, 6, 5, 4, 3, 2, 1, 0].foldl (fun c i => crcBit c (x.getLsbD i)) c

/-- The check value of a granule: CRC-16, initial 0xFFFF, no reflection, no final XOR (R349). -/
def checkValue (bytes : List Byte) : BitVec 16 := bytes.foldl crcByte 0xFFFF

/-- The check value that stands beside a granule in SRAM and HBM metadata (R349): that of its bytes, inverted where the
granule's error says so. -/
def storedCheck (v : V512) (x : Flaw) : BitVec 16 :=
  let c := checkValue (toBytes 64 v.toNat)
  if x.check then ~~~c else c

/-- A task where it stands: on a hearth or in an image that waits to resume (R262). -/
def State.taskCore (s : State) (launch ord : Nat) : Option Core :=
  (s.core :: (s.others.map Prod.snd ++ s.images.map (·.image))).find? fun c => c.holds launch ord

/-- A write to an array that a task's queues make on its behalf: an injection that the task armed for the array fires wherever the
task stands, and MODE returns to 0 (R350). The answer is the error that it makes of what is written. -/
def State.fireFor (s : State) (t : Nat × Nat) (array : Nat) : Flaw × State :=
  match s.taskCore t.1 t.2 with
  | none => (Flaw.clean, s)
  | some c =>
    let w := c.st.einj
    if einjHits w array 0 then
      (if array = 6 || array = 7 then (einjFlaw w).granule else einjFlaw w,
        s.mapTask t.1 t.2 fun c => { c with st := { c.st with einj := einjSpent w } })
    else (Flaw.clean, s)

/-- A write to a scratchpad unit or a vector register of the hearth in focus: an armed injection that selects it fires
(R350). -/
def State.fireOwn (s : State) (p : OwnUnit) : State :=
  let w := s.core.st.einj
  if einjHits w p.array p.unit then
    s.mapCore fun c => ({ c with st := { c.st with einj := einjSpent w } }).mapFlaw p (·.with_ (einjFlaw w))
  else s

/-- A register of the hearth is written whole. -/
def Core.wholeWrite (c : Core) (p : OwnUnit) : Core := if c.bad.isEmpty then c else c.mapFlaw p fun _ => Flaw.clean

/-- A 64-bit word of a register is written. -/
def Core.wordWrite (c : Core) (p : OwnUnit) (w : Nat) : Core := if c.bad.isEmpty then c else c.mapFlaw p (·.rewritten [w] false)

/-- Some places of the scratchpad are written, among them of unit `u`: a 64-bit word of which only a part is written is read
first, whose error stays unless it can be corrected, and a whole one is written anew (R348, R349). -/
def State.wroteUnit (s : State) (u : Nat) (places : List Nat) : State :=
  let t :=
    if s.core.bad.isEmpty then s
    else
      let mine := places.filter (· / 64 == u)
      let n (w : Nat) : Nat := (mine.filter fun q => q % 64 / 8 == w).length
      let ws := List.range 8
      (s.sawWords s.core.task.ctx (.pad u) (ws.filter fun w => 0 < n w && n w < 8)).mapCore fun c =>
        c.mapFlaw (.pad u) fun x => x.rewritten (ws.filter (n · == 8)) (mine.length == 64)
  t.fireOwn (.pad u)

end Sys2Proof.Machine
end

