-- ==== Sys2Proof/Machine/Cells.lean ====
section
/-! DEFINITION. Granules as they are stored outside the package's dies: encrypted, with the check value of their plaintext and
their ECC, in the HBM stacks and in LPDDR-6 (spec/19_package_memory.md R398 to R400; spec/15 R348, R349). -/
namespace Sys2Proof.Machine

def State.stackAt (s : State) (k : Nat) : Stack := Store.get Stack.init s.hbmStacks k
def State.setStack (s : State) (k : Nat) (x : Stack) : State := { s with hbmStacks := Store.set Stack.init s.hbmStacks k x }

/-- The key slot n (R400). -/
def State.keyAt (s : State) (n : Nat) : KeySlot := Store.get KeySlot.empty s.keys n

/-- A page (R366). -/
def pageBytes : Nat := 4096

/-- The physical address of granule `i` of a page of a die's HBM (log 17). -/
def hbmPageAddr (d page i : Nat) : Nat := d * 2 ^ 37 + page * pageBytes + 64 * i

/-- Pages alternate between the home die's two stacks: the stack of an HBM address and the granule index in it (R391,
log 17). -/
def hbmPlace (a : Nat) : Nat × Nat :=
  let p := a % 2 ^ 37 / pageBytes
  (a / 2 ^ 37 * 2 + p % 2, p / 2 * 64 + a / 64 % 64)

/-- The tweak of an HBM granule, and of granule `i` of a spill page (R399). -/
def hbmTweak (k g : Nat) : Nat := k * 2 ^ 30 + g
def spillTweak (page i : Nat) : Nat := 2 ^ 40 + page * 64 + i

/-- A granule as it is stored under a key slot and a tweak: encrypted, with its check value; the error that it holds flips bits
of the two (R348 to R350, R399). -/
def State.cellOf (s : State) (key tweak : Nat) (v : V512) (x : Flaw) : HbmCell :=
  let ks := s.keyAt key
  ⟨BitVec.ofNat 512 (Crypto.xts true ks.key1.toNat ks.key2.toNat tweak v.toNat) ^^^ x.bits, storedCheck v x, x⟩

/-- A single flipped bit is corrected (R348). -/
def HbmCell.corrected (c : HbmCell) : HbmCell :=
  if c.flaw.kind = 3 then { c with cipher := c.cipher ^^^ c.flaw.bits, flaw := c.flaw.corrected c.flaw.words } else c

/-- The plaintext of a stored granule, after correction. -/
def State.openCell (s : State) (key tweak : Nat) (c : HbmCell) : V512 :=
  let ks := s.keyAt key
  BitVec.ofNat 512 (Crypto.xts false ks.key1.toNat ks.key2.toNat tweak c.corrected.cipher.toNat)

/-- Store a granule in a stack, or remove what it held. -/
def State.setCell (s : State) (k g : Nat) (c : Option HbmCell) : State :=
  s.setStack k { s.stackAt k with cells := Store.set none (s.stackAt k).cells g c }
/-- Encrypt and store a granule in a stack (R394, R399). -/
def State.writeCell (s : State) (k g key : Nat) (v : V512) (x : Flaw) : State :=
  s.setCell k g (some (s.cellOf key (hbmTweak k g) v x))
/-- A single flipped bit of a stored granule is corrected in place (R348). -/
def State.correctCell (s : State) (k g : Nat) : State :=
  match Store.get none (s.stackAt k).cells g with
  | some c => if c.flaw.kind = 3 then s.setCell k g (some c.corrected) else s
  | none => s
/-- A granule of a stack no longer holds what it did, and the writes to it that are on their way are done (R367). -/
def State.freeCell (s : State) (k g : Nat) : State :=
  let done (r : HbmReq) : HbmReq := if r.gran = g ∧ r.op ≠ 0 ∧ r.reply.isNone = true then { r with reply := some (0, 0, 0) } else r
  let x := s.stackAt k
  s.setStack k { x with queue := x.queue.map done, cells := Store.set none x.cells g none }
/-- The same of a spill page's granule. -/
def State.correctSpill (s : State) (i : Nat) : State :=
  match Store.get none s.spill i with
  | some c => if c.flaw.kind = 3 then { s with spill := Store.set none s.spill i (some c.corrected) } else s
  | none => s
/-- Store a granule of a spill page, by page × 64 + granule, or remove what it held (R398). -/
def State.setSpill (s : State) (i : Nat) (c : Option HbmCell) : State := { s with spill := Store.set none s.spill i c }

end Sys2Proof.Machine
end

