-- ==== Sys2Proof/Machine/Race.lean ====
section
/-! DEFINITION. The race detector: records, joins and the race map (spec/13_die_memory_model.md R304, R314 to R317). -/
namespace Sys2Proof.Machine

/-- An entry of a task's record or of the map: launch, ordinal, epoch (R315). -/
abbrev Tag := Nat × Nat × Nat

/-- Two entries of one task. -/
def sameTask (a b : Tag) : Bool := a.1 == b.1 && a.2.1 == b.2.1

/-- The maximum of a record with one entry. -/
def joinTag (l : List Tag) (t : Tag) : List Tag :=
  if l.any (sameTask t) then l.map fun u => if sameTask t u then (u.1, u.2.1, max u.2.2 t.2.2) else u else l ++ [t]

/-- The maximum of two records. -/
def joinTags (a b : List Tag) : List Tag := b.foldl joinTag a

/-- A record holds at most 8 entries (R315). -/
def recordSize : Nat := 8

/-- A task's own entry at its epoch. -/
def Core.ownTag (c : Core) : Tag := (c.task.launch, c.task.ord, c.race.epoch)

/-- The entry of no task (launches are numbered from 1), by which a record that leaves a saturated task says so: whoever joins
it is saturated too, so that no ordered pair is ever reported (R317). -/
def satTag : Tag := (0, 0, 0)

/-- A task's record as it leaves the task. -/
def recordOf (known : List Tag) (sat : Bool) : List Tag := if sat then known ++ [satTag] else known

/-- The record that a task hands on, with its own entry at an epoch (R315). -/
def carried (known : List Tag) (sat : Bool) (own : Tag) : List Tag := recordOf (joinTag known own) sat

/-- What a task's record becomes when it joins `q`, and whether it is saturated then (R315): entries beyond 8 are dropped. -/
def joined (known q : List Tag) : List Tag × Bool :=
  let all := joinTags known (q.filter (· != satTag))
  (all.take recordSize, recordSize < all.length || q.contains satTag)

/-- A task of a context has become saturated: SATCNT counts it (R314, R315). -/
def State.countSat (s : State) (ctx : Nat) : State := s.mapCtx ctx fun c => { c with satCnt := min (c.satCnt + 1) 255 }

/-- A task acquires a record (R315). SATCNT counts a task once, when it becomes saturated, as RACECTL's table has it (R314): the
pseudocode would count each overflowing acquire, DESIGN CHOICE (log 96). -/
def State.acquire (s : State) (q : List Tag) : State :=
  let r := s.core.race
  let j := joined r.known q
  let s1 := s.mapCore fun c => { c with race := { c.race with known := j.1, sat := c.race.sat || j.2 } }
  if j.2 && !r.sat then s1.countSat s.core.task.ctx else s1

/-- The entries of one die's map, 4 Mi of them (R315). -/
def mapSize : Nat := 4194304

/-- The granule address: handle and granule (R304). -/
def granAddr (handle g : Nat) : Nat := handle * 2 ^ 32 + g

/-- The identity under which an access is checked: the task's tag and epoch, its record and saturation when it issued
the access, and its request (R315, R317). -/
structure Who where
  ctx : Nat
  tag : Tag
  known : List Tag
  sat : Bool
  req : Nat
  deriving DecidableEq, Repr

/-- A report of an access of request `req` to granule `g`: the address, of which TRAPADDR shows the low 64 bits, with the
request above them, so that each access is reported for itself (R316). -/
def Who.reported (w : Who) (g : Nat) : Nat := g + w.req * 2 ^ 64

/-- The access is ordered after an entry. -/
def Who.ordered (w : Who) (u : Tag) : Bool := sameTask w.tag u || w.known.any fun k => sameTask k u && u.2.2 ≤ k.2.2

/-- The entry of an access in a granule's reader set. -/
def addReader (l : List Tag) (t : Tag) : List Tag × Bool :=
  if l.any (sameTask t) then (joinTag l t, false) else if l.length < 4 then (l ++ [t], false) else (l, true)

/-- An access to granule `g` is checked at home die `d` (R315): whether it is reported, and the map after it. -/
def State.raceAccess (s : State) (d : Nat) (w : Who) (g : Nat) (write : Bool) : Bool × State :=
  match s.ctx? w.ctx with
  | none => (false, s)
  | some c =>
    if !c.raceOn then (false, s)
    else
      let m := (s.dieAt d).raceMap
      match m.find? fun e => e.ctx == w.ctx && e.gran == g with
      | none =>
        if mapSize ≤ m.length then (false, s.mapCtx w.ctx fun c => { c with mapFull := true })
        else
          let e : RaceEntry := if write then ⟨w.ctx, g, some w.tag, []⟩ else ⟨w.ctx, g, none, [w.tag]⟩
          (false, s.mapDie d fun x => { x with raceMap := m ++ [e] })
      | some e =>
        let others := (match e.writer with | some u => [u] | none => []) ++ (if write then e.readers else [])
        if !w.sat && others.any (fun u => !w.ordered u) then (true, s)
        else
          let rd := addReader e.readers w.tag
          let e' : RaceEntry := if write then { e with writer := some w.tag, readers := [] } else { e with readers := rd.1 }
          let s1 := s.mapDie d fun x =>
            { x with raceMap := m.map fun y => if y.ctx == w.ctx && y.gran == g then e' else y }
          (false, if !write && rd.2 then s1.mapCtx w.ctx fun c => { c with rdrFull := true } else s1)

/-- A report waits for its task's next point of use, wherever the task is; `q` is its queue's bit in a QFENCE mask (R316). A
task that has ended raises nothing. -/
def State.report (s : State) (q g : Nat) (w : Who) : State :=
  s.mapTask w.tag.1 w.tag.2.1 fun c => { c with race := { c.race with reports := c.race.reports ++ [(q, w.reported g)] } }

end Sys2Proof.Machine
end

