-- ==== Sys2Proof/Machine/L2.lean ====
section
/-! DEFINITION. Tensor images, their pages, the square L2 and the memory-side cache: geometry of a record, lines, victims,
coherent reads and writes of granules, and the page copies that a first write takes (spec/18_package_residency.md R365 to
R370, R376, R382; spec/11_square_streets.md R281 to R284; spec/13_die_memory_model.md R310, R311; spec/09 R239;
spec/19_package_memory.md R391, R398). -/
namespace Sys2Proof.Machine

/-! ## Records (R366) -/

/-- The format of a record. -/
def Rec.format (r : Rec) : Fmt := if r.raw then .n8 else (Fmt.ofCode r.fmt).getD .n8
/-- Element width in bits (R366). -/
def Rec.width (r : Rec) : Nat := if r.raw then 8 else r.format.width
/-- A record in an MX format. -/
def Rec.isMx (r : Rec) : Bool := !r.raw && r.format.isMx
/-- The number of elements. -/
def Rec.elems (r : Rec) : Nat := r.ext.foldl (· * ·) 1
/-- Bytes of the element plane. -/
def Rec.planeBytes (r : Rec) : Nat := ceilDiv (r.elems * r.width) 8
/-- Where an MX tensor's scale plane begins (R135). -/
def Rec.scaleBase (r : Rec) : Nat := ceilDiv r.planeBytes 64 * 64
/-- BYTES (R366). -/
def Rec.bytes (r : Rec) : Nat := if r.isMx then r.scaleBase + r.elems / 32 else r.planeBytes
/-- The footprint of an unpacked tensor (R366). -/
def Rec.fullFootprint (r : Rec) : Nat := ceilDiv r.bytes pageBytes * pageBytes
/-- A tensor's footprint in the tier it lies in (R366, R371, R376). -/
def Rec.footprint (r : Rec) : Nat := if r.packed = 0 then r.fullFootprint else r.packed
/-- The record is packed (R365). -/
def Rec.isPacked (r : Rec) : Bool := match r.tier with | .poolPacked => true | .hbmPacked => true | _ => r.packed != 0
/-- The strides in bits, outermost first (R366). -/
def stridesOf (w : Nat) : List Nat → List Nat
  | [] => []
  | _ :: es => es.foldl (· * ·) w :: stridesOf w es

/-- The record of a handle in a context, live or retained. -/
def State.recAt (s : State) (ctx h : Nat) : Option Rec := s.recs.find? fun r => r.ctx == ctx && r.handle == h
/-- The live record of a handle. -/
def State.liveRec (s : State) (ctx h : Nat) : Option Rec := s.recs.find? fun r => r.ctx == ctx && r.handle == h && r.live
/-- Change a record. -/
def State.mapRec (s : State) (ctx h : Nat) (f : Rec → Rec) : State :=
  { s with recs := s.recs.map fun r => if r.ctx = ctx ∧ r.handle = h then f r else r }

/-- TIER's code (R365). -/
def Tier.code : Tier → Nat
  | .pool => 0 | .hbm => 1 | .lpddr => 2 | .poolPacked => 3 | .hbmPacked => 4 | .dropped => 5

/-- The tier lies in the pool, or in HBM (R365). -/
def Rec.inPool (r : Rec) : Bool := match r.tier with | .pool => true | .poolPacked => true | _ => false
def Rec.inHbm (r : Rec) : Bool := match r.tier with | .hbm => true | .hbmPacked => true | _ => false
/-- The tensor is spilled or dropped. -/
def Rec.away (r : Rec) : Bool := r.tier.away

/-! ## Pages (R366, R367, R370, R391, R398) -/

/-- Where pages lie: the pool or the HBM of a die, or the spill space of the package. -/
inductive Area where
  | pool (d : Nat)
  | hbm (d : Nat)
  | spill
  deriving DecidableEq, Repr

/-- The area of a record's pages; a dropped tensor has none until it is rebuilt in its placement tier (R379). -/
def Rec.area (r : Rec) : Option Area :=
  match r.tier with
  | .pool | .poolPacked => some (.pool r.home)
  | .hbm | .hbmPacked => some (.hbm r.home)
  | .lpddr => some .spill
  | .dropped => if r.rebuild = 0 then none else some (if r.place = 0 then .pool r.home else .hbm r.home)

/-- The pages of one pool way, 96 MiB (R370). -/
def wayPages : Nat := 24576

/-- The pages that an area has: POOLWAYS ways of pool (R370), the two stacks of a die (R391), 32 channels of 32 GiB where
LPDDR-6 is present (R3, R398). -/
def State.areaPages (s : State) : Area → Nat
  | .pool d => (s.dieAt d).poolWays * wayPages
  | .hbm _ => 2 ^ 25
  | .spill => if s.lpddr then 2 ^ 28 else 0

/-- The channel of a spill page (R398). -/
def spillChannel (page : Nat) : Nat := page % 32

/-- Put a span of pages in order of its first page. -/
def insertSpan (x : Nat × Nat) : List (Nat × Nat) → List (Nat × Nat)
  | [] => [x]
  | y :: r => if x.1 ≤ y.1 then x :: y :: r else y :: insertSpan x r

/-- The free spans from page `lo` to page `cap` beside used ones in rising order. -/
def gapsFrom (cap : Nat) : Nat → List (Nat × Nat) → List (Nat × Nat)
  | lo, [] => if lo < cap then [(lo, cap - lo)] else []
  | lo, (f, k) :: r =>
    (if lo < min f cap then [(lo, min f cap - lo)] else []) ++ gapsFrom cap (max lo (f + k)) r

/-- The lowest `n` pages of some free spans. -/
def takePages (n : Nat) : List (Nat × Nat) → Option (List (Nat × Nat))
  | [] => if n = 0 then some [] else none
  | (f, k) :: r =>
    if n = 0 then some []
    else if n ≤ k then some [(f, n)]
    else (takePages (n - k) r).map ((f, k) :: ·)

/-- The pages of a die's overflow area, the last ones of its HBM (spec/12 R287): DESIGN CHOICE (log 17). -/
def State.overflowPages (s : State) (d : Nat) : Nat := ceilDiv (s.dieAt d).ovfWords 512

/-- The pages of an area that hold no tensor: those that repairs have taken out (R410, R411), of a die's HBM the overflow area and
the page copies that tensors homed there have (R382). -/
def State.lostPages (s : State) : Area → List (Nat × Nat)
  | .hbm d => (s.stackAt (2 * d)).repaired ++ [(2 ^ 25 - s.overflowPages d, s.overflowPages d)] ++
      (s.recs.filter fun r => r.home == d).flatMap fun r => r.copies.map fun e => (e.2, 1)
  | .spill => s.spillLost
  | .pool _ => []

/-- The spans of an area that records other than one hold or that are out of use, in rising order. -/
def State.usedPages (s : State) (a : Area) (ctx h : Nat) : List (Nat × Nat) :=
  (s.lostPages a ++ (s.recs.filter fun r => r.area == some a && !(r.ctx == ctx && r.handle == h)).flatMap (·.pages)).foldl
    (fun l x => insertSpan x l) []

/-- The highest free page of a die's HBM, where a page copy goes (R382): DESIGN CHOICE (log 17). -/
def State.reservePage (s : State) (d : Nat) : Option Nat :=
  ((gapsFrom (s.areaPages (.hbm d)) 0 (s.usedPages (.hbm d) 0 0)).getLast?).map fun g => g.1 + g.2 - 1


/-- The pages that `n` bytes of a tensor get in an area: the lowest that are free below `cap`; none when they do not fit
(log 17). -/
def State.pagesBelow (s : State) (a : Area) (cap ctx h n : Nat) : Option (List (Nat × Nat)) :=
  takePages (ceilDiv n pageBytes) (gapsFrom cap 0 (s.usedPages a ctx h))
def State.pagesFor (s : State) (a : Area) (ctx h n : Nat) : Option (List (Nat × Nat)) :=
  s.pagesBelow a (s.areaPages a) ctx h n

/-- Page `n` of some spans; beyond them a number that no area has. -/
def pageIn : List (Nat × Nat) → Nat → Nat
  | [], n => 2 ^ 28 + n
  | (f, k) :: r, n => if n < k then f + n else pageIn r (n - k)

/-- The physical address of 64-byte unit `u` of a tensor's allocation: the dies' HBM lies from 0 on, their stacked SRAM from
2^40 on, the spill space from 2^42 on (log 17). -/
def Rec.unitAddr (r : Rec) (u : Nat) : Nat :=
  let base := match r.area with | some (.hbm d) => d * 2 ^ 37 | some (.pool d) => 2 ^ 40 + d * 2 ^ 31 | _ => 2 ^ 42
  base + pageIn r.pages (u / 64) * pageBytes + 64 * (u % 64)

/-- The address under which the caches of a square hold a granule of a record. A packed tensor's granules lie nowhere as such:
its lines are held by handle and granule, beyond every physical address (log 17). -/
def Rec.phys (r : Rec) (g : Nat) : Nat :=
  if r.packed = 0 then r.unitAddr g else 2 ^ 44 + ((r.ctx * 2 ^ 20 + r.handle) * 2 ^ 34 + g) * 64

/-- Where a granule lies as the error log names it: array, instance, unit in it (R350, R351). -/
def Rec.arrayOf (r : Rec) (g : Nat) : Nat × Nat × Nat :=
  let p := pageIn r.pages (g / 64)
  match r.area with
  | some (.pool _) => (0x05, p / wayPages % 16, p % wayPages * 64 + g % 64)
  | some (.hbm _) => (0x06, (hbmPlace (r.unitAddr g)).1 % 2, (hbmPlace (r.unitAddr g)).2)
  | _ => (0x07, spillChannel p / 2, spillChannel p % 2 * 2 ^ 29 + p / 32 * 64 + g % 64)

/-! ## Lines (R281, R282) -/

/-- The slice of a line: the XOR of eleven 4-bit groups of its address (R281). -/
def l2Slice (a : Nat) : Nat := (List.range 11).foldl (fun x i => Nat.xor x (bits a (6 + 4 * i) 4)) 0
/-- The key of a way of a line's set. -/
def l2Key (a way : Nat) : Nat := (l2Slice a * 2048 + bits a 10 11) * 16 + way
/-- The line that holds an address, of some ways, with its key. -/
def findLine (ws : List (Nat × Option Line)) (a : Nat) : Option (Nat × Line) :=
  ws.findSome? fun e => match e.2 with | some l => if l.addr = a then some (e.1, l) else none | none => none
/-- The ways of a line's set. -/
def Square.ways (q : Square) (a : Nat) : List (Nat × Option Line) :=
  (List.range 16).map fun w => (l2Key a w, Store.get none q.lines (l2Key a w))
def Square.find (q : Square) (a : Nat) : Option (Nat × Line) := findLine (q.ways a) a
def Square.put (q : Square) (k : Nat) (l : Option Line) : Square := { q with lines := Store.set none q.lines k l }

/-- The RRIP value that a hint inserts; none does not allocate (R239). -/
def hintValue (h : Nat) : Option Nat :=
  match h with
  | 0 => some 0 | 1 => some 1 | 2 => some 1 | 3 => some 2 | 4 => some 2 | 5 => some 2 | 6 => some 3 | _ => none

/-- A hit under a hint (R239). -/
def Line.hit (l : Line) (h : Nat) : Line := match hintValue h with | some v => { l with rrpv := min l.rrpv v } | none => l

/-- The victim of a set, after its unpinned ways have aged (R282): its key, the line it holds, and the set. -/
def chooseVictim (ws : List (Nat × Option Line)) : Option (Nat × Option Line × List (Nat × Option Line)) :=
  match ws.find? (fun e => e.2.isNone) with
  | some e => some (e.1, none, ws)
  | none =>
    let free (e : Nat × Option Line) : Bool := match e.2 with | some l => l.pins == 0 | none => true
    let m := (ws.filter free).foldl (fun x e => max x (match e.2 with | some l => l.rrpv | none => 0)) 0
    let aged := ws.map fun e => if free e then (e.1, e.2.map fun l => { l with rrpv := l.rrpv + (3 - m) }) else e
    match aged.find? fun e => free e && (match e.2 with | some l => l.rrpv == 3 | none => false) with
    | some e => some (e.1, e.2, aged)
    | none => none

/-! ## HBM port traffic and the memory-side cache (R239, R370, R391, R394) -/

/-- The pseudo-channel of a granule (R391). -/
def pcOf (gran : Nat) : Nat := Nat.xor (bits (gran * 64) 8 6) (bits (gran * 64) 14 6)

/-- A request enters the port of an HBM address's stack in arrival order (R391). -/
def State.hbmSend (s : State) (key a op : Nat) (data : V512) (mask : W64) (x : Flaw) : State :=
  let (id, s) := s.fresh
  let (k, g) := hbmPlace a
  let st := Store.get Stack.init s.hbmStacks k
  let q : HbmReq := ⟨id, op, pcOf g, key, g, data, mask, x, none, none⟩
  { s with hbmStacks := Store.set Stack.init s.hbmStacks k { st with queue := st.queue ++ [q] } }

/-- The sets of one way of the memory-side cache: 96 MiB of lines (R370). -/
def sideSets : Nat := wayPages * 64
/-- The ways of an address's set in a die's memory-side cache: POOLWAYS to 15 (R370, log 84). -/
def State.sideWays (s : State) (d a : Nat) : List (Nat × Option Line) :=
  ((List.range 16).filter ((s.dieAt d).poolWays ≤ ·)).map fun w =>
    let k := Config.sideSet a % sideSets * 16 + w
    (k, Store.get none (s.dieAt d).side k)
def State.sideFind (s : State) (d a : Nat) : Option (Nat × Line) := findLine (s.sideWays d a) a
def State.sidePut (s : State) (d k : Nat) (l : Option Line) : State :=
  s.mapDie d fun x => { x with side := Store.set none x.side k l }

/-- An error met at a granule of a record's home is logged with the array that holds it (R348, R351). -/
def State.logHome (s : State) (r : Rec) (at_ : Nat × Nat × Nat) (x : Flaw) : State :=
  if x.kind = 0 then s else s.logError r.home (x.entry r.ctx at_.1 at_.2.1 at_.2.2 x.kind)

/-- A granule of a record is stored at its home, with the error that comes with it or that an injection of task `t` makes
(R350). -/
def State.setHome (s : State) (r : Rec) (g : Nat) (x : Flaw) : State :=
  s.mapRec r.ctx r.handle fun r => { r with bad := Store.set Flaw.clean r.bad g x }

/-- A write packet of a granule goes to its stack for task `t` (R391, R394): HBM is written, which an injection may choose
(R350). -/
def State.hbmStore (s : State) (t : Nat × Nat) (r : Rec) (g op : Nat) (v : V512) (mask : Nat) (x : Flaw) : State :=
  let (y, s1) := s.fireFor t 0x06
  (s1.setHome r g (x.with_ y)).hbmSend r.key (r.unitAddr g) op v (BitVec.ofNat 64 mask) (x.with_ y)

/-- A line leaves the memory-side cache: a dirty one is written to its stack for the task that wrote it, and its poison goes with
it; a single flipped bit is corrected on the way (R284, R348, R391). -/
def State.sideOut (s : State) (k : Nat) (l : Line) : State :=
  match s.recAt l.ctx l.handle with
  | none => s
  | some r =>
    if l.dirty then
      (if l.flaw.kind = 3 then s.logHome r (0x05, k % 16, k / 16) l.flaw else s).hbmStore l.by_ r l.gran 1 l.data (2 ^ 64 - 1)
        l.flaw.carried
    else s

/-- Install a line in the memory-side cache of die `d` (R239, R282). The fill writes stacked SRAM on a task's behalf, so an
injection that the task armed for it may fire (R350). -/
def State.sideInstall (s : State) (t : Nat × Nat) (d : Nat) (l : Line) (hint : Nat) : State :=
  match hintValue hint with
  | none => s
  | some v =>
    match chooseVictim (s.sideWays d l.addr) with
    | none => s
    | some (k, old, aged) =>
      let s1 := aged.foldl (fun s e => s.sidePut d e.1 e.2) s
      let (x, s2) := (match old with | some o => s1.sideOut k o | none => s1).fireFor t 0x05
      s2.sidePut d k (some { l with rrpv := v, flaw := l.flaw.with_ x, by_ := t })

/-- The packed units that a read of granule `g` of a packed tensor needs: its block's index entry and its packed block
(R376, R377). -/
def Rec.packedUnits (r : Rec) (g : Nat) : List Nat :=
  let n := ceilDiv r.bytes 256
  let w := ofBytes ((r.image.drop (4 * (g / 4))).take 4)
  let lo := 4 * n + 32 * (w % 2 ^ 28)
  let len := if bit w 31 then 256 else 32 * (bits w 28 3 + 1)
  ((g / 4 * 4 / 64) :: (List.range ((lo + len - 1) / 64 - lo / 64 + 1)).map (lo / 64 + ·)).eraseDups

/-- Read packets of a granule of a tensor that its stack's port has not answered (R392). -/
def State.portReads (s : State) (r : Rec) (g : Nat) : List Nat :=
  if !r.inHbm then []
  else (if r.packed = 0 then [g] else r.packedUnits g).flatMap fun u =>
    let (k, c) := hbmPlace (r.unitAddr u)
    ((Store.get Stack.init s.hbmStacks k).queue.filter fun q => q.op == 0 && q.gran == c).map (·.id)

/-- None of some packets stands at a port any more. -/
def State.portClear (s : State) (ids : List Nat) : Bool :=
  ids.isEmpty || !(s.hbmStacks.any fun e => e.2.queue.any fun q => ids.contains q.id)

/-- What 64-byte unit `u` of a tensor's allocation holds. -/
def Rec.unitData (r : Rec) (u : Nat) : V512 :=
  BitVec.ofNat 512 (ofBytes (if r.packed = 0 then r.mem.readN (64 * u) 64 else (r.image.drop (64 * u)).take 64))

/-- The 64-byte units of a tensor's allocation. -/
def Rec.units (r : Rec) : Nat := ceilDiv (if r.packed = 0 then r.bytes else r.image.length) 64

/-- Where unit `u` of a tensor's allocation is stored outside the dies: (true, stack, granule) in HBM, (false, 0, spill page × 64
+ granule) in LPDDR-6; the pool holds plaintext (R367, R398, R399). -/
def Rec.cellAt (r : Rec) (u : Nat) : Option (Bool × Nat × Nat) :=
  match r.area with
  | some (.hbm _) => some (true, hbmPlace (r.unitAddr u))
  | some .spill => some (false, 0, pageIn r.pages (u / 64) * 64 + u % 64)
  | _ => none

/-- The error that a unit of the allocation holds. -/
def Rec.unitFlaw (r : Rec) (u : Nat) : Flaw := if r.packed = 0 then Store.get Flaw.clean r.bad u else Flaw.clean

/-- A tensor's data is stored, encrypted anew, at its place in HBM or LPDDR-6 (R367, R399). -/
def State.storeCells (s : State) (ctx h : Nat) : State :=
  match s.recAt ctx h with
  | none => s
  | some r =>
    (List.range r.units).foldl (fun s u =>
      match r.cellAt u with
      | some (true, k, g) => s.writeCell k g r.key (r.unitData u) (r.unitFlaw u)
      | some (false, _, i) => s.setSpill i (some (s.cellOf r.key (2 ^ 40 + i) (r.unitData u) (r.unitFlaw u)))
      | none => s) s

/-- A tensor's data leaves its place in HBM or LPDDR-6. -/
def State.freeCells (s : State) (ctx h : Nat) : State :=
  match s.recAt ctx h with
  | none => s
  | some r =>
    (List.range r.units).foldl (fun s u =>
      match r.cellAt u with
      | some (true, k, g) => s.freeCell k g
      | some (false, _, i) => s.setSpill i none
      | none => s) s

/-- A tensor's record changes its place or its form: what is stored goes from the old place and stands, encrypted anew, at the
new one (R367, R375, R399). -/
def State.relocate (s : State) (ctx h : Nat) (f : Rec → Rec) : State := ((s.freeCells ctx h).mapRec ctx h f).storeCells ctx h

/-- The line of the memory-side cache that holds a granule of a tensor in HBM. -/
def State.sideLine (s : State) (r : Rec) (g : Nat) : Option (Nat × Line) :=
  if r.inHbm && r.packed == 0 then s.sideFind r.home (r.unitAddr g) else none

/-- The error that a granule holds at its home (R284, R348, R349). -/
def State.homeFlaw (s : State) (r : Rec) (g : Nat) : Flaw :=
  match s.sideLine r g with
  | some (_, l) => l.flaw
  | none => Store.get Flaw.clean r.bad g
/-- The mark that reading a granule at its home meets: 1 uncorrectable, 2 check-value mismatch. -/
def State.homeMark (s : State) (r : Rec) (g : Nat) : Nat := (s.homeFlaw r g).mark

/-- What reading a granule at its home meets is logged, and a single flipped bit is corrected in place (R348, R351). -/
def State.sawHome (s : State) (r : Rec) (g : Nat) : State :=
  let x := s.homeFlaw r g
  if x.kind = 0 then s
  else match s.sideLine r g with
    | some (k, l) => (s.logHome r (0x05, k % 16, k / 16) x).sidePut r.home k (some { l with flaw := x.corrected x.words })
    | none =>
      let s1 := (s.logHome r (r.arrayOf g) x).setHome r g (x.corrected x.words)
      match r.cellAt g with
      | some (true, k, c) => s1.correctCell k c
      | some (false, _, i) => s1.correctSpill i
      | none => s1

/-- The memory system reads a granule at its home: a tensor in HBM goes through the memory-side cache, whose misses are read
at the die port, and under hint 7 past it (R239, R391). -/
def State.homeTouch (s : State) (t : Nat × Nat) (r : Rec) (g hint : Nat) : State :=
  if !r.inHbm then s
  else
    (if r.packed = 0 then [g] else r.packedUnits g).foldl (fun s u =>
      let a := r.unitAddr u
      match s.sideFind r.home a with
      | some (k, l) => s.sidePut r.home k (some (l.hit hint))
      | none =>
        (s.hbmSend r.key a 0 0 0 Flaw.clean).sideInstall t r.home
          ⟨a, r.ctx, r.handle, u, r.unitData u, false, 0, 0, (Store.get Flaw.clean r.bad g).carried, t⟩ hint) s

/-! ## Images -/

/-- A granule of a tensor's image at its home. -/
def Rec.gran (r : Rec) (g : Nat) : V512 := BitVec.ofNat 512 (ofBytes (r.mem.readN (64 * g) 64))
/-- Write a granule of the image, whose bytes end at BYTES. -/
def Rec.putGran (r : Rec) (g : Nat) (v : V512) : Rec :=
  { r with mem := r.mem.writeN (64 * g) (toBytes (min 64 (r.bytes - 64 * g)) v.toNat) }
/-- The bytes of a granule replaced where `mask` has a bit. -/
def mergeBytes (old new : V512) (mask : Nat) : V512 :=
  BitVec.ofNat 512 (packElems 8 64 fun i => if bit mask i then elemAt 8 new.toNat i else elemAt 8 old.toNat i)

/-- The mask of `n` bytes from byte `i`. -/
def byteMask (i n : Nat) : Nat := (2 ^ n - 1) * 2 ^ i

/-- A mask covers a whole granule: any other write of it reads it first, that of a tensor's last bytes too (R394). -/
def wholeMask (mask : Nat) : Bool := bits mask 0 64 == 2 ^ 64 - 1

/-- The squares of a die. -/
def squaresOf (d : Nat) : List Nat := [4 * d, 4 * d + 1, 4 * d + 2, 4 * d + 3]

/-- The squares of die `d` but one lose their copies of an address (R311). -/
def State.dropCopies (s : State) (d : Nat) (keep : Option Nat) (a : Nat) : State :=
  (squaresOf d).foldl (fun s p =>
    if keep = some p then s
    else match (s.squareAt p).find a with
      | some (k, _) => s.setSquare p ((s.squareAt p).put k none)
      | none => s) s

/-- Bytes of a granule reach its home (R311, R394): the home die's directory invalidates the copies of its squares but `keep`,
and a tensor in HBM is written through the memory-side cache, or past it at the die port. `v` is the whole granule after the
write, `mask` its bytes that are written, `x` the error that its data brings; the array that is written may take an injection
of task `t` (R350). -/
def State.homePut (s : State) (t : Nat × Nat) (keep : Option Nat) (r : Rec) (g hint : Nat) (v : V512) (mask : Nat) (x : Flaw) :
    State :=
  let s1 := (s.dropCopies r.home keep (r.phys g)).mapRec r.ctx r.handle fun x => x.putGran g v
  if !r.inHbm then
    let (y, s2) := s1.fireFor t (r.arrayOf g).1
    s2.setHome r g (x.with_ y)
  else
    let a := r.unitAddr g
    match s1.sideFind r.home a with
    | some (k, l) =>
      let (y, s2) := s1.fireFor t 0x05
      s2.sidePut r.home k (some { l.hit hint with data := v, dirty := true, flaw := x.with_ y, by_ := t })
    | none =>
      if hint ≠ 7 ∧ wholeMask mask = true then s1.sideInstall t r.home ⟨a, r.ctx, r.handle, g, v, true, 0, 0, x, t⟩ hint
      else s1.hbmStore t r g (if wholeMask mask then 1 else 2) v mask x

/-- What reading a square's line meets is logged, and a single flipped bit is corrected in place (R284, R348, R351). -/
def State.sawLine (s : State) (q a : Nat) : State :=
  match (s.squareAt q).find a with
  | none => s
  | some (k, l) =>
    if l.flaw.kind = 0 then s
    else
      (s.logError (q / 4) (l.flaw.entry l.ctx 0x04 (l2Slice a) (k % 32768) l.flaw.kind)).setSquare q
        ((s.squareAt q).put k (some { l with flaw := l.flaw.corrected l.flaw.words }))

/-- A dirty line's data reaches its home for the task that wrote it (R311); a single flipped bit is corrected on the way (R348). It enters the memory-side cache under hint 0, since no operation's hint goes with
a write-back: DESIGN CHOICE (log 106). -/
def State.writeHome (s : State) (q : Nat) (l : Line) : State :=
  match s.recAt l.ctx l.handle with
  | some r => ((if l.flaw.kind = 3 then s.sawLine q l.addr else s).homePut l.by_ none r l.gran 0 l.data (2 ^ 64 - 1) l.flaw.carried)
  | none => s

/-- No task: a write that none makes. -/
def noTask : Nat × Nat := (0, 0)
/-- The task in focus, as the one on whose behalf the memory system acts. -/
def Core.actor (c : Core) : Nat × Nat := (c.task.launch, c.task.ord)

/-- Install a line in a square under a hint, writing a dirty victim back; an injection that task `t` armed for the L2 fires
(R239, R282, R350). -/
def State.install (s : State) (q : Nat) (t : Nat × Nat) (l : Line) (h : Nat) : State :=
  match hintValue h with
  | none => s
  | some v =>
    let sq := s.squareAt q
    match chooseVictim (sq.ways l.addr) with
    | none => s
    | some (k, old, aged) =>
      let s1 := s.setSquare q (aged.foldl (fun x e => x.put e.1 e.2) sq)
      let s2 := match old with | some o => if o.dirty then s1.writeHome q o else s1 | none => s1
      let (x, s3) := (s2.setSquare q ((s2.squareAt q).put k none)).fireFor t 0x04
      s3.setSquare q ((s3.squareAt q).put k (some { l with rrpv := v, flaw := l.flaw.with_ x, by_ := t }))

/-- The dirty line of a die that holds a granule (R311). -/
def State.dirtyIn (s : State) (d : Nat) (r : Rec) (g : Nat) : Option Line :=
  (squaresOf d).findSome? fun p => match (s.squareAt p).find (r.phys g) with
    | some (_, l) => if l.dirty then some l else none
    | none => none

/-- The error and the value of a granule as a die sees it: those of a dirty line of the die, or the home's (R311). -/
def State.dieValue (s : State) (d : Nat) (r : Rec) (g : Nat) : Flaw × V512 :=
  match s.dirtyIn d r g with
  | some l => (l.flaw, l.data)
  | none => (s.homeFlaw r g, r.gran g)

/-- What a square `q` meets when it reads a granule is logged and corrected where it stands: in its own line, in the dirty line
of another square of the die, or at the home (R348, R351). -/
def State.sawGran (s : State) (q : Nat) (r : Rec) (g : Nat) : State :=
  let a := r.phys g
  if ((s.squareAt q).find a).isSome then s.sawLine q a
  else match (squaresOf (q / 4)).find? fun p => match (s.squareAt p).find a with | some (_, l) => l.dirty | none => false with
    | some p => s.sawLine p a
    | none => s.sawHome r g

/-! ## Granules read and written by a square -/

/-- Read a granule through a square's L2 under a hint for task `t` (R239, R311): its mark, its value, the state. -/
def State.readGran (s : State) (q : Nat) (t : Nat × Nat) (r : Rec) (g hint : Nat) : Nat × V512 × State :=
  let s := s.sawGran q r g
  match (s.squareAt q).find (r.phys g) with
  | some (k, l) => (l.flaw.mark, l.data, s.setSquare q ((s.squareAt q).put k (some (l.hit hint))))
  | none =>
    let (x, v) := s.dieValue (q / 4) r g
    let s1 := if (s.dirtyIn (q / 4) r g).isSome then s else s.homeTouch t r g hint
    (x.mark, v, s1.install q t ⟨r.phys g, r.ctx, r.handle, g, v, false, 0, 0, x.carried, t⟩ hint)

/-- The cause and granule address of a mark (R230, R348). -/
def markCause (handle g m : Nat) : Option (Nat × Nat) :=
  match m with
  | 0 => none
  | 2 => some (0x21, granAddr handle g)
  | _ => some (0x20, granAddr handle g)

/-- Write the masked bytes of a granule by the copy engine of a hearth of square `q` for task `t` (R311, R394): a granule
homed on the square's die goes to its home, one homed elsewhere is a dirty line unless the hint bypasses the L2. A partial
write reads the granule first: of a poisoned one it leaves it and answers its mark, which is logged; a whole one clears it, and
`poison` marks what is written (R236, R348, R351). -/
def State.writeGran (s : State) (q : Nat) (t : Nat × Nat) (r : Rec) (g hint : Nat) (v : V512) (mask poison : Nat) :
    Nat × State :=
  let a := r.phys g
  let s := if wholeMask mask then s else s.sawGran q r g
  let here := (s.squareAt q).find a
  let (x, old) := match here with | some (_, l) => (l.flaw, l.data) | none => s.dieValue (q / 4) r g
  if x.mark ≠ 0 ∧ wholeMask mask = false then (x.mark, s)
  else
    let v' := mergeBytes old v mask
    let w := Flaw.ofMark poison
    let home := r.home == q / 4
    let s1 := s.dropCopies (q / 4) (some q) a
    let s2 :=
      match here with
      | some (k, l) =>
        let (y, s2) := s1.fireFor t 0x04
        s2.setSquare q ((s2.squareAt q).put k
          (some { l.hit hint with data := v', dirty := !home, flaw := w.with_ y, by_ := t }))
      | none => s1.install q t ⟨a, r.ctx, r.handle, g, v', !home, 0, 0, w, t⟩ hint
    let kept := ((s2.squareAt q).find a).isSome
    (0, if home || !kept then s2.homePut t (some q) r g hint v' mask w else s2)

/-- Dirty lines homed on another die are written back, or clean ones are invalidated (R242). -/
def State.squareFence (s : State) (q : Nat) (wb inv : Bool) : State :=
  let sq := s.squareAt q
  let far (l : Line) : Bool := match s.recAt l.ctx l.handle with | some r => r.home != q / 4 | none => true
  let dirty := sq.lines.filterMap fun e => match e.2 with | some l => if l.dirty && far l then some l else none | none => none
  let s1 := if wb then dirty.foldl (fun s l => s.writeHome q l) s else s
  let lines1 := if wb then (s1.squareAt q).lines.map fun e => (e.1, e.2.map fun l => if far l then { l with dirty := false } else l) else (s1.squareAt q).lines
  let lines2 := if inv then lines1.filter fun e => match e.2 with | some l => l.dirty || !far l | none => false else lines1
  if wb || inv then s1.setSquare q { s1.squareAt q with lines := lines2 } else s

/-- A handle's entries leave the translation cache of every square (R368). -/
def State.untranslate (s : State) (ctx h : Nat) : State :=
  { s with squares := s.squares.map fun e =>
      (e.1, { e.2 with xlat := e.2.xlat.filter fun x => !(x.ctx == ctx && x.handle == h) }) }

/-- Every square's lines of a record are written back and dropped, the memory-side cache's too, and its translations are
invalidated (R368). -/
def State.dropLines (s : State) (r : Rec) : State :=
  let mine (l : Line) : Bool := l.ctx == r.ctx && l.handle == r.handle
  let of (e : Nat × Option Line) : Bool := match e.2 with | some l => mine l | none => false
  let s1 := (List.range 16).foldl (fun s q =>
    let sq := s.squareAt q
    let dirty := sq.lines.filterMap fun e => match e.2 with | some l => if l.dirty && mine l then some l else none | none => none
    let s1 := dirty.foldl (fun s l => s.writeHome q l) s
    if sq.lines.any of then s1.setSquare q { s1.squareAt q with lines := sq.lines.filter fun e => !of e } else s1) s
  let mineOf := (s1.dieAt r.home).side.filterMap fun e => if of e then e.2.map fun l => (e.1, l) else none
  let s2 := mineOf.foldl (fun s e => s.sideOut e.1 e.2) s1
  (if mineOf.isEmpty then s2 else s2.mapDie r.home fun x => { x with side := x.side.filter fun e => !of e }).untranslate
    r.ctx r.handle

/-! ## Before a write (R376, R377, R380, R382) -/

/-- The pages of a byte range. -/
def pagesOf (off n : Nat) : List Nat := (List.range (ceilDiv (off % pageBytes + n) pageBytes)).map (off / pageBytes + ·)

/-- Pages that a context's copies of this phase hold on a die. -/
def State.reserveUsed (s : State) (ctx d : Nat) : Nat :=
  ((s.recs.filter fun r => r.ctx == ctx && r.home == d).map fun r => r.copies.length).sum

/-- The first write of a phase to a page copies its committed contents, poison included, into a page of its home die's HBM, encrypted
under the tensor's key (R382, R399, R400); without room the phase's rollback is lost. -/
def State.pageCopy (s : State) (ctx h p : Nat) : State :=
  match s.recAt ctx h, s.ctx? ctx with
  | some r, some c =>
    let lost := s.mapCtx ctx fun c => { c with lost := true }
    if r.declared = c.phase ∨ (r.copies.any fun e => e.1 == p) = true then s
    else if (c.res.rbres[r.home]?).getD 0 ≤ s.reserveUsed ctx r.home then lost
    else match s.reservePage r.home with
      | none => lost
      | some q =>
        ((List.range 64).foldl (fun s i =>
          let (k, g) := hbmPlace (hbmPageAddr r.home q i)
          s.writeCell k g r.key (r.gran (64 * p + i)) (s.homeFlaw r (64 * p + i)).carried) s).mapRec ctx h fun r =>
            { r with copies := r.copies ++ [(p, q)] }
  | _, _ => s

/-- The page copies of some records are discarded (R382). -/
def State.dropReserve (s : State) (p : Rec → Bool) : State :=
  let s1 := (s.recs.filter p).foldl (fun s r => r.copies.foldl (fun s e => (List.range 64).foldl (fun s i =>
    let (k, g) := hbmPlace (hbmPageAddr r.home e.2 i)
    s.setCell k g none) s) s) s
  { s1 with recs := s1.recs.map fun r => if p r then { r with copies := [] } else r }

/-- The records that a record's recipe names: inputs and stream (R378); the kernels and argument blocks of its records
are named by `recipeRefs`. -/
def Recipe.names (p : Recipe) : List Nat := p.stream :: p.inputs

/-- The kernel and argument handles of a recipe's OPLAUNCH records as a record holds them (R320, R322, R378). -/
def Rec.refsOf (r : Rec) (p : Recipe) : List Nat :=
  (List.range p.nrec).flatMap fun i =>
    let w (j : Nat) : Nat := ofBytes (r.mem.readN (p.off + 32 * i + 4 * j) 4) % 2 ^ 20
    [w 1, w 2]

/-- The references of a recipe (R378): while its stream is dropped, the kernels and argument blocks are those that its records named
when it was there. -/
def State.recipeRefs (s : State) (ctx : Nat) (p : Recipe) : List Nat :=
  p.names ++ match s.recAt ctx p.stream with
    | none => p.refs
    | some r => if r.tier = .dropped then p.refs else r.refsOf p

/-- A stream tensor is about to be dropped: the recipes that lie in it keep the handles that their records name. -/
def State.keepRefs (s : State) (r : Rec) : State :=
  { s with recs := s.recs.map fun x =>
      if x.ctx = r.ctx then { x with recipe := x.recipe.map fun p => if p.stream = r.handle then { p with refs := r.refsOf p } else p }
      else x }

/-- A record of the context with RCP = 1 names the handle in its recipe (R388). -/
def State.namedByRecipe (s : State) (ctx h : Nat) : Bool :=
  s.recs.any fun r => r.ctx == ctx && r.rcp && (match r.recipe with | some p => (s.recipeRefs ctx p).contains h | none => false)

/-- A record is freed (R368, R388): no cache keeps a line or an entry of it, and what it stored outside the dies goes. -/
def State.freeRec (s : State) (r : Rec) : State :=
  let s1 := ((s.dropLines r).dropReserve fun x => x.ctx == r.ctx && x.handle == r.handle).freeCells r.ctx r.handle
  { s1 with recs := s1.recs.filter fun x => !(x.ctx == r.ctx && x.handle == r.handle) }

/-- Retained records that a commit has passed are freed once no recipe names them (R388), `n` records at most. -/
def State.sweep (ctx phase : Nat) : Nat → State → State
  | 0, s => s
  | n + 1, s =>
    match s.recs.find? fun r =>
        r.ctx == ctx && !r.live && (match r.releasedIn with | some p => p < phase | none => false) &&
          !s.namedByRecipe ctx r.handle with
    | none => s
    | some r => State.sweep ctx phase n (s.freeRec r)

/-- The stoker unpacks a whole tensor in its tier (R377): its translations go first (R368), and it gets the pages of its full
footprint. -/
def State.unpack (s : State) (ctx h : Nat) : State :=
  match s.recAt ctx h with
  | none => s
  | some r =>
    if !r.isPacked then s
    else
      let s1 := s.dropLines r
      let pages := ((r.area.bind fun a => s1.pagesFor a ctx h r.fullFootprint)).getD r.pages
      s1.relocate ctx h fun r =>
        { r with packed := 0, image := [], pages := pages
                 tier := match r.tier with | .poolPacked => .pool | .hbmPacked => .hbm | t => t }

/-- A write to bytes of a tensor: page copies, PVER, MRATIO, unpacking and, outside a recipe's re-issue, RCP
(R376, R377, R380, R382, R388). -/
def State.beforeWrite (s : State) (ctx h off n : Nat) (reissue : Bool) : State :=
  let s0 := s.unpack ctx h
  if reissue then s0.mapRec ctx h fun r => { r with mratio := 0 }
  else
    let s1 := (pagesOf off n).foldl (fun s p => s.pageCopy ctx h p) s0
    let ph := match s.ctx? ctx with | some c => c.phase | none => 0
    let had := match s.recAt ctx h with | some r => r.rcp | none => false
    let s2 := s1.mapRec ctx h fun r => { r with mratio := 0, pver := ph, rcp := false }
    if had then State.sweep ctx ph s2.recs.length s2 else s2

/-- A dropped tensor whose recipe names a handle: it is made resident before the write (R380). -/
def State.dependent (s : State) (ctx h : Nat) : Option Nat :=
  (s.recs.find? fun r => r.ctx == ctx && r.tier == .dropped && !r.rfail &&
    (match r.recipe with | some p => (s.recipeRefs ctx p).contains h | none => false)).map (·.handle)

/-! ## Reads and writes at the home (R303, R311) -/

/-- Every square's copy of a line goes, a dirty one reaching its home first (R311). -/
def State.recall (s : State) (a : Nat) : State :=
  (List.range 16).foldl (fun s q =>
    match (s.squareAt q).find a with
    | some (k, l) =>
      let s1 := if l.dirty then s.writeHome q l else s
      s1.setSquare q ((s1.squareAt q).put k none)
    | none => s) s

/-- The granules of a byte range. -/
def granulesOf (off n : Nat) : List Nat :=
  if n = 0 then [] else (List.range ((off + n - 1) / 64 - off / 64 + 1)).map (off / 64 + ·)

/-- Write the masked bytes of a granule at its home: a sequencer's, the scan units', the host's or a peer's write (R311,
R394). A partial write reads the granule first: of a poisoned one it leaves it and answers its mark, which is logged (R348,
R351). -/
def State.homeGran (s : State) (ctx h g : Nat) (v : V512) (mask : Nat) : Nat × State :=
  match s.recAt ctx h with
  | none => (0, s)
  | some r =>
    let s0 := s.recall (r.phys g)
    let s1 := if wholeMask mask then s0 else s0.sawHome r g
    let mark := s1.homeMark r g
    let old := match s1.recAt ctx h with | some x => x.gran g | none => 0
    if mark ≠ 0 ∧ wholeMask mask = false then (mark, s1)
    else (0, s1.homePut noTask none r g 0 (mergeBytes old v mask) mask Flaw.clean)

/-- Write bytes of a tensor at its home; the answer is the largest mark met. -/
def State.homeWrite (s : State) (ctx h off : Nat) (bs : List Byte) : Nat × State :=
  (granulesOf off bs.length).foldl (fun (a : Nat × State) g =>
    let lo := max off (64 * g)
    let hi := min (off + bs.length) (64 * g + 64)
    let v := packV 8 64 fun j => if off ≤ 64 * g + j then ((bs[64 * g + j - off]?).getD 0).toNat else 0
    let r := a.2.homeGran ctx h g v (byteMask (lo - 64 * g) (hi - lo))
    (max a.1 r.1, r.2)) (0, s)

/-- Read bytes of a tensor at its home, after the dirty lines that the home die's directory covers have been taken in. -/
def State.homeRead (s : State) (ctx h off n : Nat) : List Byte :=
  match s.recAt ctx h with
  | none => []
  | some r =>
    (((granulesOf off n).flatMap fun g => toBytes 64 (s.dieValue r.home r g).2.toNat).drop (off % 64)).take n

/-- The marks that a read of bytes at the home meets, by granule (R348, R349). -/
def State.homeMarks (s : State) (ctx h off n : Nat) : List (Nat × Nat) :=
  match s.recAt ctx h with
  | none => []
  | some r => (granulesOf off n).filterMap fun g => let m := (s.dieValue r.home r g).1.mark; if m = 0 then none else some (g, m)

/-- A tensor's record as a sequencer reads it: an error that is not corrected leaves the bits as they are stored, which is all that
it does to what a sequencer reads (R348): DEDUCED (log 110). -/
def State.asRead (s : State) (r : Rec) : Rec :=
  let side := (s.dieAt r.home).side.filterMap fun e => e.2.bind fun l =>
    if l.ctx = r.ctx ∧ l.handle = r.handle ∧ l.flaw.flips ≠ [] then some l.gran else none
  (r.bad.map Prod.fst ++ if r.inHbm then side else []).eraseDups.foldl (fun x g =>
    let y := s.homeFlaw r g
    let flips := (y.corrected y.words).bits
    if flips = 0 ∨ r.bytes ≤ 64 * g then x else x.putGran g (x.gran g ^^^ flips)) r

/-- The memory system's part of a read at the home (R391); what it meets is logged (R348, R351). -/
def State.homeFetch (s : State) (ctx h off n : Nat) : State :=
  match s.recAt ctx h with
  | none => s
  | some r => (granulesOf off n).foldl (fun s g =>
      let s1 := s.sawGran (4 * r.home) r g
      if (s1.dirtyIn r.home r g).isSome then s1 else s1.homeTouch noTask r g 0) s

end Sys2Proof.Machine
end

