-- ==== Sys2Proof/Machine/Flags.lean ====
section
/-! DEFINITION. The floating-point flags as numbers: the five bits of FLAGS and how raised flags join
(spec/01_task_state.md R25). What raises each is in Machine/Float.lean. -/
namespace Sys2Proof

/-- FLAGS bits (spec/01_task_state.md R25). -/
def flNX : Nat := 1
def flUF : Nat := 2
def flOF : Nat := 4
def flDZ : Nat := 8
def flNV : Nat := 16

/-- OR of flags. -/
def orF (a b : Nat) : Nat := Nat.lor a b

end Sys2Proof
end

