-- ==== Sys2Proof/Machine/Float.lean ====
section
/-! DEFINITION. Exact values, rounding, conversion, MX blocks, exact arithmetic and the transcendental functions
(spec/05_number_formats.md R124 to R150, spec/06_scratchpad_flues_landing.md R157, spec/07 R188, R192). A result is a
pair of a bit pattern and the FLAGS bits it raises. -/
namespace Sys2Proof

/-- An exact operand: a NaN, signalling or quiet, an infinity, or (-1)^neg × m × 2^e. -/
inductive Val where
  | nan (sig : Bool)
  | inf (neg : Bool)
  | num (neg : Bool) (m : Nat) (e : Int)
  deriving DecidableEq, Repr

/-- A magnitude to be rounded: m × 2^e, or strictly between that and (m + 1) × 2^e when `more` is set. -/
structure Mag where
  m : Nat
  e : Int
  more : Bool
  deriving DecidableEq, Repr

/-- Two to an integer power that is not negative. -/
def pow2 (i : Int) : Nat := 2 ^ i.toNat

/-! ## Reading patterns -/

/-- The value of a floating-point pattern (R127, R128). -/
def decodeFloat (f : Fmt) (w : Nat) : Val :=
  let neg := bit w (f.width - 1)
  let m := bits w 0 f.manBits
  let e := bits w f.manBits f.expBits
  if f.hasInf && e == 2 ^ f.expBits - 1 then
    if m = 0 then .inf neg else .nan (!bit m (f.manBits - 1))
  else if f == .e4m3 && e == 15 && m == 7 then .nan false
  else if e = 0 then .num neg m (1 - f.bias - f.manBits)
  else .num neg (m + 2 ^ f.manBits) ((e : Int) - f.bias - f.manBits)

/-- An exact integer as a value. -/
def Val.ofInt (i : Int) : Val := .num (decide (i < 0)) i.natAbs 0

/-- The value of a T2 code and its flag (R132). -/
def decodeT2 (w : Nat) : Int × Nat :=
  match w % 4 with
  | 1 => (1, 0)
  | 3 => (-1, 0)
  | 2 => (0, flNV)
  | _ => (0, 0)

/-- The integer that a pattern of an integer format holds (R125). -/
def decodeInt (f : Fmt) (w : Nat) : Int := if f.isSigned then signed f.width w else (w % 2 ^ f.width : Nat)

/-- The smallest and largest integers of an integer format (R125). -/
def Fmt.minInt (f : Fmt) : Int := if f.isSigned then -(2 ^ (f.width - 1)) else 0
def Fmt.maxInt (f : Fmt) : Int := if f.isSigned then 2 ^ (f.width - 1) - 1 else 2 ^ f.width - 1

/-! ## Rounding (R138 to R140) -/

/-- The rounding of a magnitude to a multiple of 2^q: the multiple, and whether it differs from the exact value. `r` is
the random word of stochastic rounding (R140), whose neighbours lo and hi are ordered as signed numbers. -/
def roundAt (rd : Rnd) (r : Nat) (neg : Bool) (g : Mag) (q : Int) : Nat × Bool :=
  let den := pow2 (q - g.e)
  let m := g.m * pow2 (g.e - q)
  let k := m / den
  let rest := m % den
  let ix := rest != 0 || g.more
  let up : Bool :=
    match rd with
    | .rne => den < 2 * rest || (2 * rest == den && (g.more || k % 2 == 1))
    | .rtz => false
    | .rdn => neg && ix
    | .rup => !neg && ix
    | .rs =>
      let t := rest * 2 ^ 32 / den
      let above := rest * 2 ^ 32 % den != 0 || g.more
      if neg then ix && decide (2 ^ 32 - (t + ofBool above) ≤ r) else decide (r < t)
  (k + ofBool up, ix)

/-- The sign bit of a format at its place. -/
def Fmt.sign (f : Fmt) (neg : Bool) : Nat := ofBool neg * 2 ^ (f.width - 1)

/-- The infinity of a sign, in the formats that have one (R127). -/
def Fmt.inf (f : Fmt) (neg : Bool) : Nat := f.sign neg + (2 ^ f.expBits - 1) * 2 ^ f.manBits

/-- The result of an overflow (R138). -/
def Fmt.overflow (f : Fmt) (rd : Rnd) (neg : Bool) : Nat :=
  let toInf := f.hasInf && (match rd with | .rne => true | .rs => true | .rtz => false | .rdn => neg | .rup => !neg)
  if toInf then f.inf neg else f.sign neg + f.maxFinite

/-- Round a nonzero magnitude to a floating-point format (R138 to R140). Patterns of one sign rise with their values, so
a pattern above the largest finite one is an overflow. -/
def roundFloat (f : Fmt) (rd : Rnd) (r : Nat) (neg : Bool) (g : Mag) : Nat × Nat :=
  if g.m = 0 ∧ g.more = false then (f.sign neg, 0)
  else
    let emin := 1 - f.bias
    let top : Int := (Nat.log2 g.m : Int) + g.e
    let qn := top - f.manBits
    let qs := emin - f.manBits
    let q := max qn qs
    let k := roundAt rd r neg g q
    let pat := k.1 + (q - qs).toNat * 2 ^ f.manBits
    if f.maxFinite < pat then (f.overflow rd neg, flOF + flNX)
    else
      let tiny := qn < qs && decide ((roundAt rd r neg g qn).1 < pow2 (emin - qn))
      (f.sign neg + pat, if k.2 then flNX + (if tiny then flUF else 0) else 0)

/-! ## Conversion (R145 to R147, R157) -/

/-- A value rounded to a floating-point format (R145). -/
def toFloat (f : Fmt) (rd : Rnd) (r : Nat) (v : Val) : Nat × Nat :=
  match v with
  | .nan sig => if f.canonicalNan = 0 then (0, flNV) else (f.canonicalNan, if sig then flNV else 0)
  | .inf neg => if f.hasInf then (f.inf neg, 0) else (f.sign neg + f.maxFinite, flNV)
  | .num neg m e => roundFloat f rd r neg ⟨m, e, false⟩

/-- A finite value rounded to an integer, and whether it was not one. -/
def roundInt (rd : Rnd) (r : Nat) (neg : Bool) (m : Nat) (e : Int) : Int × Bool :=
  let k := roundAt rd r neg ⟨m, e, false⟩ 0
  (if neg then -(k.1 : Int) else k.1, k.2)

/-- A floating-point value to an integer format (R146). -/
def floatToInt (f : Fmt) (rd : Rnd) (r : Nat) (v : Val) : Nat × Nat :=
  match v with
  | .nan _ => (0, flNV)
  | .inf neg => (wrap f.width (if neg then f.minInt else f.maxInt), flNV)
  | .num neg m e =>
    let k := roundInt rd r neg m e
    if f.maxInt < k.1 then (wrap f.width f.maxInt, flNV)
    else if k.1 < f.minInt then (wrap f.width f.minInt, flNV)
    else (wrap f.width k.1, if k.2 then flNX else 0)

/-- A value to T2 (R157). -/
def toT2 (rd : Rnd) (r : Nat) (v : Val) : Nat × Nat :=
  match v with
  | .nan _ => (0, flNV)
  | .inf neg => (if neg then 3 else 1, flNV)
  | .num neg m e =>
    let k := roundInt rd r neg m e
    let t := clampInt (-1) 1 k.1
    (wrap 2 t, if k.2 || t != k.1 then flNX else 0)

/-- A value that is an exact integer, or comes from a floating-point source, to a non-MX format. -/
def fromVal (dst : Fmt) (rd : Rnd) (r : Nat) (fromInt : Bool) (v : Val) : Nat × Nat :=
  if dst == .t2 then toT2 rd r v
  else if dst.isInt then
    match fromInt, v with
    | true, .num neg m _ => (wrap dst.width (clampInt dst.minInt dst.maxInt (if neg then -(m : Int) else m)), 0)
    | _, v => floatToInt dst rd r v
  else toFloat dst rd r v

/-- The value of an element of a non-MX format, whether it is an integer, and the flag of reading it (R132). -/
def readElem (src : Fmt) (w : Nat) : Val × Bool × Nat :=
  if src == .t2 then (Val.ofInt (decodeT2 w).1, true, (decodeT2 w).2)
  else if src.isInt then (Val.ofInt (decodeInt src w), true, 0)
  else (decodeFloat src w, false, 0)

/-- One element between two non-MX formats (R157), rounding by `rd` (R193). -/
def convertElem (src dst : Fmt) (rd : Rnd) (r : Nat) (w : Nat) : Nat × Nat :=
  let v := readElem src w
  let c := fromVal dst rd r v.2.1 v.1
  (c.1, orF v.2.2 c.2)

/-! ## MX blocks (R133 to R137) -/

/-- The value of an element of an MX block under its scale (R136). -/
def mxVal (f : Fmt) (scale w : Nat) : Val :=
  if scale = 0xFF then .nan false
  else
    let x : Int := (scale : Int) - 127
    if f == .mxi8 then
      let i := signed 8 w
      .num (decide (i < 0)) i.natAbs (x - 6)
    else
      match decodeFloat f.mxElem w with
      | .num neg m e => .num neg m (e + x)
      | v => v

/-- A value is zero. -/
def Val.isZero : Val → Bool
  | .num _ m _ => m == 0
  | _ => false

/-- A value is not finite. -/
def Val.isSpecial : Val → Bool
  | .num _ _ _ => false
  | _ => true

def Val.neg : Val → Bool
  | .num n _ _ => n
  | .inf n => n
  | .nan _ => false

/-- Floor(Log2(|v|)) of a nonzero finite value. -/
def Val.exponent : Val → Int
  | .num _ m e => (Nat.log2 m : Int) + e
  | _ => 0

/-- The pattern and the inexactness of one element of a block whose exponent is `x` (R137). -/
def quantElem (f : Fmt) (x : Int) (v : Val) : Nat × Bool :=
  match v with
  | .num neg m e =>
    let g : Mag := ⟨m, e - x, false⟩
    if f == .mxi8 then
      let k := roundAt .rne 0 neg g (-6)
      let t := min k.1 127
      (wrap 8 (if neg then -(t : Int) else t), k.2 || t != k.1)
    else
      let ef := f.mxElem
      if m = 0 then (ef.sign neg, false)
      else
        let qs := 1 - ef.bias - ef.manBits
        let q := max ((Nat.log2 m : Int) + g.e - ef.manBits) qs
        let k := roundAt .rne 0 neg g q
        let pat := k.1 + (q - qs).toNat * 2 ^ ef.manBits
        (ef.sign neg + min pat ef.maxFinite, k.2 || ef.maxFinite < pat)
  | _ => (0, false)

/-- QuantiseMX: the element patterns, the scale and the flags (R137). -/
def quantiseMX (f : Fmt) (vs : List Val) : List Nat × Nat × Nat :=
  if vs.any Val.isSpecial then (vs.map fun _ => 0, 0xFF, flNV)
  else if vs.all Val.isZero then (vs.map fun v => if f == .mxi8 then 0 else f.mxElem.sign v.neg, 0x7F, 0)
  else
    let tops := (vs.filter fun v => !v.isZero).map Val.exponent
    let top := tops.foldl max (tops.headD 0)
    let x := max (top - f.mxElem.emax) (-127)
    let es := vs.map (quantElem f x)
    (es.map Prod.fst, (x + 127).toNat, if es.any Prod.snd then flNX else 0)

/-- A value that leaves one MX block for another passes through FP32, the format that QuantiseMX quantises: it is rounded to it
with that rounding's flags, so that one too large is an infinity (R136, R137, R138). DEDUCED (log 16). -/
def viaF32 (v : Val × Bool × Nat) : Val × Bool × Nat :=
  let r := toFloat .f32 .rne 0 v.1
  (decodeFloat .f32 r.1, false, orF v.2.2 r.2)

/-! ## Exact arithmetic (R142, R143, R148, R188) -/

/-- A signalling NaN. -/
def Val.isSig : Val → Bool
  | .nan s => s
  | _ => false

/-- NV when an operand is a signalling NaN (R129). -/
def sigFlag (vs : List Val) : Nat := if vs.any Val.isSig then flNV else 0

/-- The signed integer of a finite value in units of 2^e0. -/
def Val.units (e0 : Int) : Val → Int
  | .num neg m e => (if neg then -1 else 1) * ((m * pow2 (e - e0) : Nat) : Int)
  | _ => 0

/-- The scale of a finite value. -/
def Val.scale : Val → Int
  | .num _ _ e => e
  | _ => 0

/-- The exact sum of finite values with the sign of a zero sum (R142). -/
def sumFinite (rd : Rnd) (vs : List Val) : Val :=
  let e0 := (vs.map Val.scale).foldl min ((vs.map Val.scale).headD 0)
  let t := (vs.map (Val.units e0)).foldl (· + ·) 0
  if t = 0 then .num (vs.all (fun v => v.isZero && v.neg) || rd == .rdn) 0 0
  else .num (decide (t < 0)) t.natAbs e0

/-- The exact sum of terms, a canonical NaN with NV for infinities of both signs (R148, R150). -/
def sumVals (rd : Rnd) (vs : List Val) : Val × Nat :=
  if vs.any (fun v => match v with | .nan _ => true | _ => false) then (.nan false, sigFlag vs)
  else
    let pos := vs.any fun v => v == .inf false
    let neg := vs.any fun v => v == .inf true
    if pos && neg then (.nan false, flNV)
    else if pos || neg then (.inf neg, 0)
    else (sumFinite rd vs, 0)

/-- The exact product; 0 × ∞ is invalid (R148). -/
def mulVals (a b : Val) : Val × Nat :=
  match a, b with
  | .num na ma ea, .num nb mb eb => (.num (Bool.xor na nb) (ma * mb) (ea + eb), 0)
  | .nan _, _ => (.nan false, sigFlag [a, b])
  | _, .nan _ => (.nan false, sigFlag [a, b])
  | _, _ => if a.isZero || b.isZero then (.nan false, flNV) else (.inf (Bool.xor a.neg b.neg), 0)

/-- Negation of a value; a NaN stays. -/
def Val.negate : Val → Val
  | .num n m e => .num (!n) m e
  | .inf n => .inf (!n)
  | v => v

/-- An integer's zero: integers have no −0 (R125, R137). -/
def Val.unsignedZero (v : Val) : Val := if v.isZero then .num false 0 0 else v

/-- A + B × C with one rounding: the exact value and its flags (R188). -/
def fmaVals (rd : Rnd) (a b c : Val) : Val × Nat :=
  let p := mulVals b c
  let t := sumVals rd [a, p.1]
  (t.1, orF (orF p.2 t.2) (sigFlag [a, b, c]))

/-- Deliver an exact value in a format with the flags it already has. -/
def deliver (f : Fmt) (rd : Rnd) (r : Nat) (v : Val × Nat) : Nat × Nat :=
  let c := toFloat f rd r v.1
  (c.1, orF c.2 v.2)

/-- A magnitude delivered in a format. -/
def deliverMag (f : Fmt) (rd : Rnd) (r : Nat) (neg : Bool) (g : Mag) : Nat × Nat := roundFloat f rd r neg g

/-- Values compared: whether a is below b, with -0 equal to +0 (R144). -/
def ltVals (a b : Val) : Bool :=
  match a, b with
  | .inf na, .inf nb => na && !nb
  | .inf na, _ => na
  | _, .inf nb => !nb
  | .num _ _ ea, .num _ _ eb =>
    let e0 := min ea eb
    a.units e0 < b.units e0
  | _, _ => false

def eqVals (a b : Val) : Bool :=
  match a, b with
  | .inf na, .inf nb => na == nb
  | .num _ _ ea, .num _ _ eb => a.units (min ea eb) == b.units (min ea eb)
  | _, _ => false

def Val.isNan : Val → Bool
  | .nan _ => true
  | _ => false

/-! ## Transcendental functions (R192)

Reciprocals and roots are exact by integer division and integer square root. Powers and logarithms of arguments
without an exact result are irrational; they are evaluated in fixed point with `fixP` fraction bits, far more than any
rounding of a 32-bit argument needs: DEDUCED (log 15). -/

/-- Integer square root by bits from `i` down. -/
def isqrtFrom (n : Nat) : Nat → Nat → Nat
  | 0, r => r
  | i + 1, r => if (r + 2 ^ i) * (r + 2 ^ i) ≤ n then isqrtFrom n i (r + 2 ^ i) else isqrtFrom n i r

/-- Fraction bits of reciprocals and roots. -/
def divP : Nat := 160
/-- Fraction bits of powers and logarithms. -/
def fixP : Nat := 320

/-- 1 / (m × 2^e). -/
def rcpMag (m : Nat) (e : Int) : Mag := ⟨2 ^ divP / m, -(divP : Int) - e, 2 ^ divP % m != 0⟩

/-- 1 / sqrt(m × 2^e). -/
def rsqMag (m : Nat) (e : Int) : Mag :=
  let m' := if e % 2 = 0 then m else 2 * m
  let e' := if e % 2 = 0 then e else e - 1
  let k := isqrtFrom (2 ^ (2 * divP) / m') (divP + 1) 0
  ⟨k, -(divP : Int) - e' / 2, k * k * m' != 2 ^ (2 * divP)⟩

/-- The sum over k < n of z^(2k+1) / (2k+1) in fixed point: `t` is z^(2k+1) and `z2` is z squared. -/
def atanhFrom (z2 : Nat) : Nat → Nat → Nat → Nat
  | 0, _, _ => 0
  | n + 1, k, t => t / (2 * k + 1) + atanhFrom z2 n (k + 1) (t * z2 / 2 ^ fixP)

/-- The natural logarithm of (1 + z) / (1 - z) in fixed point, for z up to 1/3. -/
def lnFix (z : Nat) : Nat := 2 * atanhFrom (z * z / 2 ^ fixP) 110 0 z

/-- The natural logarithm of 2 in fixed point. -/
def ln2Fix : Nat := lnFix (2 ^ fixP / 3)

/-- The sum of y^k / k! from term `k` on, in fixed point. -/
def expFrom (y : Nat) : Nat → Nat → Nat → Nat
  | 0, _, _ => 0
  | n + 1, k, t => t + expFrom y n (k + 1) (t * y / 2 ^ fixP / (k + 1))

/-- 2^v for a finite nonzero v = (-1)^neg × m × 2^e. -/
def exp2Mag (neg : Bool) (m : Nat) (e : Int) : Mag :=
  if 13 ≤ (Nat.log2 m : Int) + e then ⟨1, if neg then -5000 else 5000, true⟩
  else
    let q := (-e).toNat
    let a : Int := (if neg then -1 else 1) * ((m * pow2 e : Nat) : Int)
    let n := a / 2 ^ q
    let f := (a % 2 ^ q).toNat
    if f = 0 then ⟨1, n, false⟩
    else ⟨expFrom (f * ln2Fix / 2 ^ q) 100 0 (2 ^ fixP), n - fixP, true⟩

/-- log2 of m × 2^e: its sign and magnitude; exact for powers of two. -/
def log2Mag (m : Nat) (e : Int) : Bool × Mag :=
  let top := Nat.log2 m
  let x : Int := (top : Int) + e
  let one := 2 ^ top
  if m = one then (decide (x < 0), ⟨x.natAbs, 0, false⟩)
  else
    let fr := lnFix (2 ^ fixP * (m - one) / (m + one)) * 2 ^ fixP / ln2Fix
    let t : Int := x * 2 ^ fixP + fr
    if t < 0 then (true, ⟨(-t).toNat - 1, -(fixP : Int), true⟩) else (false, ⟨t.toNat, -(fixP : Int), true⟩)

/-- 1/A (R192). -/
def fRcp (f : Fmt) (rd : Rnd) (r : Nat) (v : Val) : Nat × Nat :=
  match v with
  | .nan s => (f.canonicalNan, if s then flNV else 0)
  | .inf n => (f.sign n, 0)
  | .num n m e => if m = 0 then (f.inf n, flDZ) else deliverMag f rd r n (rcpMag m e)

/-- 1/√A (R192). -/
def fRsq (f : Fmt) (rd : Rnd) (r : Nat) (v : Val) : Nat × Nat :=
  match v with
  | .nan s => (f.canonicalNan, if s then flNV else 0)
  | .inf n => if n then (f.canonicalNan, flNV) else (0, 0)
  | .num n m e =>
    if m = 0 then (f.inf n, flDZ) else if n then (f.canonicalNan, flNV) else deliverMag f rd r false (rsqMag m e)

/-- 2^A (R192). -/
def fExp2 (f : Fmt) (rd : Rnd) (r : Nat) (v : Val) : Nat × Nat :=
  match v with
  | .nan s => (f.canonicalNan, if s then flNV else 0)
  | .inf n => (if n then 0 else f.inf false, 0)
  | .num n m e => deliverMag f rd r false (if m = 0 then ⟨1, 0, false⟩ else exp2Mag n m e)

/-- log2 A (R192). -/
def fLog2 (f : Fmt) (rd : Rnd) (r : Nat) (v : Val) : Nat × Nat :=
  match v with
  | .nan s => (f.canonicalNan, if s then flNV else 0)
  | .inf n => if n then (f.canonicalNan, flNV) else (f.inf false, 0)
  | .num n m e =>
    if m = 0 then (f.inf true, flDZ)
    else if n then (f.canonicalNan, flNV)
    else deliverMag f rd r (log2Mag m e).1 (log2Mag m e).2

/-- A × 2^n (R188). Beyond ±1,000 every further step of n overflows or underflows alike. -/
def fScale (f : Fmt) (rd : Rnd) (r : Nat) (v : Val) (n : Int) : Nat × Nat :=
  match v with
  | .num neg m e => deliver f rd r (.num neg m (e + clampInt (-1000) 1000 n), 0)
  | v => toFloat f rd r v

/-- Minimum or maximum (R143). -/
def fMinMax (f : Fmt) (isMax : Bool) (a b : Nat) : Nat × Nat :=
  let va := decodeFloat f a
  let vb := decodeFloat f b
  if va.isNan || vb.isNan then (f.canonicalNan, sigFlag [va, vb])
  else
    let below := ltVals va vb || (va.isZero && vb.isZero && va.neg && !vb.neg)
    (if below == isMax then b else a, 0)

/-! ## Philox and stochastic words (R141, R201) -/

/-- One round on the four words of a counter. -/
def philoxRound (k0 k1 : Nat) (c : Nat × Nat × Nat × Nat) : Nat × Nat × Nat × Nat :=
  let p0 := 0xD2511F53 * c.1
  let p1 := 0xCD9E8D57 * c.2.2.1
  (Nat.xor (Nat.xor (p1 / 2 ^ 32) c.2.1) k0, p1 % 2 ^ 32, Nat.xor (Nat.xor (p0 / 2 ^ 32) c.2.2.2) k1, p0 % 2 ^ 32)

/-- `n` rounds with the key stepping between them. -/
def philoxRounds : Nat → Nat → Nat → Nat × Nat × Nat × Nat → Nat × Nat × Nat × Nat
  | 0, _, _, c => c
  | n + 1, k0, k1, c =>
    philoxRounds n ((k0 + 0x9E3779B9) % 2 ^ 32) ((k1 + 0xBB67AE85) % 2 ^ 32) (philoxRound k0 k1 c)

/-- Philox4x32_10: a 128-bit block of a 64-bit key and a 128-bit counter (R201). -/
def philox (key ctr : Nat) : Nat :=
  let c := philoxRounds 10 (bits key 0 32) (bits key 32 32) (bits ctr 0 32, bits ctr 32 32, bits ctr 64 32, bits ctr 96 32)
  c.1 + c.2.1 * 2 ^ 32 + c.2.2.1 * 2 ^ 64 + c.2.2.2 * 2 ^ 96

/-- The random word of lane `i` of one .rs operation (R141). -/
def srWord (key ctr i : Nat) : Nat := elemAt 32 (philox key ((ctr + i / 4) % 2 ^ 128)) (i % 4)

end Sys2Proof
end

