-- ==== Sys2Proof/Machine/System.lean ====
section
/-! DEFINITION. System registers: MFS and MTS, and the write-back of results (spec/04_control_scalar_system.md R117 to
R122, spec/02_bundle_encoding.md R66 to R68). -/
namespace Sys2Proof.Machine

/-- Access to a system register at a level (R120). -/
inductive Access where
  | none
  | ro
  | rw
  deriving DecidableEq, Repr

/-- The map's access outside privileged mode (R120). -/
def taskAccess (n : Nat) : Access :=
  if n = 0x000 ∨ n = 0x002 ∨ n = 0x003 ∨ n = 0x004 ∨ n = 0x006 ∨ n = 0x008 ∨ n = 0x009 ∨ n = 0x00A then .rw
  else if 0x020 ≤ n ∧ n ≤ 0x02A ∨ n = 0x050 ∨ n = 0x051 then .none
  else .ro

/-- The map's access in privileged mode (R120). -/
def privAccess (n : Nat) : Access :=
  if taskAccess n = .rw ∨ n = 0x012 ∨ n = 0x050 then .rw else .ro

/-- The cause that an access raises, in the order of R118, for a number of the map. -/
def sysCheck (priv mts : Bool) (n : Nat) : Option Nat :=
  let here := if priv then privAccess n else taskAccess n
  if here = .none then some 0x04
  else if !mts then none
  else if privAccess n ≠ .rw then some 0x01
  else if here ≠ .rw then some 0x04
  else none

/-- LANDSTAT (R169). -/
def Status.landstat (t : Status) : W64 :=
  BitVec.ofNat 64 (t.ovrCnt * 2 ^ 32 + t.lateCnt * 2 ^ 16 + ofBool t.iterLate * 2 + ofBool t.beatLate)

/-- CAPLO: bits 0 to 12, 14 and 15, and bit 13 when LPDDR-6 is present (R89). -/
def State.capLo (s : State) : Nat := 0xDFFF + ofBool s.lpddr * 2 ^ 13

/-- CLKMODE (spec/15 R344): the square's nominal clock, 1,400 MHz in fixed mode, and the mode. -/
def State.clkmode (s : State) : W64 :=
  let mhz := if s.fixed then 1400 else (s.squareAt (squareOf s.coreId)).mhz
  BitVec.ofNat 64 (mhz * 2 ^ 32 + ofBool s.fixed)

/-- DETMODE (spec/15 R346). -/
def State.detmode (s : State) : W64 :=
  match s.myCtx with
  | none => 0
  | some c => BitVec.ofNat 64 (ofBool c.adaptive * 2 + ofBool c.det)

/-- RACECTL (spec/13 R314). -/
def State.racectl (s : State) : W64 :=
  match s.myCtx with
  | none => 0
  | some c =>
    let lost := c.mapFull || c.rdrFull || c.satCnt != 0
    BitVec.ofNat 64 (min c.satCnt 255 * 2 ^ 16 + ofBool c.rdrFull * 8 + ofBool c.mapFull * 4 + ofBool lost * 2 + ofBool c.raceOn)

/-- ERRLOG: the latest entry of the die's log for the reading task's context, or 0 (spec/15 R351). -/
def State.errlog (s : State) : W64 :=
  match (s.dieAt s.die).errlog.find? fun w => bits w.toNat 52 12 == s.core.task.ctx with
  | some w => w
  | none => 0

/-- The value of a system register (R120, R121). -/
def State.readSys (s : State) (n : Nat) : W64 :=
  let c := s.core
  match n with
  | 0x000 => BitVec.ofNat 64 c.st.flags
  | 0x001 => BitVec.ofNat 64 c.cycle
  | 0x002 => BitVec.ofNat 64 c.loops.trip
  | 0x003 => BitVec.ofNat 64 c.loops.exe
  | 0x004 => BitVec.ofNat 64 c.loops.rot
  | 0x005 => BitVec.ofNat 64 c.loops.stack.length
  | 0x006 => BitVec.ofNat 64 c.loops.stg
  | 0x008 => c.st.srkey
  | 0x009 => c.st.srctr.setWidth 64
  | 0x00A => (c.st.srctr >>> 64).setWidth 64
  | 0x010 => BitVec.ofNat 64 s.capLo
  | 0x011 => 0
  | 0x012 => c.st.landstat
  | 0x018 => BitVec.ofNat 64 (ofBool c.link.fused * 2 + ofBool c.priv)
  | 0x020 => c.trap.cause
  | 0x021 => c.trap.pc
  | 0x022 => c.trap.rpc
  | 0x023 => c.trap.addr
  | 0x024 => (c.trap.coord[0]?).getD 0
  | 0x025 => (c.trap.coord[1]?).getD 0
  | 0x026 => (c.trap.coord[2]?).getD 0
  | 0x027 => (c.trap.coord[3]?).getD 0
  | 0x028 => (c.trap.loop[0]?).getD 0
  | 0x029 => (c.trap.loop[1]?).getD 0
  | 0x02A => (c.trap.loop[2]?).getD 0
  | 0x040 => s.clkmode
  | 0x041 => s.detmode
  | 0x042 => s.racectl
  | 0x050 => c.st.einj
  | 0x051 => s.errlog
  | _ => 0

/-- STG's field: a value of 0 becomes 1 and 9 to 15 become 8 (R39, R121). -/
def clampStg (v : Nat) : Nat := if v % 16 = 0 then 1 else if 8 < v % 16 then 8 else v % 16

/-- The bits of `a` that are clear in `m`: a write of 1 clears (R25, R169). -/
def w1c (a m : Nat) : Nat := (BitVec.ofNat 64 a &&& ~~~(BitVec.ofNat 64 m)).toNat

/-- Write a system register under its access rules (R39, R119, R121); a flag set in the same cycle stays set (R26). -/
def Core.writeSys (c : Core) (n : Nat) (v : W64) : Core :=
  let x := v.toNat
  match n with
  | 0x000 => { c with st := { c.st with flags := w1c c.st.flags x ||| c.st.fresh ||| c.st.kept } }
  | 0x002 => { c with loops := { c.loops with trip := x % 2 ^ 33 } }
  | 0x003 => { c with loops := { c.loops with exe := x % 2 ^ 34 } }
  | 0x004 => { c with loops := { c.loops with rot := x % 512 } }
  | 0x006 => { c with loops := { c.loops with stg := clampStg x } }
  | 0x008 => { c with st := { c.st with srkey := v } }
  | 0x009 => { c with st := { c.st with srctr := BitVec.ofNat 128 (c.st.srctr.toNat / 2 ^ 64 * 2 ^ 64 + x) } }
  | 0x00A => { c with st := { c.st with srctr := BitVec.ofNat 128 (c.st.srctr.toNat % 2 ^ 64 + x * 2 ^ 64) } }
  | 0x012 =>
    { c with st := { c.st with ovrCnt := w1c c.st.ovrCnt (x / 2 ^ 32), lateCnt := w1c c.st.lateCnt (x / 2 ^ 16 % 2 ^ 16),
                               iterLate := c.st.iterLate && !bit x 1, beatLate := c.st.beatLate && !bit x 0 } }
  | 0x050 => { c with st := { c.st with einj := v } }
  | _ => c

/-- MFS (R117, R118): its causes arise whatever its guard (R60). -/
def opMfs (o : S1I) (s : State) : Res :=
  match sysCheck s.core.priv false o.i with
  | some cause => raise cause o.i
  | none => guarded o.g s
      (let v := s.readSys o.i
       .ok (s.result .s 0 [s.core.toX o.f1 v] (some (v.setWidth 512)) 0))

def execMfs (o : S1I) (s : State) : Host.Outcome State Fault Refusal := settle s .s (opMfs o s)

/-- MTS (R117, R118): the write is made at the end of the issue cycle, and in a repeated bundle, but for the registers that a
write of 1 clears, at that of its last execution, since the value takes effect from the next bundle: DEDUCED (log 80). A value that EINJ does not take is cause 0x01 (spec/15 R350). -/
def opMts (o : S1I) (s : State) : Res :=
  match sysCheck s.core.priv true o.i with
  | some cause => raise cause (if cause = 0x04 then o.i else s.core.seq.pc)
  | none => guarded o.g s
      (let v := o.src1 s.core
       if o.i = 0x050 ∧ !einjOk v then raise 0x01 s.core.seq.pc
       else .ok (s.atEnd .s [.sys o.i v] 0))

def execMts (o : S1I) (s : State) : Host.Outcome State Fault Refusal := settle s .s (opMts o s)

/-! ## Write-back (R66 to R68) -/

/-- Make one write of a result; a register that is written whole is in error no more. A vector register's write is a write of
array 2 (spec/15 R348, R350). -/
def State.writeEff (s : State) (e : Eff) : State :=
  match e with
  | .x n v => s.mapCore fun c => { c with regs := c.regs.setX n v }.wholeWrite (.x n)
  | .p n b => s.mapCore fun c => { c with regs := c.regs.setP n b }.wholeWrite (.p n)
  | .m n v => s.mapCore fun c => { c with regs := c.regs.setM n v }.wholeWrite (.m n)
  | .v n v => (s.mapCore fun c => { c with regs := c.regs.setV n v }.wholeWrite (.v n)).fireOwn (.v n)
  | .aval n v => s.mapCore fun c => { c with regs := c.regs.mapA n fun a => { a with val := v } }.wordWrite (.a n) 0
  | .astep n v => s.mapCore fun c => { c with regs := c.regs.mapA n fun a => { a with step := v } }
  | .aring n b l => s.mapCore fun c => { c with regs := c.regs.mapA n fun a => { a with rbase := b, rlen := l } }
  | .sys n v => s.mapCore fun c => c.writeSys n v

/-- OR the flags of a completed result into FLAGS: its cycle has ended (R25, R26). -/
def Core.raiseFlags (c : Core) (f : Nat) : Core :=
  { c with st := { c.st with flags := c.st.flags ||| f, kept := c.st.kept ||| f } }
/-- OR the flags of an engine's conversion into FLAGS, in the cycle under way (R25, R26, R149). -/
def Core.engineFlags (c : Core) (f : Nat) : Core :=
  { c with st := { c.st with flags := c.st.flags ||| f, fresh := c.st.fresh ||| f } }
def State.orFlags (s : State) (f : Nat) : State := s.mapCore fun c => c.raiseFlags f

/-- Write a completed result: its registers, its latch, its flags (R66, R68). -/
def State.writeBack (s : State) (f : Flight) : State :=
  let s1 := f.effs.foldl State.writeEff s
  let s2 := match f.latch with
    | some (n, v, ok) => s1.mapCore fun c => { c with regs := c.regs.setLatch n ⟨v, ok⟩ }.wholeWrite (.latch n)
    | none => s1
  s2.orFlags f.flags

/-- The place of a result in the order of writes at the end of a cycle: its slot's, and system registers last, so that an
MTS stands against a hardware update, and takes effect from the next bundle only (R67, R117, R119). -/
def Flight.place (f : Flight) : Nat :=
  if f.effs.any fun e => match e with | .sys _ _ => true | _ => false then 8 else f.slot.num

/-- Results due are written in slot order, and of one slot in issue order, so that the later one stands (R67): the first
due result and the others. -/
def firstDue : List Flight → Option (Flight × List Flight)
  | [] => none
  | f :: r =>
    match firstDue r with
    | none => if f.left = 0 then some (f, r) else none
    | some (g, r') => if f.left = 0 ∧ f.place ≤ g.place then some (f, r) else some (g, f :: r')

/-- RESULT_WRITEBACK: the next result due on the hearth at which the event happens is written (R66). -/
def execResultWriteback (s : State) : Host.Outcome State Fault Refusal :=
  atHearth s fun s =>
    match firstDue s.core.fly with
    | none => s
    | some (f, rest) => (s.mapCore fun c => { c with fly := rest }).writeBack f

end Sys2Proof.Machine
end

