-- ==== Sys2Proof/Machine/Waits.lean ====
section
/-! DEFINITION. What a hearth waits for: fences, joins and ordering waits, and the race reports that surface at them
(spec/09_memory_instructions.md R240 to R243, spec/12_die_sync_engine.md R294, spec/13_die_memory_model.md R316,
spec/15_die_clocks_errors.md R345). -/
namespace Sys2Proof.Machine

/-- The largest of a list. -/
def maxOf (l : List Nat) : Nat := l.foldl max 0

/-- The queue entries that a QFENCE mask names (R241): bit 0 the copy queue, bit 4 the collective queue. -/
def Engine.named (e : Engine) (mask : Nat) : List CopyOp :=
  (if bit mask 0 then e.cp else []) ++ (if bit mask 4 then e.cl else [])

/-- The pending fill that a mask awaits: bit 1 a tile fetch, bit 2 an MLDB (R241). -/
def Mat.fillAwaited (m : Mat) (mask : Nat) : Bool :=
  match m.fill with
  | none => false
  | some f => f.got < 128 && (match f.src with | .tile _ _ _ _ => bit mask 1 | .pad _ => bit mask 2)

/-- The queue entries that a mask names for the task in focus: those of its hearth's queues, and its own that stay in the
queues of a hearth it was pre-empted from (R241, R262). -/
def State.namedOps (s : State) (mask : Nat) : List CopyOp :=
  s.core.eng.named mask ++
    s.others.flatMap fun e => (e.2.eng.named mask).filter fun o => s.core.holds o.launch o.ord

/-- The units that copies accepted before queue entry `id` have still to pop from flue `n`. -/
def Engine.popsBefore (e : Engine) (n id : Nat) : Nat :=
  (e.cp.filterMap fun o => match o.kind with
    | .copy d => if d.kind = 5 ∧ d.flue = n ∧ o.performed = false ∧ o.snap = none ∧ o.id < id then some d.count else none
    | _ => none).sum

/-- The padded completion of a queue entry as it stands (R345): one that pops a flue counts from the latest landing among its
units. -/
def Core.paddedOp (c : Core) (o : CopyOp) : Nat :=
  match o.kind with
  | .copy d =>
    if d.kind = 5 ∧ o.performed = false ∧ o.snap = none then
      let us := ((c.flueOf d.flue).q.drop (c.eng.popsBefore d.flue o.id)).take d.count
      max o.padded (maxOf (us.map c.landAt) + o.tail)
    else o.padded
  | _ => o.padded

/-- The task's own entries among some, as they stand, and those that have left their queue before their padded completion: of
another task's entries the padded times are no cycles of this one (R345). -/
def Core.paddedEnd (c : Core) (ops : List CopyOp) (p : CopyOp → Bool) : Nat :=
  max (maxOf ((ops.filter fun o => c.holds o.launch o.ord).map c.paddedOp)) (maxOf ((c.past.filter p).map (·.padded)))

/-- A completed entry counts as pending until its padded completion (R345). -/
def Core.keepPadded (c : Core) (o : CopyOp) : Core :=
  { c with past := (c.past ++ [o]).filter fun x => c.now < x.padded }

/-- The padded completion of what a mask awaits in the hearth (R345): a fill's landing cycle, MDRAIN deliveries. -/
def Core.paddedOf (c : Core) (mask : Nat) : Nat :=
  let fl := match c.mat.fill with
    | none => 0
    | some f => match f.src with
      | .tile _ _ _ _ => if bit mask 1 then f.land else 0
      | .pad _ => if bit mask 2 then f.land else 0
  let md := if bit mask 2 then
      maxOf ((c.flue.map fun e => maxOf (e.2.q.map fun x => if x.late && !x.landed && x.data.isSome then x.land - 1 else 0)))
    else 0
  max fl md

/-- The wait of a QFENCE, FENCE, release or barrier, with the cycle in which the next bundle issues in a fixed-timing
context: everything accepted into the named queues, and the given sync
requests (R240, R241). -/
def State.fenceWait (s : State) (mask : Nat) (reqs : List Nat) (extra : Nat) (wb inv : Bool) (release : Option Nat)
    (arrive : Option Ctl) : Wait :=
  let ops := s.namedOps mask
  let end_ := max (max (s.core.paddedEnd ops fun _ => bit mask 0) (s.core.paddedOf mask)) s.core.now
  .fence (ops.map (·.id)) reqs (bits mask 1 2) (end_ + extra + 1) wb inv 0 release arrive

/-- The task's outstanding sync requests. -/
def State.mySync (s : State) : List SyncReq :=
  s.reqs.filter fun r => r.who.launch == s.core.task.launch && r.who.ord == s.core.task.ord

/-- A fill's data has all arrived. -/
def Mat.fillArrived (m : Mat) (fills : Nat) : Bool := !m.fillAwaited (fills * 2)

/-- The awaited operations of a fence have completed: queue entries have left their queues, sync requests are performed
and acknowledged, and fills have arrived (R240). -/
def State.fenceDone (s : State) (ops reqs : List Nat) (fills : Nat) : Bool :=
  ops.all (fun i => !(s.allOps.any fun o => o.id == i)) &&
    reqs.all (fun i => !(s.reqs.any fun r => r.id == i)) && s.core.mat.fillArrived fills

/-- The pending window fills whose rows lie in a bank (R243). -/
def Win.touches (w : Win) (bank : Nat) : Bool :=
  !w.fills.isEmpty && w.base / 2 ^ 17 ≤ bank && bank ≤ (w.base + w.n * w.size - 1) / 2 ^ 17

/-- A race report that surfaces at an ordering point naming its queue (R316): the granule address. -/
def Core.raceDue (c : Core) (mask : Nat) : Option Nat :=
  (c.race.reports.find? fun r => bit mask r.1).map Prod.snd

/-- A copy that writes a tensor with what a peer sends (R441). -/
def CopyKind.remoteGet : CopyKind → Bool
  | .copy c => c.kind == 2 && (match c.remote with | some r => !r.dst | none => false)
  | _ => false

/-- With detection on, an access of the task that a mask names has not reached its home die's check yet; what a remote read
writes is checked when the reply comes. -/
def State.unchecked (s : State) (mask : Nat) : Bool :=
  (match s.myCtx with | some c => c.raceOn | none => false) &&
    ((s.namedOps mask).any (fun o => s.core.holds o.launch o.ord && (!o.performed || (o.awaits != 0 && o.kind.remoteGet))) ||
      (match s.core.mat.fill with
       | some f => (match f.src with | .tile _ _ _ _ => bit mask 1 && f.got < 128 | .pad _ => false)
       | none => false))

/-- Raise a race report that surfaces at this operation (R316). The operation stands frozen until the accesses that it orders
have been checked, so that their reports surface here: DEDUCED (log 39). -/
def withRace (s : State) (mask : Nat) (k : Res) : Res :=
  match s.core.raceDue mask with
  | some g => raise 0x18 g
  | none => if s.unchecked mask then .freeze .plain else k

end Sys2Proof.Machine
end

