-- ==== Sys2Proof/Machine/Scratch.lean ====
section
/-! DEFINITION. The scratchpad: views, checks, window landing, and the X-slot loads and stores
(spec/06_scratchpad_flues_landing.md R151 to R162, spec/09_memory_instructions.md R226, R227, R249). -/
namespace Sys2Proof.Machine

/-- Bytes of the scratchpad, 4 MiB (R151). -/
def padBytes : Nat := 4194304

/-- The bank of an offset (R151). -/
def bankOf (a : Nat) : Nat := a / 131072

/-- The place in storage of an offset seen through the swizzled view: chunk c of row r lies at chunk position c XOR r[2:0]
(R152). In the linear view an offset is its own place. -/
def swz (a : Nat) : Nat := a / 64 * 64 + Nat.xor (a / 8 % 8) (a / 64 % 8) * 8 + a % 8

/-- The places of `n` bytes from an offset through the linear view. -/
def placesOf (a n : Nat) : List Nat := (List.range n).map fun i => a + i

/-- The places of `n` bytes from an offset through the swizzled view (R152). -/
def swzOf (a n : Nat) : List Nat := (placesOf a n).map swz

/-- The places of a column access: the eight chunks at a + 64j (R227). -/
def colPlaces (a : Nat) : List Nat := ((List.range 8).map fun j => swzOf (a + 64 * j) 8).flatten

/-- The ports that an access uses, each as (write, bank × 8 + sub-bank) (R151, R161). -/
def portsOf (write : Bool) (places : List Nat) : List (Bool × Nat) :=
  (places.map fun p => (write, bankOf p * 8 + p / 8 % 8)).eraseDups

/-- A ring whose end passes 4 MiB (R21). -/
def AReg.ringOver (a : AReg) : Bool := a.rlen != 0 && padBytes < a.rbase.toNat * 64 + a.rlen.toNat * 64

/-- The offset of an access of `len` bytes aligned to `align`, or cause 0x10 (R21, R154, R227). -/
def padAddr (a : AReg) (disp : Int) (len align : Nat) (k : Nat → Res) : Res :=
  let x := a.int + disp
  if x < 0 ∨ (padBytes : Int) < x + len ∨ x % align ≠ 0 ∨ a.ringOver = true then raise 0x10 (wrap 64 x) else k x.toNat

/-- The first bank of some places whose view state is another view, reading through `v` (R160). -/
def Pad.clash (p : Pad) (v : View) (places : List Nat) : Option Nat :=
  (places.map bankOf).find? fun b =>
    let w := Store.get View.clean p.view b
    w != .clean && w != v

/-- The first bank of some places that a write through `v` may not touch: another view's state, or a write of this
execution through the other view (R160). -/
def Pad.clashW (p : Pad) (v : View) (places : List Nat) : Option Nat :=
  match p.clash v places with
  | some b => some b
  | none => (places.map bankOf).find? fun b => p.viewSet.any fun e => e.1 == b && e.2 != v

/-- The banks of some places take a view at the end of this execution (R160). -/
def Pad.setView (p : Pad) (v : View) (places : List Nat) : Pad :=
  { p with viewSet := p.viewSet ++ ((places.map bankOf).eraseDups.map fun b => (b, v)) }

/-- The slot of a window's row: its first byte (R245). -/
def Win.slotBase (w : Win) (row : Int) : Nat := w.base + (row % (w.n : Int)).toNat * w.size

/-- A pending fill of an open window whose slot holds one of some places: the window and the fill. -/
def Core.pendingRow (c : Core) (places : List Nat) : Option (Nat × WinFill) :=
  c.win.findSome? fun e =>
    (e.2.fills.find? fun f => places.any fun p => e.2.slotBase f.row ≤ p && p < e.2.slotBase f.row + e.2.size).map
      fun f => (e.1, f)

/-- The window landing rule for a read of some places at offset `a` (R249). -/
def landed (s : State) (a : Nat) (places : List Nat) (k : Res) : Res :=
  match s.core.pendingRow places with
  | none => k
  | some (w, f) => if s.core.due f.hand f.land then .freeze (.win w f.row) else raise 0x06 a

/-- A mark of a race that a landed row carries surfaces when its slot is read (R316). -/
def Core.rowMark (c : Core) (places : List Nat) : Option (Nat × Nat) :=
  c.win.findSome? fun e =>
    (e.2.marks.find? fun m => places.any fun p => e.2.slotBase m.1 ≤ p && p < e.2.slotBase m.1 + e.2.size).map Prod.snd

/-- The 64-bit words of a scratchpad unit that some places touch. -/
def wordsIn (u : Nat) (places : List Nat) : List Nat := ((places.filter (· / 64 == u)).map fun q => q % 64 / 8).eraseDups

/-- The cause that reading some places raises where a word that they touch is poisoned, or a unit's check value does not match
(R348, R349). -/
def Core.padCause (c : Core) (places : List Nat) : Option Trap :=
  if c.bad.isEmpty then none
  else (places.map (· / 64)).eraseDups.findSome? fun u =>
    (OwnUnit.pad u).cause ((c.flawOf (.pad u)).kindOf (wordsIn u places))

/-- An access of the execution in progress uses its ports (R161), and the words that it reads are noted where some unit of the
hearth is in error (R348). -/
def State.usePorts (s : State) (write : Bool) (places : List Nat) : State :=
  s.mapCore fun c =>
    { c with pad := { c.pad with ports := c.pad.ports ++ portsOf write places
                                 seen := if write || c.bad.isEmpty then c.pad.seen else c.pad.seen ++ (places.map (· / 8)).eraseDups } }

/-- The accesses beyond the first on the port that an execution uses most: the cycles for which its domain freezes
(R161). -/
def Pad.conflicts (p : Pad) : Nat := (p.ports.foldl (fun m e => max m (p.ports.count e)) 0) - 1

/-- Read some places through a view after the checks of R227: the bytes, the first lowest. -/
def padRead (s : State) (v : View) (a : Nat) (places : List Nat) (k : Nat → State → Res) : Res :=
  match s.core.pad.clash v places with
  | some b => raise 0x0A b
  | none =>
    landed s a places
      (match s.core.rowMark places with
       | some m => raise m.1 m.2
       | none =>
         match s.core.padCause places with
         | some t => .trap t
         | none => k (ofBytes (places.map fun p => s.core.pad.mem.read p)) (s.usePorts false places))

/-- Write bytes at some places; what it leaves of their units' errors, and what an armed injection makes (R348, R350). -/
def State.padPut (s : State) (places : List Nat) (bytes : List Byte) : State :=
  let s1 := s.mapCore fun c =>
    { c with pad := { c.pad with mem := (places.zip bytes).foldl (fun m e => m.write e.1 e.2) c.pad.mem } }
  (places.map (· / 64)).eraseDups.foldl (fun s u => s.wroteUnit u places) s1

/-- A pending fill accepted before request `id` whose slot meets a range, given as (offset, bytes). -/
def Win.fillMeets (w : Win) (id : Nat) (p : Nat × Nat) (f : WinFill) : Bool :=
  f.req < id && p.1 < w.slotBase f.row + w.size && w.slotBase f.row < p.1 + p.2

/-- The pending fills accepted before request `id` whose slots meet a range. -/
def Core.fillsOver (c : Core) (id : Nat) (p : Nat × Nat) : List (Win × WinFill) :=
  c.win.flatMap fun e => (e.2.fills.filter (e.2.fillMeets id p)).map fun f => (e.2, f)

/-- Later writes of the queue to a range stand against the rows of earlier fills that are still to be written (R232). -/
def Core.overFills (c : Core) (id : Nat) (p : Nat × Nat) : Core :=
  let covered (w : Win) (f : WinFill) : WinFill := if w.fillMeets id p f then { f with later := f.later ++ [p] } else f
  { c with win := c.win.map fun e => (e.1, { e.2 with fills := e.2.fills.map (covered e.2) }) }

/-- Write the data of a row into its slot, but for what later operations of the queue have written there (R232, R245). -/
def State.putRow (s : State) (w : Win) (f : WinFill) : State :=
  match f.data with
  | some (b :: bs) =>
    let es := ((List.range w.size).map (w.slotBase f.row + ·)).zip (b :: bs)
    let free := if f.later.isEmpty then es else es.filter fun e => !(f.later.any fun p => p.1 ≤ e.1 && e.1 < p.1 + p.2)
    s.padPut (free.map Prod.fst) (free.map Prod.snd)
  | _ => s

/-- Store the low bytes of a number at some places through a view (R160, R162, R227). -/
def padWrite (s : State) (v : View) (places : List Nat) (x : Nat) : Res :=
  match s.core.pad.clashW v places with
  | some b => raise 0x0A b
  | none =>
    .ok (((s.padPut places (toBytes places.length x)).mapCore fun c => { c with pad := c.pad.setView v places }).usePorts true places)

/-! ## Loads and stores (R226, R227) -/

/-- The signed displacement of SC in units. -/
def dispOf (o : Long) (u : Nat) : Int := signed 10 o.sc * u

/-- The result of a load (R227): a vector register or latch b3. -/
def loadV (o : Long) (s : State) (x : Nat) : Res :=
  let v := BitVec.ofNat 512 x
  .ok (s.result .x 4 (vdst o s.core v) (some v) 0)

/-- LDS (R227). -/
def opLds (o : Long) (s : State) : Res :=
  let n := 2 ^ (o.ty % 4)
  guarded o.g s
    (padAddr (s.core.readA o.sa) (dispOf o n) n n fun a =>
      padRead s .lin a (placesOf a n) fun x s =>
        let v := if o.ty < 4 then BitVec.ofInt 64 (signed (8 * n) x) else BitVec.ofNat 64 x
        .ok (s.result .x 4 (if o.wbs then [] else [s.core.toX o.dst v]) (some (v.setWidth 512)) 0))
def execLds (o : Long) (s : State) : Host.Outcome State Fault Refusal := settle s .x (opLds o s)

/-- STS (R227). -/
def opSts (o : Long) (s : State) : Res :=
  let n := 2 ^ o.ty
  guarded o.g s
    (withX s o.sb fun x =>
      padAddr (s.core.readA o.sa) (dispOf o n) n n fun a => padWrite s .lin (placesOf a n) x.toNat)
def execSts (o : Long) (s : State) : Host.Outcome State Fault Refusal := settle s .x (opSts o s)

/-- VLD (R227). -/
def opVld (o : Long) (s : State) : Res :=
  guarded o.g s
    (padAddr (s.core.readA o.sa) (dispOf o 64) 64 64 fun a =>
      padRead s .lin a (placesOf a 64) fun x s => loadV o s x)
def execVld (o : Long) (s : State) : Host.Outcome State Fault Refusal := settle s .x (opVld o s)

/-- VST (R227). -/
def opVst (o : Long) (s : State) : Res :=
  guarded o.g s
    (withV s o.sb fun x =>
      padAddr (s.core.readA o.sa) (dispOf o 64) 64 64 fun a => padWrite s .lin (placesOf a 64) x.toNat)
def execVst (o : Long) (s : State) : Host.Outcome State Fault Refusal := settle s .x (opVst o s)

/-- The extent, alignment and places of a swizzled access: a row, or a column with TY = 1 (R226, R227). -/
def swzSpan (o : Long) : Nat × Nat := if o.ty = 1 then (456, 8) else (64, 64)
def swzPlaces (o : Long) (a : Nat) : List Nat := if o.ty = 1 then colPlaces a else swzOf a 64

/-- VLDX (R227). -/
def opVldx (o : Long) (s : State) : Res :=
  guarded o.g s
    (padAddr (s.core.readA o.sa) (dispOf o (swzSpan o).2) (swzSpan o).1 (swzSpan o).2 fun a =>
      padRead s .swz a (swzPlaces o a) fun x s => loadV o s x)
def execVldx (o : Long) (s : State) : Host.Outcome State Fault Refusal := settle s .x (opVldx o s)

/-- VSTX (R227). -/
def opVstx (o : Long) (s : State) : Res :=
  guarded o.g s
    (withV s o.sb fun x =>
      padAddr (s.core.readA o.sa) (dispOf o (swzSpan o).2) (swzSpan o).1 (swzSpan o).2 fun a =>
        padWrite s .swz (swzPlaces o a) x.toNat)
def execVstx (o : Long) (s : State) : Host.Outcome State Fault Refusal := settle s .x (opVstx o s)

end Sys2Proof.Machine
end

