-- ==== Sys2Proof/Machine/Tensor.lean ====
section
/-! DEFINITION. Tensor operations at issue: addressing, tier checks, the copy queues, and the operations TLD, TST, TCOPY,
TPREF, FENCE, QFENCE, VJOIN of the X slot and the windows of the A slot (spec/09_memory_instructions.md R228 to R248,
spec/06 R168, spec/15_die_clocks_errors.md R345, spec/23_fabric.md R439, R440). -/
namespace Sys2Proof.Machine

/-! ## Addressing (R228) -/

/-- The bit offset of a coordinate tuple, dimension by dimension; none leaves the range of an offset (R228). -/
def bitOffset : List Nat → List Int → Nat → Option Nat
  | st :: sts, c :: cs, acc =>
    if c < 0 then none
    else
      let p := c.toNat * st
      if 2 ^ 63 ≤ p ∨ 2 ^ 63 ≤ acc + p then none else bitOffset sts cs (acc + p)
  | [], cs, acc => if cs.all (· == 0) then some acc else none
  | _ :: _, [], _ => none

/-- TensorOffset against a record: the byte offset, or cause 0x10 with the handle and coordinates (R228). -/
def Rec.offsetOf (r : Rec) (c : List Int) (nbits : Nat) : Option Nat :=
  match bitOffset (stridesOf r.width r.ext) c 0 with
  | some b => if b % 8 = 0 ∧ b + nbits ≤ 8 * r.bytes then some (b / 8) else none
  | none => none

/-- A cause with a handle and its coordinates (R228). -/
def tensorTrap (cause h : Nat) (c : List Int) : Res := .trap ⟨cause, h, c⟩

/-- What a translation holds of a record (R368). -/
def Rec.xlat (r : Rec) : Xlat :=
  ⟨r.ctx, r.handle, r.ext.length - 1, r.fmt, r.raw, stridesOf r.width r.ext, r.bytes, r.tier.code, r.home, r.pages⟩

/-- A translation enters the square's cache of 4,096 entries (R368). -/
def State.translated (s : State) (h : Nat) : State :=
  let q := s.squareAt (squareOf s.coreId)
  match s.recAt s.core.task.ctx h with
  | none => s
  | some r =>
    if q.xlat.any fun x => x.ctx == r.ctx && x.handle == h then s
    else s.setSquare (squareOf s.coreId) { q with xlat := (r.xlat :: q.xlat).take 4096 }

/-- The record that a task of launch `launch` finds under a handle: the live one, and for a recipe's re-issue a retained one
that the recipe names or makes (R379, R388). -/
def State.recFor (s : State) (launch ctx h : Nat) : Option Rec :=
  match s.liveRec ctx h with
  | some r => some r
  | none =>
    match s.launches.find? fun l => l.id == launch with
    | none => none
    | some l =>
      match l.dst with
      | .recipe t =>
        let names := match (s.recAt ctx t).bind (·.redo) with | some p => p.names ++ p.refs | none => []
        if h = t ∨ names.contains h = true then s.recAt ctx h else none
      | _ => none

/-- The record of a handle in the task's context, or cause 0x11 (R228). -/
def withRec (s : State) (h : Nat) (c : List Int) (k : Rec → Res) : Res :=
  if 2 ^ 20 ≤ h then tensorTrap 0x11 h c
  else match s.recFor s.core.task.launch s.core.task.ctx h with
    | none => tensorTrap 0x11 h c
    | some r => k r

/-- TensorOffset (R228). -/
def withOffset (s : State) (h : Nat) (c : List Int) (nbits : Nat) (k : Rec → Nat → Res) : Res :=
  withRec s h c fun r =>
    match r.offsetOf c nbits with
    | none => tensorTrap 0x10 h c
    | some o => k r o

/-- The coordinates held by a scalar pair (R228). -/
def Core.pairCoords (c : Core) (n : Nat) : List Int :=
  let a := (c.readX n).toNat
  let b := (c.readX (n + 1)).toNat
  [signed 32 a, signed 32 (a / 2 ^ 32), signed 32 b, signed 32 (b / 2 ^ 32)]

/-- A launch belongs to the re-issue of a record's recipe (R379). -/
def State.rebuildingBy (s : State) (launch : Nat) (r : Rec) : Bool :=
  match s.launches.find? fun l => l.id == launch with
  | some l => (match l.dst with | .recipe h => h == r.handle && l.ctx == r.ctx | _ => false)
  | none => false

/-- The task on the hearth belongs to the re-issue of a record's recipe (R379). -/
def State.rebuilding (s : State) (r : Rec) : Bool := s.rebuildingBy s.core.task.launch r

/-- The tier at issue: cause 0x09 in a fixed-timing context and cause 0x14 for a failed recipe in an elastic one; a
tensor that the stoker is moving freezes the domain. A re-issue writes its own target without either (R229, R375, R379,
R381). -/
def withTier (s : State) (r : Rec) (c : List Int) (k : Res) : Res :=
  if s.rebuilding r then k
  else if r.moving then .freeze .plain
  else if s.fixed && r.away then tensorTrap 0x09 r.handle c
  else if r.rfail then tensorTrap 0x14 r.handle c
  else k

/-- The worst case of the tier that holds a tensor, for the target of a re-issue that of its placement tier (R168, R345). -/
def Rec.worst (r : Rec) : Nat := if r.inPool || (r.away && r.place == 0) then 180 else 620

/-- The fixed-mode landing contract: cause 0x09 when D is below the tier's least value plus `extra` (R168, R213). -/
def withLeast (s : State) (r : Rec) (c : List Int) (d extra : Nat) (k : Res) : Res :=
  if s.fixed && d < r.worst + extra then tensorTrap 0x09 r.handle c else k

/-! ## Acceptance (R232) -/

/-- The handles that a queued operation names in the task's context. -/
def CopyKind.handles : CopyKind → List Nat
  | .tld _ h _ _ => [h]
  | .tst h _ _ => [h]
  | .tpref h _ _ => [h]
  | .win _ h _ _ => [h]
  | .copy c =>
    let rem (dst : Bool) : Bool := match c.remote with | some r => r.dst == dst | none => false
    (if (c.kind = 0 ∨ c.kind = 2 ∨ c.kind = 4) ∧ rem false = false then [c.shandle] else []) ++
      (if (c.kind = 1 ∨ c.kind = 2 ∨ c.kind = 5) ∧ rem true = false then [c.dhandle] else [])

/-- Accept an operation into the copy queue or the collective queue; a full queue freezes the domain (R232). -/
def accept (s : State) (cl : Bool) (hint padded tail : Nat) (mk : Nat → CopyKind) (k : Nat → State → Res) : Res :=
  let q := if cl then s.core.eng.cl else s.core.eng.cp
  if 32 ≤ q.length then .freeze (.full (if cl then .cl else .cp))
  else
    let (id, s) := s.fresh
    let c := s.core
    let op : CopyOp :=
      { id := id, req := id, kind := mk id, hint := hint, padded := padded, tail := tail, epoch := c.race.epoch, launch := c.task.launch,
        ord := c.task.ord, ctx := c.task.ctx, known := c.race.known, sat := c.race.sat, performed := false, status := 0,
        awaits := 0, snap := none }
    let s1 := (op.kind.handles.foldl State.translated s).useRecs c.task.ctx op.kind.handles
    k id (s1.mapCore fun c =>
      { c with eng := if cl then { c.eng with cl := c.eng.cl ++ [op] } else { c.eng with cp := c.eng.cp ++ [op] } })

/-! ## TLD, TST, TPREF (R230, R231, R238) -/

/-- TLD (R230). -/
def opTld (o : Long) (s : State) : Res :=
  let k := o.ty + 1
  let d := bits o.sc 0 8 * 4
  let c := s.core.pairCoords o.sb
  guarded o.g s
    (withX s o.sa fun h =>
      withOffset s h.toNat c (512 * k) fun r off =>
        if off % 64 ≠ 0 then tensorTrap 0x10 h.toNat c
        else withTier s r c (withLeast s r c d 0
          (if s.core.qRoom o.dst k then
             accept s false o.md (s.core.now + d + k - 1) 0 (fun _ => .tld o.dst r.handle off k) fun id s =>
               .ok (s.mapCore fun c => c.setQ o.dst (c.reserve (c.qOf o.dst) id (c.now + d) k))
           else raise 0x06 o.dst)))
def execTld (o : Long) (s : State) : Host.Outcome State Fault Refusal := settle s .x (opTld o s)

/-- Read `n` vector registers from logical number `v` on, each renamed (R231). -/
def readGroup (s : State) (v : Nat) : Nat → (List V512 → Res) → Res
  | 0, k => k []
  | n + 1, k => withV s v fun x => readGroup s (v + 1) n fun xs => k (x :: xs)

/-- TST (R231). -/
def opTst (o : Long) (s : State) : Res :=
  let k := o.ty + 1
  let c := s.core.pairCoords o.sb
  guarded o.g s
    (withX s o.sa fun h =>
      withOffset s h.toNat c (512 * k) fun r off =>
        if off % 64 ≠ 0 then tensorTrap 0x10 h.toNat c
        else withTier s r c
          (readGroup s o.sc k fun data =>
            accept s false o.md (s.core.now + r.worst + 4 * k) 0 (fun _ => .tst r.handle off data) fun _ s => .ok s))
def execTst (o : Long) (s : State) : Host.Outcome State Fault Refusal := settle s .x (opTst o s)

/-- The granules that a TPREF installs in square L2 (R345): those of its range, and none under hint 7. One that the square holds
already counts too, since what it holds is no function of the task's code and data, on which CYCLE depends alone (R347):
DEDUCED (log 100). -/
def prefGrans (off len hint : Nat) : Nat := if hint = 7 then 0 else (granulesOf off len).length

/-- TPREF: whatever would make R228 or R229 trap makes it do nothing (R238). -/
def opTpref (o : Long) (s : State) : Res :=
  guarded o.g s
    (withX s o.sa fun h =>
      match s.recFor s.core.task.launch s.core.task.ctx h.toNat with
      | none => .ok s
      | some r =>
        match r.offsetOf (s.core.pairCoords o.sb) 8 with
        | none => .ok s
        | some off =>
          if !s.rebuilding r && ((s.fixed && r.away) || r.rfail) then .ok s
          else
            let len := min (2 ^ o.ty * 4096) (r.bytes - off)
            accept s false o.md (s.core.now + r.worst + 2 * prefGrans off len o.md) 0 (fun _ => .tpref r.handle off len) fun _ s => .ok s)
def execTpref (o : Long) (s : State) : Host.Outcome State Fault Refusal := settle s .x (opTpref o s)

/-! ## TCOPY (R234, R235, R439, R440) -/

/-- The remote side that a handle word's upper bits name (R439). -/
def remoteSide (dst : Bool) (w h : Nat) : Option Remote :=
  if bit w 11 then some ⟨dst, bit w 10, bits w 2 8, h % 1024⟩ else none

/-- The descriptor's fields, with the address registers' values (R234, R235). -/
def CopyDesc.of (d : Nat) (p q : Int) (bfmt : Store Nat) : CopyDesc :=
  let co (b : Nat) : List Int := (List.range 4).map fun i => signed 32 (bits d (b + 32 * i) 32)
  { kind := bits d 0 3, shandle := bits d 192 20, dhandle := bits d 224 20, sc := co 256, dc := co 384,
    soff := (bits d 128 22 : Nat) + p, doff := (bits d 160 22 : Nat) + p, pitch := signed 32 (bits d 96 32),
    rows := bits d 64 13, count := bits d 32 24, d := bits d 80 10, sigKind := bits d 12 2, sigId := bits d 16 12,
    flue := bits d 8 3, wdim := bits d 4 3, adv := q
    remote := match remoteSide true (bits d 244 12) (bits d 224 20) with
      | some r => some r
      | none => remoteSide false (bits d 212 12) (bits d 192 20)
    bfmt := bfmt }

/-- The reserved bits of a descriptor are zero (R234); the fields of a remote side are none of them (R439). -/
def descReserved (d : Nat) : Bool :=
  bit d 3 || bit d 7 || bit d 11 || bits d 14 2 != 0 || bits d 28 4 != 0 || bits d 56 8 != 0 || bits d 77 3 != 0 ||
    bits d 90 6 != 0 || bits d 150 10 != 0 || bits d 182 10 != 0 || bits d 212 2 != 0 || bits d 244 2 != 0

/-- The kinds whose source or destination is a tensor, the scratchpad, a flue (R234). -/
def CopyDesc.srcTensor (c : CopyDesc) : Bool := c.kind == 0 || c.kind == 2 || c.kind == 4
def CopyDesc.dstTensor (c : CopyDesc) : Bool := c.kind == 1 || c.kind == 2 || c.kind == 5
def CopyDesc.srcPad (c : CopyDesc) : Bool := c.kind == 1 || c.kind == 3
def CopyDesc.dstPad (c : CopyDesc) : Bool := c.kind == 0 || c.kind == 3
def CopyDesc.srcRemote (c : CopyDesc) : Bool := match c.remote with | some r => !r.dst | none => false
def CopyDesc.dstRemote (c : CopyDesc) : Bool := match c.remote with | some r => r.dst | none => false

/-- The coordinates of row `r` (R235). -/
def rowCoords (c : CopyDesc) (l : List Int) (r : Nat) : List Int :=
  (List.range 4).map fun i => (l[i]?).getD 0 + (if i = c.wdim then c.adv + r else 0)

/-- A bank's format register value (R155). -/
def bfmtOf (b : Store Nat) (off : Int) : Nat := Store.get Pad.bfmtReset b (bankOf off.toNat)

/-- One side's format; none is raw (R235). -/
def sideFmt (code : Nat) : Option Fmt := if code = 0x80 then none else Fmt.ofCode code
def Rec.side (r : Rec) : Option Fmt := if r.raw then none else some r.format

/-- The widths of two sides: a raw side takes the other's, 8 when both are raw (R235). -/
def sideWidth (a b : Option Fmt) : Nat :=
  match a, b with
  | some f, _ => f.width
  | none, some f => f.width
  | none, none => 8

/-- The formats of row `r`'s two sides; a remote side is raw (R235, R439). -/
def CopyDesc.rowSides (c : CopyDesc) (src dst : Option Rec) (r : Nat) : Option Fmt × Option Fmt :=
  let a := if c.srcPad then sideFmt (bfmtOf c.bfmt (c.soff + r * c.pitch)) else src.bind Rec.side
  let b := if c.dstPad then sideFmt (bfmtOf c.bfmt (c.doff + r * c.pitch)) else dst.bind Rec.side
  (a, b)

/-- One place in each bank of a range of the scratchpad. -/
def bankPlaces (off len : Nat) : List Nat :=
  if len = 0 then [] else (List.range (bankOf (off + len - 1) - bankOf off + 1)).map fun i => (bankOf off + i) * 131072

/-- A scratchpad row of `nbits` at an offset: cause 0x10 when it leaves the scratchpad, spans banks of different formats
or is no whole number of bytes (R235). -/
def padRowBad (b : Store Nat) (off : Int) (nbits : Nat) : Option Trap :=
  let len := nbits / 8
  if nbits % 8 ≠ 0 ∨ off < 0 ∨ (padBytes : Int) < off + len ∨
      ((bankPlaces off.toNat len).any fun p => Store.get Pad.bfmtReset b (bankOf p) != bfmtOf b off) = true
  then some ⟨0x10, wrap 64 off, []⟩ else none

/-- A tensor row: cause 0x10 under R228, or for an MX side that does not begin or end at a block (R235). -/
def tensorRowBad (r : Rec) (c : List Int) (count w : Nat) : Option Trap :=
  let bad := some (⟨0x10, r.handle, c⟩ : Trap)
  match r.offsetOf c (count * w) with
  | none => bad
  | some off => if r.isMx ∧ (off * 8 / w % 32 ≠ 0 ∨ count % 32 ≠ 0) then bad else none

/-- The first failure of row `r` (R235). The units of KIND 4 and 5 are no elements, so that an MX tensor's blocks do not bind them:
DESIGN CHOICE (log 99). -/
def CopyDesc.rowBad (c : CopyDesc) (src dst : Option Rec) (r : Nat) : Option Trap :=
  let f := c.rowSides src dst r
  let unit := c.kind = 4 ∨ c.kind = 5
  let ws := if unit then 512 else sideWidth f.1 f.2
  let wd := if unit then 512 else sideWidth f.2 f.1
  let t1 := match src with | some x => (if unit then (match x.offsetOf (rowCoords c c.sc r) (c.count * 512) with
                                          | none => some (Trap.mk 0x10 x.handle (rowCoords c c.sc r)) | some _ => none)
                                        else tensorRowBad x (rowCoords c c.sc r) c.count ws) | none => none
  let t2 := if c.srcPad then padRowBad c.bfmt (c.soff + r * c.pitch) (c.count * ws) else none
  let t3 := match dst with | some x => (if unit then (match x.offsetOf (rowCoords c c.dc r) (c.count * 512) with
                                          | none => some (Trap.mk 0x10 x.handle (rowCoords c c.dc r)) | some _ => none)
                                        else tensorRowBad x (rowCoords c c.dc r) c.count wd) | none => none
  let t4 := if c.dstPad then padRowBad c.bfmt (c.doff + r * c.pitch) (c.count * wd) else none
  t1.or (t2.or (t3.or t4))

/-- The die of a port: package ports 0 to 63, and after them the Ethernet ports, two of them on each of dies 2 and 3 (spec/23
R428, R442). -/
def portDie (p : Nat) : Nat := if p < 64 then p / 16 else 2 + (p - 64) / 2
/-- The device has a port: it has the port's die (R2). -/
def State.hasPort (s : State) (p : Nat) : Bool := p < 68 && s.diePresent (portDie p)
/-- The Ethernet ports of the device. -/
def State.etherPorts (s : State) : List Nat := [64, 65, 66, 67].filter s.hasPort

/-- The planes on which a context's owner is active: ports that are up with an active entry (spec/23 R432, R440). -/
def State.planes (s : State) (ctx : Nat) : List Nat :=
  match (s.ctx? ctx).bind (·.owner) with
  | none => []
  | some o =>
    (List.range 64).filter fun p =>
      let x := Store.get Port.init s.fabric.ports p
      s.hasPort p && !x.down && (Store.get OwnerEntry.empty x.owners o).state == 1

/-- There is a usable path to the remote node (R440). -/
def State.pathOk (s : State) (ctx : Nat) (r : Remote) : Bool :=
  if r.eth then
    (match s.ctx? ctx with | some c => c.peers.any (fun p => p.1 == r.node) | none => false) && !s.etherPorts.isEmpty
  else !(s.planes ctx).isEmpty

/-- The bank places of every row of the scratchpad side. -/
def CopyDesc.padPlaces (c : CopyDesc) (off : Int) (w : Nat → Nat) : List Nat :=
  ((List.range c.rows).map fun (r : Nat) => bankPlaces (off + r * c.pitch).toNat (c.count * w r / 8)).flatten.eraseDups

/-- Check 1 of R235 and R440, on the descriptor's words. COUNT 0 is out of range for every kind: DESIGN CHOICE (log 99). A row
that begins outside the scratchpad has no bank there, and fails check 2. -/
def CopyDesc.illegal (c : CopyDesc) (raw : Nat) (src dst : Option Rec) : Bool :=
  let unit := c.kind == 4 || c.kind == 5
  let far := match c.remote with
    | none => false
    | some r =>
      !(c.kind ≤ 2) || (if r.dst then !c.dstTensor else !c.srcTensor) || (bit raw 255 && bit raw 223) ||
        (if r.dst then 1024 ≤ c.dhandle else 1024 ≤ c.shandle) || (if r.eth then 63 < r.node else 143 < r.node)
  let mxRaw (x : Option Rec) (other : Option Fmt) : Bool :=
    match x with | some y => !unit && y.isMx && other.isNone | none => false
  let there (pad : Bool) (off : Int) (r : Nat) : Bool := !pad || (0 ≤ off + r * c.pitch && off + r * c.pitch < (padBytes : Int))
  let mxRow (r : Nat) : Bool :=
    (there c.dstPad c.doff r && mxRaw src (c.rowSides src dst r).2) || (there c.srcPad c.soff r && mxRaw dst (c.rowSides src dst r).1)
  descReserved raw || 5 < c.kind || c.sigKind == 3 || c.count == 0 || (unit && 8 < c.count) || c.rows == 0 ||
    4096 < c.rows || (unit && c.rows != 1) || (c.kind == 4 && c.d < 8) || (c.sigKind == 2 && 255 < c.sigId) ||
    3 < c.wdim || far || (List.range c.rows).any mxRow

/-- Granules that row `r` writes (R345). -/
def granCount (off len : Nat) : Nat := if len = 0 then 0 else (off + len - 1) / 64 - off / 64 + 1

/-- The cycles from the landing of the units that a KIND 5 copy pops to its padded completion (R345). -/
def CopyDesc.tail (c : CopyDesc) (dst : Option Rec) : Nat :=
  if c.kind = 5 then (match dst with | some r => r.worst | none => 16) + 2 * c.count else 0

/-- The padded completion of a local copy issued in cycle `t` (R345); that of a KIND 5 copy follows its units' landing too. An
MX destination's scales are granules that it writes. -/
def CopyDesc.paddedAt (c : CopyDesc) (src dst : Option Rec) (t : Nat) : Nat :=
  let ws := match src with | some r => r.worst | none => 16
  let wd := match dst with | some r => r.worst | none => 16
  if c.kind = 4 then t + c.d + c.count - 1
  else if c.kind = 5 then t + c.tail dst
  else
    let g := ((List.range c.rows).map fun r =>
      let f := c.rowSides src dst r
      let w := sideWidth f.2 f.1
      match dst with
      | some x =>
        let off := (x.offsetOf (rowCoords c c.dc r) 0).getD 0
        granCount off (ceilDiv (c.count * w) 8) +
          (if x.isMx then granCount (x.scaleBase + off * 8 / w / 32) (c.count / 32) else 0)
      | none => granCount (c.doff + r * c.pitch).toNat (c.count * w / 8)).sum
    t + ws + wd + 2 * g

/-- The checks of a TCOPY after those of its words, and its acceptance (R235, R440). -/
def copyChecked (s : State) (c : CopyDesc) (ring : AReg) (hint : Nat) (src dst : Option Rec) : Res :=
  let off := if c.srcPad then c.soff else c.doff
  if (c.srcPad || c.dstPad) && ring.ringOver then raise 0x10 (wrap 64 off)
  else match (List.range c.rows).findSome? (c.rowBad src dst) with
  | some t => .trap t
  | none =>
    let tier (x : Option Rec) (co : List Int) (k : Res) : Res := match x with | some r => withTier s r co k | none => k
    let least (k : Res) : Res :=
      match src with | some r => if c.kind = 4 then withLeast s r (rowCoords c c.sc 0) c.d 0 k else k | none => k
    tier src (rowCoords c c.sc 0) <| tier dst (rowCoords c c.dc 0) <| least
      (match c.remote with
       | some r =>
         if s.fixed then tensorTrap 0x09 (if r.dst then c.dhandle else c.shandle) []
         else if !s.pathOk s.core.task.ctx r then raise 0x13 r.win
         else go
       | none => go)
where
  go : Res :=
    let w (snd : Bool) (r : Nat) : Nat :=
      let f := c.rowSides src dst r
      if snd then sideWidth f.2 f.1 else sideWidth f.1 f.2
    let rd := if c.srcPad then s.core.pad.clash .lin (c.padPlaces c.soff (w false)) else none
    let wr := if c.dstPad then s.core.pad.clashW .lin (c.padPlaces c.doff (w true)) else none
    match rd.or wr with
    | some b => raise 0x0A b
    | none =>
      if c.kind = 4 ∧ s.core.flueRoom c.flue c.count = false then raise 0x06 c.flue
      else
        let padded := if c.remote.isSome then 0 else c.paddedAt src dst s.core.now
        accept s c.remote.isSome hint padded (c.tail dst) (fun _ => .copy c) fun id s =>
          .ok (s.mapCore fun k =>
            let k1 := if c.dstPad then { k with pad := k.pad.setView .lin (c.padPlaces c.doff (w true)) } else k
            if c.kind = 4 then
              k1.setFlue c.flue { k1.flueOf c.flue with q := k1.reserve (k1.flueOf c.flue).q id (k1.now + c.d) c.count }
            else k1)

/-- TCOPY (R234, R235, R440). Cause 0x11 of both tensor sides stands before cause 0x10 of either: DESIGN CHOICE (log 99). -/
def opTcopy (o : Long) (s : State) : Res :=
  let p := s.core.readA o.sb
  guarded o.g s
    (withV s o.sa fun v =>
      let c := CopyDesc.of v.toNat p.int (s.core.readA o.sc).int s.core.pad.bfmt
      let look (b : Bool) (h : Nat) : Option Rec := if b then s.recFor s.core.task.launch s.core.task.ctx h else none
      let needS := c.srcTensor && !c.srcRemote
      let needD := c.dstTensor && !c.dstRemote
      let src := look needS c.shandle
      let dst := look needD c.dhandle
      if c.illegal v.toNat src dst then raise 0x01 s.core.seq.pc
      else if needS && src.isNone then tensorTrap 0x11 c.shandle (rowCoords c c.sc 0)
      else if needD && dst.isNone then tensorTrap 0x11 c.dhandle (rowCoords c c.dc 0)
      else copyChecked s c p o.md src dst)
def execTcopy (o : Long) (s : State) : Host.Outcome State Fault Refusal := settle s .x (opTcopy o s)

/-! ## Fences (R240 to R243) -/

/-- The fixed-timing cycles that write-back and invalidation at scope .d or wider add (R345). -/
def fenceExtra (scope : Nat) : Nat := if 3 ≤ scope then 256 else 0

/-- FENCE: as QFENCE with mask 0x1F, then its actions at scope .d or wider; a race report surfaces here (R242, R316). -/
def opFence (o : Long) (s : State) : Res :=
  let wide := 3 ≤ o.ty
  guarded o.g s
    (withRace s 0x1F
      (.ok (s.mapCore fun c =>
        { c with wait := s.fenceWait 0x1F [] (fenceExtra o.ty) (wide && bit o.sc 1) (wide && bit o.sc 0) none none })))
def execFence (o : Long) (s : State) : Host.Outcome State Fault Refusal := settle s .x (opFence o s)

/-- QFENCE: a mask of 0 has no effect (R241). -/
def opQfence (o : Long) (s : State) : Res :=
  guarded o.g s
    (if o.sc = 0 then .ok s
     else withRace s o.sc (.ok (s.mapCore fun c => { c with wait := s.fenceWait o.sc [] 0 false false none none })))
def execQfence (o : Long) (s : State) : Host.Outcome State Fault Refusal := settle s .x (opQfence o s)

/-- The scratchpad rows of a copy, its source's or its destination's, as (offset, bytes) (R235). -/
def State.padRows (s : State) (o : CopyOp) (d : CopyDesc) (dst : Bool) : List (Nat × Nat) :=
  let rec_ (b : Bool) (h : Nat) : Option Rec := if b then s.recAt o.ctx h else none
  let src := rec_ (d.srcTensor && !d.srcRemote) d.shandle
  let to_ := rec_ (d.dstTensor && !d.dstRemote) d.dhandle
  (List.range d.rows).map fun r =>
    let f := d.rowSides src to_ r
    if dst then ((d.doff + r * d.pitch).toNat, d.count * sideWidth f.2 f.1 / 8)
    else ((d.soff + r * d.pitch).toNat, d.count * sideWidth f.1 f.2 / 8)

/-- The scratchpad ranges that a queued operation writes (R235, R245). -/
def State.padWrites (s : State) (o : CopyOp) : List (Nat × Nat) :=
  match o.kind with
  | .win w _ rows _ =>
    let x := Store.get Win.closed s.core.win w
    (rows.filter fun r => x.fills.any fun f => f.req == o.id && f.row == r).map fun r => (x.slotBase r, x.size)
  | .copy d => if d.dstPad then s.padRows o d true else []
  | _ => []

/-- The banks to which a queued operation has still to write, as its rows' widths have it (R235, R245). -/
def State.opBanks (s : State) (o : CopyOp) : List Nat :=
  match o.kind with
  | .win w _ rows _ =>
    let x := Store.get Win.closed s.core.win w
    ((rows.filter fun r => x.fills.any fun f => f.req == o.id && f.row == r).map fun r => bankOf (x.slotBase r)).eraseDups
  | .copy d =>
    if d.dstPad then
      let src := if d.srcTensor && !d.srcRemote then s.recAt o.ctx d.shandle else none
      (d.padPlaces d.doff fun r => let f := d.rowSides src none r; sideWidth f.2 f.1).map bankOf |>.eraseDups
    else []
  | _ => []

/-- The pending window fills whose slot lies in a named bank, with their windows (R243). -/
def Core.fillsIn (c : Core) (m : Nat) : List (Win × WinFill) :=
  c.win.flatMap fun e => (e.2.fills.filter fun f => bit m (bankOf (e.2.slotBase f.row))).map fun f => (e.2, f)

/-- VJOIN: the queued writes to the named banks and the rows of pending window fills are awaited, then those banks are CLEAN
(R243). In a fixed-timing context it ends at the latest padded completion, a fill's being its row's landing cycle (R345). -/
def opVjoin (o : Long) (s : State) : Res :=
  guarded o.g s
    (withX s o.sa fun v =>
      let m := v.toNat % 2 ^ 32
      let ops := (s.core.eng.cp ++ s.core.eng.cl).filter fun x => (s.opBanks x).any (bit m)
      let rows := (s.core.fillsIn m).map fun e => s.core.now + s.core.until_ e.2.hand e.2.land
      let end_ := max (max (s.core.paddedEnd ops fun x => (s.opBanks x).any (bit m)) (maxOf rows)) s.core.now
      .ok (s.mapCore fun c => { c with wait := .fence (ops.map (·.id)) [] 0 (end_ + 1) false false m none none }))
def execVjoin (o : Long) (s : State) : Host.Outcome State Fault Refusal := settle s .x (opVjoin o s)

/-- The X-slot NOP (R62). -/
def execXNop (s : State) : Host.Outcome State Fault Refusal :=
  .next (s.mapCore fun c => { c with sticky := { c.sticky with x := none } })

/-! ## Windows (R245 to R248) -/

/-- One free choice (log 1). -/
def State.pick (s : State) : Nat × State := (Config.choose s.free, { s with free := s.free + 1 })

/-- The bytes of cancelled fills: each 64-byte unit of an arrived row is written or not, freely (R245, R248). -/
def State.cancelFill (s : State) (w : Win) (f : WinFill) : State :=
  match f.data with
  | none => s
  | some bs =>
    (List.range (w.size / 64)).foldl (fun s i =>
      let (n, s) := s.pick
      let at_ := w.slotBase f.row + 64 * i
      if n % 2 = 0 || f.later.any (fun p => p.1 < at_ + 64 && at_ < p.1 + p.2) then s
      else s.padPut ((List.range 64).map (at_ + ·)) ((bs.drop (64 * i)).take 64)) s

/-- Close a window: its pending fills are cancelled (R248). -/
def State.closeWin (s : State) (n : Nat) : State :=
  let w := Store.get Win.closed s.core.win n
  if !w.opened then s
  else
    let s1 := (w.fills.foldl (fun s f => s.cancelFill w f) s).unuseRecs s.core.task.ctx [w.handle]
    s1.mapCore fun c => { c with win := Store.set Win.closed c.win n Win.closed }

/-- Slot size of a window: converted rows, or the row's image when a side is raw (R245). -/
def winSize (r : Rec) (code : Nat) : Nat :=
  let w := match sideFmt code, r.side with | some f, some _ => f.width | _, _ => r.width
  ceilDiv ((r.ext[1]?).getD 0 * w) 512 * 64

/-- The fills of `k` rows from `r0` on, landing from `land` on (R245). -/
def winFills (r0 : Int) (size land req : Nat) (hand : Bool) (k : Nat) : List WinFill :=
  (List.range k).map fun (i : Nat) =>
    { row := r0 + i, land := land + i * size / 64, req := req, data := none, flags := 0, mark := none, hand := hand, late := false, later := [] }

/-- Queue a fill of `k` rows of window `n` from row `r0` on, its banks becoming LIN (R245); the bank formats are those in force
at acceptance (R158). -/
def queueFill (s : State) (n : Nat) (w : Win) (r0 : Int) (k : Nat) (f : State → Res) : Res :=
  let rows := (List.range k).map fun (i : Nat) => r0 + (i : Int)
  let places := (rows.map fun r => bankPlaces (w.slotBase r) w.size).flatten
  match s.core.pad.clashW .lin places with
  | some b => raise 0x0A b
  | none =>
    accept s false 0 (s.core.now + w.d + (k - 1) * w.size / 64) 0
      (fun _ => .win n w.handle rows s.core.pad.bfmt) fun id s =>
        f (s.mapCore fun c =>
          let x := { w with fills := w.fills ++ winFills r0 w.size (c.now + w.d) id c.priv k }
          { c with win := Store.set Win.closed c.win n x, pad := c.pad.setView .lin places })

/-- WOPEN (R246). -/
def opWopen (o : S3X) (s : State) : Res :=
  let n := bits o.x 0 2
  let cnt := bits o.x 2 11 + 1
  let d := bits o.x 13 10
  let h := (o.src2 s.core).toNat
  let g := (o.src3 s.core).toNat
  let base := bits g 0 32
  let r0 := signed 32 (g / 2 ^ 32)
  guarded o.g s
    (let s := s.closeWin n
     withRec s h [] fun r =>
      let code := bfmtOf s.core.pad.bfmt base
      let size := winSize r code
      if r.ext.length ≠ 2 then tensorTrap 0x10 h []
      else if base % 64 ≠ 0 ∨ padBytes < base + cnt * size ∨
          ((List.range cnt).any fun i => bankOf (base + i * size) != bankOf (base + i * size + size - 1)) = true ∨
          (r.isMx && (List.range cnt).any fun i => bfmtOf s.core.pad.bfmt (base + i * size) == 0x80) = true then raise 0x10 base
      else withTier s r [] (withLeast s r [] d 0
        (let w : Win := ⟨true, h, r0, cnt, size, base, d, [], []⟩
         queueFill (s.useRecs s.core.task.ctx [h]) n w r0 cnt fun s =>
           let v := BitVec.ofNat 64 (w.slotBase r0)
           .ok (s.result .a 3
             [.aval o.f1 v, .astep o.f1 (BitVec.ofNat 32 size),
              .aring o.f1 (BitVec.ofNat 16 (base / 64)) (BitVec.ofNat 16 (cnt * size / 64))]
             (some (v.setWidth 512)) 0))))
def execWopen (o : S3X) (s : State) : Host.Outcome State Fault Refusal := settle s .a (opWopen o s)

/-- WADV (R247). -/
def opWadv (o : S3) (s : State) : Res :=
  let w := Store.get Win.closed s.core.win o.f1
  let k := (o.src2 s.core).toNat
  guarded o.g s
    (if !w.opened then raise 0x13 o.f1
     else if k = 0 then .ok s
     else if w.n < k then raise 0x10 w.handle
     else
       withRec s w.handle [] fun r =>
         withTier s r [] (withLeast s r [] w.d 0
           (let gone (f : WinFill) : Bool := w.r0 ≤ f.row && f.row < w.r0 + k
            let s1 := (w.fills.filter gone).foldl (fun s f => s.cancelFill w f) s
            let w1 := { w with r0 := w.r0 + k, fills := w.fills.filter (fun f => !gone f)
                               marks := w.marks.filter fun m => !(w.r0 ≤ m.1 && m.1 < w.r0 + k) }
            queueFill s1 o.f1 w1 (w.r0 + w.n) k fun s => .ok s)))
def execWadv (o : S3) (s : State) : Host.Outcome State Fault Refusal := settle s .a (opWadv o s)

/-- WCLOSE (R248). -/
def opWclose (o : S3) (s : State) : Res :=
  guarded o.g s
    (if (Store.get Win.closed s.core.win o.f1).opened then .ok (s.closeWin o.f1) else raise 0x13 o.f1)
def execWclose (o : S3) (s : State) : Host.Outcome State Fault Refusal := settle s .a (opWclose o s)

end Sys2Proof.Machine
end

