-- ==== Sys2Proof/Machine/Atomics.lean ====
section
/-! DEFINITION. The atomics of the X slot at issue: sync addresses, the checks of R294, fixed-mode distances, and the
waits that their orders ask for (spec/12_die_sync_engine.md R286 to R299). -/
namespace Sys2Proof.Machine

/-! ## Sync addresses (R286) -/

/-- The fields of a sync address. -/
def syncSpace (a : W64) : Nat := bits a.toNat 30 2
def syncDie (a : W64) : Nat := bits a.toNat 28 2
def syncIndex (a : W64) : Nat := bits a.toNat 0 28

/-- The sync words of the engine's SRAM (R287). -/
def sramWords : Nat := 2 ^ 20

/-- The limit of a space on a die (R286). -/
def Die.syncLimit (d : Die) (space : Nat) : Nat :=
  match space with
  | 0 => sramWords + d.ovfWords
  | 1 => 1024
  | 2 => 256
  | _ => 4096

/-- The host allocated the index to the context (R286, R287). -/
def Context.allocated (c : Context) (die space i : Nat) : Bool :=
  c.sync.any fun r => r.1 == die && r.2.1 == space && r.2.2.1 ≤ i && i ≤ r.2.2.2

/-- A sync address that an operation on `space` accepts from context `ctx` (R286). -/
def State.syncOk (s : State) (ctx space : Nat) (a : W64) : Bool :=
  bits a.toNat 32 32 == 0 && s.diePresent (syncDie a) && syncSpace a == space &&
    syncIndex a < (s.dieAt (syncDie a)).syncLimit space &&
    (match s.ctx? ctx with | some c => c.allocated (syncDie a) space (syncIndex a) | none => false)

/-- The least landing distance in a fixed-timing context (R295). -/
def syncLeast (die : Nat) (a : W64) : Nat :=
  if syncSpace a = 0 ∧ sramWords ≤ syncIndex a then 640 else if syncDie a = die then 96 else 220

/-! ## Scopes (spec/13_die_memory_model.md R308) -/

/-- The task on the hearth, as the scopes see it. -/
def State.ident (s : State) : Ident :=
  let t := s.core.task
  match s.launches.find? fun l => l.id == t.launch with
  | some l => ⟨t.launch, t.ord, l.die, t.fuse, t.wid, t.w0⟩
  | none => ⟨t.launch, t.ord, s.die, t.fuse, t.wid, t.w0⟩

/-- Two tasks of one street group (`n` = 3) or square group (`n` = 4): their identifiers differ in the low bits of f0 only
(spec/11 R265). -/
def sameGroup (n : Nat) (a b : Ident) : Bool :=
  a.launch == b.launch && (a.ord == b.ord ||
    (a.fuse && a.wid.toNat / 2 ^ min a.w0 n == b.wid.toNat / 2 ^ min a.w0 n))

/-- Task `b` lies in task `a`'s instance at a scope (R308). -/
def inInstance (scope : Nat) (a b : Ident) : Bool :=
  match scope with
  | 0 => a.launch == b.launch && a.ord == b.ord
  | 1 => sameGroup 3 a b
  | 2 => sameGroup 4 a b
  | 3 => a.die == b.die
  | _ => true

/-- What an acquire at scope `scope` by `who` joins from the release sequences that it reads (R300, R308, R315). -/
def acquired (rel : List RelSeq) (who : Ident) (scope : Nat) : List Tag :=
  (rel.filter fun r => inInstance r.scope r.who who && inInstance scope who r.who).foldl (fun q r => joinTags q r.known) []

/-! ## Issue (R294) -/

/-- An order with a release side: .rel, .ar, .sc. -/
def isRelease (order : Nat) : Bool := order == 2 || order == 3 || order == 4
/-- An order with an acquire side: .acq, .ar, .sc. -/
def isAcquire (order : Nat) : Bool := order == 1 || order == 3 || order == 4

/-- The padded end of an acquire-side wait and whether it invalidates (R242, R345). -/
def SyncReq.acquireWait (r : SyncReq) : Wait :=
  .acquire r.id (r.issued + syncLeast (dieOf r.hearth) r.addr + 1) (3 ≤ r.scope)

/-- What the hearth waits for once a request has left it; a pre-emption request pending cancels a WAITA (R294, R296). -/
def SyncReq.waitAfter (r : SyncReq) (asked : Bool) : Wait :=
  if r.op = 0x2B then .waita r.id r.pd r.issued r.b1.toNat (isAcquire r.order && 3 ≤ r.scope) asked
  else if isAcquire r.order then r.acquireWait
  else .none

/-- An atomic that heads a release sequence by writing (R300): every writing operation on a word or deque, but not a load,
a WAITA or a post. -/
def headOp (op : Nat) : Bool := op != 0x28 && op != 0x2B && op != 0x2C

/-- Accept a request: it leaves at once, or after the wait of its release side (R294). -/
def State.acceptSync (s : State) (r : SyncReq) : State :=
  let rel := isRelease r.order
  let head := rel && headOp r.op
  let extra := fenceExtra r.scope + 16
  let mine := s.mySync.map (·.id)
  let s1 := { s with reqs := s.reqs ++ [{ r with sent := !rel }] }
  s1.mapCore fun c =>
    let w := if rel then s.fenceWait 0x1F mine extra (3 ≤ r.scope) false (some r.id) none else r.waitAfter (c.mode == .preempting)
    { c with wait := match w with | .none => c.wait | _ => w
             race := if head then { c.race with epoch := c.race.epoch + 1 } else c.race }

/-- The checks of R294 after the operands and the acceptance of an atomic: `d` is the landing distance of its result in
stream register `q`. -/
def issueSync (o : Long) (op space : Nat) (s : State) (a b b1 : W64) (pd : Nat) : Res :=
  let ret := bit o.sc 10
  let d := bits o.sc 0 8 * 4
  let addr := a.toNat
  if !s.syncOk s.core.task.ctx space a then raise 0x10 addr
  else if op = 0x2A ∧ s.det = true then raise 0x19 addr
  else if ret ∧ s.fixed = true ∧ d < syncLeast s.die a then raise 0x09 addr
  else if ret ∧ s.core.qRoom o.dst 1 = false then raise 0x06 o.dst
  else
    let go : Res :=
      if 32 ≤ (s.reqs.filter fun r => r.hearth == s.coreId).length then .freeze (.full .sync)
      else
        let (id, s) := s.fresh
        let c := s.core
        let r : SyncReq :=
          { id := id, hearth := s.coreId, op := op, addr := a, b := b, b1 := b1, uns := bit o.sc 8, scope := o.ty,
            order := o.md, issued := c.now, ret := if ret then some o.dst else none, pd := pd, who := s.ident,
            ctx := c.task.ctx, epoch := c.race.epoch, known := recordOf c.race.known c.race.sat, sent := false, done := false, val := 0,
            status := 0, got := [], bad := false }
        let s1 := if ret then s.mapCore fun c => c.setQ o.dst (c.reserve (c.qOf o.dst) id (c.now + d) 1) else s
        .ok (s1.acceptSync r)
    if isRelease o.md then withRace s 0x1F go else go

/-- An atomic with a single operand register. -/
def atomic1 (o : Long) (op space : Nat) (s : State) : Res :=
  guarded o.g s (withX s o.sa fun a => withX s o.sb fun b => issueSync o op space s a b 0 0)

/-- An atomic without an operand. -/
def atomic0 (o : Long) (op space : Nat) (s : State) : Res :=
  guarded o.g s (withX s o.sa fun a => issueSync o op space s a 0 0 0)

/-- AADD (R292). -/
def opAadd (o : Long) (s : State) : Res := atomic1 o 0x20 0 s
def execAadd (o : Long) (s : State) : Host.Outcome State Fault Refusal := settle s .x (opAadd o s)
/-- AMIN (R292). -/
def opAmin (o : Long) (s : State) : Res := atomic1 o 0x21 0 s
def execAmin (o : Long) (s : State) : Host.Outcome State Fault Refusal := settle s .x (opAmin o s)
/-- AMAX (R292). -/
def opAmax (o : Long) (s : State) : Res := atomic1 o 0x22 0 s
def execAmax (o : Long) (s : State) : Host.Outcome State Fault Refusal := settle s .x (opAmax o s)
/-- AAND (R292). -/
def opAand (o : Long) (s : State) : Res := atomic1 o 0x23 0 s
def execAand (o : Long) (s : State) : Host.Outcome State Fault Refusal := settle s .x (opAand o s)
/-- AOR (R292). -/
def opAor (o : Long) (s : State) : Res := atomic1 o 0x24 0 s
def execAor (o : Long) (s : State) : Host.Outcome State Fault Refusal := settle s .x (opAor o s)
/-- AXOR (R292). -/
def opAxor (o : Long) (s : State) : Res := atomic1 o 0x25 0 s
def execAxor (o : Long) (s : State) : Host.Outcome State Fault Refusal := settle s .x (opAxor o s)
/-- AXCHG (R292). -/
def opAxchg (o : Long) (s : State) : Res := atomic1 o 0x26 0 s
def execAxchg (o : Long) (s : State) : Host.Outcome State Fault Refusal := settle s .x (opAxchg o s)
/-- ACAS: the expected value and the new value come from a pair (R292). -/
def opAcas (o : Long) (s : State) : Res :=
  guarded o.g s
    (withX s o.sa fun a => issueSync o 0x27 0 s a (s.core.readX o.sb) (s.core.readX (o.sb + 1)) 0)
def execAcas (o : Long) (s : State) : Host.Outcome State Fault Refusal := settle s .x (opAcas o s)
/-- ALD (R292). -/
def opAld (o : Long) (s : State) : Res := atomic0 o 0x28 0 s
def execAld (o : Long) (s : State) : Host.Outcome State Fault Refusal := settle s .x (opAld o s)
/-- AST (R292). -/
def opAst (o : Long) (s : State) : Res := atomic1 o 0x29 0 s
def execAst (o : Long) (s : State) : Host.Outcome State Fault Refusal := settle s .x (opAst o s)
/-- AFADD (R293). -/
def opAfadd (o : Long) (s : State) : Res := atomic1 o 0x2A 0 s
def execAfadd (o : Long) (s : State) : Host.Outcome State Fault Refusal := settle s .x (opAfadd o s)
/-- WAITA: the expected value and the timeout come from a pair; the predicate is renamed at issue (R296). -/
def opWaita (o : Long) (s : State) : Res :=
  guarded o.g s
    (withX s o.sa fun a =>
      issueSync o 0x2B 0 s a (s.core.readX o.sb) (s.core.readX (o.sb + 1)) (physP s.core.loops.rot o.dst))
def execWaita (o : Long) (s : State) : Host.Outcome State Fault Refusal := settle s .x (opWaita o s)
/-- NOTIFY (R298). -/
def opNotify (o : Long) (s : State) : Res := atomic1 o 0x2C 2 s
def execNotify (o : Long) (s : State) : Host.Outcome State Fault Refusal := settle s .x (opNotify o s)
/-- DQPUSH (R297). -/
def opDqpush (o : Long) (s : State) : Res := atomic1 o 0x2D 1 s
def execDqpush (o : Long) (s : State) : Host.Outcome State Fault Refusal := settle s .x (opDqpush o s)
/-- DQPOP (R297). -/
def opDqpop (o : Long) (s : State) : Res := atomic0 o 0x2E 1 s
def execDqpop (o : Long) (s : State) : Host.Outcome State Fault Refusal := settle s .x (opDqpop o s)
/-- DQSTEAL (R297). -/
def opDqsteal (o : Long) (s : State) : Res := atomic0 o 0x2F 1 s
def execDqsteal (o : Long) (s : State) : Host.Outcome State Fault Refusal := settle s .x (opDqsteal o s)
/-- DCNT (R299). -/
def opDcnt (o : Long) (s : State) : Res := atomic1 o 0x30 3 s
def execDcnt (o : Long) (s : State) : Host.Outcome State Fault Refusal := settle s .x (opDcnt o s)

end Sys2Proof.Machine
end

