-- ==== Sys2Proof/Machine/Control.lean ====
section
/-! DEFINITION. The C slot: branches, calls, loops, ending and trapping, and how a bundle's C-slot operation and its
end move the sequencer (spec/04_control_scalar_system.md R94 to R107, spec/01_task_state.md R33 to R38). -/
namespace Sys2Proof.Machine

/-- Put the outcome of a C-slot operation, to take effect at the end of its bundle. -/
def withCtl (s : State) (k : Ctl) : Res := .ok (s.mapCore fun c => { c with ctl := some k })

/-! ## Branches and calls -/

/-- A PC-relative target, T = PC + 4 × I, as a 64-bit offset (R94). -/
def relTarget (pc : Nat) (i : Int) : Nat := wrap 64 ((pc : Int) + 4 * i)

/-- BR (R96). -/
def opBr (o : SI) (s : State) : Res := guarded o.g s (withCtl s (.jump (relTarget s.core.seq.pc o.simm)))
/-- BRP: transfers when its guard is true and pN is false (R96). -/
def opBrp (o : SPI) (s : State) : Res :=
  guarded o.g s (if s.core.readP o.p1 then .ok s else withCtl s (.jump (relTarget s.core.seq.pc o.simm)))
/-- BRI (R97). -/
def opBri (o : S3) (s : State) : Res := guarded o.g s (withCtl s (.jump (o.src2 s.core + o.src3 s.core).toNat))
/-- RET (R97). -/
def opRet (o : S3) (s : State) : Res := guarded o.g s (withCtl s (.jump (o.src2 s.core).toNat))
/-- CALL: the link is the PC of the bundle after the second delay bundle, a class-0 result to x31 (R98). -/
def opCall (o : SI) (s : State) : Res :=
  let k := s.core.code
  let link := k.nextBundle (k.nextBundle (k.nextBundle s.core.seq.pc))
  guarded o.g s
    (withCtl (s.result .c 0 [s.core.toX 31 (BitVec.ofNat 64 link)] none 0) (.jump (relTarget s.core.seq.pc o.simm)))

/-! ## Loops -/

/-- The checks and the effect of LOOP and SLOOP (R101): count register value `n`, offset `i` in syllables, stage count
of a pipelined loop. Their cause 0x02 is one that the operation raises, and ranks so in R73's order, behind every check of the
bundle: DEDUCED (log 104). -/
def openLoop (n i : Nat) (stages : Option Nat) (s : State) : Res :=
  let c := s.core
  let stop := c.seq.pc + 4 * i
  let start := c.code.nextBundle c.seq.pc
  let lim := if stages.isSome then 2 ^ 32 + 1 else 2 ^ 32
  if !c.code.bundleStart stop || stop < start then raise 0x02 stop
  else if (match c.loops.stack with | e :: _ => start < e.start || e.stop ≤ stop | [] => false) then raise 0x03 c.seq.pc
  else if stages.isSome && c.loops.stack.any (·.piped) then raise 0x03 c.seq.pc
  else if lim ≤ n then raise 0x12 n
  else if n = 0 then withCtl s (.goto (c.code.nextBundle stop))
  else if c.loops.stack.length = 6 then raise 0x07 0
  else match stages with
    | none => withCtl s (.push ⟨false, start, stop, n, 0⟩ 0 0)
    | some st => withCtl s (.push ⟨true, start, stop, 0, 0⟩ n st)

/-- LOOP (R101). -/
def opLoop (o : S1I) (s : State) : Res := guarded o.g s (openLoop (o.src1 s.core).toNat o.imm none s)
/-- SLOOP (R101). -/
def opSloop (o : S2I) (s : State) : Res := guarded o.g s (openLoop (o.src1 s.core).toNat o.imm (some o.f2) s)
/-- NEXT (R35, R102). -/
def opNext (o : S0) (s : State) : Res :=
  guarded o.g s
    (match s.core.loops.stack with
     | [] => raise 0x08 0
     | e :: _ => if e.stop = s.core.seq.pc then withCtl s .next else raise 0x03 s.core.seq.pc)
/-- LEXIT (R103). -/
def opLexit (o : S0) (s : State) : Res :=
  guarded o.g s (match s.core.loops.stack with | [] => raise 0x08 0 | _ :: _ => withCtl s .lexit)
/-- LIX: INDEX of an entry, 0 at or beyond the depth; it writes no latch (R104). -/
def opLix (o : S1I) (s : State) : Res :=
  guarded o.g s (.ok (s.result .c 0 [s.core.toX o.f1 (BitVec.ofNat 64 (s.core.loops.indexOf o.imm))] none 0))

/-! ## Ending and trapping -/

/-- HALT (R105); a race report surfaces here (R316). -/
def opHalt (o : S0) (s : State) : Res := guarded o.g s (withRace s 0x1F (withCtl s .halt))
/-- TRAP (R106). -/
def opTrap (o : SI) (s : State) : Res := guarded o.g s (withCtl s (.trap o.imm))
/-- ERET: cause 0x04 outside privileged mode whatever its guard (R107). -/
def opEret (o : S0) (s : State) : Res :=
  if s.core.priv then guarded o.g s (withCtl s .eret) else raise 0x04 0

/-! ## Streets, squares and pairs (spec/11_square_streets.md R266, R275 to R279) -/

def State.myStreet (s : State) : Street := s.streetAt (streetOf s.coreId)

/-- An operation that needs the groups of a launch with FUSEREQ and a further condition; otherwise cause 0x03 (R266). -/
def needGroup (s : State) (ok : Bool) (k : Res) : Res :=
  if s.core.task.fuse && ok then k else raise 0x03 s.core.seq.pc

/-- FUSE (R275). -/
def opFuse (o : S1I) (s : State) : Res :=
  guarded o.g s (needGroup s (s.myStreet.mode == 0) (withCtl s (.fuse o.imm)))
/-- REJOIN (R275). -/
def opRejoin (o : S0) (s : State) : Res := guarded o.g s (needGroup s (s.myStreet.mode == 2) (withCtl s .rejoin))
/-- DECOUPLE (R276): a member of a fused street; MODE becomes 2 when the leader executes it. -/
def opDecouple (o : S0) (s : State) : Res := guarded o.g s (needGroup s s.core.link.fused (withCtl s .decouple))
/-- SBAR (R277). -/
def opSbar (o : S0) (s : State) : Res :=
  guarded o.g s (needGroup s (s.myStreet.mode == 1 || s.myStreet.mode == 2) (withRace s 0x1F (withCtl s .sbar)))
/-- A street's group is of a task's square group: of its launch, with identifiers that differ in f0 bits [3:0] at most (R265). -/
def TaskId.sameSquare (t : TaskId) (x : Street) : Bool :=
  x.launch == t.launch && x.group / 2 ^ (min t.w0 4 - min t.w0 3) == t.wid.toNat / 2 ^ min t.w0 4
/-- It has members that have not halted. -/
def TaskId.sharesSquare (t : TaskId) (x : Street) : Bool := x.memb != 0 && t.sameSquare x
/-- The streets of the square of the hearth in focus. -/
def State.squarePlaces (s : State) : List Nat := [0, 1].map fun i => squareOf s.coreId * 2 + i
/-- The streets of the square group of the task in focus, by number. -/
def State.squareStreets (s : State) : List Nat :=
  s.squarePlaces.filter fun n => s.core.task.sharesSquare (s.streetAt n)
/-- The street groups of the square group, a pre-empted one as its images hold it (R273, R277). -/
def State.squareGroups (s : State) : List Street :=
  s.squareStreets.map s.streetAt ++ (s.images.map (·.street)).filter s.core.task.sharesSquare
/-- SQBAR (R277): both streets fused or decoupled, or both never fused. -/
def opSqbar (o : S0) (s : State) : Res :=
  let ts := s.squareGroups
  guarded o.g s
    (needGroup s (ts.all (fun t => t.mode == 1 || t.mode == 2) || ts.all (fun t => t.mode == 0))
      (withRace s 0x1F (withCtl s .sqbar)))
/-- The partner of the task in focus, whose identifier differs from its own in f0 bit 4 only (R265), runs (R279). -/
def State.partnerRuns (s : State) : Bool :=
  let d := s.coreAt (partnerOf s.coreId)
  d.live && d.task.launch == s.core.task.launch && 5 ≤ s.core.task.w0 && d.task.wid == s.core.task.wid ^^^ 16
/-- A square serves a fixed-timing context: one whose partition holds some of its hearths (spec/15 R342). -/
def State.squareFixed (s : State) (q : Nat) : Bool :=
  s.contexts.any fun c => c.fixed && bits (Store.get 0 c.masks (q / 4)) (q % 4 * 16) 16 != 0
/-- PAIR (R279, spec/15 R342): on needs the partner and squares of one mode, off a pair without open groups. -/
def opPair (o : S1I) (s : State) : Res :=
  let on := o.imm == 1
  let same := s.squareFixed (squareOf s.coreId) == s.squareFixed (Nat.xor (squareOf s.coreId) 1)
  guarded o.g s
    (needGroup s (if on then s.partnerRuns && same else s.core.link.paired && s.core.mat.grp == 0) (withCtl s (.pair on)))

/-! ## The end of a bundle -/

/-- The latches whose last write has completed become invalid, and so do those whose result completes within `n` cycles: 1
in the cycle under way, 0 in the one that has ended (R23, R36, R66). -/
def Core.dropLatches (c : Core) (n : Nat) : Core :=
  { c with
    regs := c.regs.dropLatches
    fly := c.fly.map fun f => if f.left ≤ n then { f with latch := f.latch.map fun l => (l.1, l.2.1, false) } else f }

/-- A group switch: latches invalid, those of the cycle's own results too, and records idle (R23, R29, R65). -/
def Core.groupSwitch (c : Core) (n : Nat) : Core := { c.dropLatches n with sticky := Sticky.idle }

/-- The iteration under way, its present cycle included, is longer than MAXITER allows (R41, R87). -/
def Core.tooLong (c : Core) : Bool := !c.priv && c.code.maxIter < c.cycle + 1 - c.task.iter

/-- An iteration boundary: the next iteration begins (R40), and the one that ends counts its last cycle (R41). A handler's
loops are no iterations of the task. -/
def Core.boundary (c : Core) : Core :=
  { c with
    seq := { c.seq with edge := true }
    st := { c.st with iterLate := c.st.iterLate || c.tooLong }
    task := if c.priv then c.task else { c.task with iter := c.cycle + 1 } }

/-- SLOOP's predicates: p8 true, p9 to p15 false, physical numbers as logical since rot is 0 (R38, R101). -/
def Regs.stagePreds (r : Regs) : Regs :=
  [9, 10, 11, 12, 13, 14, 15].foldl (fun r n => r.setP n false) (r.setP 8 true)

/-- Push a loop (R101). -/
def Core.pushLoop (c : Core) (e : LoopEntry) (trip stg : Nat) : Core :=
  if e.piped then
    { c with loops := { stack := e :: c.loops.stack, trip := trip, exe := 0, stg := stg, rot := 0 },
             regs := c.regs.stagePreds }
  else { c with loops := { c.loops with stack := e :: c.loops.stack } }

/-- Transfer control to an offset without delay bundles: fetch there is checked under R48, cause 0x02 for an offset without
a header included; log 34 names the transfers. -/
def Core.goTo (c : Core) (pc : Nat) : Core :=
  { c with seq := { pc := pc, done := 0, pend := c.seq.pend, from_ := c.seq.pc, jumped := true } }

/-- REMAIN of an entry (R33): a pipelined one reads the low 32 bits of trip + stg − 1 − exe. -/
def Loops.remain (l : Loops) (e : LoopEntry) : Nat :=
  if e.piped then (BitVec.ofInt 32 ((l.trip : Int) + l.stg - 1 - l.exe)).toNat else e.remain

/-- The executed NEXT (R36). An EXE that MTS left at 2^34 − 1 is compared after its increment as 2^34 and stored as 0: which
of the two the comparison sees, the spec does not say, DESIGN CHOICE (log 81). -/
def Core.doNext (c : Core) : Core :=
  match c.loops.stack with
  | [] => c
  | e :: r =>
    let e' := { e with index := (e.index + 1) % 2 ^ 32, remain := if e.piped then e.remain else e.remain - 1 }
    let c := c.dropLatches 1
    if e.piped then
      let exe := c.loops.exe + 1
      let rot := (c.loops.rot + 1) % 512
      let more := exe < c.loops.trip + c.loops.stg - 1
      let c := { c with
        loops := { c.loops with exe := exe % 2 ^ 34, rot := rot, stack := if more then e' :: r else r }
        regs := c.regs.setP (physP rot 8) (decide (exe < c.loops.trip)) }
      (if more then c.goTo e.start else c.goTo (c.code.nextBundle e.stop)).boundary
    else
      let more := 0 < e'.remain
      let c := { c with loops := { c.loops with stack := if more then e' :: r else r } }
      (if more then c.goTo e.start else c.goTo (c.code.nextBundle e.stop)).boundary

/-- The sequencer's move at the end of a bundle without a C-slot transfer: the next bundle, or a pending transfer's
target after its second delay bundle (R46, R70). -/
def Core.advance (c : Core) : Core :=
  let nb := c.code.nextBundle c.seq.pc
  match c.seq.pend with
  | some p =>
    if p.left ≤ 1 then { c with seq := { pc := p.target, done := 0, pend := none, from_ := p.src, jumped := true } }
    else { c with seq := { pc := nb, done := 0, pend := some { p with left := p.left - 1 }, from_ := c.seq.pc, jumped := false } }
  | none => { c with seq := { pc := nb, done := 0, pend := none, from_ := c.seq.pc, jumped := false } }

/-- Restore a handler's requests to task cycles: they keep the distance they had (R255). -/
def Core.rebase (c : Core) : Core :=
  let land (hand : Bool) (l : Nat) : Nat := if hand then c.cycle + (l - c.hclk) else l
  { c with
    q := c.q.map fun e => (e.1, e.2.map fun x => { x with land := land x.hand x.land, hand := false })
    flue := c.flue.map fun e => (e.1, { e.2 with q := e.2.q.map fun x => { x with land := land x.hand x.land, hand := false } })
    win := c.win.map fun e => (e.1, { e.2 with fills := e.2.fills.map fun x => { x with land := land x.hand x.land, hand := false } })
    mat := { c.mat with fill := c.mat.fill.map fun x => { x with land := land x.hand x.land, hand := false } } }

/-- The first abandoned group in issue order: the one whose checkpoint holds the earliest cycle (R258). -/
def earliest : List Checkpoint → Option Checkpoint
  | [] => none
  | g :: r => match earliest r with | none => some g | some h => if h.cycle < g.cycle then some h else some g

/-- Restore a checkpoint (R258): registers a, loops, sticky records, SRCTR, cycle count and what its bundle has left to the next one; elements, entries, fills
and landing records made since are gone; latches are invalid and held results discarded; the sequencer stands at the
start record. In a fused street the schedule goes back too, and what was delivered since is executed again (R272). -/
def Core.replay (c : Core) (k : Checkpoint) : Core :=
  { c with
    regs := { c.regs.dropLatches with a := k.a }
    loops := k.loops, sticky := k.sticky, cycle := k.cycle, fly := k.late, cfg := k.cfg
    st := { c.st with srctr := k.srctr }
    q := (c.q.map fun e => (e.1, e.2.filter fun x => x.req < k.req)).filter fun e => !e.2.isEmpty
    flue := (c.flue.map fun e => (e.1, { e.2 with q := e.2.q.filter fun x => x.req < k.req })).filter
      fun e => !decide (e.2 = Flue.init)
    mat := { c.mat with groups := [] }
    link := if c.link.fused then
        { c.link with tick := k.tick, inbox := (c.link.past.filter fun d => k.tick ≤ d.at_) ++ c.link.inbox, past := [] }
      else c.link
    seq := { pc := k.start.pc, done := k.start.rep, pend := none, from_ := k.start.pc, jumped := false } }

/-- A plane fill requested since a checkpoint goes (R258). -/
def State.dropLateFill (s : State) (k : Checkpoint) : State :=
  match s.core.mat.fill with
  | some x => if k.fill = some x.req then s else s.dropFill
  | none => s

/-- The landed flags follow the restored cycle count. -/
def Core.reland (c : Core) : Core :=
  let f (x : Elem) : Elem := { x with landed := x.landed && x.land ≤ c.cycle }
  { c with q := c.q.map fun e => (e.1, e.2.map f), flue := c.flue.map fun e => (e.1, { e.2 with q := e.2.q.map f }) }

/-- Every member of the street goes on after the trap (R272), and the partner of a pair, which replays its own group
(R280). -/
def State.release (s : State) (replayed : Bool) : State :=
  let s1 := if s.core.link.fused then
      ((List.range 8).map (streetOf s.coreId * 8 + ·)).foldl (fun s g =>
        if (s.coreAt g).link.fused && (s.coreAt g).link.stopped then
          s.mapCoreAt g fun d => { d with link := { d.link with stopped := false } }
        else s) (s.setStreet (streetOf s.coreId) { s.myStreet with trapped := none })
    else s
  let g := partnerOf s1.coreId
  let d := s1.coreAt g
  if s1.core.link.paired && d.link.stopped then
    let d1 := { d with link := { d.link with stopped := false, held := none } }
    match replayed, d.link.held.bind fun f => earliest f.groups with
    | true, some k =>
      let s2 := (((s1.setCoreAt g d1).focus g).dropLateFill k).focus s1.coreId
      s2.mapCoreAt g fun d => (d.replay k).reland
    | _, _ => s1.setCoreAt g d1
  else s1

/-- ERET resumes the task from its frame, once the handler's results have been written (R255): the trapping bundle
again, or by replay when groups were abandoned (R258), its own or its partner's (R280); without REPLAYOK of either half the
task ends with cause 0x06 and DOUBLE. -/
def State.resume (s : State) : State :=
  match s.core.frame with
  | none => s
  | some f =>
    let base (c : Core) : Core :=
      { c.rebase with priv := false, hclk := 0, frame := none, code := f.code, wait := .none, fly := f.fly,
                      sticky := f.sticky, seq := f.seq, cfg := f.cfg, regs := { c.regs with latch := f.latch } }
    let d := s.coreAt (partnerOf s.coreId)
    let theirs := if s.core.link.paired && d.link.stopped then (d.link.held.map (·.groups)).getD [] else []
    let partnerOk := theirs.all fun g => !g.taken
    match earliest f.groups with
    | none => if partnerOk then (s.mapCore base).release (!theirs.isEmpty) else s.fail 0x06 true
    | some k =>
      if f.replayOk && partnerOk then
        ((s.dropLateFill k).mapCore fun c => ((base c).replay k).reland).release true
      else s.fail 0x06 true

/-- The arrival on a chimney line at the end of the arrival cycle `t` (R267): the rank, the PC of the bundle and after it. -/
def State.arrive (s : State) (t : Nat) (pc : Nat) (k : Ctl) : State :=
  let h := s.coreId
  match k with
  | .sqbar =>
    let q := s.squareAt (squareOf h)
    (s.setSquare (squareOf h) { q with sqbar := q.sqbar ++ [(h, t)] }).mapCore fun c => { c with wait := .line k }
  | _ =>
    let x := s.myStreet
    (s.setStreet (streetOf h) { x with arrived := x.arrived ++ [(h % 8, pc, k, t)] }).mapCore fun c => { c with wait := .line k }

/-- A barrier's arrival advances the task's epoch (spec/13 R315). -/
def Core.bumpEpoch (c : Core) : Core := { c with race := { c.race with epoch := c.race.epoch + 1 } }

/-- The release-ordered sync requests that a barrier awaits (R277). -/
def State.releaseReqs (s : State) : List Nat :=
  (s.mySync.filter fun r => r.order = 2 ∨ r.order = 3 ∨ r.order = 4).map (·.id)

/-- The effect of a C-slot operation's outcome at the end of its bundle, in its last repetition, whose last cycle is `at_`. -/
def State.applyCtl (s : State) (at_ : Nat) (k : Ctl) : State :=
  let pc := s.core.seq.pc
  let s' := s.mapCore fun c => { c with ctl := none }
  let step := s'.mapCore Core.advance
  match k with
  | .jump t =>
    step.mapCore fun c => { c with seq := { c.seq with pend := some ⟨t, 2, pc⟩ } }
  | .goto t => s'.mapCore fun c => c.goTo t
  | .push e trip stg => (s'.mapCore fun c => c.pushLoop e trip stg).mapCore Core.advance
  | .next => s'.mapCore Core.doNext
  | .lexit =>
    s'.mapCore fun c =>
      match c.loops.stack with
      | [] => c
      | e :: r => ({ c with loops := { c.loops with stack := r } }).goTo (c.code.nextBundle e.stop)
  | .halt => step.mapCore fun c => { c.bumpEpoch with wait := .halting }
  | .trap code => step.takeTrap ⟨0x28, code, []⟩ 0 false step.core.seq 0 step.core.seq.pc
  | .eret => step.mapCore fun c => { c with wait := .ereting }
  | .fuse _ | .rejoin => step.arrive at_ pc k
  | .decouple =>
    let t := s'.myStreet
    let s1 := if t.leader = s'.coreId % 8 then s'.setStreet (streetOf s'.coreId) { t with mode := 2 } else s'
    (s1.mapCore Core.advance).mapCore fun c =>
      { c.groupSwitch 1 with link := { c.link with fused := false, inbox := [], past := [] } }
  | .sbar | .sqbar =>
    step.mapCore fun c => { c.bumpEpoch with wait := step.fenceWait 0x1F step.releaseReqs 0 false false none (some k) }
  | .pair true => step.mapCore fun c => { c with wait := .pairLine at_ }
  | .pair false =>
    let g := partnerOf step.coreId
    (step.mapCore fun c => { c with link := { c.link with paired := false, mswaps := [] } }).mapCoreAt g fun d =>
      { d with link := { d.link with paired := false, frozen := false, stopped := false, held := none, mswaps := [] } }

/-- The end of a bundle's last execution, in cycle `at_`: a configuration takes effect, then the C-slot outcome, or the next
bundle. -/
def State.closeBundle (s : State) (at_ : Nat) : State :=
  let s := s.mapCore Core.applyCfg
  match s.core.ctl with
  | some k => s.applyCtl at_ k
  | none => s.mapCore Core.advance

/-- Write every result that is due (R66, R67). -/
def State.writeDue : Nat → State → State
  | 0, s => s
  | n + 1, s =>
    match firstDue s.core.fly with
    | none => s
    | some (f, rest) => ((s.mapCore fun c => { c with fly := rest }).writeBack f).writeDue n

/-- A wait has ended: a C-slot outcome that stood back behind it takes effect, the hearth's last cycle having been its
bundle's (R35). -/
def State.goOn (s : State) : State :=
  if s.core.wait = .none ∧ s.core.ctl.isSome = true then (s.writeDue s.core.fly.length).closeBundle (s.lineTime - 1) else s

/-- How a C-slot operation ends as a step of its own: its outcome takes effect and its bundle closes. -/
def settleC (s : State) (r : Res) : Host.Outcome State Fault Refusal :=
  match r with
  | .ok t => .next (t.closeBundle t.lineTime)
  | .trap t => .next (s.takeTrap t 0 false s.core.seq 1 s.core.seq.pc)
  | .freeze f => .next (s.freezeBy f)

def execBr (o : SI) (s : State) : Host.Outcome State Fault Refusal := settleC s (opBr o s)
def execBrp (o : SPI) (s : State) : Host.Outcome State Fault Refusal := settleC s (opBrp o s)
def execBri (o : S3) (s : State) : Host.Outcome State Fault Refusal := settleC s (opBri o s)
def execRet (o : S3) (s : State) : Host.Outcome State Fault Refusal := settleC s (opRet o s)
def execCall (o : SI) (s : State) : Host.Outcome State Fault Refusal := settleC s (opCall o s)
def execLoop (o : S1I) (s : State) : Host.Outcome State Fault Refusal := settleC s (opLoop o s)
def execSloop (o : S2I) (s : State) : Host.Outcome State Fault Refusal := settleC s (opSloop o s)
def execNext (o : S0) (s : State) : Host.Outcome State Fault Refusal := settleC s (opNext o s)
def execLexit (o : S0) (s : State) : Host.Outcome State Fault Refusal := settleC s (opLexit o s)
def execLix (o : S1I) (s : State) : Host.Outcome State Fault Refusal := settleC s (opLix o s)
def execHalt (o : S0) (s : State) : Host.Outcome State Fault Refusal := settleC s (opHalt o s)
def execTrap (o : SI) (s : State) : Host.Outcome State Fault Refusal := settleC s (opTrap o s)
def execEret (o : S0) (s : State) : Host.Outcome State Fault Refusal := settleC s (opEret o s)
def execFuse (o : S1I) (s : State) : Host.Outcome State Fault Refusal := settleC s (opFuse o s)
def execRejoin (o : S0) (s : State) : Host.Outcome State Fault Refusal := settleC s (opRejoin o s)
def execDecouple (o : S0) (s : State) : Host.Outcome State Fault Refusal := settleC s (opDecouple o s)
def execSbar (o : S0) (s : State) : Host.Outcome State Fault Refusal := settleC s (opSbar o s)
def execSqbar (o : S0) (s : State) : Host.Outcome State Fault Refusal := settleC s (opSqbar o s)
def execPair (o : S1I) (s : State) : Host.Outcome State Fault Refusal := settleC s (opPair o s)
/-- The C-slot NOP: its bundle closes and nothing else happens (R62). -/
def execCNop (s : State) : Host.Outcome State Fault Refusal := settleC s (.ok s)

end Sys2Proof.Machine
end

