-- ==== Sys2Proof/Machine/VectorInt.lean ====
section
/-! DEFINITION. The V slots: lanes, masks and merging, and the integer, mask, narrowing and integer-reduction operations
(spec/07_vector_instructions.md R178 to R187, R196, R197, R200). An operation takes the slot it issues in; `execX` is the
operation as a step of its own in V0. -/
namespace Sys2Proof.Machine

/-- The string of a list of `w`-bit elements, the first lowest. -/
def packList (w : Nat) : List Nat → Nat
  | [] => 0
  | x :: r => x % 2 ^ w + 2 ^ w * packList w r

/-- OR of a list of flags. -/
def orAll (l : List Nat) : Nat := l.foldl orF 0

/-- Deliver a vector result with its flags (R181). -/
def vResult (sl : Slot) (o : Long) (cls : Nat) (v flags : Nat) (s : State) : Res :=
  let x := BitVec.ofNat 512 v
  .ok (s.result sl cls (vdst o s.core x) (some x) flags)

/-- The destination as it stood at issue, for a merge; zeros with WBS or when nothing merges (R180). -/
def withOld (s : State) (o : Long) (full : Bool) (k : Nat → Res) : Res :=
  if full || o.wbs then k 0 else withV s o.dst fun v => k v.toNat

/-- A result of `n` lanes of `w` bits under lane mask LM: unmasked lanes take the computed value and raise its flags,
the others merge (R180). -/
def vLanes (sl : Slot) (o : Long) (cls w : Nat) (lane : Nat → Nat × Nat) (s : State) : Res :=
  let m := (s.core.readM o.lm).toNat
  let ix := List.range (512 / w)
  withOld s o (ix.all (bit m)) fun old =>
    let rs := ix.map fun i => if bit m i then lane i else (elemAt w old i, 0)
    vResult sl o cls (packList w (rs.map Prod.fst)) (orAll (rs.map Prod.snd)) s

/-- A result in which every lane is written (R180: no mask, or the mask is an operand). -/
def vAll (sl : Slot) (o : Long) (cls w : Nat) (lane : Nat → Nat × Nat) (s : State) : Res :=
  let rs := (List.range (512 / w)).map lane
  vResult sl o cls (packList w (rs.map Prod.fst)) (orAll (rs.map Prod.snd)) s

/-- A mask result: bit i from lane i where it is unmasked, 0 elsewhere (R180, R181). -/
def vMask (sl : Slot) (o : Long) (cls w : Nat) (lane : Nat → Bool × Nat) (s : State) : Res :=
  let m := (s.core.readM o.lm).toNat
  let rs := (List.range (512 / w)).map fun i => if bit m i then lane i else (false, 0)
  let v := packList 1 (rs.map fun r => ofBool r.1)
  .ok (s.result sl cls (if o.wbs then [] else [.m o.dst (BitVec.ofNat 64 v)]) (some (BitVec.ofNat 512 v))
    (orAll (rs.map Prod.snd)))

/-- The element type of an integer operation. -/
def Long_ity (o : Long) : Fmt := (intTy o.ty).getD .i8

/-- Two vector sources, checked in the order SA, SB (R183). -/
def withVV (s : State) (o : Long) (k : Nat → Nat → Res) : Res :=
  guarded o.g s (withV s o.sa fun a => withV s o.sb fun b => k a.toNat b.toNat)

/-- One vector source. -/
def withV1 (s : State) (o : Long) (k : Nat → Res) : Res := guarded o.g s (withV s o.sa fun a => k a.toNat)

/-- A binary integer operation on lane values (R184). -/
def viBin (sl : Slot) (o : Long) (f : Fmt → Int → Int → Int) (s : State) : Res :=
  let t := Long_ity o
  withVV s o fun a b =>
    vLanes sl o 5 t.width (fun i =>
      (wrap t.width (f t (decodeInt t (elemAt t.width a i)) (decodeInt t (elemAt t.width b i))), 0)) s

/-- A binary operation on lane patterns. -/
def viBits (sl : Slot) (o : Long) (f : Nat → Nat → Nat) (s : State) : Res :=
  let t := Long_ity o
  withVV s o fun a b => vLanes sl o 5 t.width (fun i => (f (elemAt t.width a i) (elemAt t.width b i), 0)) s

/-- A unary integer operation. -/
def viUn (sl : Slot) (o : Long) (f : Fmt → Nat → Nat) (s : State) : Res :=
  let t := Long_ity o
  withV1 s o fun a => vLanes sl o 5 t.width (fun i => (f t (elemAt t.width a i), 0)) s

/-- A shift: the amount from B, or CI when CI[6] is set (R185). -/
def viShift (sl : Slot) (o : Long) (f : Nat → Nat → Nat → Nat) (s : State) : Res :=
  let w := (Long_ity o).width
  if bit o.ci 6 then withV1 s o fun a => vLanes sl o 5 w (fun i => (f w (elemAt w a i) (bits o.ci 0 6), 0)) s
  else withVV s o fun a b => vLanes sl o 5 w (fun i => (f w (elemAt w a i) (elemAt w b i % w), 0)) s

/-- The condition of an integer compare (R186). -/
def viCond (md : Nat) (a b : Int) : Bool :=
  match md with
  | 0 => a == b
  | 1 => a != b
  | 2 => decide (a < b)
  | 3 => decide (a ≤ b)
  | 4 => decide (b < a)
  | _ => decide (b ≤ a)

/-! Lane arithmetic (R184). -/

/-- VADD (R184). -/
def opVadd (sl : Slot) (o : Long) (s : State) : Res := viBin sl o (fun _ a b => a + b) s
def execVadd (o : Long) (s : State) : Host.Outcome State Fault Refusal := settle s .v0 (opVadd .v0 o s)
/-- VSUB (R184). -/
def opVsub (sl : Slot) (o : Long) (s : State) : Res := viBin sl o (fun _ a b => a - b) s
def execVsub (o : Long) (s : State) : Host.Outcome State Fault Refusal := settle s .v0 (opVsub .v0 o s)
/-- VADDS (R184). -/
def opVadds (sl : Slot) (o : Long) (s : State) : Res := viBin sl o (fun t a b => clampInt t.minInt t.maxInt (a + b)) s
def execVadds (o : Long) (s : State) : Host.Outcome State Fault Refusal := settle s .v0 (opVadds .v0 o s)
/-- VSUBS (R184). -/
def opVsubs (sl : Slot) (o : Long) (s : State) : Res := viBin sl o (fun t a b => clampInt t.minInt t.maxInt (a - b)) s
def execVsubs (o : Long) (s : State) : Host.Outcome State Fault Refusal := settle s .v0 (opVsubs .v0 o s)
/-- VMUL (R184). -/
def opVmul (sl : Slot) (o : Long) (s : State) : Res := viBin sl o (fun _ a b => a * b) s
def execVmul (o : Long) (s : State) : Host.Outcome State Fault Refusal := settle s .v0 (opVmul .v0 o s)
/-- VMULH (R184). -/
def opVmulh (sl : Slot) (o : Long) (s : State) : Res := viBin sl o (fun t a b => a * b / 2 ^ t.width) s
def execVmulh (o : Long) (s : State) : Host.Outcome State Fault Refusal := settle s .v0 (opVmulh .v0 o s)
/-- VMIN (R184). -/
def opVmin (sl : Slot) (o : Long) (s : State) : Res := viBin sl o (fun _ a b => if a < b then a else b) s
def execVmin (o : Long) (s : State) : Host.Outcome State Fault Refusal := settle s .v0 (opVmin .v0 o s)
/-- VMAX (R184). -/
def opVmax (sl : Slot) (o : Long) (s : State) : Res := viBin sl o (fun _ a b => if a < b then b else a) s
def execVmax (o : Long) (s : State) : Host.Outcome State Fault Refusal := settle s .v0 (opVmax .v0 o s)
/-- VAND (R184). -/
def opVand (sl : Slot) (o : Long) (s : State) : Res := viBits sl o Nat.land s
def execVand (o : Long) (s : State) : Host.Outcome State Fault Refusal := settle s .v0 (opVand .v0 o s)
/-- VOR (R184). -/
def opVor (sl : Slot) (o : Long) (s : State) : Res := viBits sl o Nat.lor s
def execVor (o : Long) (s : State) : Host.Outcome State Fault Refusal := settle s .v0 (opVor .v0 o s)
/-- VXOR (R184). -/
def opVxor (sl : Slot) (o : Long) (s : State) : Res := viBits sl o Nat.xor s
def execVxor (o : Long) (s : State) : Host.Outcome State Fault Refusal := settle s .v0 (opVxor .v0 o s)
/-- VMAD: A + B × C on every lane (R184, R187). -/
def opVmad (sl : Slot) (o : Long) (s : State) : Res := 
  let t := Long_ity o
  withVV s o fun a b =>
    withV s o.sc fun c =>
      let v (x i : Nat) : Int := decodeInt t (elemAt t.width x i)
      vAll sl o 5 t.width (fun i => (wrap t.width (v a i + v b i * v c.toNat i), 0)) s
def execVmad (o : Long) (s : State) : Host.Outcome State Fault Refusal := settle s .v0 (opVmad .v0 o s)
/-- VABS (R184). -/
def opVabs (sl : Slot) (o : Long) (s : State) : Res := viUn sl o (fun t a => if t.isSigned then wrap t.width (decodeInt t a).natAbs else a) s
def execVabs (o : Long) (s : State) : Host.Outcome State Fault Refusal := settle s .v0 (opVabs .v0 o s)
/-- VNEG (R184). -/
def opVneg (sl : Slot) (o : Long) (s : State) : Res := viUn sl o (fun t a => wrap t.width (0 - decodeInt t a)) s
def execVneg (o : Long) (s : State) : Host.Outcome State Fault Refusal := settle s .v0 (opVneg .v0 o s)
/-- VCLZ (R184). -/
def opVclz (sl : Slot) (o : Long) (s : State) : Res := viUn sl o (fun t a => leadingZeros a t.width) s
def execVclz (o : Long) (s : State) : Host.Outcome State Fault Refusal := settle s .v0 (opVclz .v0 o s)
/-- VPOPC (R184). -/
def opVpopc (sl : Slot) (o : Long) (s : State) : Res := viUn sl o (fun t a => popCount a t.width) s
def execVpopc (o : Long) (s : State) : Host.Outcome State Fault Refusal := settle s .v0 (opVpopc .v0 o s)
/-- VSHL (R184, R185). -/
def opVshl (sl : Slot) (o : Long) (s : State) : Res := viShift sl o (fun w a n => a * 2 ^ n % 2 ^ w) s
def execVshl (o : Long) (s : State) : Host.Outcome State Fault Refusal := settle s .v0 (opVshl .v0 o s)
/-- VSHR (R184, R185). -/
def opVshr (sl : Slot) (o : Long) (s : State) : Res := viShift sl o (fun _ a n => a / 2 ^ n) s
def execVshr (o : Long) (s : State) : Host.Outcome State Fault Refusal := settle s .v0 (opVshr .v0 o s)
/-- VSAR (R184, R185). -/
def opVsar (sl : Slot) (o : Long) (s : State) : Res := viShift sl o (fun w a n => wrap w (signed w a / 2 ^ n)) s
def execVsar (o : Long) (s : State) : Host.Outcome State Fault Refusal := settle s .v0 (opVsar .v0 o s)
/-- VCMP (R186). -/
def opVcmp (sl : Slot) (o : Long) (s : State) : Res := 
  let t := Long_ity o
  withVV s o fun a b =>
    vMask sl o 5 t.width (fun i =>
      (viCond o.md (decodeInt t (elemAt t.width a i)) (decodeInt t (elemAt t.width b i)), 0)) s
def execVcmp (o : Long) (s : State) : Host.Outcome State Fault Refusal := settle s .v0 (opVcmp .v0 o s)
/-- VSEL: SC names the selector mask (R187). -/
def opVsel (sl : Slot) (o : Long) (s : State) : Res := 
  let w := (Long_ity o).width
  let m := (s.core.readM o.sc).toNat
  withVV s o fun a b => vAll sl o 5 w (fun i => (if bit m i then elemAt w a i else elemAt w b i, 0)) s
def execVsel (o : Long) (s : State) : Host.Outcome State Fault Refusal := settle s .v0 (opVsel .v0 o s)
/-! Mask operations (R200). -/

/-- A mask operation on all 64 bits, its result in mD and the latch (R181, R200). -/
def maskOp (sl : Slot) (o : Long) (v : W64) (s : State) : Res :=
  guarded o.g s (.ok (s.result sl 5 (if o.wbs then [] else [.m o.dst v]) (some (v.setWidth 512)) 0))

/-- MAND (R200). -/
def opMand (sl : Slot) (o : Long) (s : State) : Res := maskOp sl o (s.core.readM o.sa &&& s.core.readM o.sb) s
def execMand (o : Long) (s : State) : Host.Outcome State Fault Refusal := settle s .v0 (opMand .v0 o s)
/-- MOR (R200). -/
def opMor (sl : Slot) (o : Long) (s : State) : Res := maskOp sl o (s.core.readM o.sa ||| s.core.readM o.sb) s
def execMor (o : Long) (s : State) : Host.Outcome State Fault Refusal := settle s .v0 (opMor .v0 o s)
/-- MNOT (R200). -/
def opMnot (sl : Slot) (o : Long) (s : State) : Res := maskOp sl o (~~~(s.core.readM o.sa)) s
def execMnot (o : Long) (s : State) : Host.Outcome State Fault Refusal := settle s .v0 (opMnot .v0 o s)
/-- MPOP: a scalar result (R181, R200). -/
def opMpop (sl : Slot) (o : Long) (s : State) : Res := 
  let v := BitVec.ofNat 64 (popCount (s.core.readM o.sa &&& s.core.readM o.lm).toNat 64)
  guarded o.g s (.ok (s.result sl 5 (if o.wbs then [] else [s.core.toX o.dst v]) (some (v.setWidth 512)) 0))
def execMpop (o : Long) (s : State) : Host.Outcome State Fault Refusal := settle s .v0 (opMpop .v0 o s)
/-! Narrowing and widening (R196). -/

/-- VPACK (R196). -/
def opVpack (sl : Slot) (o : Long) (s : State) : Res := 
  let t := Long_ity o
  let w := t.width
  let n := 512 / w
  let lo : Int := if t.isSigned then -(2 ^ (w / 2 - 1)) else 0
  let hi : Int := if t.isSigned then 2 ^ (w / 2 - 1) - 1 else 2 ^ (w / 2) - 1
  withVV s o fun a b =>
    vLanes sl o 8 (w / 2) (fun i =>
      (wrap (w / 2) (clampInt lo hi (decodeInt t (if i < n then elemAt w a i else elemAt w b (i - n)))), 0)) s
def execVpack (o : Long) (s : State) : Host.Outcome State Fault Refusal := settle s .v0 (opVpack .v0 o s)
/-- VUNPACK (R196). -/
def opVunpack (sl : Slot) (o : Long) (s : State) : Res := 
  let t := Long_ity o
  let w := t.width
  withV1 s o fun a =>
    vLanes sl o 8 (2 * w) (fun i => (wrap (2 * w) (decodeInt t (elemAt w a (i + o.ci % 2 * (512 / w / 2)))), 0)) s
def execVunpack (o : Long) (s : State) : Host.Outcome State Fault Refusal := settle s .v0 (opVunpack .v0 o s)
/-! Integer reductions (R197). -/

/-- The lanes that a reduction's mask selects, as integers. -/
def selLanes (t : Fmt) (m a : Nat) : List Int :=
  ((List.range (512 / t.width)).filter (bit m)).map fun i => decodeInt t (elemAt t.width a i)

/-- An integer reduction: 64 bits of result, zeros above. -/
def viRed (sl : Slot) (o : Long) (f : Fmt → List Int → Int) (s : State) : Res :=
  let t := Long_ity o
  withV1 s o fun a => vResult sl o 10 (wrap 64 (f t (selLanes t (s.core.readM o.lm).toNat a))) 0 s

/-- VRADD (R197). -/
def opVradd (sl : Slot) (o : Long) (s : State) : Res := viRed sl o (fun _ l => l.foldl (· + ·) 0) s
def execVradd (o : Long) (s : State) : Host.Outcome State Fault Refusal := settle s .v0 (opVradd .v0 o s)
/-- VRMAX (R197). -/
def opVrmax (sl : Slot) (o : Long) (s : State) : Res := viRed sl o (fun t l => l.foldl max t.minInt) s
def execVrmax (o : Long) (s : State) : Host.Outcome State Fault Refusal := settle s .v0 (opVrmax .v0 o s)
/-- VRMIN (R197). -/
def opVrmin (sl : Slot) (o : Long) (s : State) : Res := viRed sl o (fun t l => l.foldl min t.maxInt) s
def execVrmin (o : Long) (s : State) : Host.Outcome State Fault Refusal := settle s .v0 (opVrmin .v0 o s)

end Sys2Proof.Machine
end

