-- ==== Sys2Proof/Machine/Flue.lean ====
section
/-! DEFINITION. Flues and the F slot: FILL, FLCFG, FLPUSH, FLPOP (spec/06_scratchpad_flues_landing.md R170 to R177). -/
namespace Sys2Proof.Machine

/-- The number of elements of a flue entry (R171). -/
def flueCount (src sink : Fmt) : Nat := if src.isMx || sink.isMx then 32 else 512 / max src.width sink.width

/-- What a push keeps of its operand (R171). -/
def pushTrim (src sink : Fmt) (v : Nat) : Nat :=
  let lo := v % 2 ^ (flueCount src sink * src.width)
  if src.isMx then lo + bits v 504 8 * 2 ^ 504 else lo

/-- The values of `n` elements of a non-MX or MX side held in a 512-bit entry, with the flags of reading them. -/
def readSide (f : Fmt) (n v : Nat) : List (Val × Bool × Nat) :=
  (List.range n).map fun i =>
    let w := elemAt f.width v i
    if f.isMx then (mxVal f (bits v 504 8) w, false, 0) else readElem f w

/-- A block or packed elements of a sink format, with flags (R157, R171). An integer that FP32 does not hold exactly enters an
MX block as it is: DESIGN CHOICE (log 85). -/
def writeSide (f : Fmt) (vs : List (Val × Bool × Nat)) : Nat × Nat :=
  let fl := orAll (vs.map fun v => v.2.2)
  if f.isMx then
    let q := quantiseMX f (vs.map Prod.fst)
    (packList f.width q.1 + q.2.1 * 2 ^ 504, orF fl (orF q.2.2 (sigFlag (vs.map Prod.fst))))
  else
    let rs := vs.map fun v => fromVal f .rne 0 v.2.1 v.1
    (packList f.width (rs.map Prod.fst), orF fl (orAll (rs.map Prod.snd)))

/-- The conversion of a flue entry on a pop (R171); equal formats move the bits. -/
def flueConvert (src sink v : Nat) : Nat × Nat :=
  if src = sink then (v, 0)
  else
    match Fmt.ofCode src, Fmt.ofCode sink with
    | some a, some b =>
      let vs := readSide a (flueCount a b) v
      writeSide b (if a.isMx && b.isMx then vs.map viaF32 else vs)
    | _, _ => (v, 0)

/-- The entry that a push of an operand makes. -/
def Flue.entry (f : Flue) (v : V512) : V512 :=
  match Fmt.ofCode f.source, Fmt.ofCode f.sink with
  | some a, some b => BitVec.ofNat 512 (pushTrim a b v.toNat)
  | _, _ => v

/-- Put an entry with its data into flue `n`, landing at cycle `land` (R172). -/
def State.pushFlue (s : State) (n land : Nat) (v : V512) : State :=
  let (id, s) := s.fresh
  let e : Elem := { land := land, req := id, j := 0, data := some v, landed := false, mark := none, hand := s.core.priv, late := true }
  s.mapCore fun c => c.setFlue n { c.flueOf n with q := c.insertElem e (c.flueOf n).q }

/-- FILL (R174): its bytes come from the address-bound pattern. -/
def opFill (o : S2I) (s : State) : Res :=
  let n := o.imm + 1
  let a := s.core.readA o.f1
  guarded o.g s
    (padAddr a 0 n 1 fun x =>
      if x / 64 ≠ (x + n - 1) / 64 then raise 0x10 x
      else
        let b := (o.src2 s.core).toNat
        padWrite s .lin (placesOf x n) (ofBytes ((List.range n).map fun k => BitVec.ofNat 8 (elemAt 8 b ((x + k) % 8)))))
def execFill (o : S2I) (s : State) : Host.Outcome State Fault Refusal := settle s .f (opFill o s)

/-- FLCFG (R158, R175): it takes effect when its bundle closes. -/
def opFlcfg (o : S3X) (s : State) : Res :=
  guarded o.g s
    (.ok (s.mapCore fun c =>
      { c with cfg := some (o.f1, if o.f1 < 8 then bits o.x 0 8 + bits o.x 8 8 * 2 ^ 8 else bits o.x 0 8) }))
def execFlcfg (o : S3X) (s : State) : Host.Outcome State Fault Refusal :=
  settle s .f ((opFlcfg o s).bind fun t => .ok (t.mapCore Core.applyCfg))

/-- FLPUSH: the stream read is checked first, then the flue's room; the entry lands at the end of the issue cycle
(R172, R176). -/
def opFlpush (o : S3X) (s : State) : Res :=
  let push (v : V512) (s : State) : Res :=
    if s.core.flueRoom o.f1 1 then .ok (s.pushFlue o.f1 (s.core.now + 1) ((s.core.flueOf o.f1).entry v)) else raise 0x06 o.f1
  guarded o.g s
    (if bit o.x 10 then readStream s (bits o.x 0 4) push else withV s (bits o.x 0 10) fun v => push v s)
def execFlpush (o : S3X) (s : State) : Host.Outcome State Fault Refusal := settle s .f (opFlpush o s)

/-- FLPOP: class 14, its flags with its result (R177). -/
def opFlpop (o : S3X) (s : State) : Res :=
  guarded o.g s
    (readFlue s o.f1 fun v s =>
      let f := s.core.flueOf o.f1
      let r := flueConvert f.source f.sink v.toNat
      let x := BitVec.ofNat 512 r.1
      .ok (s.result .f 14 [s.core.toV (bits o.x 0 10) x] (some x) r.2))
def execFlpop (o : S3X) (s : State) : Host.Outcome State Fault Refusal := settle s .f (opFlpop o s)

/-- The F-slot NOP (R62). -/
def execFNop (s : State) : Host.Outcome State Fault Refusal :=
  .next (s.mapCore fun c => { c with sticky := { c.sticky with f := none } })

end Sys2Proof.Machine
end

