-- ==== Sys2Proof/Machine/Matrix.lean ====
section
/-! DEFINITION. The matrix array: planes and their fills, beats, accumulation groups, drains
(spec/08_matrix_instructions.md R203 to R223; spec/05_number_formats.md R150; spec/10_hearth_traps.md R257). -/
namespace Sys2Proof.Machine

/-! ## Planes (R204, R207) -/

/-- Plane row `n` as a number. -/
def Plane.row (p : Plane) (rb n : Nat) : Nat := ofBytes (p.bytes.readN (n * rb) rb)
/-- Write plane row `n`. -/
def Plane.setRow (p : Plane) (rb n v : Nat) : Plane := { p with bytes := p.bytes.writeN (n * rb) (toBytes rb v) }
/-- The scale of block `j` of row `n`, with `kb` blocks to a row. -/
def Plane.scaleOf (p : Plane) (kb n j : Nat) : Nat := (p.scale.read (n * kb + j)).toNat

/-- Bytes of a plane's memory image: the element rows, then the scales (R204). -/
def imageBytes (sh : Shape) (mx : Bool) : Nat := 128 * sh.rowBytes + (if mx then 128 * (sh.depth / 32) else 0)

/-- The formats of an M-slot operation. -/
def fmtA (ty md : Nat) : Fmt := match matFormats ty md with | some f => f.1 | none => .e4m3
def fmtB (ty md : Nat) : Fmt := match matFormats ty md with | some f => f.2 | none => .e4m3

/-- The value of element `k` of a row under its MX scale (R136, R207). -/
def rowVal (f : Fmt) (row : Nat) (scale : Nat → Nat) (k : Nat) : Val :=
  let w := elemAt f.width row k
  if f.isMx then mxVal f (scale (k / 32)) w else (readElem f w).1

/-! ## Fills (R212 to R214) -/

/-- Put a pending fill. -/
def State.startFill (s : State) (d : Nat) (src : FillSrc) (ty md : Nat) : State :=
  let (id, s) := s.fresh
  s.mapCore fun c =>
    let f : Fill :=
      { land := c.now + d, req := id, src := src, ty := ty, md := md, got := 0, img := Plane.init, flags := 0,
        mark := none, hand := c.priv, late := false, epoch := c.race.epoch, known := c.race.known, sat := c.race.sat,
        pins := [], square := squareOf s.coreId, seen := [], port := [] }
    { c with mat := { c.mat with fill := some f } }

/-- MLDB (R212, R249); it reads window slots, whose race marks surface here (R316). -/
def opMldb (o : Long) (s : State) : Res :=
  let n := imageBytes (shapeOf o.ty) (fmtB o.ty o.md).isMx
  guarded o.g s
    (padAddr (s.core.readA o.sa) 0 n 64 fun a =>
      let units := (List.range (ceilDiv n 64)).map (a + 64 * ·)
      match s.core.pad.clash .swz units with
      | some b => raise 0x0A b
      | none =>
        landed s a units
          (match s.core.rowMark units with
           | some m => raise m.1 m.2
           | none => if s.core.mat.fill.isSome then raise 0x06 a else .ok (s.startFill o.sb (.pad a) o.ty o.md)))
def execMldb (o : Long) (s : State) : Host.Outcome State Fault Refusal := settle s .m (opMldb o s)

/-- MTFETCH (R213). -/
def opMtfetch (o : Long) (s : State) : Res :=
  let md := bits o.sc 8 3
  let sh := shapeOf o.ty
  let fb := fmtB o.ty md
  guarded o.g s
    (withX s o.sa fun h =>
      withX s o.sb fun x =>
        let n0 := signed 32 x.toNat
        let k0 := signed 32 (x.toNat / 2 ^ 32)
        withRec s h.toNat [n0, k0] fun r =>
          let span : Int := if r.raw then sh.depth * fb.width / 8 else sh.depth
          if r.raw && fb.isMx then raise 0x01 s.core.seq.pc
          else if r.ext.length ≠ 2 ∨ n0 < 0 ∨ k0 < 0 ∨ ((r.ext.headD 0 : Nat) : Int) < n0 + 128 ∨
              ((r.ext.getD 1 0 : Nat) : Int) < k0 + span ∨ ((r.isMx || fb.isMx) = true ∧ k0 % 32 ≠ 0)
          then tensorTrap 0x10 h.toNat [n0, k0]
          else withTier s r [n0, k0] (withLeast s r [n0, k0] (bits o.sc 0 8 * 4) 64
            (if s.core.mat.fill.isSome then raise 0x06 0
             else .ok (((s.translated r.handle).useRecs s.core.task.ctx [r.handle]).startFill (bits o.sc 0 8 * 4)
                    (.tile r.handle n0.toNat k0.toNat o.md) o.ty md))))
def execMtfetch (o : Long) (s : State) : Host.Outcome State Fault Refusal := settle s .m (opMtfetch o s)

/-- A fill whose landing cycle has passed without all its data freezes an operation on S; before it MSHIFT is premature
(R214). -/
def withFill (s : State) (early : Bool) (k : Res) : Res :=
  match s.core.mat.fill with
  | none => k
  | some f => if s.core.due f.hand f.land then .freeze .fill else if early then raise 0x06 0 else k

/-- MSHIFT: S to W, or the exchange; the mark of a landed fill surfaces here (R214, R221, R316). -/
def opMshift (o : Long) (s : State) : Res :=
  guarded o.g s
    (withFill s true
      (match s.core.mat.smark with
       | some m => raise m.1 m.2
       | none =>
         .ok (s.mapCore fun c =>
           { c with mat := { c.mat with w := c.mat.s, s := if bit o.sc 0 then c.mat.w else c.mat.s } })))
def execMshift (o : Long) (s : State) : Host.Outcome State Fault Refusal := settle s .m (opMshift o s)

/-- Elements of `w` bits from position `p` of a row replaced (R215). -/
def spliceBits (row p n v : Nat) : Nat := row % 2 ^ p + v % 2 ^ n * 2 ^ p + row / 2 ^ (p + n) * 2 ^ (p + n)

/-- A popped entry of which MPUSH takes `n` bits (R215): those past source bit 511 are a free value (log 98). -/
def State.pushed (s : State) (n v : Nat) : Nat × State :=
  if n ≤ 512 then (v, s)
  else (v % 2 ^ 512 + (Config.unstated s.free).toNat * 2 ^ 512, { s with free := s.free + 1 })

/-- MPUSH's write (R215). -/
def pushPlane (o : Long) (e c v : Nat) (s : State) : Res :=
  let sh := shapeOf o.ty
  let fb := fmtB o.ty o.md
  let row := e / sh.depth
  let pos := e % sh.depth
  .ok (s.mapCore fun k =>
    let p := k.mat.s
    let p1 := p.setRow sh.rowBytes row (spliceBits (p.row sh.rowBytes row) (pos * fb.width) (c * fb.width) v)
    let p2 := if fb.isMx then { p1 with scale := p1.scale.write (row * (sh.depth / 32) + pos / 32) (BitVec.ofNat 8 (bits v 504 8)) }
              else p1
    { k with mat := { k.mat with s := p2 } })

/-- MPUSH (R215). The flags of a flue entry's conversion enter FLAGS where S is written, at the end of the issue cycle: DESIGN
CHOICE (log 86). -/
def opMpush (o : Long) (s : State) : Res :=
  let sh := shapeOf o.ty
  let fb := fmtB o.ty o.md
  let e := (s.core.readA o.sb).int
  let n := o.sa % 8
  let fl := s.core.flueOf n
  let c := if fb.isMx then 32 else if fb.width = 6 then 64
    else if bit o.sc 4 then flueCount ((Fmt.ofCode fl.source).getD .f32) ((Fmt.ofCode fl.sink).getD .f32)
    else 512 / fb.width
  guarded o.g s
    (if e < 0 ∨ (128 * sh.depth : Nat) < e + c ∨ (sh.depth : Int) < e % sh.depth + c ∨ (fb.isMx = true ∧ e % 32 ≠ 0)
     then raise 0x10 (wrap 64 e)
     else withFill s false
       (if bit o.sc 4 then
          readFlue s n fun v s =>
            let r := flueConvert fl.source fl.sink v.toNat
            let (bits, s) := s.pushed (c * fb.width) r.1
            pushPlane o e.toNat c bits (s.mapCore fun k => k.putFlight ⟨.m, 1, [], none, r.2, false⟩)
        else withV s o.sa fun v => pushPlane o e.toNat c v.toNat s))
def execMpush (o : Long) (s : State) : Host.Outcome State Fault Refusal := settle s .m (opMpush o s)

/-! ## Groups (R217, R257) -/

/-- The checkpoint of a group whose first counted operation issues now. -/
def Core.checkpoint (c : Core) (req : Nat) (taken : Bool) : Checkpoint :=
  { a := c.regs.a, loops := c.loops, sticky := c.sticky, srctr := c.st.srctr, cycle := c.cycle, tick := c.link.tick,
    req := req, fill := c.mat.fill.map (·.req), cfg := c.cfg, late := c.fly.filter Flight.late,
    start := ⟨c.seq.pc, c.seq.done, (List.range 6).map c.loops.indexOf⟩, taken := taken }

/-- BeatCount (R217): `taken` says that this operation itself took an element (R257). -/
def State.beatCount (s : State) (n : Nat) (taken : Bool) : State :=
  let req := s.nextId
  s.mapCore fun c =>
    let k := Store.get 0 c.mat.count n
    let groups := if k = 0 then c.mat.groups ++ [(n, c.checkpoint req taken)] else c.mat.groups
    let k' := min (k + 1) 65535
    { c with mat := { c.mat with count := Store.set 0 c.mat.count n k', groups := groups }
             st := if c.code.maxBeats < k' ∧ k ≤ c.code.maxBeats then { c.st with beatLate := true } else c.st }

/-! ## Beats (R150, R216) -/

/-- One cell of one beat: the accumulator term, if any, and the products (R150). -/
def beatCell (base : Option W32) (ps : List (Val × Nat)) : Nat × Nat :=
  let terms := (match base with | some b => [decodeFloat .f32 b.toNat] | none => []) ++ ps.map Prod.fst
  if terms.any Val.isNan then (Fmt.f32.canonicalNan, flNV)
  else if terms.isEmpty then (0, 0)
  else deliver .f32 .rne 0 (sumVals .rne terms)

/-- The products that reach a column: all of them, or those that its T2 codes select (R132, R150). A product of integers that is
zero is +0, and so is one of a plane row of zero bits with a finite element (R224). -/
def columnTerms (ty md : Nat) (a : Nat → Val) (row : Nat) (scale : Nat → Nat) : List (Val × Nat) :=
  let fb := fmtB ty md
  let ks := List.range (shapeOf ty).depth
  let ts :=
    if fb == .t2 then
      ks.filterMap fun k =>
        match elemAt 2 row k with
        | 1 => some (a k, 0)
        | 3 => some ((a k).negate, 0)
        | _ => none
    else ks.map fun k => mulVals (a k) (rowVal fb row scale k)
  if row == 0 || fmtA ty md == .i8 || fmtA ty md == .mxi8 then ts.map fun t => (t.1.unsignedZero, t.2) else ts

/-- A plane row holds the reserved T2 code (R132, R216). -/
def hasReserved (ty md row : Nat) : Bool :=
  fmtB ty md == .t2 && (List.range (shapeOf ty).depth).any fun k => elemAt 2 row k == 2

/-- A beat of accumulator `n`, row `m`, over A units packed in one number with the scales of an MX format in the last
unit (R216). -/
def beat (o : Long) (n m : Nat) (units : List V512) (s : State) : State :=
  let sh := shapeOf o.ty
  let fa := fmtA o.ty o.md
  let g := sh.units
  let au := packList 512 ((units.take g).map BitVec.toNat)
  let sc := match units[g]? with | some u => u.toNat | none => 0
  let a (k : Nat) : Val := rowVal fa au (elemAt 8 sc) k
  let p := s.core.mat.w
  let cells := (List.range 128).map fun col =>
    let row := p.row sh.rowBytes col
    let old := Store.get 0 s.core.mat.live (accKey n m col)
    let r := beatCell (if bit o.sc 3 then none else some old) (columnTerms o.ty o.md a row (p.scaleOf (sh.depth / 32) col))
    (col, r.1, orF r.2 (if hasReserved o.ty o.md row then flNV else 0))
  let fl := orAll (cells.map fun x => x.2.2)
  (s.mapCore fun c =>
    { c with mat := { c.mat with live := cells.foldl (fun l x => Store.set 0 l (accKey n m x.1) (BitVec.ofNat 32 x.2.1)) c.mat.live }
             fly := c.fly ++ [⟨.m, 4, [], none, fl, false⟩] }).beatCount n (bit o.sc 4)

/-- `n` successive elements of a stream register (R165). -/
def readElems (s : State) (q : Nat) : Nat → (List V512 → State → Res) → Res
  | 0, k => k [] s
  | n + 1, k => readStream s q fun v s => readElems s q n fun vs s => k (v :: vs) s

/-- MACC and MTERN (R216). -/
def beatOp (o : Long) (s : State) : Res :=
  let sh := shapeOf o.ty
  let m := (s.core.readA o.sb).int
  let n := bits o.sc 9 2
  let cnt := sh.units + ofBool (fmtA o.ty o.md).isMx
  guarded o.g s
    (if m < 0 ∨ (sh.rows : Int) ≤ m then raise 0x10 (wrap 64 m)
     else if bit o.sc 4 then readElems s o.sa cnt fun us s => .ok (beat o n m.toNat us s)
     else readGroup s o.sa cnt fun us => .ok (beat o n m.toNat us s))

/-- MACC (R216). -/
def opMacc (o : Long) (s : State) : Res := beatOp o s
def execMacc (o : Long) (s : State) : Host.Outcome State Fault Refusal := settle s .m (opMacc o s)
/-- MTERN (R216). -/
def opMtern (o : Long) (s : State) : Res := beatOp o s
def execMtern (o : Long) (s : State) : Host.Outcome State Fault Refusal := settle s .m (opMtern o s)

/-- MZERO (R218). -/
def opMzero (o : Long) (s : State) : Res :=
  let n := bits o.sc 9 2
  guarded o.g s
    (.ok ((s.mapCore fun c => { c with mat := { c.mat with live := accCopy n [] c.mat.live } }).beatCount n false))
def execMzero (o : Long) (s : State) : Host.Outcome State Fault Refusal := settle s .m (opMzero o s)

/-- Retire the group of accumulator `n` (R219). -/
def Core.retire (c : Core) (n : Nat) : Core :=
  { c with mat := { c.mat with shadow := accCopy n c.mat.live c.mat.shadow, count := Store.set 0 c.mat.count n 0
                               groups := c.mat.groups.filter fun g => g.1 != n } }

/-- MSWAP (R219); in a paired hearth the issue is counted, and the bundle that holds it stalls until the partner's matching
MSWAP issues (R280). -/
def opMswap (o : Long) (s : State) : Res :=
  let n := bits o.sc 9 2
  guarded o.g s
    (.ok (s.mapCore fun c =>
      let c1 := c.retire n
      if c.link.paired then
        { c1 with link := { c1.link with mswaps := Store.set 0 c1.link.mswaps n (Store.get 0 c1.link.mswaps n + 1) } }
      else c1))
def execMswap (o : Long) (s : State) : Host.Outcome State Fault Refusal := settle s .m (opMswap o s)

/-! ## Drain (R220) -/

/-- The output format of MDRAIN: none is the exact FP32 copy. -/
def drainFmt : Nat → Fmt
  | 0 => .f32 | 1 => .bf16 | 2 => .f16 | 3 => .e4m3 | 4 => .e5m2 | 5 => .i8 | _ => .i32

/-- MDRAIN (R220): class 13, whether its destination is a register or a flue (R69, R91). -/
def opMdrain (o : Long) (s : State) : Res :=
  let f := drainFmt o.md
  let c := 512 / f.width
  let e := (s.core.readA o.sb).int
  let n := bits o.sc 9 2
  let toFlue := bit o.sc 4
  let fl := bits o.sc 0 3
  guarded o.g s
    (if e < 0 ∨ e % c ≠ 0 ∨ ((shapeOf o.ty).rows : Int) ≤ e / 128 then raise 0x10 (wrap 64 e)
     else if toFlue ∧ s.core.flueRoom fl 1 = false then raise 0x06 fl
     else
       let keys := (List.range c).map fun i => accKey n ((e.toNat + i) / 128) ((e.toNat + i) % 128)
       let rs := keys.map fun k =>
         let x := (Store.get 0 s.core.mat.live k).toNat
         if o.md = 0 then (x, 0) else convertElem .f32 f .rne 0 x
       let v := BitVec.ofNat 512 (packList f.width (rs.map Prod.fst))
       let flags := orAll (rs.map Prod.snd)
       let s1 :=
         if toFlue then
           (s.pushFlue fl (s.core.now + s.core.latency 13) ((s.core.flueOf fl).entry v)).mapCore fun k =>
             k.putFlight ⟨.m, k.latency 13, [], none, flags, false⟩
         else s.result .m 13 (vdst o s.core v) (some v) flags
       .ok (if bit o.sc 3 then
              (s1.mapCore fun k =>
                { k with mat := { k.mat with live := keys.foldl (fun l x => Store.set 0 l x 0) k.mat.live } }).beatCount n false
            else s1))
def execMdrain (o : Long) (s : State) : Host.Outcome State Fault Refusal := settle s .m (opMdrain o s)

/-- The M-slot NOP (R62). -/
def execMNop (s : State) : Host.Outcome State Fault Refusal :=
  .next (s.mapCore fun c => { c with sticky := { c.sticky with m := none } })

/-- The V-slot NOP, taken in V0 (R62). -/
def execVNop (s : State) : Host.Outcome State Fault Refusal :=
  .next (s.mapCore fun c => { c with sticky := { c.sticky with v0 := none } })

/-! ## Arrival and landing of a fill (R213, R214, R283) -/

/-- `n` bits of a string of bytes from bit `p` on. -/
def bitsOfBytes (bs : List Byte) (p n : Nat) : Nat := bits (ofBytes bs) p n

/-- Raise the pins of the lines of a granule in a square, within 12 pinned ways of a set and a count of 15 (R283). -/
def State.pin (s : State) (q a : Nat) : Bool × State :=
  let sq := s.squareAt q
  match sq.find a with
  | none => (false, s)
  | some (k, l) =>
    let pinned := ((sq.ways a).filter fun e => match e.2 with | some x => x.pins != 0 | none => false).length
    if 15 ≤ l.pins ∨ (l.pins = 0 ∧ 12 ≤ pinned) then (false, s)
    else (true, s.setSquare q (sq.put k (some { l with pins := l.pins + 1 })))

/-- What a fill has read: bytes, the mark that they carry, its pins, the granules or chunks that it has seen, the packets that bring
what it has read now, the state. -/
structure Tile where
  bytes : List Byte
  mark : Option (Nat × Nat)
  pins : List Nat
  seen : List (Nat × List Byte × Option (Nat × Nat))
  port : List Nat
  st : State

/-- A fill's granules and chunks are each read once, whole: what it has seen of place `k`, or what `read` gives (R212,
R283). -/
def Tile.once (t : Tile) (k : Nat) (read : State → List Byte × Option (Nat × Nat) × List Nat × List Nat × State) : Tile :=
  match t.seen.find? fun e => e.1 == k with
  | some e => { t with bytes := t.bytes ++ e.2.1, mark := t.mark.or e.2.2 }
  | none =>
    let (bs, m, ps, port, s) := read t.st
    { bytes := t.bytes ++ bs, mark := t.mark.or m, pins := t.pins ++ ps, seen := (k, bs, m) :: t.seen, port := t.port ++ port, st := s }

/-- Read the granules of a byte range for a fill, each line pinned when it is read (R213, R283, R315, R348). -/
def tileRead (t : Tile) (r : Rec) (w : Who) (off n hint : Nat) : Tile :=
  let u := (granulesOf off n).foldl (fun (t : Tile) g =>
    t.once g fun s =>
      let q := squareOf s.coreId
      let (k, v, s1) := s.readGran q (w.tag.1, w.tag.2.1) r g hint
      let (p, s2) := s1.pin q (r.phys g)
      let (rep, s3) := s2.raceAccess r.home w (granAddr r.handle g) false
      let s4 := if rep then s3.report 1 (granAddr r.handle g) w else s3
      let m := if rep then some (0x18, w.reported (granAddr r.handle g)) else markCause r.handle g k
      (toBytes 64 v.toNat, m, if p then [r.phys g] else [], s1.portReads r g, s4))
    { t with bytes := [] }
  { u with bytes := (u.bytes.drop (off % 64)).take n }

/-- The elements and scales of plane row from values (R213). An integer that FP32 does not hold exactly enters an MX block as it
is, where R137 speaks of values converted exactly to FP32: DESIGN CHOICE (log 85). -/
def planeRow (fb : Fmt) (vs : List (Val × Bool × Nat)) : Nat × List Nat × Nat :=
  if fb.isMx then
    let blocks := (List.range (vs.length / 32)).map fun b =>
      let x := (vs.drop (32 * b)).take 32
      let q := quantiseMX fb (x.map Prod.fst)
      (packList fb.width q.1, q.2.1, orF q.2.2 (sigFlag (x.map Prod.fst)))
    (packList (32 * fb.width) (blocks.map (·.1)), blocks.map (·.2.1), orAll (blocks.map (·.2.2) ++ vs.map (·.2.2)))
  else
    let rs := vs.map fun v => fromVal fb .rne 0 v.2.1 v.1
    (packList fb.width (rs.map Prod.fst), [], orAll (rs.map Prod.snd ++ vs.map (·.2.2)))

/-- The next row of a tile: elements, scales, flags, and what reading it left (R213). A tensor of the plane's own format moves
its bits unchanged and raises no flag, the non-MX formats included: DESIGN CHOICE (log 87). -/
def tileRow (t0 : Tile) (f : Fill) (h n0 k0 hint : Nat) : Nat × List Nat × Nat × Tile :=
  let sh := shapeOf f.ty
  let fb := fmtB f.ty f.md
  let c := t0.st.core
  match t0.st.recAt c.task.ctx h with
  | none => (0, [], 0, t0)
  | some r =>
    if r.rfail && r.away then (0, [], 0, { t0 with mark := some (0x14, h) })
    else
      let who : Who := ⟨c.task.ctx, (c.task.launch, c.task.ord, f.epoch), f.known, f.sat, f.req⟩
      let e1 := r.ext.getD 1 0
      let row := n0 + f.got
      let bit0 := row * (e1 * r.width) + k0 * r.width
      let nb := if r.raw then sh.rowBytes else ceilDiv (bit0 % 8 + sh.depth * r.width) 8
      let t := tileRead t0 r who (bit0 / 8) nb hint
      if r.raw then (ofBytes t.bytes, [], 0, t)
      else
        let raw := bitsOfBytes t.bytes (bit0 % 8) (sh.depth * r.width)
        if r.isMx then
          let t2 := tileRead t r who (r.scaleBase + (row * e1 + k0) / 32) (sh.depth / 32) hint
          let sc := t2.bytes.map BitVec.toNat
          if r.format == fb then (raw, sc, 0, t2)
          else
            let vs := (List.range sh.depth).map fun k =>
              (mxVal r.format ((sc[k / 32]?).getD 0) (elemAt r.width raw k), false, 0)
            let p := planeRow fb (if fb.isMx then vs.map viaF32 else vs)
            (p.1, p.2.1, p.2.2, t2)
        else if r.format == fb then (raw, [], 0, t)
        else
          let p := planeRow fb ((List.range sh.depth).map fun k => readElem r.format (elemAt r.width raw k))
          (p.1, p.2.1, p.2.2, t)

/-- Read 8-byte chunks of the scratchpad for a fill, through the swizzled view (R153, R212): `n` bytes from offset `a`; an error
met is logged (R348, R351). -/
def padChunks (t : Tile) (a n : Nat) : Tile :=
  let u := ((List.range ((a + n - 1) / 8 - a / 8 + 1)).map fun i => (a / 8 + i) * 8).foldl (fun (t : Tile) k =>
    t.once k fun s =>
      let bad := s.core.padCause (swzOf k 8)
      ((swzOf k 8).map s.core.pad.mem.read, bad.map fun b => (b.cause, b.addr % 2 ^ 64), [], [],
        if s.core.bad.isEmpty then s
        else ((swzOf k 8).map (· / 64)).eraseDups.foldl
          (fun s u => s.sawWords s.core.task.ctx (.pad u) (wordsIn u (swzOf k 8))) s)) { t with bytes := [] }
  { u with bytes := (u.bytes.drop (a % 8)).take n }

/-- The next row of a fill arrives (R212, R213): its bytes and scales join the image, once the packets that read it have been
answered (R392). MLDB reads through the swizzled view (log 82). -/
def State.fillRow (s : State) : State :=
  match s.core.mat.fill with
  | none => s
  | some f =>
    if 128 ≤ f.got then s
    else
      let sh := shapeOf f.ty
      let fb := fmtB f.ty f.md
      let kb := sh.depth / 32
      let t0 : Tile := ⟨[], none, f.pins, f.seen, [], s⟩
      let r : Nat × List Nat × Nat × Tile :=
        match f.src with
        | .tile h n0 k0 hint => tileRow t0 f h n0 k0 hint
        | .pad a =>
          let t := padChunks t0 (a + f.got * sh.rowBytes) sh.rowBytes
          if fb.isMx then
            let u := padChunks t (a + 128 * sh.rowBytes + f.got * kb) kb
            (ofBytes t.bytes, u.bytes.map BitVec.toNat, 0, u)
          else (ofBytes t.bytes, [], 0, t)
      let t := r.2.2.2
      let img := f.img.setRow sh.rowBytes f.got r.1
      let img' := { img with scale := img.scale.writeN (f.got * kb) (r.2.1.map (BitVec.ofNat 8)) }
      let f' := if t.port.isEmpty then
          { f with got := f.got + 1, img := img', flags := orF f.flags r.2.2.1, mark := f.mark.or t.mark,
                   pins := t.pins, square := squareOf s.coreId, seen := t.seen, port := [] }
        else { f with pins := t.pins, square := squareOf s.coreId, seen := t.seen, port := t.port }
      t.st.mapCore fun c => { c with mat := { c.mat with fill := some f' } }

/-- A fill lands at the start of its cycle, once its data is there (R214): it covers the element rows, and the scale
area for an MX format; its conversion flags reach FLAGS and its pins go (R149, R283). -/
def State.landFill (s : State) : State :=
  match s.core.mat.fill with
  | none => s
  | some f =>
    if s.core.due f.hand f.land && 128 ≤ f.got then
      let sh := shapeOf f.ty
      let fb := fmtB f.ty f.md
      let p := s.core.mat.s
      let p1 := (List.range 128).foldl (fun p n => p.setRow sh.rowBytes n (f.img.row sh.rowBytes n)) p
      let n := 128 * (sh.depth / 32)
      let p2 := if fb.isMx then { p1 with scale := p1.scale.writeN 0 (f.img.scale.readN 0 n) } else p1
      let s1 := (s.unpin f.square f.pins).mapCore fun c =>
        { c.engineFlags f.flags with mat := { c.mat with s := p2, fill := none, smark := f.mark }
                                     bad := c.bad.filter fun e => match e.1 with | .planeS _ => false | _ => true }
      match f.src with
      | .tile h _ _ _ => s1.unuseRecs s1.core.task.ctx [h]
      | .pad _ => s1
    else s

/-- PLANE_FILL_LANDING (R214). -/
def execPlaneFillLanding (s : State) : Host.Outcome State Fault Refusal := atHearth s State.landFill

end Sys2Proof.Machine
end

