-- ==== Sys2Proof/Machine/Scalar.lean ====
section
/-! DEFINITION. The S slot: scalar integer, compare, select, predicate and identity operations
(spec/04_control_scalar_system.md R108 to R116). Each operation `opX` reads its operands at issue and puts its result
in flight; `execX` is the operation as a step of its own. -/
namespace Sys2Proof.Machine

/-! The values (R108, R109). -/

/-- Bits [127:64] of the product of two integers. -/
def mulHigh (a b : Int) : W64 := BitVec.ofInt 64 (a * b / 2 ^ 64)
/-- Division truncates towards zero and never traps (R109). -/
def divs (a b : W64) : W64 := if b = 0 then BitVec.allOnes 64 else BitVec.ofInt 64 (a.toInt.tdiv b.toInt)
def rems (a b : W64) : W64 := if b = 0 then a else BitVec.ofInt 64 (a.toInt.tmod b.toInt)
def divn (a b : W64) : W64 := if b = 0 then BitVec.allOnes 64 else BitVec.ofNat 64 (a.toNat / b.toNat)
def remn (a b : W64) : W64 := if b = 0 then a else BitVec.ofNat 64 (a.toNat % b.toNat)
/-- The shift amount B[5:0]. -/
def shamt (b : W64) : Nat := b.toNat % 64

/-- A three-register operation: `f` of the sources to x[D] and b1 (R108). -/
def alu (o : S3) (cls : Nat) (f : W64 → W64 → W64) (s : State) : Res :=
  guarded o.g s
    (let v := f (o.src2 s.core) (o.src3 s.core)
     .ok (s.result .s cls [s.core.toX o.f1 v] (some (v.setWidth 512)) 0))

/-- A compare into pN and b1 (R113). -/
def cmpOp (o : SC) (f : W64 → W64 → Bool) (s : State) : Res :=
  guarded o.g s
    (let b := f (o.src2 s.core) (o.src3 s.core)
     .ok (s.result .s 0 [s.core.toP o.p1 b] (some (boolV b)) 0))

/-- Predicate logic into pD and b1 (R115). -/
def predOp (o : SL) (f : Bool → Bool → Bool) (s : State) : Res :=
  guarded o.g s
    (let b := f (s.core.readP o.p2) (s.core.readP o.p3)
     .ok (s.result .s 0 [s.core.toP o.p1 b] (some (boolV b)) 0))

/-- A scalar value to x[D] and b1 (R110, R116). -/
def xResult (g d : Nat) (v : W64) (s : State) : Res :=
  guarded g s (.ok (s.result .s 0 [s.core.toX d v] (some (v.setWidth 512)) 0))

/-! Three-register operations (R108). -/

/-- ADD (R108). -/
def opAdd (o : S3) (s : State) : Res := alu o 0 (fun a b => a + b) s
def execAdd (o : S3) (s : State) : Host.Outcome State Fault Refusal := settle s .s (opAdd o s)
/-- SUB (R108). -/
def opSub (o : S3) (s : State) : Res := alu o 0 (fun a b => a - b) s
def execSub (o : S3) (s : State) : Host.Outcome State Fault Refusal := settle s .s (opSub o s)
/-- MUL (R108). -/
def opMul (o : S3) (s : State) : Res := alu o 1 (fun a b => a * b) s
def execMul (o : S3) (s : State) : Host.Outcome State Fault Refusal := settle s .s (opMul o s)
/-- MULHS (R108). -/
def opMulhs (o : S3) (s : State) : Res := alu o 1 (fun a b => mulHigh a.toInt b.toInt) s
def execMulhs (o : S3) (s : State) : Host.Outcome State Fault Refusal := settle s .s (opMulhs o s)
/-- MULHN (R108). -/
def opMulhn (o : S3) (s : State) : Res := alu o 1 (fun a b => mulHigh a.toNat b.toNat) s
def execMulhn (o : S3) (s : State) : Host.Outcome State Fault Refusal := settle s .s (opMulhn o s)
/-- DIVS (R108, R109). -/
def opDivs (o : S3) (s : State) : Res := alu o 2 (fun a b => Sys2Proof.Machine.divs a b) s
def execDivs (o : S3) (s : State) : Host.Outcome State Fault Refusal := settle s .s (opDivs o s)
/-- DIVN (R108, R109). -/
def opDivn (o : S3) (s : State) : Res := alu o 2 (fun a b => Sys2Proof.Machine.divn a b) s
def execDivn (o : S3) (s : State) : Host.Outcome State Fault Refusal := settle s .s (opDivn o s)
/-- REMS (R108, R109). -/
def opRems (o : S3) (s : State) : Res := alu o 2 (fun a b => Sys2Proof.Machine.rems a b) s
def execRems (o : S3) (s : State) : Host.Outcome State Fault Refusal := settle s .s (opRems o s)
/-- REMN (R108, R109). -/
def opRemn (o : S3) (s : State) : Res := alu o 2 (fun a b => Sys2Proof.Machine.remn a b) s
def execRemn (o : S3) (s : State) : Host.Outcome State Fault Refusal := settle s .s (opRemn o s)
/-- AND (R108). -/
def opAnd (o : S3) (s : State) : Res := alu o 0 (fun a b => a &&& b) s
def execAnd (o : S3) (s : State) : Host.Outcome State Fault Refusal := settle s .s (opAnd o s)
/-- OR (R108). -/
def opOr (o : S3) (s : State) : Res := alu o 0 (fun a b => a ||| b) s
def execOr (o : S3) (s : State) : Host.Outcome State Fault Refusal := settle s .s (opOr o s)
/-- XOR (R108). -/
def opXor (o : S3) (s : State) : Res := alu o 0 (fun a b => a ^^^ b) s
def execXor (o : S3) (s : State) : Host.Outcome State Fault Refusal := settle s .s (opXor o s)
/-- ANDN (R108). -/
def opAndn (o : S3) (s : State) : Res := alu o 0 (fun a b => a &&& ~~~b) s
def execAndn (o : S3) (s : State) : Host.Outcome State Fault Refusal := settle s .s (opAndn o s)
/-- SHL (R108). -/
def opShl (o : S3) (s : State) : Res := alu o 0 (fun a b => a <<< shamt b) s
def execShl (o : S3) (s : State) : Host.Outcome State Fault Refusal := settle s .s (opShl o s)
/-- SHRN (R108). -/
def opShrn (o : S3) (s : State) : Res := alu o 0 (fun a b => a >>> shamt b) s
def execShrn (o : S3) (s : State) : Host.Outcome State Fault Refusal := settle s .s (opShrn o s)
/-- SHRS (R108). -/
def opShrs (o : S3) (s : State) : Res := alu o 0 (fun a b => a.sshiftRight (shamt b)) s
def execShrs (o : S3) (s : State) : Host.Outcome State Fault Refusal := settle s .s (opShrs o s)
/-- ROTL (R108). -/
def opRotl (o : S3) (s : State) : Res := alu o 0 (fun a b => a.rotateLeft (shamt b)) s
def execRotl (o : S3) (s : State) : Host.Outcome State Fault Refusal := settle s .s (opRotl o s)
/-- MINS (R108). -/
def opMins (o : S3) (s : State) : Res := alu o 0 (fun a b => if a.slt b then a else b) s
def execMins (o : S3) (s : State) : Host.Outcome State Fault Refusal := settle s .s (opMins o s)
/-- MAXS (R108). -/
def opMaxs (o : S3) (s : State) : Res := alu o 0 (fun a b => if a.slt b then b else a) s
def execMaxs (o : S3) (s : State) : Host.Outcome State Fault Refusal := settle s .s (opMaxs o s)
/-- MINN (R108). -/
def opMinn (o : S3) (s : State) : Res := alu o 0 (fun a b => if a < b then a else b) s
def execMinn (o : S3) (s : State) : Host.Outcome State Fault Refusal := settle s .s (opMinn o s)
/-- MAXN (R108). -/
def opMaxn (o : S3) (s : State) : Res := alu o 0 (fun a b => if a < b then b else a) s
def execMaxn (o : S3) (s : State) : Host.Outcome State Fault Refusal := settle s .s (opMaxn o s)
/-- CLZ (R108). -/
def opClz (o : S3) (s : State) : Res := alu o 0 (fun a _ => BitVec.ofNat 64 (leadingZeros a.toNat 64)) s
def execClz (o : S3) (s : State) : Host.Outcome State Fault Refusal := settle s .s (opClz o s)
/-- CTZ (R108). -/
def opCtz (o : S3) (s : State) : Res := alu o 0 (fun a _ => BitVec.ofNat 64 (trailingZeros a.toNat 64)) s
def execCtz (o : S3) (s : State) : Host.Outcome State Fault Refusal := settle s .s (opCtz o s)
/-- POPC (R108). -/
def opPopc (o : S3) (s : State) : Res := alu o 0 (fun a _ => BitVec.ofNat 64 (popCount a.toNat 64)) s
def execPopc (o : S3) (s : State) : Host.Outcome State Fault Refusal := settle s .s (opPopc o s)

/-! Immediates and bit fields (R110, R111). -/

/-- ADDI (R110). -/
def opAddi (o : S2I) (s : State) : Res := xResult o.g o.f1 (BitVec.ofInt 64 ((o.src2 s.core).toInt + o.simm)) s
def execAddi (o : S2I) (s : State) : Host.Outcome State Fault Refusal := settle s .s (opAddi o s)
/-- MOVI (R110). -/
def opMovi (o : S1I) (s : State) : Res := xResult o.g o.f1 (BitVec.ofInt 64 o.simm) s
def execMovi (o : S1I) (s : State) : Host.Outcome State Fault Refusal := settle s .s (opMovi o s)

/-- POS, LEN and SX of a bit-field operation's extension (R111). -/
def fieldPos (x : Nat) : Nat := bits x 0 6
def fieldLen (x : Nat) : Nat := bits x 6 6 + 1

/-- BEXT (R111). -/
def opBext (o : S3X) (s : State) : Res :=
  let f := bits (o.src2 s.core).toNat (fieldPos o.x) (fieldLen o.x)
  xResult o.g o.f1 (if bit o.x 12 then BitVec.ofInt 64 (signed (fieldLen o.x) f) else BitVec.ofNat 64 f) s
def execBext (o : S3X) (s : State) : Host.Outcome State Fault Refusal := settle s .s (opBext o s)
/-- BINS (R111). -/
def opBins (o : S3X) (s : State) : Res :=
  let a := (o.src2 s.core).toNat
  let b := (o.src3 s.core).toNat
  let p := fieldPos o.x
  let n := fieldLen o.x
  xResult o.g o.f1 (BitVec.ofNat 64 (bits b 0 p + bits a 0 n * 2 ^ p + b / 2 ^ (p + n) * 2 ^ (p + n))) s
def execBins (o : S3X) (s : State) : Host.Outcome State Fault Refusal := settle s .s (opBins o s)

/-- The 128-bit value of a register pair (R112). -/
def pairVal (lo hi : W64) : Nat := lo.toNat + hi.toNat * 2 ^ 64

/-- ADD128 (R112). -/
def opAdd128 (o : S3) (s : State) : Res :=
  let c := s.core
  let k := KSel.ofExt o.ext
  let rd (sel : Bool) (f : Nat) : Nat := pairVal (c.readX (selNum sel f)) (c.readX (selNum sel (f + 1)))
  let v := (rd k.k2 o.f2 + rd k.k3 o.f3) % 2 ^ 128
  guarded o.g s
    (.ok (s.result .s 0 [c.toX o.f1 (BitVec.ofNat 64 v), c.toX (o.f1 + 1) (BitVec.ofNat 64 (v / 2 ^ 64))]
      (some (BitVec.ofNat 512 v)) 0))
def execAdd128 (o : S3) (s : State) : Host.Outcome State Fault Refusal := settle s .s (opAdd128 o s)

/-! Compares, select and predicate logic (R113 to R115). -/

/-- CMP.eq (R113). -/
def opCmpEq (o : SC) (s : State) : Res := cmpOp o (fun a b => a == b) s
def execCmpEq (o : SC) (s : State) : Host.Outcome State Fault Refusal := settle s .s (opCmpEq o s)
/-- CMP.ne (R113). -/
def opCmpNe (o : SC) (s : State) : Res := cmpOp o (fun a b => a != b) s
def execCmpNe (o : SC) (s : State) : Host.Outcome State Fault Refusal := settle s .s (opCmpNe o s)
/-- CMP.lts (R113). -/
def opCmpLts (o : SC) (s : State) : Res := cmpOp o (fun a b => a.slt b) s
def execCmpLts (o : SC) (s : State) : Host.Outcome State Fault Refusal := settle s .s (opCmpLts o s)
/-- CMP.les (R113). -/
def opCmpLes (o : SC) (s : State) : Res := cmpOp o (fun a b => a.sle b) s
def execCmpLes (o : SC) (s : State) : Host.Outcome State Fault Refusal := settle s .s (opCmpLes o s)
/-- CMP.ltn (R113). -/
def opCmpLtn (o : SC) (s : State) : Res := cmpOp o (fun a b => decide (a < b)) s
def execCmpLtn (o : SC) (s : State) : Host.Outcome State Fault Refusal := settle s .s (opCmpLtn o s)
/-- CMP.len (R113). -/
def opCmpLen (o : SC) (s : State) : Res := cmpOp o (fun a b => decide (a ≤ b)) s
def execCmpLen (o : SC) (s : State) : Host.Outcome State Fault Refusal := settle s .s (opCmpLen o s)
/-- CMP.any (R113). -/
def opCmpAny (o : SC) (s : State) : Res := cmpOp o (fun a b => (a &&& b) != 0) s
def execCmpAny (o : SC) (s : State) : Host.Outcome State Fault Refusal := settle s .s (opCmpAny o s)
/-- CMP.none (R113). -/
def opCmpNone (o : SC) (s : State) : Res := cmpOp o (fun a b => (a &&& b) == 0) s
def execCmpNone (o : SC) (s : State) : Host.Outcome State Fault Refusal := settle s .s (opCmpNone o s)
/-- SEL (R114). -/
def opSel (o : S3X) (s : State) : Res :=
  xResult o.g o.f1 (if s.core.readP (bits o.x 0 4) then o.src2 s.core else o.src3 s.core) s
def execSel (o : S3X) (s : State) : Host.Outcome State Fault Refusal := settle s .s (opSel o s)
/-- PAND (R115). -/
def opPand (o : SL) (s : State) : Res := predOp o (fun a b => a && b) s
def execPand (o : SL) (s : State) : Host.Outcome State Fault Refusal := settle s .s (opPand o s)
/-- POR (R115). -/
def opPor (o : SL) (s : State) : Res := predOp o (fun a b => a || b) s
def execPor (o : SL) (s : State) : Host.Outcome State Fault Refusal := settle s .s (opPor o s)
/-- PXOR (R115). -/
def opPxor (o : SL) (s : State) : Res := predOp o (fun a b => Bool.xor a b) s
def execPxor (o : SL) (s : State) : Host.Outcome State Fault Refusal := settle s .s (opPxor o s)
/-- PNOT (R115). -/
def opPnot (o : SL) (s : State) : Res := predOp o (fun a _ => !a) s
def execPnot (o : SL) (s : State) : Host.Outcome State Fault Refusal := settle s .s (opPnot o s)
/-- PMOV (R115). -/
def opPmov (o : SL) (s : State) : Res := predOp o (fun a _ => a) s
def execPmov (o : SL) (s : State) : Host.Outcome State Fault Refusal := settle s .s (opPmov o s)

/-! Task identity (R116). -/

/-- WID (R116). -/
def opWid (o : S3) (s : State) : Res := xResult o.g o.f1 s.core.task.wid s
def execWid (o : S3) (s : State) : Host.Outcome State Fault Refusal := settle s .s (opWid o s)
/-- RANK: the street rank, all ones before a FUSE (R116). -/
def opRank (o : S3) (s : State) : Res :=
  xResult o.g o.f1 (match s.core.link.rank with | some r => BitVec.ofNat 64 r | none => BitVec.allOnes 64) s
def execRank (o : S3) (s : State) : Host.Outcome State Fault Refusal := settle s .s (opRank o s)

/-- The S-slot NOP: nothing but an idle record (R62). -/
def execSNop (s : State) : Host.Outcome State Fault Refusal :=
  .next (s.mapCore fun c => { c with sticky := { c.sticky with s := none } })

end Sys2Proof.Machine
end

