-- ==== Sys2Proof/Machine/VectorFloat.lean ====
section
/-! DEFINITION. Floating-point operations, conversions, MX blocks and floating-point reductions of the V slots
(spec/07_vector_instructions.md R188 to R195, R197, R198). -/
namespace Sys2Proof.Machine

/-- The element type of a float operation. -/
def Long_fty (o : Long) : Fmt := (floatTy o.ty).getD .f32

/-- The rounding mode in MD with its random words; a .rs operation advances SRCTR by 16 (R138, R141). -/
def withRnd (o : Long) (s : State) (k : Rnd → (Nat → Nat) → State → Res) : Res :=
  let t := s.core.st
  if o.md = 4 then
    k .rs (srWord t.srkey.toNat t.srctr.toNat)
      (s.mapCore fun c => { c with st := { c.st with srctr := c.st.srctr + 16 } })
  else k ((rndOf o.md).getD .rne) (fun _ => 0) s

/-- A binary float operation from lane values to an exact result, rounded once (R188). -/
def vfBin (sl : Slot) (o : Long) (f : Rnd → Val → Val → Val × Nat) (s : State) : Res :=
  let t := Long_fty o
  withVV s o fun a b =>
    withRnd o s fun rd r =>
      vLanes sl o 6 t.width fun i =>
        deliver t rd (r i) (f rd (decodeFloat t (elemAt t.width a i)) (decodeFloat t (elemAt t.width b i)))

/-- A fused multiply-add on every lane (R188). -/
def vfFma (sl : Slot) (o : Long) (neg : Bool) (s : State) : Res :=
  let t := Long_fty o
  withVV s o fun a b =>
    withV s o.sc fun c =>
      withRnd o s fun rd r =>
        vAll sl o 6 t.width fun i =>
          let v (x : Nat) : Val := decodeFloat t (elemAt t.width x i)
          deliver t rd (r i) (fmaVals rd (v a) (if neg then (v b).negate else v b) (v c.toNat))

/-- A unary operation of class 7 (R192). -/
def vfTrans (sl : Slot) (o : Long) (f : Fmt → Rnd → Nat → Val → Nat × Nat) (s : State) : Res :=
  let t := Long_fty o
  withV1 s o fun a =>
    withRnd o s fun rd r => vLanes sl o 7 t.width fun i => f t rd (r i) (decodeFloat t (elemAt t.width a i))

/-- Minimum or maximum (R189). -/
def vfMinMax (sl : Slot) (o : Long) (isMax : Bool) (s : State) : Res :=
  let t := Long_fty o
  withVV s o fun a b =>
    vLanes sl o 6 t.width (fun i => fMinMax t isMax (elemAt t.width a i) (elemAt t.width b i)) s

/-- A sign operation; a NaN lane delivers the canonical NaN without a flag (R189). -/
def vfSign (sl : Slot) (o : Long) (f : Fmt → Nat → Nat) (s : State) : Res :=
  let t := Long_fty o
  withV1 s o fun a =>
    vLanes sl o 6 t.width (fun i =>
      let x := elemAt t.width a i
      (if (decodeFloat t x).isNan then t.canonicalNan else f t x, 0)) s

/-- The condition of a float compare (R190). -/
def vfCond (md : Nat) (a b : Val) : Bool :=
  let un := a.isNan || b.isNan
  match md with
  | 0 => !un && eqVals a b
  | 1 => un || !eqVals a b
  | 2 => !un && ltVals a b
  | 3 => !un && (ltVals a b || eqVals a b)
  | _ => un

/-- The classes of R191, one bit each. -/
def classOf (f : Fmt) (v : Val) : Nat :=
  match v with
  | .nan sig => if sig then 0 else 1
  | .inf neg => if neg then 2 else 3
  | .num _ m _ => if m = 0 then 4 else if m < 2 ^ f.manBits then 5 else 6

/-- VFADD (R188). -/
def opVfadd (sl : Slot) (o : Long) (s : State) : Res := vfBin sl o (fun rd a b => sumVals rd [a, b]) s
def execVfadd (o : Long) (s : State) : Host.Outcome State Fault Refusal := settle s .v0 (opVfadd .v0 o s)
/-- VFSUB (R188). -/
def opVfsub (sl : Slot) (o : Long) (s : State) : Res := vfBin sl o (fun rd a b => sumVals rd [a, b.negate]) s
def execVfsub (o : Long) (s : State) : Host.Outcome State Fault Refusal := settle s .v0 (opVfsub .v0 o s)
/-- VFMUL (R188). -/
def opVfmul (sl : Slot) (o : Long) (s : State) : Res := vfBin sl o (fun _ a b => mulVals a b) s
def execVfmul (o : Long) (s : State) : Host.Outcome State Fault Refusal := settle s .v0 (opVfmul .v0 o s)
/-- VFMA (R188). -/
def opVfma (sl : Slot) (o : Long) (s : State) : Res := vfFma sl o false s
def execVfma (o : Long) (s : State) : Host.Outcome State Fault Refusal := settle s .v0 (opVfma .v0 o s)
/-- VFNMA (R188). -/
def opVfnma (sl : Slot) (o : Long) (s : State) : Res := vfFma sl o true s
def execVfnma (o : Long) (s : State) : Host.Outcome State Fault Refusal := settle s .v0 (opVfnma .v0 o s)
/-- VFMIN (R189). -/
def opVfmin (sl : Slot) (o : Long) (s : State) : Res := vfMinMax sl o false s
def execVfmin (o : Long) (s : State) : Host.Outcome State Fault Refusal := settle s .v0 (opVfmin .v0 o s)
/-- VFMAX (R189). -/
def opVfmax (sl : Slot) (o : Long) (s : State) : Res := vfMinMax sl o true s
def execVfmax (o : Long) (s : State) : Host.Outcome State Fault Refusal := settle s .v0 (opVfmax .v0 o s)
/-- VFABS (R189). -/
def opVfabs (sl : Slot) (o : Long) (s : State) : Res := vfSign sl o (fun t x => x % 2 ^ (t.width - 1)) s
def execVfabs (o : Long) (s : State) : Host.Outcome State Fault Refusal := settle s .v0 (opVfabs .v0 o s)
/-- VFNEG (R189). -/
def opVfneg (sl : Slot) (o : Long) (s : State) : Res := vfSign sl o (fun t x => Nat.xor x (2 ^ (t.width - 1))) s
def execVfneg (o : Long) (s : State) : Host.Outcome State Fault Refusal := settle s .v0 (opVfneg .v0 o s)
/-- VFCMP (R190). -/
def opVfcmp (sl : Slot) (o : Long) (s : State) : Res := 
  let t := Long_fty o
  withVV s o fun a b =>
    vMask sl o 6 t.width (fun i =>
      let x := decodeFloat t (elemAt t.width a i)
      let y := decodeFloat t (elemAt t.width b i)
      (vfCond o.md x y, sigFlag [x, y])) s
def execVfcmp (o : Long) (s : State) : Host.Outcome State Fault Refusal := settle s .v0 (opVfcmp .v0 o s)
/-- VFCLASS (R191). -/
def opVfclass (sl : Slot) (o : Long) (s : State) : Res := 
  let t := Long_fty o
  withV1 s o fun a =>
    vMask sl o 6 t.width (fun i => (bit o.ci (classOf t (decodeFloat t (elemAt t.width a i))), 0)) s
def execVfclass (o : Long) (s : State) : Host.Outcome State Fault Refusal := settle s .v0 (opVfclass .v0 o s)
/-- VFSCALE (R188). -/
def opVfscale (sl : Slot) (o : Long) (s : State) : Res := 
  let t := Long_fty o
  withVV s o fun a b =>
    withRnd o s fun rd r =>
      vLanes sl o 6 t.width fun i =>
        fScale t rd (r i) (decodeFloat t (elemAt t.width a i)) (signed t.width (elemAt t.width b i))
def execVfscale (o : Long) (s : State) : Host.Outcome State Fault Refusal := settle s .v0 (opVfscale .v0 o s)
/-- VFRCP (R192). -/
def opVfrcp (sl : Slot) (o : Long) (s : State) : Res := vfTrans sl o fRcp s
def execVfrcp (o : Long) (s : State) : Host.Outcome State Fault Refusal := settle s .v0 (opVfrcp .v0 o s)
/-- VFRSQ (R192). -/
def opVfrsq (sl : Slot) (o : Long) (s : State) : Res := vfTrans sl o fRsq s
def execVfrsq (o : Long) (s : State) : Host.Outcome State Fault Refusal := settle s .v0 (opVfrsq .v0 o s)
/-- VFEXP2 (R192). -/
def opVfexp2 (sl : Slot) (o : Long) (s : State) : Res := vfTrans sl o fExp2 s
def execVfexp2 (o : Long) (s : State) : Host.Outcome State Fault Refusal := settle s .v0 (opVfexp2 .v0 o s)
/-- VFLOG2 (R192). -/
def opVflog2 (sl : Slot) (o : Long) (s : State) : Res := vfTrans sl o fLog2 s
def execVflog2 (o : Long) (s : State) : Host.Outcome State Fault Refusal := settle s .v0 (opVflog2 .v0 o s)
/-! Conversions (R193 to R195). -/

/-- Write converted elements of `w` bits into the old destination from element `base` on. -/
def spliceElems (w base old : Nat) (es : List Nat) : Nat :=
  let lo := w * base
  let hi := w * (base + es.length)
  old % 2 ^ lo + packList w es * 2 ^ lo + old / 2 ^ hi * 2 ^ hi

/-- VCVT (R193). -/
def opVcvt (sl : Slot) (o : Long) (s : State) : Res := 
  let src := (Fmt.ofCode (bits o.sb 0 5)).getD .f32
  let dst := (Fmt.ofCode (bits o.sb 5 5)).getD .f32
  let n := 512 / max src.width dst.width
  let p := bits o.ci 0 3
  let s0 := if src.width < dst.width then p * n else 0
  let d0 := if dst.width < src.width then p * n else 0
  let m := (s.core.readM o.lm).toNat
  let on (j : Nat) : Bool := bit m (if n ≤ 64 then j else j * 64 / n)
  let ix := List.range n
  withV1 s o fun a =>
    withRnd o s fun rd r s =>
      withOld s o (ix.all on && dst.width * n == 512) fun old =>
        let rs := ix.map fun j =>
          if on j then convertElem src dst rd (r j) (elemAt src.width a (j + s0))
          else (elemAt dst.width old (j + d0), 0)
        vResult sl o 8 (spliceElems dst.width d0 old (rs.map Prod.fst)) (orAll (rs.map Prod.snd)) s
def execVcvt (o : Long) (s : State) : Host.Outcome State Fault Refusal := settle s .v0 (opVcvt .v0 o s)
/-- The block that QuantiseMX makes, in the layout of R194. -/
def mxBlock (f : Fmt) (vs : List Val) : Nat × Nat :=
  let q := quantiseMX f vs
  (packList f.width q.1 + q.2.1 * 2 ^ 504, q.2.2)

/-- VQMX: 32 values to an MX block; it has no merge (R194). -/
def opVqmx (sl : Slot) (o : Long) (s : State) : Res := 
  let t := Long_fty o
  let f := (Fmt.ofCode (bits o.ci 0 5)).getD .mx8e4
  let go (a b : Nat) : Res :=
    let v (i : Nat) : Val :=
      decodeFloat t (if o.ty = 0 then (if i < 16 then elemAt 32 a i else elemAt 32 b (i - 16)) else elemAt 16 a i)
    let q := mxBlock f ((List.range 32).map v)
    vResult sl o 9 q.1 q.2 s
  if o.ty = 0 then withVV s o go else withV1 s o fun a => go a 0
def execVqmx (o : Long) (s : State) : Host.Outcome State Fault Refusal := settle s .v0 (opVqmx .v0 o s)
/-- VDQMX (R195). -/
def opVdqmx (sl : Slot) (o : Long) (s : State) : Res := 
  let t := Long_fty o
  let f := (Fmt.ofCode (bits o.ci 0 5)).getD .mx8e4
  let h := if bit o.ci 5 then 16 else 0
  withV1 s o fun a =>
    withRnd o s fun rd r =>
      vLanes sl o 8 t.width fun j =>
        toFloat t rd (r j) (mxVal f (bits a 504 8) (elemAt f.width a (j + h)))
def execVdqmx (o : Long) (s : State) : Host.Outcome State Fault Refusal := settle s .v0 (opVdqmx .v0 o s)
/-! Reductions (R197, R198). -/

/-- The maximum of lanes, exact; none gives minus infinity (R197). -/
def maxLanes (t : Fmt) : List Nat → Nat × Nat
  | [] => (t.inf true, 0)
  | x :: r => r.foldl (fun acc y => let m := fMinMax t true acc.1 y; (m.1, orF acc.2 m.2)) (fMinMax t true x x)

/-- VRFMAX (R197). -/
def opVrfmax (sl : Slot) (o : Long) (s : State) : Res := 
  let t := Long_fty o
  let m := (s.core.readM o.lm).toNat
  withV1 s o fun a =>
    let v := maxLanes t (((List.range (512 / t.width)).filter (bit m)).map (elemAt t.width a))
    vResult sl o 10 v.1 v.2 s
def execVrfmax (o : Long) (s : State) : Host.Outcome State Fault Refusal := settle s .v0 (opVrfmax .v0 o s)
/-- One level of VRFADD's tree from node `k` on: the values of the next level with the flags of its nodes (R198). -/
def sumLevel (rd : Rnd) (r : Nat → Nat) : Nat → List (Option Nat) → List (Option Nat) × Nat
  | k, x :: y :: rest =>
    let nx := sumLevel rd r (k + 1) rest
    match x, y with
    | none, y => (y :: nx.1, nx.2)
    | x, none => (x :: nx.1, nx.2)
    | some a, some b =>
      let v := deliver .f32 rd (r k) (sumVals rd [decodeFloat .f32 a, decodeFloat .f32 b])
      (some v.1 :: nx.1, orF v.2 nx.2)
  | _, l => (l, 0)

/-- The levels of the tree, `fuel` of them at most. -/
def sumTree (rd : Rnd) (r : Nat → Nat) : Nat → Nat → List (Option Nat) → Nat × Nat
  | 0, _, l => ((l.headD none).getD 0, 0)
  | fuel + 1, k, l =>
    if l.length ≤ 1 then ((l.headD none).getD 0, 0)
    else
      let lv := sumLevel rd r k l
      let res := sumTree rd r fuel (k + l.length / 2) lv.1
      (res.1, orF lv.2 res.2)

/-- VRFADD: the fixed tree over FP32 values (R198). -/
def opVrfadd (sl : Slot) (o : Long) (s : State) : Res := 
  let t := Long_fty o
  let m := (s.core.readM o.lm).toNat
  withV1 s o fun a =>
    withRnd o s fun rd r s =>
      let val := (List.range (512 / t.width)).map fun i =>
        if bit m i then some (toFloat .f32 .rne 0 (decodeFloat t (elemAt t.width a i))) else none
      let v := sumTree rd r 6 0 (val.map fun x => x.map Prod.fst)
      vResult sl o 10 v.1 (orF v.2 (orAll (val.map fun x => match x with | some y => y.2 | none => 0))) s
def execVrfadd (o : Long) (s : State) : Host.Outcome State Fault Refusal := settle s .v0 (opVrfadd .v0 o s)

end Sys2Proof.Machine
end

