-- ==== Sys2Proof/Machine/VectorPerm.lean ====
section
/-! DEFINITION. Permutes and random numbers of the V slots (spec/07_vector_instructions.md R199, R201, R202). -/
namespace Sys2Proof.Machine

/-- Lane `i` of the concatenation of two vectors (R199). -/
def catLane (w a b i : Nat) : Nat := if i < 512 / w then elemAt w a i else elemAt w b (i - 512 / w)

/-- The numbers of the set mask bits below `n`, lowest first. -/
def setBits (m n : Nat) : List Nat := (List.range n).filter (bit m)

/-- VPERM (R199). -/
def opVperm (sl : Slot) (o : Long) (s : State) : Res := 
  let w := (Long_ity o).width
  withVV s o fun a b =>
    withV s o.sc fun c => vAll sl o 11 w (fun i => (catLane w a b (elemAt w c.toNat i % (2 * (512 / w))), 0)) s
def execVperm (o : Long) (s : State) : Host.Outcome State Fault Refusal := settle s .v0 (opVperm .v0 o s)
/-- VBCAST from a lane, or from a scalar when CI[6] is set (R199). -/
def opVbcast (sl : Slot) (o : Long) (s : State) : Res := 
  let w := (Long_ity o).width
  if bit o.ci 6 then guarded o.g s (withX s o.sa fun x => vLanes sl o 11 w (fun _ => (x.toNat % 2 ^ w, 0)) s)
  else withV1 s o fun a => vLanes sl o 11 w (fun _ => (elemAt w a (bits o.ci 0 6), 0)) s
def execVbcast (o : Long) (s : State) : Host.Outcome State Fault Refusal := settle s .v0 (opVbcast .v0 o s)
/-- VLROT by an immediate, or by a scalar when CI[6] is set (R199). -/
def opVlrot (sl : Slot) (o : Long) (s : State) : Res := 
  let w := (Long_ity o).width
  let n := 512 / w
  let go (a k : Nat) : Res := vLanes sl o 11 w (fun i => (elemAt w a ((i + (n - k)) % n), 0)) s
  withV1 s o fun a => if bit o.ci 6 then withX s o.sb fun x => go a (x.toNat % n) else go a (bits o.ci 0 6)
def execVlrot (o : Long) (s : State) : Host.Outcome State Fault Refusal := settle s .v0 (opVlrot .v0 o s)
/-- VSHUF (R199). -/
def opVshuf (sl : Slot) (o : Long) (s : State) : Res := 
  let w := (Long_ity o).width
  let n := 512 / w
  withVV s o fun a b =>
    vLanes sl o 11 w (fun i =>
      (match o.ci % 4 with
       | 0 => if i % 2 = 0 then elemAt w a (i / 2) else elemAt w b ((i - 1) / 2)
       | 1 => if i % 2 = 0 then elemAt w a (n / 2 + i / 2) else elemAt w b (n / 2 + (i - 1) / 2)
       | 2 => catLane w a b (2 * i)
       | _ => catLane w a b (2 * i + 1), 0)) s
def execVshuf (o : Long) (s : State) : Host.Outcome State Fault Refusal := settle s .v0 (opVshuf .v0 o s)
/-- VCMPR: LM selects, every lane is written (R199). -/
def opVcmpr (sl : Slot) (o : Long) (s : State) : Res := 
  let w := (Long_ity o).width
  let sel := setBits (s.core.readM o.lm).toNat (512 / w)
  withV1 s o fun a => vAll sl o 11 w (fun i => (match sel[i]? with | some j => elemAt w a j | none => 0, 0)) s
def execVcmpr (o : Long) (s : State) : Host.Outcome State Fault Refusal := settle s .v0 (opVcmpr .v0 o s)
/-- VEXPD (R199). -/
def opVexpd (sl : Slot) (o : Long) (s : State) : Res := 
  let w := (Long_ity o).width
  let m := (s.core.readM o.lm).toNat
  withV1 s o fun a => vAll sl o 11 w (fun i => (if bit m i then elemAt w a (popCount m i) else 0, 0)) s
def execVexpd (o : Long) (s : State) : Host.Outcome State Fault Refusal := settle s .v0 (opVexpd .v0 o s)
/-- VIOTA: the set LM bits below each lane (R199). -/
def opViota (sl : Slot) (o : Long) (s : State) : Res := 
  let w := (Long_ity o).width
  guarded o.g s (vAll sl o 11 w (fun i => (popCount (s.core.readM o.lm).toNat i, 0)) s)
def execViota (o : Long) (s : State) : Host.Outcome State Fault Refusal := settle s .v0 (opViota .v0 o s)
/-- VRNG: Philox on each 128-bit group (R202). -/
def opVrng (sl : Slot) (o : Long) (s : State) : Res := 
  guarded o.g s
    (withV s o.sa fun a =>
      withX s o.sb fun k =>
        vLanes sl o 12 128 (fun g => (philox k.toNat ((elemAt 128 a.toNat g + o.ci) % 2 ^ 128), 0)) s)
def execVrng (o : Long) (s : State) : Host.Outcome State Fault Refusal := settle s .v0 (opVrng .v0 o s)

end Sys2Proof.Machine
end

