-- ==== Sys2Proof/Machine/Issue.lean ====
section
/-! DEFINITION. What the slots of a bundle need to know of an operation: what it does when it issues, whether a sticky
record may re-issue it, its address operands, and the registers and latches that it reads
(spec/02_bundle_encoding.md R62 to R64, R74; spec/03_assembly_language.md R91). -/
namespace Sys2Proof
open Machine

/-- The guard predicate of an operation. -/
def Instr.guardNo (i : Instr) : Nat :=
  match i.slot with
  | some sl => if sl.isLong then bits ((encode i).getD 1 0) 26 4 else bits ((encode i).headD 0) 25 4
  | none => 0

end Sys2Proof

namespace Sys2Proof.Machine

/-- What an operation named in slot `sl` does when it issues; the NOPs do nothing, and no other instruction stands in a
slot (R62, R74). -/
def runOp (sl : Slot) (i : Instr) (s : State) : Res :=
  match i with
  | .br o => opBr o s
  | .brp o => opBrp o s
  | .bri o => opBri o s
  | .call o => opCall o s
  | .ret o => opRet o s
  | .loop o => opLoop o s
  | .sloop o => opSloop o s
  | .next o => opNext o s
  | .lexit o => opLexit o s
  | .lix o => opLix o s
  | .halt o => opHalt o s
  | .trap o => opTrap o s
  | .eret o => opEret o s
  | .fuse o => opFuse o s
  | .decouple o => opDecouple o s
  | .rejoin o => opRejoin o s
  | .sbar o => opSbar o s
  | .sqbar o => opSqbar o s
  | .pair o => opPair o s
  | .add o => opAdd o s
  | .sub o => opSub o s
  | .mul o => opMul o s
  | .mulhs o => opMulhs o s
  | .mulhn o => opMulhn o s
  | .divs o => opDivs o s
  | .divn o => opDivn o s
  | .rems o => opRems o s
  | .remn o => opRemn o s
  | .and o => opAnd o s
  | .or o => opOr o s
  | .xor o => opXor o s
  | .andn o => opAndn o s
  | .shl o => opShl o s
  | .shrn o => opShrn o s
  | .shrs o => opShrs o s
  | .rotl o => opRotl o s
  | .mins o => opMins o s
  | .maxs o => opMaxs o s
  | .minn o => opMinn o s
  | .maxn o => opMaxn o s
  | .clz o => opClz o s
  | .ctz o => opCtz o s
  | .popc o => opPopc o s
  | .bext o => opBext o s
  | .bins o => opBins o s
  | .add128 o => opAdd128 o s
  | .addi o => opAddi o s
  | .movi o => opMovi o s
  | .cmpEq o => opCmpEq o s
  | .cmpNe o => opCmpNe o s
  | .cmpLts o => opCmpLts o s
  | .cmpLes o => opCmpLes o s
  | .cmpLtn o => opCmpLtn o s
  | .cmpLen o => opCmpLen o s
  | .cmpAny o => opCmpAny o s
  | .cmpNone o => opCmpNone o s
  | .sel o => opSel o s
  | .pand o => opPand o s
  | .por o => opPor o s
  | .pxor o => opPxor o s
  | .pnot o => opPnot o s
  | .pmov o => opPmov o s
  | .wid o => opWid o s
  | .rank o => opRank o s
  | .mfs o => opMfs o s
  | .mts o => opMts o s
  | .alea o => opAlea o s
  | .aset o => opAset o s
  | .astep o => opAstep o s
  | .aring o => opAring o s
  | .wopen o => opWopen o s
  | .wadv o => opWadv o s
  | .wclose o => opWclose o s
  | .fill o => opFill o s
  | .flcfg o => opFlcfg o s
  | .flpush o => opFlpush o s
  | .flpop o => opFlpop o s
  | .lds o => opLds o s
  | .sts o => opSts o s
  | .vld o => opVld o s
  | .vst o => opVst o s
  | .vldx o => opVldx o s
  | .vstx o => opVstx o s
  | .tld o => opTld o s
  | .tst o => opTst o s
  | .tcopy o => opTcopy o s
  | .tpref o => opTpref o s
  | .fence o => opFence o s
  | .qfence o => opQfence o s
  | .vjoin o => opVjoin o s
  | .aadd o => opAadd o s
  | .amin o => opAmin o s
  | .amax o => opAmax o s
  | .aand o => opAand o s
  | .aor o => opAor o s
  | .axor o => opAxor o s
  | .axchg o => opAxchg o s
  | .acas o => opAcas o s
  | .ald o => opAld o s
  | .ast o => opAst o s
  | .afadd o => opAfadd o s
  | .waita o => opWaita o s
  | .notify o => opNotify o s
  | .dqpush o => opDqpush o s
  | .dqpop o => opDqpop o s
  | .dqsteal o => opDqsteal o s
  | .dcnt o => opDcnt o s
  | .vadd o => opVadd sl o s
  | .vsub o => opVsub sl o s
  | .vadds o => opVadds sl o s
  | .vsubs o => opVsubs sl o s
  | .vmul o => opVmul sl o s
  | .vmulh o => opVmulh sl o s
  | .vmad o => opVmad sl o s
  | .vabs o => opVabs sl o s
  | .vneg o => opVneg sl o s
  | .vmin o => opVmin sl o s
  | .vmax o => opVmax sl o s
  | .vand o => opVand sl o s
  | .vor o => opVor sl o s
  | .vxor o => opVxor sl o s
  | .vshl o => opVshl sl o s
  | .vshr o => opVshr sl o s
  | .vsar o => opVsar sl o s
  | .vcmp o => opVcmp sl o s
  | .vsel o => opVsel sl o s
  | .vclz o => opVclz sl o s
  | .vpopc o => opVpopc sl o s
  | .vfadd o => opVfadd sl o s
  | .vfsub o => opVfsub sl o s
  | .vfmul o => opVfmul sl o s
  | .vfma o => opVfma sl o s
  | .vfnma o => opVfnma sl o s
  | .vfmin o => opVfmin sl o s
  | .vfmax o => opVfmax sl o s
  | .vfabs o => opVfabs sl o s
  | .vfneg o => opVfneg sl o s
  | .vfcmp o => opVfcmp sl o s
  | .vfclass o => opVfclass sl o s
  | .vfscale o => opVfscale sl o s
  | .vfrcp o => opVfrcp sl o s
  | .vfrsq o => opVfrsq sl o s
  | .vfexp2 o => opVfexp2 sl o s
  | .vflog2 o => opVflog2 sl o s
  | .vcvt o => opVcvt sl o s
  | .vqmx o => opVqmx sl o s
  | .vdqmx o => opVdqmx sl o s
  | .vpack o => opVpack sl o s
  | .vunpack o => opVunpack sl o s
  | .vradd o => opVradd sl o s
  | .vrfadd o => opVrfadd sl o s
  | .vrmax o => opVrmax sl o s
  | .vrmin o => opVrmin sl o s
  | .vrfmax o => opVrfmax sl o s
  | .vperm o => opVperm sl o s
  | .vbcast o => opVbcast sl o s
  | .vlrot o => opVlrot sl o s
  | .vshuf o => opVshuf sl o s
  | .vcmpr o => opVcmpr sl o s
  | .vexpd o => opVexpd sl o s
  | .viota o => opViota sl o s
  | .mand o => opMand sl o s
  | .mor o => opMor sl o s
  | .mnot o => opMnot sl o s
  | .mpop o => opMpop sl o s
  | .vrng o => opVrng sl o s
  | .mldb o => opMldb o s
  | .mpush o => opMpush o s
  | .mshift o => opMshift o s
  | .macc o => opMacc o s
  | .mtern o => opMtern o s
  | .mdrain o => opMdrain o s
  | .mzero o => opMzero o s
  | .mswap o => opMswap o s
  | .mtfetch o => opMtfetch o s
  | .cNop => .ok s
  | .sNop => .ok s
  | .aNop => .ok s
  | .fNop => .ok s
  | .xNop => .ok s
  | .vNop => .ok s
  | .mNop => .ok s
  | _ => .ok s

/-- A sticky record may re-issue the operation (R62, the column "Re" of R74): every operation of the S, A, F, V and M slots
and the loads, stores and copies of the X slot, but for those listed. -/
def reissuable (i : Instr) : Bool :=
  match i with
  | .cNop | .sNop | .aNop | .fNop | .xNop | .vNop | .mNop => false
  | .mfs _ | .mts _ => false
  | .aring _ | .wadv _ | .wclose _ => false
  | .wopen _ => false
  | .flcfg _ => false
  | .fence _ | .qfence _ | .vjoin _ | .aadd _ | .amin _ | .amax _ | .aand _ | .aor _ | .axor _ | .axchg _ | .acas _
  | .ald _ | .ast _ | .afadd _ | .waita _ | .notify _ | .dqpush _ | .dqpop _ | .dqsteal _ | .dcnt _ => false
  | .mzero _ | .mswap _ => false
  | i => (match i.slot with | none => false | some .c => false | some _ => true)

/-- The address registers that an operation names as address operands (R63). -/
def addrOperands (i : Instr) : List Nat :=
  match i with
  | .lds o | .sts o | .vld o | .vst o | .vldx o | .vstx o | .mldb o => [o.sa]
  | .tcopy o => if o.sb = o.sc then [o.sb] else [o.sb, o.sc]
  | .mpush o | .macc o | .mtern o | .mdrain o => [o.sb]
  | .fill o => [o.f1]
  | _ => []

/-! ## Reads, for the interlock of adaptive latencies (R91) -/

/-- A place that a result in flight writes and an operation may read: a physical register or a latch. -/
inductive Loc where
  | x (n : Nat)
  | p (n : Nat)
  | m (n : Nat)
  | a (n : Nat)
  | v (n : Nat)
  | latch (n : Nat)
  deriving DecidableEq, Repr

/-- The places of a scalar source, with the uniform registers left out, which no result writes. -/
def Core.locX (c : Core) (n : Nat) : List Loc :=
  if n = 0 then [] else if n < 64 then [.x (physX c.loops.rot n)] else if n < 1024 then [] else [.latch (n - 1024)]
def Core.locV (c : Core) (n : Nat) : List Loc := if n < 1024 then [.v (physV c.loops.rot n)] else [.latch (n - 1024)]
def Core.locP (c : Core) (n : Nat) : List Loc := if n = 0 then [] else [.p (physP c.loops.rot n)]
def locM (n : Nat) : List Loc := if n = 0 then [] else [.m n]
def locA (n : Nat) : List Loc := if n = 0 then [] else [.a n]
def Core.locPair (c : Core) (n : Nat) : List Loc := c.locX n ++ c.locX (n + 1)
def Core.locGroup (c : Core) (n k : Nat) : List Loc := (List.range k).flatMap fun i => c.locV (n + i)
/-- The lane mask and, where lanes may merge, the destination (R180): any mask but m0 counts, even one that clears no lane,
DESIGN CHOICE (log 63). -/
def Core.locLm (c : Core) (o : Long) : List Loc :=
  locM o.lm ++ (if o.lm = 0 || o.wbs then [] else c.locV o.dst)
/-- The selected numbers of a short operation's sources. -/
def Core.loc3 (c : Core) (o : S3) : List Loc :=
  let k := KSel.ofExt o.ext
  c.locX (selNum k.k2 o.f2) ++ c.locX (selNum k.k3 o.f3)

/-- The elements that a VCVT writes fill the whole register (R193). -/
def cvtWhole (o : Long) : Bool :=
  let src := (Fmt.ofCode (bits o.sb 0 5)).getD .f32
  let dst := (Fmt.ofCode (bits o.sb 5 5)).getD .f32
  dst.width * (512 / max src.width dst.width) == 512

/-- The places that an operation reads at issue, its guard included. -/
def Core.reads (c : Core) (i : Instr) : List Loc :=
  match i with
  | .bri o | .ret o | .add o | .sub o | .mul o | .mulhs o | .mulhn o | .divs o | .divn o | .rems o | .remn o | .and o
  | .or o | .xor o | .andn o | .shl o | .shrn o | .shrs o | .rotl o | .mins o | .maxs o | .minn o | .maxn o | .clz o
  | .ctz o | .popc o | .wid o | .rank o | .aset o | .wadv o | .wclose o =>
    c.locP o.g ++ c.loc3 o
  | .astep o | .aring o => c.locP o.g ++ locA o.f1 ++ c.loc3 o
  | .add128 o =>
    let k := KSel.ofExt o.ext
    c.locP o.g ++ c.locPair (selNum k.k2 o.f2) ++ c.locPair (selNum k.k3 o.f3)
  | .br o | .call o | .trap o => c.locP o.g
  | .brp o => c.locP o.g ++ c.locP o.p1
  | .next o | .lexit o | .halt o | .eret o | .decouple o | .rejoin o | .sbar o | .sqbar o => c.locP o.g
  | .movi o => c.locP o.g
  | .loop o | .mts o => c.locP o.g ++ c.locX (selNum (KSel.ofExt (o.ext.map Prod.fst)).k1 o.f1)
  | .lix o | .fuse o | .pair o | .mfs o => c.locP o.g
  | .sloop o => c.locP o.g ++ c.locX (selNum (KSel.ofExt (o.ext.map Prod.fst)).k1 o.f1)
  | .addi o | .alea o => c.locP o.g ++ c.locX (selNum (KSel.ofExt (o.ext.map Prod.fst)).k2 o.f2)
  | .fill o => c.locP o.g ++ locA o.f1 ++ c.locX (selNum (KSel.ofExt (o.ext.map Prod.fst)).k2 o.f2)
  | .bext o => c.locP o.g ++ c.locX (selNum o.k.k2 o.f2)
  | .bins o | .wopen o => c.locP o.g ++ c.locX (selNum o.k.k2 o.f2) ++ c.locX (selNum o.k.k3 o.f3)
  | .sel o => c.locP o.g ++ c.locP (bits o.x 0 4) ++ c.locX (selNum o.k.k2 o.f2) ++ c.locX (selNum o.k.k3 o.f3)
  | .flcfg o | .flpop o => c.locP o.g
  | .flpush o => c.locP o.g ++ (if bit o.x 10 then [] else c.locV (bits o.x 0 10))
  | .cmpEq o | .cmpNe o | .cmpLts o | .cmpLes o | .cmpLtn o | .cmpLen o | .cmpAny o | .cmpNone o =>
    c.locP o.g ++ c.locX (selNum (KSel.ofExt o.ext).k2 o.f2) ++ c.locX (selNum (KSel.ofExt o.ext).k3 o.f3)
  | .pand o | .por o | .pxor o => c.locP o.g ++ c.locP o.p2 ++ c.locP o.p3
  | .pnot o | .pmov o => c.locP o.g ++ c.locP o.p2
  | .lds o | .vld o | .vldx o => c.locP o.g ++ locA o.sa
  | .sts o => c.locP o.g ++ locA o.sa ++ c.locX o.sb
  | .vst o | .vstx o => c.locP o.g ++ locA o.sa ++ c.locV o.sb
  | .tld o | .tpref o => c.locP o.g ++ c.locX o.sa ++ c.locPair o.sb
  | .tst o => c.locP o.g ++ c.locX o.sa ++ c.locPair o.sb ++ c.locGroup o.sc (o.ty + 1)
  | .tcopy o => c.locP o.g ++ c.locV o.sa ++ locA o.sb ++ locA o.sc
  | .fence o | .qfence o => c.locP o.g
  | .vjoin o | .ald o | .dqpop o | .dqsteal o => c.locP o.g ++ c.locX o.sa
  | .aadd o | .amin o | .amax o | .aand o | .aor o | .axor o | .axchg o | .ast o | .afadd o | .notify o | .dqpush o
  | .dcnt o =>
    c.locP o.g ++ c.locX o.sa ++ c.locX o.sb
  | .acas o | .waita o => c.locP o.g ++ c.locX o.sa ++ c.locPair o.sb
  | .vadd o | .vsub o | .vadds o | .vsubs o | .vmul o | .vmulh o | .vmin o | .vmax o | .vand o | .vor o | .vxor o
  | .vfadd o | .vfsub o | .vfmul o | .vfmin o | .vfmax o | .vfscale o | .vpack o | .vshuf o =>
    c.locP o.g ++ c.locV o.sa ++ c.locV o.sb ++ c.locLm o
  | .vabs o | .vneg o | .vclz o | .vpopc o | .vfabs o | .vfneg o | .vfrcp o | .vfrsq o | .vfexp2 o | .vflog2 o
  | .vunpack o =>
    c.locP o.g ++ c.locV o.sa ++ c.locLm o
  | .vmad o | .vfma o | .vfnma o | .vperm o => c.locP o.g ++ c.locV o.sa ++ c.locV o.sb ++ c.locV o.sc
  | .vshl o | .vshr o | .vsar o => c.locP o.g ++ c.locV o.sa ++ (if bit o.ci 6 then [] else c.locV o.sb) ++ c.locLm o
  | .vsel o => c.locP o.g ++ c.locV o.sa ++ c.locV o.sb ++ locM o.sc
  | .vcvt o => c.locP o.g ++ c.locV o.sa ++ locM o.lm ++ (if o.wbs || (o.lm = 0 && cvtWhole o) then [] else c.locV o.dst)
  | .vdqmx o => c.locP o.g ++ c.locV o.sa ++ c.locLm o
  | .vqmx o => c.locP o.g ++ c.locV o.sa ++ (if o.ty = 0 then c.locV o.sb else [])
  | .vbcast o => c.locP o.g ++ (if bit o.ci 6 then c.locX o.sa else c.locV o.sa) ++ c.locLm o
  | .vlrot o => c.locP o.g ++ c.locV o.sa ++ (if bit o.ci 6 then c.locX o.sb else []) ++ c.locLm o
  | .viota o => c.locP o.g ++ locM o.lm
  | .vexpd o | .vfclass o | .vcmpr o | .vradd o | .vrfadd o | .vrmax o | .vrmin o | .vrfmax o =>
    c.locP o.g ++ c.locV o.sa ++ locM o.lm
  | .vcmp o | .vfcmp o => c.locP o.g ++ c.locV o.sa ++ c.locV o.sb ++ locM o.lm
  | .mand o | .mor o => c.locP o.g ++ locM o.sa ++ locM o.sb
  | .mnot o => c.locP o.g ++ locM o.sa
  | .mpop o => c.locP o.g ++ locM o.sa ++ locM o.lm
  | .vrng o => c.locP o.g ++ c.locV o.sa ++ c.locX o.sb ++ c.locLm o
  | .mldb o => c.locP o.g ++ locA o.sa
  | .mpush o => c.locP o.g ++ locA o.sb ++ (if bit o.sc 4 then [] else c.locV o.sa)
  | .mshift o | .mzero o | .mswap o => c.locP o.g
  | .macc o | .mtern o =>
    c.locP o.g ++ locA o.sb ++
      (if bit o.sc 4 then [] else c.locGroup o.sa ((shapeOf o.ty).units + ofBool (fmtA o.ty o.md).isMx))
  | .mdrain o => c.locP o.g ++ locA o.sb
  | .mtfetch o => c.locP o.g ++ c.locX o.sa ++ c.locX o.sb
  | _ => []

/-- The protected unit of a place (spec/15 R348). -/
def Loc.unit : Loc → OwnUnit
  | .x n => .x n
  | .p n => .p n
  | .m n => .m n
  | .a n => .a n
  | .v n => .v n
  | .latch n => .latch n

/-- The rows of the matrix array that an operation reads. -/
def Core.matReads (c : Core) (i : Instr) : List OwnUnit :=
  let at_ (n : Nat) : Nat := (c.readA n).int.toNat
  match i with
  | .macc o | .mtern o => (List.range 128).map .planeW ++ (if bit o.sc 3 then [] else [.live (bits o.sc 9 2) (at_ o.sb)])
  | .mshift o => (List.range 128).map .planeS ++ (if bit o.sc 0 then (List.range 128).map .planeW else [])
  | .mpush o => [.planeS (at_ o.sb / (shapeOf o.ty).depth)]
  | .mdrain o => [.live (bits o.sc 9 2) (at_ o.sb / 128)]
  | _ => []

/-- The protected units that an operation reads; with a false guard that of its guard alone. -/
def Core.unitsRead (c : Core) (i : Instr) : List OwnUnit :=
  (c.locP i.guardNo).map Loc.unit ++
    (if c.readP i.guardNo then (c.reads i).map Loc.unit ++ c.matReads i else [])

/-- The cause of the first source of an operation that is in error (R252, R348); a vector register raises its own where it is
read. -/
def Core.badSource (c : Core) (i : Instr) : Option Trap :=
  if c.bad.isEmpty then none
  else ((c.unitsRead i).filter fun u => match u with | .v _ => false | _ => true).findSome? c.cause

/-- What an operation on the matrix array leaves of its rows' errors: a row that is written whole holds none, and one that is
moved takes its error along. -/
def Core.matWrote (c : Core) (i : Instr) : Core :=
  if c.bad.isEmpty || !c.readP i.guardNo then c
  else
    let n (sc : Nat) : Nat := bits sc 9 2
    match i with
    | .macc o | .mtern o => c.wholeWrite (.live (n o.sc) (c.readA o.sb).int.toNat)
    | .mzero o => { c with bad := c.bad.filter fun e => match e.1 with | .live k _ => k != n o.sc | _ => true }
    | .mswap o =>
      { c with bad := c.bad.flatMap fun e => match e.1 with
          | .shadow k _ => if k = n o.sc then [] else [e]
          | .live k r => if k = n o.sc then [e, (.shadow k r, e.2)] else [e]
          | _ => [e] }
    | .mshift o =>
      { c with bad := c.bad.flatMap fun e => match e.1 with
          | .planeS r => if bit o.sc 0 then [(.planeW r, e.2)] else [e, (.planeW r, e.2)]
          | .planeW r => if bit o.sc 0 then [(.planeS r, e.2)] else []
          | _ => [e] }
    | _ => c

/-- The places that a result in flight writes. -/
def Eff.loc : Eff → List Loc
  | .x n _ => [.x n]
  | .p n _ => [.p n]
  | .m n _ => [.m n]
  | .v n _ => [.v n]
  | .aval n _ => [.a n]
  | .astep n _ => [.a n]
  | .aring n _ _ => [.a n]
  | .sys _ _ => []
def Flight.locs (f : Flight) : List Loc :=
  f.effs.flatMap Eff.loc ++ (match f.latch with | some (n, _, _) => [.latch n] | none => [])

/-- An operation reads the destination of an interlocked result that is not visible yet (R91). -/
def Core.interlocked (c : Core) (i : Instr) : Bool :=
  c.fly.any fun f => f.lock && f.left != 0 && f.locs.any (c.reads i).contains

/-! ## The operations of a bundle -/

/-- The named operations of a bundle that decode, with their offsets. -/
def Bundle.named (b : Bundle) : List (Slot × Nat × Instr) :=
  b.ops.filterMap fun o => (decode o.1 o.2.2).map fun i => (o.1, o.2.1, i)

/-- An MTS of a register that nobody may write is an illegal encoding (R118). -/
def mtsIllegal (priv : Bool) (i : Instr) : Bool :=
  match i with
  | .mts o => sysCheck priv true o.i == some 0x01
  | _ => false

/-- The values tried in place of a syllable: 0, one bit alone, and the syllable with one bit changed. -/
def syllableTries (w : Nat) : List Nat :=
  0 :: (List.range 30).flatMap fun i => [2 ^ i, Nat.xor w (2 ^ i)]

/-- The offset of the syllable that makes an operation at `pc` illegal (R254): the one without OP, which is the extension of a
short operation and the first syllable of a long one, where another value of it makes the operation legal, and otherwise
the one that holds OP. Where several syllables take part, that choice is a DESIGN CHOICE (log 34). -/
def offender (sl : Slot) (pc : Nat) (ws : List Nat) : Nat :=
  match ws with
  | [w, y] =>
    if sl.isLong then (if (syllableTries w).any fun v => (decode sl [v, y]).isSome then pc else pc + 4)
    else if (syllableTries y).any fun v => (decode sl [w, v]).isSome then pc + 4 else pc
  | _ => pc

/-- The first encoding of a bundle that raises cause 0x01: its slot code and the offset of its syllable (R49, R73, R254). -/
def Bundle.illegal (b : Bundle) (priv : Bool) (pc : Nat) : Option (Nat × Nat) :=
  if b.hdr.low ≠ 0 then some (8, pc)
  else (b.ops.find? fun o => match decode o.1 o.2.2 with | none => true | some i => mtsIllegal priv i).map
    fun o => (o.1.num, if (decode o.1 o.2.2).isSome then o.2.1 else offender o.1 o.2.1 o.2.2)

end Sys2Proof.Machine
end

