-- ==== Sys2Proof/Machine/Analyse.lean ====
section
/-! DEFINITION. The analysis of the partial evaluator: what is known of the registers at each bundle, and which
operations may be resolved there (spec/14_die_dispatch_specialisation.md R334, R335). -/
namespace Sys2Proof.Machine

/-! ## What is known (R335) -/

/-- A write: the PC of its bundle, its slot and its execution; the start values are the write (0, 0, 0). -/
abbrev Site := Nat × Nat × Nat

/-- A register's known value and the write it comes from. -/
structure Known where
  val : Nat
  site : Site
  deriving DecidableEq, Repr

/-- A write on its way: its place, the cycles left, what is known of it, its slot, whether it interlocks, and whether a
stall of unknown length may already have let it through. -/
structure AFlight where
  loc : Loc
  left : Nat
  val : Option Known
  slot : Nat
  lock : Bool
  unsure : Bool
  deriving DecidableEq, Repr

/-- What is known of a slot's sticky record; an unlisted slot is idle. -/
inductive AStick where
  | op (i : Instr)
  | any
  deriving DecidableEq, Repr

/-- What is known at a bundle: the scalar registers and predicates that no longer hold their start values for certain, the
writes on their way, the sticky records, rot, whether the bundle is reached only through an illegal one, and whether no path
reaches it, so that it is only laid down as a target (R335). -/
structure Abs where
  regs : List (Loc × Option Known)
  fly : List AFlight
  sticky : List (Slot × AStick)
  rot : Option Nat
  dead : Bool
  laid : Bool
  deriving DecidableEq, Repr

/-- At ENTRY every register holds its start value (R335). -/
def Abs.init : Abs := ⟨[], [], [], some 0, false, false⟩

/-- Past an illegal bundle: no register is known (R335). -/
def Abs.nowhere : Abs := ⟨[], [], [], none, true, false⟩

/-- At a target that no path reaches: nothing is known on entry, and what its own code computes is (R335). -/
def Abs.target : Abs :=
  ⟨((List.range 64).map fun n => (Loc.x n, none)) ++ (List.range 16).map fun n => (Loc.p n, none), [],
    (Slot.all.filter (· != .c)).map fun sl => (sl, .any), none, false, true⟩

/-- Only scalar registers and predicates are followed by value: no others decide a branch or a count. -/
def Loc.followed : Loc → Bool
  | .x _ => true
  | .p _ => true
  | _ => false

/-- The rotating part of a file (R37). -/
def Loc.rotates : Loc → Bool
  | .x n => 32 ≤ n
  | .p n => 8 ≤ n
  | .v n => 512 ≤ n
  | _ => false

def Abs.look (a : Abs) (l : Loc) : Option Known :=
  match a.regs.find? fun e => e.1 == l with
  | some e => e.2
  | none => some ⟨0, 0, 0, 0⟩

/-- What a read of a place observes (R335). -/
def Abs.read (a : Abs) (l : Loc) : Option Known :=
  if a.dead || !l.followed || (l.rotates && a.rot.isNone) then none else a.look l

def Abs.put (a : Abs) (l : Loc) (v : Option Known) : Abs :=
  if !l.followed then a
  else if a.regs.any (fun e => e.1 == l) then
    { a with regs := a.regs.map fun e => if e.1 = l then (l, v) else e }
  else { a with regs := a.regs ++ [(l, v)] }

/-- A write comes about (R67). While another that a stall may have let through is pending, either may be the later. -/
def Abs.land (a : Abs) (f : AFlight) (rest : List AFlight) : Abs :=
  let clash (g : AFlight) : Bool := g.loc == f.loc && g.unsure
  if rest.any clash then
    { a.put f.loc none with fly := rest.map fun g => if clash g && !f.unsure then { g with val := none } else g }
  else { a.put f.loc f.val with fly := rest }

/-- The first write due, in the order of R67, and the others. -/
def firstLanding : List AFlight → Option (AFlight × List AFlight)
  | [] => none
  | f :: r =>
    match firstLanding r with
    | none => if f.left = 0 then some (f, r) else none
    | some (g, r') => if f.left = 0 ∧ f.slot ≤ g.slot then some (f, r) else some (g, f :: r')

def Abs.landDue : Nat → Abs → Abs
  | 0, a => a
  | n + 1, a => match firstLanding a.fly with | none => a | some (f, r) => (a.land f r).landDue n

/-- A cycle passes (R66). -/
def Abs.tick (a : Abs) : Abs :=
  let b : Abs := { a with fly := a.fly.map fun (f : AFlight) => { f with left := f.left - 1 } }
  b.landDue b.fly.length

/-- A stall of unknown length that counts as cycles: what is on its way may come about at any moment up to its own. -/
def Abs.stalled (a : Abs) : Abs :=
  { a.fly.foldl (fun a f => a.put f.loc none) a with fly := a.fly.map fun f => { f with unsure := true } }

/-- A write on its way on one path where two meet: kept if it is on its way on the other path too; kept, with its moment no
longer sure, if the other path has the same write earlier; otherwise what it brings is not known. -/
def Abs.meetFlight (own other : Abs) (f : AFlight) : AFlight :=
  let rivals (a : Abs) : List AFlight := a.fly.filter fun g => g.loc == f.loc
  let same (g : AFlight) : Bool := f.val.isSome && g.val == f.val
  if other.fly.contains f then f
  else if f.val.isSome && (rivals own).all (fun g => g.left ≤ f.left) &&
      (if (rivals other).isEmpty then other.look f.loc == f.val
       else (rivals other).any same && (rivals other).all fun g => g.left ≤ f.left && (same g || g.left < f.left)) then
    { f with unsure := true }
  else { f with val := none, unsure := f.unsure || (rivals other).any same }

/-- Two paths meet: known is what both know of the same write; code that is only laid down leads nowhere that a path reaches,
and a path through an illegal bundle does not count where another leads here (R335). -/
def Abs.join (a b : Abs) : Abs :=
  if b.laid && !a.laid then a
  else if a.laid && !b.laid then b
  else if b.dead then a
  else if a.dead then b
  else
    let same (l : Loc) : Option Known := if a.look l = b.look l then a.look l else none
    let stick (sl : Slot) : List (Slot × AStick) :=
      let x := a.sticky.find? fun e => e.1 == sl
      let y := b.sticky.find? fun e => e.1 == sl
      if x = y then x.toList else [(sl, .any)]
    { regs := a.regs.map (fun e => (e.1, same e.1)) ++
        (b.regs.filter fun e => !a.regs.any (fun f => f.1 == e.1) && same e.1 != some ⟨0, 0, 0, 0⟩).map fun e => (e.1, same e.1)
      fly := (a.fly.map (a.meetFlight b) ++ b.fly.map (b.meetFlight a)).eraseDups
      sticky := Slot.all.flatMap stick
      rot := if a.rot = b.rot then a.rot else none
      dead := false
      laid := a.laid }

/-! ## Operations (R335) -/

end Sys2Proof.Machine

namespace Sys2Proof
open Machine

/-- The binding-time mark of a short operation. -/
def Instr.bt (i : Instr) : Bool :=
  match i.slot with
  | some sl => !sl.isLong && bit ((encode i).headD 0) 29
  | none => false

/-- The uniform registers that an S-slot operation or a loop reads. -/
def Instr.uniforms (i : Instr) : List Nat :=
  let one (k : Bool) (f : Nat) : List Nat := if k then [f] else []
  let two (k : KSel) (f2 f3 : Nat) : List Nat := one k.k2 f2 ++ one k.k3 f3
  let kx (e : Option (KSel × Nat)) : KSel := KSel.ofExt (e.map Prod.fst)
  match i with
  | .add o | .sub o | .mul o | .mulhs o | .mulhn o | .divs o | .divn o | .rems o | .remn o | .and o | .or o | .xor o
  | .andn o | .shl o | .shrn o | .shrs o | .rotl o | .mins o | .maxs o | .minn o | .maxn o | .clz o | .ctz o | .popc o =>
    two (KSel.ofExt o.ext) o.f2 o.f3
  | .add128 o => two (KSel.ofExt o.ext) o.f2 o.f3 ++ two (KSel.ofExt o.ext) (o.f2 + 1) (o.f3 + 1)
  | .bext o | .bins o | .sel o => two o.k o.f2 o.f3
  | .addi o => one (kx o.ext).k2 o.f2
  | .cmpEq o | .cmpNe o | .cmpLts o | .cmpLes o | .cmpLtn o | .cmpLen o | .cmpAny o | .cmpNone o =>
    two (KSel.ofExt o.ext) o.f2 o.f3
  | .loop o => one (kx o.ext).k1 o.f1
  | .sloop o => one (kx o.ext).k1 o.f1
  | _ => []

/-- The latency class of an operation with a fixed latency (R69); none for the others. -/
def Instr.latClass (i : Instr) : Option Nat :=
  match i with
  | .mul _ | .mulhs _ | .mulhn _ => some 1
  | .divs _ | .divn _ | .rems _ | .remn _ => some 2
  | .lds _ | .vld _ | .vldx _ => some 4
  | .vfadd _ | .vfsub _ | .vfmul _ | .vfma _ | .vfnma _ | .vfmin _ | .vfmax _ | .vfabs _ | .vfneg _ | .vfcmp _ | .vfclass _
  | .vfscale _ => some 6
  | .vfrcp _ | .vfrsq _ | .vfexp2 _ | .vflog2 _ => some 7
  | .vcvt _ | .vpack _ | .vunpack _ | .vdqmx _ => some 8
  | .vqmx _ => some 9
  | .vradd _ | .vrfadd _ | .vrmax _ | .vrmin _ | .vrfmax _ => some 10
  | .vperm _ | .vbcast _ | .vlrot _ | .vshuf _ | .vcmpr _ | .vexpd _ | .viota _ => some 11
  | .vrng _ => some 12
  | .mdrain _ => some 13
  | .flpop _ => some 14
  | .mts _ => none
  | i =>
    match i.slot with
    | some .s => some 0
    | some .a => some 3
    | some .v0 => some 5
    | some .v1 => some 5
    | _ => (match i with | .call _ | .lix _ => some 0 | _ => none)

/-- Operations that may stall the hearth for cycles that count (R91, R240, R268, R277, R280, R296). -/
def Instr.stalls (i : Instr) : Bool :=
  match i with
  | .fence _ | .qfence _ | .vjoin _ | .aadd _ | .amin _ | .amax _ | .aand _ | .aor _ | .axor _ | .axchg _ | .acas _
  | .ald _ | .ast _ | .afadd _ | .waita _ | .notify _ | .dqpush _ | .dqpop _ | .dqsteal _ | .dcnt _ => true
  | .fuse _ | .rejoin _ | .sbar _ | .sqbar _ | .pair _ | .mswap _ => true
  | _ => false

/-- A write to ROT (R39): the analysis no longer knows rot. -/
def Instr.writesRot (i : Instr) : Bool := match i with | .mts o => o.i == 0x004 | _ => false

end Sys2Proof

namespace Sys2Proof.Machine

/-- The places that an operation in slot `sl` writes with its result, under the rotation of `c`. -/
def Core.writes (c : Core) (sl : Slot) (i : Instr) : List Loc :=
  let la : List Loc := if sl = .c then [] else [.latch (latchNo sl)]
  let vd (o : Long) : List Loc := if o.wbs then la else c.locV o.dst ++ la
  match i with
  | .add o | .sub o | .mul o | .mulhs o | .mulhn o | .divs o | .divn o | .rems o | .remn o | .and o | .or o | .xor o
  | .andn o | .shl o | .shrn o | .shrs o | .rotl o | .mins o | .maxs o | .minn o | .maxn o | .clz o | .ctz o | .popc o
  | .wid o | .rank o => c.locX o.f1 ++ la
  | .add128 o => c.locPair o.f1 ++ la
  | .bext o | .bins o | .sel o => c.locX o.f1 ++ la
  | .addi o => c.locX o.f1 ++ la
  | .movi o | .mfs o => c.locX o.f1 ++ la
  | .cmpEq o | .cmpNe o | .cmpLts o | .cmpLes o | .cmpLtn o | .cmpLen o | .cmpAny o | .cmpNone o => c.locP o.p1 ++ la
  | .pand o | .por o | .pxor o | .pnot o | .pmov o => c.locP o.p1 ++ la
  | .alea o => locA o.f1 ++ la
  | .aset o | .astep o | .aring o => locA o.f1 ++ la
  | .call _ => c.locX 31
  | .lix o => c.locX o.f1
  | .lds o => if o.wbs then la else c.locX o.dst ++ la
  | .mpop o => if o.wbs then la else c.locX o.dst ++ la
  | .waita o => c.locP o.dst
  | .vcmp o | .vfcmp o | .vfclass o | .mand o | .mor o | .mnot o => if o.wbs then la else locM o.dst ++ la
  | .vld o | .vldx o | .vadd o | .vsub o | .vadds o | .vsubs o | .vmul o | .vmulh o | .vmad o | .vabs o | .vneg o | .vmin o
  | .vmax o | .vand o | .vor o | .vxor o | .vshl o | .vshr o | .vsar o | .vsel o | .vclz o | .vpopc o | .vfadd o | .vfsub o
  | .vfmul o | .vfma o | .vfnma o | .vfmin o | .vfmax o | .vfabs o | .vfneg o | .vfscale o | .vfrcp o | .vfrsq o | .vfexp2 o
  | .vflog2 o | .vcvt o | .vqmx o | .vdqmx o | .vpack o | .vunpack o | .vradd o | .vrfadd o | .vrmax o | .vrmin o
  | .vrfmax o | .vperm o | .vbcast o | .vlrot o | .vshuf o | .vcmpr o | .vexpd o | .viota o | .vrng o | .mdrain o => vd o
  | .flpop o => c.locV (bits o.x 0 10) ++ la
  | _ => []

/-- A launch as the evaluator sees it: code, static mask, static values, adaptive mode. -/
structure Given where
  code : Code
  mask : Nat
  kvals : List W64
  deriving DecidableEq, Repr

/-- A hearth whose registers hold what is known. -/
def Given.core (g : Given) (a : Abs) : Core :=
  { Core.init with
    code := g.code
    loops := { Loops.init with rot := a.rot.getD 0 }
    regs :=
      { a.regs.foldl (fun r e =>
          match e with
          | (.x n, some v) => r.setX n (BitVec.ofNat 64 v.val)
          | (.p n, some v) => r.setP n (v.val == 1)
          | _ => r) Regs.init with
        k := (List.range 32).foldl (fun k i => if bit g.mask i then Store.set 0 k i ((g.kvals[i]?).getD 0) else k) [] } }

/-- The known truth of an operation's guard. -/
def Abs.guard (a : Abs) (c : Core) (i : Instr) : Option Bool :=
  if i.guardNo = 0 then some true
  else match c.locP i.guardNo with
    | [l] => (a.read l).map fun v => v.val == 1
    | _ => none

/-- The operation's sources and guard are known and static (R335). -/
def Given.sourcesKnown (g : Given) (a : Abs) (c : Core) (i : Instr) : Bool :=
  !a.dead && (c.reads i).all (fun l => (a.read l).isSome) && i.uniforms.all (bit g.mask)

/-- Every register that a write to a rotating name may reach when rot is unknown (R37). -/
def Abs.spread (a : Abs) (l : Loc) : List Loc :=
  if a.rot.isSome || !l.rotates then [l]
  else match l with
    | .x _ => (List.range 32).map fun i => .x (32 + i)
    | .p _ => (List.range 8).map fun i => .p (8 + i)
    | l => [l]

/-- The writes of an operation that issues at `site` (R335). -/
def Given.issue (g : Given) (a : Abs) (site : Site) (sl : Slot) (i : Instr) : List AFlight :=
  let c := g.core a
  let blank (left : Nat) (lock : Bool) : List AFlight :=
    ((c.writes sl i).flatMap a.spread).map fun l => ⟨l, left, none, sl.num, lock, false⟩
  if a.guard c i = some false then []
  else if sl = .s && i.bt && g.sourcesKnown a c i then
    match runOp .s i { State.reset with core := c } with
    | .ok t =>
      t.core.fly.flatMap fun f => f.locs.map fun l =>
        let v : Option Known := f.effs.findSome? fun e =>
          match e with
          | .x n w => if l = .x n then some ⟨w.toNat, site⟩ else none
          | .p n b => if l = .p n then some ⟨ofBool b, site⟩ else none
          | _ => none
        ⟨l, f.left, v, sl.num, f.lock, false⟩
    | _ => []
  else match i.latClass with
    | some cls => blank (c.latency cls) (c.locks cls)
    | none => blank 1 false

/-- An operation may be held up by an interlocked result (R91): surely, perhaps, or not. -/
def Given.held (g : Given) (a : Abs) (i : Instr) : Option Bool :=
  let c := g.core a
  let hit (f : AFlight) : Bool :=
    f.lock && f.left != 0 && ((c.reads i).contains f.loc ||
      (a.rot.isNone && f.loc.rotates && (c.reads i).any Loc.rotates))
  if !a.fly.any hit then some false
  else if a.rot.isNone || a.fly.any (fun f => hit f && f.unsure) then none
  else some true

/-! ## Bundles -/

/-- The operations outside the C slot of one execution of a bundle (R62): none stands for a record that is not known. -/
def Abs.acts (a : Abs) (b : List (Slot × Instr)) (hold first : Bool) : List (Slot × Option Instr) :=
  (Slot.all.filter (· != .c)).filterMap fun sl =>
    let again : Option (Slot × Option Instr) := (a.sticky.find? fun e => e.1 == sl).map fun e =>
      match e.2 with | .op i => (sl, some i) | .any => (sl, none)
    match b.find? fun o => o.1 == sl with
    | some o => if first || reissuable o.2 then some (sl, some o.2) else none
    | none => if hold then none else again

/-- The records after the first execution (R62). -/
def Abs.arm (a : Abs) (b : List (Slot × Instr)) : Abs :=
  b.foldl (fun a o =>
    if o.1 = .c then a
    else
      { a with sticky := a.sticky.filter (fun e => e.1 != o.1) ++
          (if reissuable o.2 then [(o.1, AStick.op o.2)] else []) }) a

/-- Wait for interlocked results: the state at issue, or one in which a stall may have happened (R91). -/
def Given.unlock (g : Given) (acts : List Instr) : Nat → Abs → Abs
  | 0, a => a.stalled
  | n + 1, a =>
    if acts.any (fun i => g.held a i == none) then a.stalled
    else if acts.any (fun i => g.held a i == some true) then g.unlock acts n a.tick
    else a

/-- Any register may be written: a record that is not known issues. -/
def Abs.forget (a : Abs) : Abs :=
  let ls := (List.range 64).map Loc.x ++ (List.range 16).map Loc.p
  { ls.foldl (fun a l => a.put l none) a with
    fly := a.fly ++ ls.map fun l => ⟨l, 18, none, 7, false, true⟩ }

/-- One execution of a bundle: the state at its issue and the state after it. -/
def Given.execution (g : Given) (pc n : Nat) (b : List (Slot × Instr)) (hold last : Bool) (a : Abs) : Abs × Abs :=
  let acts := a.acts b hold (n == 0)
  let cop := if last then (b.find? fun o => o.1 == Slot.c).map Prod.snd else none
  let ops := acts.filterMap Prod.snd ++ cop.toList
  let a0 := g.unlock ops 64 a
  let new := acts.flatMap (fun o => match o.2 with | some i => g.issue a0 (pc, o.1.num + 1, n) o.1 i | none => []) ++
    (match cop with | some i => g.issue a0 (pc, 1, n) .c i | none => [])
  let a1 := { a0 with fly := a0.fly ++ new }
  let a2 := if acts.any (fun o => o.2.isNone) then a1.forget else a1
  let a3 := if n = 0 then a2.arm b else a2
  let a4 := if ops.any Instr.writesRot then { a3 with rot := none } else a3
  let a5 := a4.tick
  (a0, if ops.any Instr.stalls then a5.stalled else a5)

/-- A bundle's executions from the `n`th on, `left` of them: the state at the issue of the last, and the state after it. -/
def Given.executions (g : Given) (pc : Nat) (b : List (Slot × Instr)) (hold : Bool) : Nat → Nat → Abs → Abs × Abs
  | 0, n, a => g.execution pc n b hold true a
  | left + 1, n, a => g.executions pc b hold left (n + 1) (g.execution pc n b hold false a).2

/-! ## Places and decisions -/

/-- A loop of the original stack: kept, with a number for its copy in the residual, or unrolled, with its count and
iteration; `src` is the PC of its LOOP. -/
inductive LFrame where
  | kept (src start stop : Nat) (piped : Bool) (inst : Nat)
  | unrolled (src start stop n iter : Nat)
  deriving DecidableEq, Repr

def LFrame.start : LFrame → Nat
  | .kept _ a _ _ _ => a
  | .unrolled _ a _ _ _ => a
def LFrame.stop : LFrame → Nat
  | .kept _ _ b _ _ => b
  | .unrolled _ _ b _ _ => b
def LFrame.src : LFrame → Nat
  | .kept s _ _ _ _ => s
  | .unrolled s _ _ _ _ => s
def LFrame.isKept : LFrame → Bool
  | .kept .. => true
  | .unrolled .. => false
def LFrame.plain : LFrame → LFrame
  | .kept s a b p _ => .kept s a b p 0
  | f => f

/-- A place of the residual: the original PC, a resolved transfer on its way with its target, delay bundles left and
source, and the loop stack. -/
structure Place where
  pc : Nat
  moving : Option (Nat × Nat × Nat)
  stack : List LFrame
  deriving DecidableEq, Repr

def Place.plain (p : Place) : Place := { p with stack := p.stack.map LFrame.plain }

/-- A place with a kept transfer on its way: its target and delay bundles left. -/
structure Node where
  at_ : Place
  pend : Option (Nat × Nat)
  deriving DecidableEq, Repr

/-- What becomes of the bundle at a place. -/
inductive Verdict where
  /-- Sequential; `keep` is false when its C-slot operation is removed. -/
  | seq (keep : Bool)
  /-- A removed taken branch. -/
  | goto (t : Nat)
  /-- A removed LOOP of count 0, or of count n. -/
  | skip (stop : Nat)
  | unroll (start stop n : Nat)
  /-- A NEXT of an unrolled loop. -/
  | again
  /-- A kept branch to `t`: whether it may be taken and may fall through. -/
  | branch (t : Nat) (takes falls : Bool)
  /-- A kept LOOP or SLOOP: whether it may push, skip or do nothing. -/
  | push (start stop : Nat) (piped pushes skips falls : Bool)
  /-- A kept NEXT, and a LEXIT. -/
  | next (falls : Bool)
  | lexit (falls : Bool)
  /-- The path ends here, unless it falls through. -/
  | stop (falls : Bool)
  /-- The bundle raises cause 0x01. -/
  | illegal
  /-- No residual: R334. -/
  | decline
  /-- The operation at this PC may not be removed. -/
  | force (pc : Nat)
  deriving DecidableEq, Repr

/-- The C-slot operation is removed. -/
def Verdict.removes : Verdict → Bool
  | .seq keep => !keep
  | .goto _ => true
  | .skip _ => true
  | .unroll .. => true
  | .again => true
  | _ => false

/-- What may not be resolved: operations by PC, and places. -/
structure Forced where
  pcs : List Nat
  places : List Place
  deriving DecidableEq, Repr

/-- The named operations of a bundle, when all of them are legal (R49, R75, R118). -/
def Bundle.legal (b : Bundle) : Option (List (Slot × Instr)) :=
  if b.illegal false 0 = none then some (b.named.map fun o => (o.1, o.2.2)) else none

def copOf (b : List (Slot × Instr)) : Option Instr :=
  (b.find? fun o => o.1 == Slot.c).bind fun o => if o.2 = .cNop then none else some o.2

/-- The bundle at an offset holds a C-slot operation other than NOP, by its encoding. -/
def Code.hasCop (k : Code) (pc : Nat) : Bool :=
  match k.bundleAt pc with
  | some b => b.ops.any fun o => o.1 == Slot.c && bits (o.2.2.headD 0) 18 7 != 0
  | none => false

/-- The bundles from `pc` to `stop`, at most `n` of them. -/
def Code.bodyOf (k : Code) (stop : Nat) : Nat → Nat → Option (List Nat)
  | 0, _ => none
  | n + 1, pc =>
    if !k.bundleStart pc then none
    else if pc = stop then some [pc]
    else (k.bodyOf stop n (k.nextBundle pc)).map (pc :: ·)

/-- A body that may be unrolled: at most 256 bundles without LIX, MFS, MTS or LEXIT (R335). -/
def Code.plainBody (k : Code) (start stop : Nat) : Bool :=
  match k.bodyOf stop 256 start with
  | none => false
  | some l => l.all fun pc =>
    match k.bundleAt pc with
    | none => false
    | some b => b.named.all fun o => match o.2.2 with | .lix _ | .mfs _ | .mts _ | .lexit _ => false | _ => true

/-- LOOP's END is the start of a well-formed bundle and not before START (R101). -/
def Code.goodEnd (k : Code) (start stop : Nat) : Bool := k.bundleStart stop && start ≤ stop

/-- Decide on a LOOP (`piped` false) or SLOOP with offset `i` at a place, of guard and count as known (R101, R335). A skip to
where no bundle begins stays, since its cause 0x02 is LOOP's own (R338). -/
def Given.decideLoop (g : Given) (fc : Forced) (nd : Node) (bt piped : Bool) (i : Nat) (guard : Option Bool) (n : Option Nat) :
    Verdict :=
  let k := g.code
  let p := nd.at_
  let stop := p.pc + 4 * i
  let start := k.nextBundle p.pc
  let falls := guard != some true
  let crossed :=
    (match p.stack with | f :: _ => start < f.start || f.stop ≤ stop | [] => false) ||
    (piped && p.stack.any fun f => match f with | .kept _ _ _ pp _ => pp | _ => false)
  let huge := match n with | some v => (if piped then 2 ^ 32 + 1 else 2 ^ 32) ≤ v | none => false
  let full := p.stack.length = 6
  if guard = some false || !k.goodEnd start stop then .push start stop piped false false falls
  else match (if crossed || full then p.stack.find? fun f => !f.isKept else none) with
  | some f => .force f.src
  | none =>
    let free := bt && !piped && !falls && !crossed && !full && !fc.pcs.contains p.pc && !fc.places.contains p
    if crossed || huge then .push start stop piped false false falls
    else match n with
      | some 0 => if free && k.isHeader (k.nextBundle stop) then .skip stop else .push start stop piped false true falls
      | some v =>
        if free && v ≤ 64 && k.plainBody start stop then .unroll start stop v
        else .push start stop piped (!full) false falls
      | none => .push start stop piped (!full) true falls

/-- Decide on a branch to `t` (R96, R335): it is removed only when its guard and predicate are both known. -/
def Given.decideBranch (g : Given) (fc : Forced) (nd : Node) (bt resolved : Bool) (t : Nat) (taken : Option Bool) : Verdict :=
  let k := g.code
  let p := nd.at_
  let n1 := k.nextBundle p.pc
  let free := bt && resolved && !fc.pcs.contains p.pc && !fc.places.contains p
  match taken with
  | some false => if free then .seq false else .branch t false true
  | some true =>
    if free && k.isHeader t && !k.hasCop n1 && !k.hasCop (k.nextBundle n1) then .goto t else .branch t true false
  | none => .branch t true true

/-- Decide on the bundle at a node, whose state at the issue of its last execution is `a` (R335). -/
def Given.decide (g : Given) (fc : Forced) (nd : Node) (b : List (Slot × Instr)) (a : Abs) : Verdict :=
  let c := g.core a
  let p := nd.at_
  match p.stack.find? fun f => !f.isKept && (p.pc < f.start || f.stop < p.pc) with
  | some f => .force f.src
  | none =>
    match copOf b with
    | none => .seq true
    | some i =>
      let guard := a.guard c i
      let free := i.bt
      let maybe := guard != some true
      match p.moving with
      | some m => .force m.2.2
      | none =>
        if nd.pend.isSome then (if free && !fc.pcs.contains p.pc then .force p.pc else .stop false)
        else if guard = some false && (match i with | .next _ | .lexit _ | .halt _ => p.stack.all LFrame.isKept | _ => false) then
          .seq true
        else match i with
          | .bri _ | .call _ | .ret _ => .decline
          | .br o => g.decideBranch fc nd free guard.isSome (relTarget p.pc o.simm) guard
          | .brp o =>
            let pv : Option Bool := match c.locP o.p1 with
              | [] => some true
              | l :: _ => (a.read l).map fun v => v.val == 1
            let taken : Option Bool := match guard, pv with
              | some false, _ => some false
              | _, some true => some false
              | some true, some false => some true
              | _, _ => none
            g.decideBranch fc nd free (guard.isSome && pv.isSome) (relTarget p.pc o.simm) taken
          | .loop o =>
            g.decideLoop fc nd free false o.imm guard
              (if g.sourcesKnown a c i then some (o.src1 c).toNat else none)
          | .sloop o =>
            g.decideLoop fc nd free true o.imm guard
              (if g.sourcesKnown a c i then some (o.src1 c).toNat else none)
          | .next _ =>
            match p.stack with
            | [] => .stop maybe
            | .unrolled src _ stop _ _ :: _ => if p.pc = stop ∧ guard = some true then .again else .force src
            | .kept _ _ stop _ _ :: _ => if p.pc = stop then .next maybe else .stop maybe
          | .lexit _ =>
            match p.stack with
            | [] => .stop maybe
            | .unrolled src _ _ _ _ :: _ => .force src
            | .kept .. :: _ => .lexit maybe
          | .halt _ => .stop maybe
          | .eret _ => .stop false
          | _ => .seq true

/-- The sequential successor: the next bundle, or the target of a transfer whose delay bundles are done (R70, R71). -/
def Code.onward (k : Code) (nd : Node) : Node :=
  let nx := k.nextBundle nd.at_.pc
  let st := nd.at_.stack
  match nd.pend, nd.at_.moving with
  | some (t, l), _ => if l ≤ 1 then ⟨⟨t, none, st⟩, none⟩ else ⟨⟨nx, none, st⟩, some (t, l - 1)⟩
  | none, some (t, l, src) => if l ≤ 1 then ⟨⟨t, none, st⟩, none⟩ else ⟨⟨nx, some (t, l - 1, src), st⟩, none⟩
  | none, none => ⟨⟨nx, none, st⟩, none⟩

/-- An edge of the residual: the node it leads to, whether it crosses an iteration boundary, and whether it only asks
that the target's code be laid down. -/
structure Edge where
  dest : Node
  boundary : Bool
  laid : Bool
  deriving DecidableEq, Repr

/-- The edges from a node. `inst` numbers the copy of a loop that is opened here. -/
def Code.edges (k : Code) (nd : Node) (v : Verdict) (inst : Nat) : List Edge :=
  let p := nd.at_
  let nx := k.nextBundle p.pc
  let on : Edge := ⟨k.onward nd, false, false⟩
  let go (pc : Nat) (st : List LFrame) : Edge := ⟨⟨⟨pc, none, st⟩, none⟩, false, false⟩
  match v with
  | .seq _ => [on]
  | .illegal => [on]
  | .goto t => [⟨⟨⟨nx, some (t, 2, p.pc), p.stack⟩, none⟩, false, false⟩]
  | .skip stop => [go (k.nextBundle stop) p.stack]
  | .unroll start stop n => [go start (.unrolled p.pc start stop n 0 :: p.stack)]
  | .again =>
    (match p.stack with
     | .unrolled src start stop n iter :: r =>
       if iter + 1 < n then [go start (.unrolled src start stop n (iter + 1) :: r)] else [go nx r]
     | _ => [])
  | .branch t takes falls =>
    (if takes then [⟨⟨⟨nx, none, p.stack⟩, some (t, 2)⟩, false, false⟩] else []) ++ (if falls then [go nx p.stack] else []) ++
      [⟨⟨⟨t, none, p.stack⟩, none⟩, false, true⟩]
  | .push start stop piped pushes skips falls =>
    let f := LFrame.kept p.pc start stop piped inst
    (if pushes || skips then [⟨⟨⟨start, none, f :: p.stack⟩, none⟩, false, !pushes⟩] else []) ++
      (if skips then [go (k.nextBundle stop) p.stack] else []) ++ (if falls then [go nx p.stack] else []) ++
      (if k.goodEnd start stop then [⟨⟨⟨stop, none, if pushes || skips then f :: p.stack else p.stack⟩, none⟩, false, true⟩]
       else [])
  | .next falls =>
    (match p.stack with
     | f :: r => [⟨⟨⟨f.start, none, p.stack⟩, none⟩, true, false⟩, ⟨⟨⟨nx, none, r⟩, none⟩, true, false⟩] ++
         (if falls then [go nx p.stack] else [])
     | [] => [])
  | .lexit falls =>
    (match p.stack with
     | f :: r => go (k.nextBundle f.stop) r :: (if falls then [go nx p.stack] else [])
     | [] => [])
  | .stop falls => if falls then [on] else []
  | .decline => []
  | .force _ => []

/-- What the end of the bundle does to what is known: a pipelined loop opens with rot 0 and its stage predicates, and its
NEXT rotates and writes p8 (R36, R38); an illegal bundle ends all knowledge. -/
def Abs.after (a : Abs) (nd : Node) (v : Verdict) (e : Edge) (group : Bool) : Abs :=
  let preds (a : Abs) : Abs := (List.range 8).foldl (fun a i => a.put (.p (8 + i)) none) a
  let a := if group then { a with sticky := [] } else a
  if e.laid then Abs.target
  else match v with
    | .illegal => { Abs.nowhere with laid := a.laid }
    | .push _ _ true _ _ _ => if e.dest.at_.stack.length = nd.at_.stack.length then a else preds { a with rot := some 0 }
    | .next _ =>
      (match nd.at_.stack with
       | .kept _ _ _ true _ :: _ => if e.boundary then preds { a with rot := a.rot.map fun r => (r + 1) % 512 } else a
       | _ => a)
    | _ => a

/-! ## The analysis (R334, R335) -/

/-- The analysis under way: what is known on entry to each node, the decisions, the nodes to visit, the visits made and
what has been forced. -/
structure Analysis where
  known : List (Node × Abs)
  verdicts : List (Node × Verdict)
  work : List Node
  steps : Nat
  forced : Forced
  deriving DecidableEq, Repr

def Given.entry (g : Given) : Node := ⟨⟨g.code.entry, none, []⟩, none⟩

def Given.fresh (g : Given) (steps : Nat) (fc : Forced) : Analysis :=
  ⟨[(g.entry, Abs.init)], [], [g.entry], steps, fc⟩

/-- A state reaches a node. -/
def Analysis.reach (z : Analysis) (n : Node) (a : Abs) : Analysis :=
  let again (z : Analysis) : Analysis := if z.work.contains n then z else { z with work := z.work ++ [n] }
  match z.known.find? fun e => e.1 == n with
  | none => again { z with known := z.known ++ [(n, a)] }
  | some e =>
    let m := e.2.join a
    if m = e.2 then z else again { z with known := z.known.map fun x => if x.1 = n then (n, m) else x }

/-- The next node to visit, and the others: one that a path reaches before one that is only laid down. -/
def Analysis.next (z : Analysis) : Option (Node × List Node) :=
  let reached (n : Node) : Bool := z.known.any fun e => e.1 == n && !e.2.laid
  match (z.work.find? reached).or z.work.head? with
  | some n => some (n, z.work.erase n)
  | none => none

def Analysis.verdict (z : Analysis) (n : Node) : Option Verdict :=
  (z.verdicts.find? fun e => e.1 == n).map Prod.snd

/-- What a visit comes to. -/
inductive Visit where
  | on (z : Analysis)
  | again (f : Forced)
  | decline
  deriving DecidableEq, Repr

/-- Visit a node: run its bundle on what is known, decide, and carry the results on. A node past the code's end, or at a
syllable that begins no bundle, has no bundle to visit: fetch raises its cause there (R48). A header whose bundle is illegal
under R47 makes the evaluator decline (R334). -/
def Given.visit (g : Given) (z : Analysis) (n : Node) : Visit :=
  let k := g.code
  let pc := n.at_.pc
  match z.known.find? fun e => e.1 == n with
  | none => .on z
  | some e =>
    if k.stop ≤ pc || !k.isHeader pc then .on z
    else match k.bundleAt pc with
    | none => .decline
    | some b =>
      let legal := b.legal
      let ops := legal.getD []
      let r := g.executions pc ops b.hdr.hold b.hdr.rep 0 e.2
      let v := if legal.isNone then
          (match n.at_.stack.find? fun f => !f.isKept && (pc < f.start || f.stop < pc) with
           | some f => Verdict.force f.src
           | none => .illegal)
        else g.decide z.forced n ops r.1
      let group := ops.any fun o => match o.2 with | .fuse _ | .decouple _ | .rejoin _ => true | _ => false
      match v with
      | .decline => .decline
      | .force p => .again { z.forced with pcs := z.forced.pcs ++ [p] }
      | v =>
        if (z.verdict n).any (fun w => w != v && w.removes) then .again { z.forced with places := z.forced.places ++ [n.at_] }
        else
          let z1 := { z with verdicts := z.verdicts.filter (fun e => e.1 != n) ++ [(n, v)] }
          .on ((k.edges n v 0).foldl (fun z x => z.reach x.dest (r.2.after n v x group)) z1)

end Sys2Proof.Machine
end

