-- ==== Sys2Proof/Machine/Residual.lean ====
section
/-! DEFINITION. The residual code of the partial evaluator: laying out the places that the analysis found, deleting and
padding empty bundles, relocating transfers, and the origin map (spec/14_die_dispatch_specialisation.md R334 to R339;
spec/02_bundle_encoding.md R44 to R47, R77). -/
namespace Sys2Proof.Machine

/-! ## Laying out (R335) -/

/-- A bundle of the residual: its place, header syllable, repetitions (REP), operations, and a kept transfer or LOOP with
the place that it names (none: no bundle lies there). -/
structure Item where
  at_ : Place
  header : Nat
  rep : Nat
  ops : List (Slot × List Nat)
  fix : Option (Instr × Option Place)
  deriving DecidableEq, Repr

/-- The bundle names no slot and has HOLD (R335). -/
def Item.empty (i : Item) : Bool := i.ops.isEmpty && bit i.header 16

/-- The named operation of a slot. -/
def Item.op (i : Item) (sl : Slot) : Option Instr := (i.ops.find? fun o => o.1 == sl).bind fun o => decode sl o.2

/-- A syllable that begins no bundle, where a path comes to one: fetching it raises the cause that it raises in the original
(R47, R48). -/
def Item.hole (p : Place) : Item := ⟨p, 0, 0, [], none⟩

/-- The bundle at a place under a verdict (R335). -/
def Code.item (k : Code) (p : Place) (v : Verdict) (inst : Nat) : Item :=
  match k.syl p.pc, k.bundleAt p.pc with
  | some h, some b =>
    let ops := b.ops.map fun o => (o.1, o.2.2)
    let cop := (ops.find? fun o => o.1 == Slot.c).bind fun o => decode .c o.2
    let aim : Option (Option Place) :=
      match v with
      | .branch t _ _ => some (if k.isHeader t then some ⟨t, none, p.stack⟩ else none)
      | .push start stop piped pushes skips _ =>
        some (if k.goodEnd start stop then
            some ⟨stop, none, if pushes || skips then .kept p.pc start stop piped inst :: p.stack else p.stack⟩
          else none)
      | _ => none
    if v.removes && (ops.any fun o => o.1 == Slot.c) then
      ⟨p, h - 2 ^ 30, b.hdr.rep, ops.filter fun o => o.1 != Slot.c, none⟩
    else ⟨p, h, b.hdr.rep, ops, cop.bind fun i => aim.map (i, ·)⟩
  | _, _ => .hole p

/-- The layout under way: bundles laid, latest first, places to be laid, and the next copy of a loop. -/
structure Layout where
  items : List Item
  todo : List Place
  inst : Nat
  deriving DecidableEq, Repr

/-- What laying comes to: a layout, more bundles than R334 allows, or code that cannot stand in one line. -/
inductive Laying where
  | done (l : Layout)
  | over (l : Layout)
  | stuck
  deriving DecidableEq, Repr

/-- The verdicts of the nodes at a place. -/
def Analysis.at_ (z : Analysis) (p : Place) : List (Node × Verdict) :=
  (z.verdicts.filter fun e => e.1.at_ == p.plain).map fun e => ({ e.1 with at_ := p }, e.2)

/-- The place that physically follows: the one to which every sequential path leads. A delay bundle of a kept transfer
that only leads to the target has none. -/
def physical (k : Code) (inst : Nat) (l : List (Node × Verdict)) : List Place :=
  let one (e : Node × Verdict) : List Place :=
    let p := e.1.at_
    let nx := k.nextBundle p.pc
    match e.2 with
    | .branch _ _ _ => [⟨nx, none, p.stack⟩]
    | .push start stop piped pushes skips falls =>
      (if pushes || skips then [⟨start, none, .kept p.pc start stop piped inst :: p.stack⟩] else []) ++
        (if falls then [⟨nx, none, p.stack⟩] else [])
    | .next falls => ⟨nx, none, p.stack.drop 1⟩ :: (if falls then [⟨nx, none, p.stack⟩] else [])
    | .lexit falls => if falls then [⟨nx, none, p.stack⟩] else []
    | v =>
      (match e.1.pend with
       | some (_, left) => if left ≤ 1 then [] else ((k.edges e.1 v inst).filter fun x => !x.laid).map fun x => x.dest.at_
       | none => ((k.edges e.1 v inst).filter fun x => !x.laid).map fun x => x.dest.at_)
  (l.flatMap one).eraseDups

/-- The next place to lay: deepest in kept loops, then lowest in the original code. -/
def pickPlace : List Place → Option Place
  | [] => none
  | p :: r =>
    let depth (q : Place) : Nat := (q.stack.filter LFrame.isKept).length
    match pickPlace r with
    | none => some p
    | some q => if depth q < depth p ∨ (depth q = depth p ∧ p.pc ≤ q.pc) then some p else some q

/-- Lay places from `p` on, and the places that kept transfers name, each path to its end. -/
def lay (k : Code) (z : Analysis) (limit : Nat) : Nat → Layout → Place → Laying
  | 0, y, _ => .over y
  | n + 1, y, p =>
    let more (y : Layout) : Laying :=
      match pickPlace (y.todo.filter fun q => !(y.items.any fun i => i.at_ == q)) with
      | none => .done y
      | some q => lay k z limit n y q
    if k.stop ≤ p.pc then
      (if (y.todo.all fun q => y.items.any fun i => i.at_ == q) then .done y else .stuck)
    else if !k.isHeader p.pc then more { y with items := .hole p :: y.items }
    else
      let vs := z.at_ p
      match vs.filter (fun e => e.1.pend.isNone) ++ vs with
      | [] => .stuck
      | (_, v) :: _ =>
        if (y.items.any fun i => i.at_ == p) && p.stack.any LFrame.isKept then .stuck
        else
          let it := k.item p v y.inst
          let y1 : Layout := ⟨it :: y.items, y.todo ++ (it.fix.bind Prod.snd).toList, y.inst + 1⟩
          if limit < (y1.items.filter fun i => !i.empty).length then .over y1
          else match physical k y.inst vs with
            | [q] => lay k z limit n y1 q
            | [] => more y1
            | _ => .stuck

/-- The layout that keeps the original order, each visited bundle once, when nothing is removed. -/
def Analysis.identity (k : Code) (z : Analysis) : List Item :=
  let flat (p : Place) : Place := ⟨p.pc, none, []⟩
  let pcs := z.known.map fun e => e.1.at_.pc
  (((List.range k.words.length).map fun i => k.off + 4 * i).filter pcs.contains).map fun pc =>
    match z.verdicts.find? fun e => e.1.at_.pc == pc && e.1.pend.isNone with
    | some e =>
      let it := k.item e.1.at_ e.2 0
      { it with at_ := flat it.at_, fix := it.fix.map fun f => (f.1, f.2.map flat) }
    | none => k.item (flat ⟨pc, none, []⟩) (.seq true) 0

/-- The index of the first bundle at a place. -/
def placeIndex (p : Place) : List Item → Option Nat
  | [] => none
  | i :: r => if i.at_ = p then some 0 else (placeIndex p r).map (· + 1)

/-- A kept LOOP's END lies after it, closes within the enclosing kept loop, and is followed by the place at which the loop
is left (R101, R36). -/
def loopsSound (k : Code) (items : List Item) (z : Analysis) : Bool :=
  let enders (p : Place) : Option Nat := placeIndex p items
  (List.range items.length).all fun n =>
    match items[n]? with
    | none => true
    | some it =>
      match it.fix with
      | some (_, some t) =>
        (match t.stack with
         | f :: r =>
           if t.stack.length = it.at_.stack.length then true
           else match enders t with
             | none => false
             | some e =>
               n < e &&
               (match r.find? LFrame.isKept with
                | none => true
                | some g => (match placeIndex ⟨g.stop, none, r.dropWhile (fun x => !x.isKept)⟩ items with
                             | some o => e < o
                             | none => false)) &&
               (match items[e + 1]? with
                | some nx => nx.at_ == ⟨k.nextBundle f.stop, none, r⟩
                | none => k.stop ≤ k.nextBundle f.stop) &&
               (z.at_ t).all fun v => match v.2 with | .next false => true | _ => false
         | [] => true)
      | _ => true

/-! ## Iterations (R335) -/

/-- The cycles of a place in a residual (R335): its bundle's REP + 1, or none when the bundle is deleted. -/
def weightIn (ws : List (Place × Nat)) (p : Place) : Nat := ws.foldl (fun w e => if e.1 = p then max w e.2 else w) 0

/-- The longest stretch, in cycles, from a node to the next iteration boundary; none when it does not end. -/
def stretch (k : Code) (z : Analysis) (weight : Place → Nat) : Nat → List Node → List (Node × Option Nat) → Node → Option Nat × List (Node × Option Nat)
  | 0, _, memo, _ => (none, memo)
  | n + 1, path, memo, nd =>
    match memo.find? fun e => e.1 == nd with
    | some e => (e.2, memo)
    | none =>
      if path.contains nd then (none, memo)
      else
        let outs := match z.verdict nd with
          | some v => ((k.edges nd v 0).filter fun (e : Edge) => !e.boundary && !e.laid).map Edge.dest
          | none => []
        let r := outs.foldl (fun (acc : Option Nat × List (Node × Option Nat)) o =>
          match acc.1 with
          | none => acc
          | some best =>
            let q := stretch k z weight n (nd :: path) acc.2 o
            (q.1.map (max best), q.2)) (some 0, memo)
        let total := r.1.map (· + weight nd.at_)
        (total, r.2 ++ [(nd, total)])

/-- The nodes of a stretch. -/
def stretchNodes (k : Code) (z : Analysis) : Nat → List Node → List Node → List Node
  | 0, _, seen => seen
  | _ + 1, [], seen => seen
  | n + 1, nd :: r, seen =>
    if seen.contains nd then stretchNodes k z n r seen
    else
      let outs := match z.verdict nd with
        | some v => ((k.edges nd v 0).filter fun (e : Edge) => !e.boundary && !e.laid).map Edge.dest
        | none => []
      stretchNodes k z n (outs ++ r) (nd :: seen)

/-- The unrolled loop to give up because a stretch that it lengthens would exceed MAXITER, as the residual's bundles count:
the last in the code (R335). -/
def tooLong (k : Code) (z : Analysis) (entry : Node) (items : List Item) : Option Nat :=
  let nodes := z.verdicts.map Prod.fst
  let heads := entry :: z.verdicts.flatMap fun e => ((k.edges e.1 e.2 0).filter (·.boundary)).map Edge.dest
  let size := nodes.length + 1
  let unrolledIn (l : List Node) : List Nat :=
    l.flatMap fun nd => (nd.at_.stack.filter fun f => !f.isKept).map LFrame.src
  if (unrolledIn nodes).isEmpty then none
  else
    let weight := weightIn (items.map fun i => (i.at_.plain, i.rep + 1))
    let long := (heads.eraseDups.foldl (fun (acc : List Node × List (Node × Option Nat)) h =>
      let q := stretch k z weight size [] acc.2 h
      (if (match q.1 with | none => true | some n => k.maxIter < n) then acc.1 ++ [h] else acc.1, q.2)) ([], [])).1
    (long.flatMap fun h => unrolledIn (stretchNodes k z (size * size + size) [h] [])).max?

/-! ## Deleting empty bundles (R336, R337) -/

/-- What a read may come too early for: a register's result, the landing of a stream register, a flue, a plane fill or a
window row, or FLAGS: bits that a result raises, which have no order among themselves, or all of it, as MFS and MTS see it (R25,
R26). -/
inductive Thing where
  | reg (l : Loc)
  | queue (n : Nat)
  | flue
  | fill
  | window
  | flags (whole : Bool)
  deriving DecidableEq, Repr

/-- A result on its way: what it is of, its slot's number, the cycles from issue until it is there, the latency that its
code declares (R337), whether reads wait for it (R91), whether it lands (a read before the cycle is premature), and how many
elements more land in the cycles after, one each, which as many more reads take (R163, R165). -/
structure Make where
  of_ : Thing
  slot : Nat
  lat : Nat
  decl : Nat
  lock : Bool
  lands : Bool
  more : Nat
  deriving DecidableEq, Repr

/-- The longest that a row of window `w` may take after an operation of the residual asked for it, and the window's D: a slot lies
in one bank and the ring in the scratchpad (R245, R246). -/
def windowReach (items : List Item) (w : Nat) : Nat × Nat :=
  items.foldl (fun r i =>
    match i.op .f with
    | some (.wopen o) =>
      if bits o.x 0 2 = w then (max r.1 (bits o.x 13 10 + min (2048 * bits o.x 2 11) 65536), max r.2 (bits o.x 13 10)) else r
    | _ => r) (0, 0)

/-- Operations whose result may raise bits of FLAGS: the floating-point and converting ones (R25, R149). -/
def raises (i : Instr) : Bool :=
  match i with
  | .vradd _ | .vrmax _ | .vrmin _ | .vpack _ | .vunpack _ => false
  | i => match i.latClass with | some n => [6, 7, 8, 9, 10, 13, 14].contains n | none => false

/-- What an operation of slot `sl` brings about. -/
def Core.makes (c : Core) (reach : Nat → Nat × Nat) (sl : Slot) (i : Instr) : List Make :=
  let land (t : Thing) (lat decl : Nat) : Make := ⟨t, sl.num, lat, decl, false, true, 0⟩
  let flag (whole : Bool) (lat decl : Nat) : Make := ⟨.flags whole, sl.num, lat, decl, false, false, 0⟩
  let regs : List Make :=
    match i.latClass with
    | some cls =>
      ((c.writes sl i).map fun l => ⟨.reg l, sl.num, c.latency cls, c.code.latOf cls, c.locks cls, false, 0⟩) ++
        (if raises i then [flag false (c.latency cls) (c.code.latOf cls)] else [])
    | none => (c.writes sl i).map fun l => ⟨.reg l, sl.num, 1, 1, false, false, 0⟩
  let steps : List Make := ((addrOperands i).flatMap locA).map fun l => ⟨.reg l, 0, 1, 1, false, false, 0⟩
  regs ++ steps ++
    (match i with
     | .mts o => if o.i = 0 then [flag true 1 1] else []
     | .mpush _ => [flag false 1 1]
     | .macc _ | .mtern _ => [flag false 4 4]
     | .tld o => [{ land (.queue o.dst) (bits o.sc 0 8 * 4) (bits o.sc 0 8 * 4) with more := o.ty }]
     | .aadd o | .amin o | .amax o | .aand o | .aor o | .axor o | .axchg o | .acas o | .ald o | .ast o | .afadd o
     | .notify o | .dqpush o | .dqpop o | .dqsteal o | .dcnt o =>
       if bit o.sc 10 then [land (.queue o.dst) (bits o.sc 0 8 * 4) (bits o.sc 0 8 * 4)] else []
     | .flpush _ => [land .flue 1 1]
     | .mdrain o => if bit o.sc 4 then [land .flue (c.latency 13) (c.code.latOf 13)] else []
     | .tcopy _ => [land .flue 1031 0, flag false 1031 0]
     | .mldb o => [land .fill o.sb o.sb, flag false o.sb o.sb]
     | .mtfetch o => [land .fill (bits o.sc 0 8 * 4) (bits o.sc 0 8 * 4), flag false (bits o.sc 0 8 * 4) (bits o.sc 0 8 * 4)]
     | .wopen o => [land .window (reach (bits o.x 0 2)).1 (bits o.x 13 10), flag false (reach (bits o.x 0 2)).1 (bits o.x 13 10)]
     | .wadv o => [land .window (reach o.f1).1 (reach o.f1).2, flag false (reach o.f1).1 (reach o.f1).2]
     | _ => [])

/-- What an operation reads that may be on its way. -/
def Core.uses (c : Core) (i : Instr) : List Thing :=
  (c.reads i ++ (addrOperands i).flatMap locA).map .reg ++
    (match i with
     | .flpush o => if bit o.x 10 then [.queue (bits o.x 0 4)] else []
     | .macc o | .mtern o =>
       if bit o.sc 4 then List.replicate ((shapeOf o.ty).units + ofBool (fmtA o.ty o.md).isMx) (.queue o.sa) else []
     | .flpop _ => [.flue]
     | .mfs o => if o.i = 0 then [.flags true] else []
     | .mpush o => .fill :: (if bit o.sc 4 then [.flue] else [])
     | .mshift _ | .mtfetch _ => [.fill]
     | .mldb _ => [.fill, .window]
     | .tcopy _ => [.flue, .window]
     | .lds _ | .sts _ | .vld _ | .vst _ | .vldx _ | .vstx _ | .fill _ => [.window]
     | _ => [])

/-- A point of the residual: the number of a bundle and a transfer on its way there, with its target's number and the delay
bundles left. -/
abbrev Spot := Nat × Option (Nat × Nat)

/-- The bundle that a kept transfer or LOOP names. -/
def aimOf (items : List Item) (n : Nat) : Option Nat :=
  (items[n]?).bind fun i => i.fix.bind fun f => f.2.bind fun t => placeIndex t items

/-- The kept loops: the number of the LOOP's bundle and of END's. -/
def keptLoops (items : List Item) : List (Nat × Nat) :=
  (List.range items.length).filterMap fun n =>
    match (items[n]?).bind (Item.op · .c) with
    | some (.loop _) | some (.sloop _) => (aimOf items n).map (n, ·)
    | _ => none

/-- Where control may go after a bundle: a conditional transfer either way, a loop closed after any count (R336). -/
def flow (items : List Item) (s : Spot) : List Spot :=
  let n := s.1
  match s.2 with
  | some (t, l) => [if l ≤ 1 then (t, none) else (n + 1, some (t, l - 1))]
  | none =>
    let on : List Spot := [(n + 1, none)]
    let aim := (aimOf items n).toList
    match (items[n]?).bind (Item.op · .c) with
    | none => on
    | some i =>
      let may := if i.guardNo = 0 then [] else on
      match i with
      | .br _ => aim.map (fun t => (n + 1, some (t, 2))) ++ may
      | .brp _ => aim.map (fun t => (n + 1, some (t, 2))) ++ on
      | .loop _ | .sloop _ => aim.map (fun e => (e + 1, none)) ++ on
      | .next _ => ((keptLoops items).filter fun l => l.2 == n).map (fun l => (l.1 + 1, none)) ++ on
      | .lexit _ => (keptLoops items).map (fun l => (l.2 + 1, none)) ++ may
      | .halt _ | .eret _ => may
      | _ => on

/-- What is reached from some points by a relation, in at most `fuel` rounds. -/
def closure {α : Type} [DecidableEq α] (next : α → List α) : Nat → List α → List α → List α
  | 0, _, seen => seen
  | _ + 1, [], seen => seen
  | n + 1, x :: r, seen => if seen.contains x then closure next n r seen else closure next n (next x ++ r) (x :: seen)

/-- The steps of the residual from its entry. -/
def flowEdges (items : List Item) (entry : Nat) : List (Spot × Spot) :=
  let live (l : List Spot) : List Spot := l.filter fun s => s.1 < items.length
  let spots := closure (fun s => live (flow items s)) (64 * items.length * items.length + 64) [(entry, none)] []
  (List.range items.length).flatMap fun n =>
    (spots.filter fun s => s.1 == n).flatMap fun s => (live (flow items s)).map (s, ·)

/-- The operations of a bundle by slot. -/
def Item.named (i : Item) : List (Slot × Instr) := i.ops.filterMap fun o => (decode o.1 o.2).map (o.1, ·)

/-- One round of carrying records along the steps: `ops` holds each bundle's operations, `l` the records that may be armed
when each begins (R62). -/
def armRound (ops : List (List (Slot × Instr))) (edges : List (Spot × Spot)) (l : List (List (Slot × Instr))) :
    List (List (Slot × Instr)) :=
  edges.foldl (fun l e =>
    let own := (ops[e.1.1]?).getD []
    let out := (own.filter fun o => o.1 != .c && reissuable o.2) ++
      (((l[e.1.1]?).getD []).filter fun o => !own.any fun x => x.1 == o.1)
    l.modify e.2.1 fun r => r ++ out.filter fun o => !r.contains o) l

/-- The records that may be armed when each bundle begins. -/
def armed (ops : List (List (Slot × Instr))) (edges : List (Spot × Spot)) : Nat → List (List (Slot × Instr)) → List (List (Slot × Instr))
  | 0, l => l
  | n + 1, l => let m := armRound ops edges l; if m = l then l else armed ops edges n m

/-- The operations that one execution of a bundle may issue outside the C slot: the named ones, and the records that a slot
may hold (R62). -/
def mayIssue (own records : List (Slot × Instr)) (hold first : Bool) : List (Slot × Instr) :=
  (own.filter fun o => o.1 != .c && (first || reissuable o.2)) ++
    (if hold then [] else records.filter fun o => !own.any fun x => x.1 == o.1)

/-- A bundle as the conditions see it: its cycles, whether it may stall for a time not known, and what its executions read
and bring about, each with its cycle. -/
structure Moment where
  cycles : Nat
  stalls : Bool
  uses : List (Thing × Nat)
  makes : List (Make × Nat)
  deriving DecidableEq, Repr

/-- The queue that a read takes an element of. -/
def Thing.popped : Thing → Option Nat
  | .queue n => some n
  | _ => none

/-- The elements that a bundle's reads take from each queue, of the reads that pass a test of their cycle. -/
def Moment.pops (m : Moment) (on : Nat → Bool) : Store Nat :=
  m.uses.foldl (fun l u => match u.1.popped with | some q => if on u.2 then Store.set 0 l q (Store.get 0 l q + 1) else l | none => l) []

/-- Both counts together. -/
def plusPops (a b : Store Nat) : Store Nat := b.foldl (fun l e => Store.set 0 l e.1 (Store.get 0 l e.1 + e.2)) a

def Given.moment (g : Given) (reach : Nat → Nat × Nat) (it : Item) (own records : List (Slot × Instr)) : Moment :=
  let c : Core := { Core.init with code := g.code }
  let acts : List (Nat × Slot × Instr) := (List.range (it.rep + 1)).flatMap fun e =>
    (mayIssue own records (bit it.header 16) (e == 0) ++ (if e = it.rep then own.filter fun o => o.1 == .c else [])).map (e, ·)
  { cycles := it.rep + 1
    stalls := acts.any (fun a => a.2.2.stalls) || (List.range 15).any c.locks
    uses := acts.flatMap fun a => (c.uses a.2.2).map (·, a.1)
    makes := acts.flatMap fun a => (c.makes reach a.2.1 a.2.2).map (·, a.1) }

/-- A point at a distance in cycles, whether a stall on the way may have made the distance longer, and the elements that the
reads on the way take from the queues. -/
abbrev Reach := Nat × Spot × Bool × Store Nat

/-- The points within a distance: `t` is the distance under way, `l` what is still to be passed and `seen` what has been
passed at `t`. -/
def walk (step : Reach → List Reach) (limit : Nat) : Nat → Nat → List Reach → List Reach → List Reach
  | 0, _, _, _ => []
  | n + 1, t, l, seen =>
    if l.isEmpty || limit < t then []
    else
      let new := (l.filter fun r => r.1 == t && !seen.contains r).eraseDups
      let later := l.filter fun r => t < r.1
      if new.isEmpty then walk step limit n (t + 1) later []
      else new ++ walk step limit n t (later ++ new.flatMap step) (new ++ seen)

/-- The residual as the conditions see it: its steps, its bundles, and whether it rotates registers. -/
structure Outlook where
  pre : Array (List (Spot × Spot))
  post : Array (List (Spot × Spot))
  moments : Array Moment
  turns : Bool
  deriving DecidableEq, Repr

/-- The two sides of an empty bundle: what is still on its way when its `stay` cycles are over, with the cycles from issue
to its start, and what is read or brought about after it before all of that is there, with the cycles since its end; for a
result and a read also the elements taken from the queues between it and the bundle. -/
structure Sides where
  before : List (Make × Nat × Bool × Store Nat)
  reads : List (Thing × Nat × Bool × Nat)
  after : List (Make × Nat × Bool)
  deriving DecidableEq, Repr

/-- Of landings alike of one element only the latest asked for counts. -/
def addMake (l : List (Make × Nat × Bool × Store Nat)) (m : Make × Nat × Bool × Store Nat) : List (Make × Nat × Bool × Store Nat) :=
  if l.contains m then l
  else if m.1.lands && m.1.more == 0 && l.any fun x => x.1 == m.1 then l.map fun x => if x.1 = m.1 ∧ m.2.1 < x.2.1 then m else x
  else m :: l

/-- The sides of bundle `e`; other passes of the bundle itself count `stay` cycles at least. -/
def Outlook.sides (v : Outlook) (e stay : Nat) : Sides :=
  let at_ (s : Spot) : Moment := (v.moments[s.1]?).getD ⟨1, false, [], []⟩
  let into (n : Nat) : List (Spot × Spot) := (v.pre[n]?).getD []
  let from_ (n : Nat) : List (Spot × Spot) := (v.post[n]?).getD []
  let own := ((into e).map Prod.snd ++ (from_ e).map Prod.fst).eraseDups
  let past (r : Reach) (s : Spot) : Reach :=
    (r.1 + (if r.2.1.1 = e then stay else (at_ r.2.1).cycles), s, r.2.2.1 || r.2.1.1 == e || (at_ r.2.1).stalls,
      plusPops r.2.2.2 ((at_ r.2.1).pops fun _ => true))
  let pre (s : Spot) : List Spot := ((into s.1).filter fun x => x.2 == s).map Prod.fst
  let post (s : Spot) : List Spot := ((from_ s.1).filter fun x => x.1 == s).map Prod.snd
  let go (towards : Spot → List Spot) (limit : Nat) : List Reach :=
    walk (fun r => (towards r.2.1).map (past r)) limit ((limit + 2) * (4 * v.moments.size + 2)) 0
      ((own.flatMap towards).map fun s => (0, s, false, [])) []
  let far := v.moments.foldl (fun w m => m.makes.foldl (fun w k => max w (k.1.lat + k.1.more)) w) 0
  let before := (go pre far).foldl (fun l r =>
    (at_ r.2.1).makes.foldl (fun l k =>
      let a := r.1 + (at_ r.2.1).cycles - k.2
      if a + stay < k.1.lat + k.1.more then
        addMake l (k.1, a, r.2.2.1 || (at_ r.2.1).stalls, plusPops r.2.2.2 ((at_ r.2.1).pops fun t => k.2 < t))
      else l) l) []
  let fore := if before.isEmpty then [] else go post ((before.map fun m => m.1.lat + m.1.more - (m.2.1 + stay)).foldl max 0)
  { before := before
    reads := fore.flatMap fun r => (at_ r.2.1).uses.map fun u =>
      (u.1, r.1 + u.2, r.2.2.1 || (at_ r.2.1).stalls,
        match u.1.popped with
        | some q => Store.get 0 (plusPops r.2.2.2 ((at_ r.2.1).pops fun t => t ≤ u.2)) q - 1
        | none => 0)
    after := fore.flatMap fun r => (at_ r.2.1).makes.map fun k => (k.1, r.1 + k.2, r.2.2.1 || (at_ r.2.1).stalls) }

/-- Two things may be the same: rotating names of one file, when a loop of the residual rotates them (R37); FLAGS as a whole is any
of its bits. -/
def Thing.meets (turns : Bool) : Thing → Thing → Bool
  | .reg a, .reg b =>
    a == b || (turns && a.rotates && b.rotates && (match a, b with
      | .x _, .x _ => true
      | .p _, .p _ => true
      | .v _, .v _ => true
      | _, _ => false))
  | .flags a, .flags b => a || b
  | a, b => a == b

/-- The cycles that must stay for every producer's distance to reach its declared latency (R337). -/
def shortfall (turns : Bool) (w : Sides) (cycles : Nat) : Nat :=
  w.before.foldl (fun n m =>
    w.reads.foldl (fun n r =>
      if m.1.of_.meets turns r.1 ∧ (m.1.decl ≤ m.2.1 + cycles + r.2.1 ∨ m.2.2.1 = true ∨ r.2.2.1 = true) then
        max n (m.1.decl - (m.2.1 + r.2.1)) else n) n) 0

/-- A write after the deleted cycles is the later of two to one place, `gap` cycles after the other issued (R67). -/
def laterBy (a b : Make) (gap : Nat) : Bool := a.lat < gap + b.lat || (a.lat == gap + b.lat && a.slot ≤ b.slot)

/-- The conditions of R336 when `stay` of an empty bundle's cycles stay: each read observes the write that it observed, no
landing is read before its cycle, and writes to one place keep their order. -/
def sameAfter (turns : Bool) (w : Sides) (cycles stay : Nat) : Bool :=
  w.before.all fun m =>
    m.1.lat + m.1.more ≤ m.2.1 + stay ||
      ((w.reads.all fun r =>
          let now := m.2.1 + stay + r.2.1
          let taken := match r.1.popped with | some q => Store.get 0 m.2.2.2 q + r.2.2.2 | none => 0
          !m.1.of_.meets turns r.1 || m.1.lat + min m.1.more taken ≤ now || (!m.1.lands && (m.1.lock ||
            (m.2.1 + cycles + r.2.1 < m.1.lat && !m.2.2.1 && !r.2.2.1)))) &&
       (w.after.all fun x =>
          !m.1.of_.meets turns x.1.of_ || m.1.lands || laterBy m.1 x.1 (m.2.1 + stay + x.2.1) ||
            (!laterBy m.1 x.1 (m.2.1 + cycles + x.2.1) && !m.2.2.1 && !x.2.2)))

/-- The residual rotates registers. -/
def rotating (items : List Item) : Bool :=
  items.any fun i => i.ops.any fun o =>
    match decode o.1 o.2 with | some (.sloop _) => true | some j => j.writesRot | none => false

/-- Delete bundle `n`: what names its place names the place after it. -/
def dropItem (entry : Place) (items : List Item) (n : Nat) : Place × List Item :=
  let rest := items.take n ++ items.drop (n + 1)
  match items[n]?, items[n + 1]? with
  | some i, some j =>
    if (placeIndex i.at_ rest).isSome then (entry, rest)
    else
      let move (p : Place) : Place := if p = i.at_ then j.at_ else p
      (move entry, rest.map fun it => { it with fix := it.fix.map fun f => (f.1, f.2.map move) })
  | _, _ => (entry, rest)

def Given.outlook (g : Given) (entry : Place) (items : List Item) : Outlook :=
  let edges := flowEdges items ((placeIndex entry items).getD 0)
  let ops := items.map Item.named
  let recs := armed ops edges (items.length + 1) (items.map fun _ => [])
  let at_ (f : Spot × Spot → Spot) : Array (List (Spot × Spot)) :=
    ((List.range items.length).map fun n => edges.filter fun x => (f x).1 == n).toArray
  ⟨at_ Prod.snd, at_ Prod.fst,
    ((items.zip (ops.zip recs)).map fun e => g.moment (windowReach items) e.1 e.2.1 e.2.2).toArray, rotating items⟩

/-- The cycles of an empty bundle that stay, when fewer than its own may: in fixed timing the fewest that keep every
distance (R337), otherwise none; the conditions of R336 hold for them. A delay bundle of a kept transfer and the last bundle
stay. HOLD keeps every record from issuing in an empty bundle (R62), so no record would have. -/
def Outlook.stay (v : Outlook) (fixed : Bool) (n count cycles : Nat) : Option Nat :=
  let least : Option Nat := if fixed then
      (List.range cycles).find? fun s => shortfall v.turns (v.sides n s) cycles ≤ s
    else some 0
  least.filter fun s =>
    !(s == 0 && (count ≤ n + 1 || ((v.pre[n]?).getD []).any fun x => x.2.2.isSome)) && sameAfter v.turns (v.sides n s) cycles s

/-- Delete or pad the empty bundles from bundle `n` on, first to last (R336, R337). -/
def Given.thin (g : Given) (fixed : Bool) : Nat → Nat → Place → List Item → Outlook → Place × List Item
  | 0, _, entry, items, _ => (entry, items)
  | fuel + 1, n, entry, items, v =>
    match items[n]? with
    | none => (entry, items)
    | some it =>
      match (if it.empty then v.stay fixed n items.length (it.rep + 1) else none) with
      | none => g.thin fixed fuel (n + 1) entry items v
      | some 0 =>
        let q := dropItem entry items n
        g.thin fixed fuel n q.1 q.2 (g.outlook q.1 q.2)
      | some (s + 1) =>
        let l := items.take n ++ [{ it with rep := s }] ++ items.drop (n + 1)
        g.thin fixed fuel (n + 1) entry l (g.outlook entry l)

/-! ## Packets and relocation (R44 to R47, R83, R94) -/

/-- The syllables of a bundle. -/
def Item.len (i : Item) : Nat := 1 + (i.ops.map fun o => o.2.length).sum

/-- The offsets of bundles placed in packets, each with its PAD (R83), and the offset after the last. -/
def placeItems (at_ : Nat) : List Nat → List (Nat × Bool) × Nat
  | [] => ([], at_)
  | [n] =>
    let stop := at_ + 4 * n
    let pad := decide (stop % 64 ≠ 0)
    ([(at_, pad)], if pad then (stop / 64 + 1) * 64 else stop)
  | n :: m :: r =>
    let stop := at_ + 4 * n
    let pad := stop % 64 ≠ 0 && 16 < stop / 4 % 16 + m
    let q := placeItems (if pad then (stop / 64 + 1) * 64 else stop) (m :: r)
    ((at_, pad) :: q.1, q.2)

/-- A C-slot operation with its offset, in syllables, set; `wide` gives it an extension syllable. None when it does not
fit (R53, R94, R101). -/
def retarget (i : Instr) (d : Int) (wide : Bool) : Option Instr :=
  let fits (w : Nat) : Bool := decide (-(2 ^ (w - 1) : Int) ≤ d ∧ d < 2 ^ (w - 1))
  let n := wrap 64 d
  match i with
  | .br o =>
    if wide || o.ext.isSome then some (.br { o with i := bits n 0 18, ext := some (bits n 18 31) })
    else if fits 18 then some (.br { o with i := bits n 0 18 }) else none
  | .brp o =>
    if wide || o.ext.isSome then some (.brp { o with i := bits n 0 14, ext := some (bits n 14 31) })
    else if fits 14 then some (.brp { o with i := bits n 0 14 }) else none
  | .loop o =>
    let k := KSel.ofExt (o.ext.map Prod.fst)
    if d < 0 then none
    else if wide || o.ext.isSome then some (.loop { o with i := bits n 0 12, ext := some (k, bits n 12 28) })
    else if n < 2 ^ 12 then some (.loop { o with i := n }) else none
  | .sloop o =>
    let k := KSel.ofExt (o.ext.map Prod.fst)
    if d < 0 then none
    else if wide || o.ext.isSome then some (.sloop { o with i := bits n 0 6, ext := some (k, bits n 6 28) })
    else if n < 2 ^ 6 then some (.sloop { o with i := n }) else none
  | _ => none

/-- The distance, in syllables, from a bundle to what its kept transfer or LOOP names. Where no bundle lies there, a branch
names a syllable that begins no bundle and a LOOP an END before START, so that cause 0x02 arises as in the original. -/
def reachOf (items : List Item) (pcs : List (Nat × Bool)) (n : Nat) (i : Instr) (t : Option Place) : Option Int :=
  let pcOf (n : Nat) : Nat := match pcs[n]? with | some e => e.1 | none => 0
  match t with
  | some t => (placeIndex t items).map fun e => ((pcOf e : Int) - pcOf n) / 4
  | none => some (match i with | .loop _ | .sloop _ => 0 | _ => 1)

/-- Relocate every kept transfer and LOOP for bundles placed at `pcs`: the bundles with their new C-slot operations, and
whether all of them fit as they stand. -/
def relocate (items : List Item) (pcs : List (Nat × Bool)) : Option (List Item × Bool) :=
  (List.range items.length).foldl (fun acc n =>
    match acc, items[n]? with
    | some (l, ok), some it =>
      (match it.fix with
       | none => some (l ++ [it], ok)
       | some (i, t) =>
         (reachOf items pcs n i t).bind fun d =>
           let set (j : Instr) : Item :=
             { it with ops := it.ops.map fun o => if o.1 = Slot.c then (Slot.c, encode j) else o, fix := some (j, t) }
           match retarget i d false with
           | some j => some (l ++ [set j], ok)
           | none => (retarget i d true).map fun j => (l ++ [set j], false))
    | _, _ => none) (some ([], true))

/-- Place and relocate until every offset fits (each round can only lengthen operations); none when a bundle would pass 16
syllables (R47, R77). -/
def settleItems (off : Nat) : Nat → List Item → Option (List Item × List (Nat × Bool) × Nat)
  | 0, _ => none
  | n + 1, items =>
    let q := placeItems off (items.map Item.len)
    match relocate items q.1 with
    | none => none
    | some (l, ok) =>
      if l.any fun i => 16 < i.len then none
      else if ok then some (l, q.1, q.2) else settleItems off n l

/-- The syllables of placed bundles, with zeros as filler (R83). -/
def itemWords : List Item → List (Nat × Bool) → Nat → List Nat
  | it :: r, (pc, pad) :: q, stop =>
    let next := match q with | (n, _) :: _ => n | [] => stop
    let h := it.header - bits it.header 17 6 * 2 ^ 17 - ofBool (bit it.header 15) * 2 ^ 15 + it.rep * 2 ^ 17 + ofBool pad * 2 ^ 15
    let ws := h :: it.ops.flatMap Prod.snd
    ws ++ List.replicate ((next - pc) / 4 - ws.length) 0 ++ itemWords r q stop
  | _, _, _ => []

/-- The origin of a bundle: its PC and the unrolled loops around it with their places in the stack (R339). -/
def Place.origin (p : Place) : Origin :=
  ⟨p.pc, (List.range p.stack.length).filterMap fun (j : Nat) =>
    match p.stack[j]? with | some (LFrame.unrolled _ _ _ _ iter) => some (j, iter) | _ => none⟩

/-! ## The evaluator (R334) -/

/-- The budget of an evaluation, in visits (R334). -/
def evalBudget : Nat := 262144

/-- The original bundles: the headers of the code region. -/
def Code.headers (k : Code) : List Nat :=
  ((List.range k.words.length).map fun i => k.off + 4 * i).filter k.isHeader

/-- The kernel contains BRI, CALL or RET. -/
def Code.indirect (k : Code) : Bool :=
  k.headers.any fun pc =>
    match k.bundleAt pc with
    | none => false
    | some b => b.named.any fun o => match o.2.2 with | .bri _ | .call _ | .ret _ => true | _ => false

/-- What laying out an analysed kernel comes to. -/
inductive Laid where
  | done (k : Code)
  | again (f : Forced)
  | decline
  deriving DecidableEq, Repr

/-- The residual of laid bundles: empty bundles deleted or padded, MAXITER held, packets filled, offsets set; none where an
offset or a bundle does not fit (R334 to R339). -/
def Given.emit (g : Given) (fixed : Bool) (z : Analysis) (items : List Item) : Option Laid :=
  let k := g.code
  let entry := g.entry.at_
  let t := if items.any Item.empty then g.thin fixed items.length 0 entry items (g.outlook entry items) else (entry, items)
  match tooLong k z g.entry t.2 with
  | some p => some (.again { z.forced with pcs := z.forced.pcs ++ [p] })
  | none =>
    if 4 * k.headers.length < t.2.length then some .decline
    else (settleItems k.off (t.2.length + 1) t.2).map fun (l, pcs, stop) =>
      if 512 * 1024 < stop - k.off then .decline
      else .done
        { k with
          words := itemWords l pcs stop
          entry := match (placeIndex t.1 l).bind (pcs[·]?) with | some e => e.1 | none => k.off
          origin := some ((l.zip pcs).map fun e => (e.2.1, e.1.at_.origin)) }

/-- Lay out an analysed kernel. DEDUCED (log 77): where what was removed leaves code that cannot stand in one line, since a kept
loop has one END and no branch may be added, the last branch in a kept loop stays, then the last operation that was removed, and
so on; the original order always stands. -/
def Given.finish (g : Given) (fixed : Bool) (z : Analysis) : Laid :=
  let k := g.code
  let limit := 4 * k.headers.length
  let gone (f : Node × Verdict → Bool) : List Nat :=
    (z.verdicts.filter fun e => e.2.removes && e.2 != .again && f e).map fun e => e.1.at_.pc
  let inner := gone fun e => (match e.2 with | .goto _ => true | _ => false) && e.1.at_.stack.any LFrame.isKept
  let again (p : Nat) : Laid := .again { z.forced with pcs := z.forced.pcs ++ [p] }
  let back : Laid := match inner.max?.or (gone fun _ => true).max? with
    | some p => again p
    | none => (g.emit fixed z (z.identity k)).getD .decline
  let size := z.verdicts.length + 2
  match lay k z limit (size * size) ⟨[], [], 1⟩ g.entry.at_ with
  | .stuck => back
  | .over y =>
    (match tooLong k z g.entry (y.items.filter fun i => !i.empty) with
     | some p => again p
     | none => .decline)
  | .done y =>
    let items := y.items.reverse
    if loopsSound k items z then (g.emit fixed z items).getD back else back

/-- Analyse and lay out, from the start again whenever an operation turns out to have to stay. -/
def Given.evaluate (g : Given) (fixed : Bool) : Nat → Analysis → Option Code
  | 0, _ => none
  | n + 1, z =>
    match z.next with
    | none =>
      (match g.finish fixed z with
       | .done k => some k
       | .again f => if f = z.forced then none else g.evaluate fixed n (g.fresh z.steps f)
       | .decline => none)
    | some (nd, r) =>
      if evalBudget ≤ z.steps then none
      else match g.visit { z with work := r, steps := z.steps + 1 } nd with
        | .on z1 => g.evaluate fixed n z1
        | .again f => g.evaluate fixed n (g.fresh (z.steps + 1) f)
        | .decline => none

end Sys2Proof.Machine
end

