-- ==== Sys2Proof/Machine/Signals.lean ====
section
/-! DEFINITION. The state of the sync engines and its writes: words with their release sequences and monitors, deques,
named-task counters and mailboxes, and what a rollback restores (spec/12_die_sync_engine.md R286 to R302). -/
namespace Sys2Proof.Machine

/-! ## Sync state, and what a rollback restores of it (R301) -/

/-- A word of the sync SRAM is poisoned (R302). -/
def SWord.poison (x : SWord) : Bool := x.flaw.kind == 1

def State.wordAt (s : State) (d i : Nat) : SWord := Store.get SWord.init (s.dieAt d).words i
def State.dequeAt (s : State) (d i : Nat) : Deque := Store.get Deque.init (s.dieAt d).deques i
def State.namedAt (s : State) (d i : Nat) : Named := Store.get Named.init (s.dieAt d).named i
def State.boxAt (s : State) (d i : Nat) : Mailbox := Store.get Mailbox.init (s.dieAt d).boxes i

def State.putNamed (s : State) (d i : Nat) (x : Named) : State :=
  s.mapDie d fun y => { y with named := Store.set Named.init y.named i x }
def State.putBox (s : State) (d i : Nat) (x : Mailbox) : State :=
  s.mapDie d fun y => { y with boxes := Store.set Mailbox.init y.boxes i x }

/-- The error that a word of a deque, mailbox or named task holds, by (space, index, part). -/
def Die.flawAt (d : Die) (k : Nat × Nat × Nat) : Flaw := match d.flaws.find? fun e => e.1 == k with | some e => e.2 | none => Flaw.clean
def Die.mapFlaw (d : Die) (k : Nat × Nat × Nat) (f : Flaw → Flaw) : Die :=
  let x := f (d.flawAt k)
  let rest := d.flaws.filter fun e => e.1 != k
  { d with flaws := if x = Flaw.clean then rest else (k, x) :: rest }

/-- Keep the first value that a phase replaces. -/
def keepFirst {α : Type} (l : List (Nat × Nat × α)) (d i : Nat) (x : α) : List (Nat × Nat × α) :=
  if l.any fun e => e.1 == d && e.2.1 == i then l else l ++ [(d, i, x)]

/-- The granule of an overflow word, in the die's HBM, holds it with its seven neighbours, encrypted under the device's own key
(R287; spec/19 R399, R400; log 17). -/
def State.storeOverflow (s : State) (d i : Nat) : State :=
  if i < sramWords then s
  else
    let w := i - sramWords
    let (k, g) := hbmPlace (hbmPageAddr d (2 ^ 25 - 1 - w / 512) (w % 512 / 8))
    s.writeCell k g 0 (packV 64 8 fun j => (s.wordAt d (i / 8 * 8 + j)).val.toNat) Flaw.clean

/-- Write a word on behalf of a context. -/
def State.setWord (s : State) (ctx d i : Nat) (x : SWord) : State :=
  let old := s.wordAt d i
  ((s.mapCtx ctx fun c => { c with savedWords := keepFirst c.savedWords d i old }).mapDie d fun y =>
    { y with words := Store.set SWord.init y.words i x }).storeOverflow d i

/-- Write a deque on behalf of a context. -/
def State.setDeque (s : State) (ctx d i : Nat) (x : Deque) : State :=
  let old := s.dequeAt d i
  (s.mapCtx ctx fun c => { c with savedDeques := keepFirst c.savedDeques d i old }).mapDie d fun y =>
    { y with deques := Store.set Deque.init y.deques i x }

/-- Write a named task's counter on behalf of a context; the word is written whole. -/
def State.setNamed (s : State) (ctx d i : Nat) (x : Named) : State :=
  let old := s.namedAt d i
  (s.mapCtx ctx fun c => { c with savedNamed := keepFirst c.savedNamed d i old }).putNamed d i x |>.mapDie d fun y => y.mapFlaw (3, i, 0) fun _ => Flaw.clean

/-! ## Requests -/

/-- Change a sync request. -/
def State.mapReq (s : State) (id : Nat) (f : SyncReq → SyncReq) : State :=
  { s with reqs := s.reqs.map fun r => if r.id = id then f r else r }

/-- The home engine has performed a request and replies. -/
def State.reply (s : State) (id : Nat) (val : W64) (status : Nat) (got : List Tag) (bad : Bool) : State :=
  s.mapReq id fun r => { r with done := true, val := val, status := status, got := got, bad := bad }

/-- The head entry that a release leaves (R300, R315): the issuer's record joined with its own entry. -/
def SyncReq.head (r : SyncReq) : RelSeq := ⟨r.who, r.scope, joinTag r.known (r.who.launch, r.who.ord, r.epoch)⟩

/-- The release sequences that a write by `r` belongs to (R300): a read-modify-write continues those of the word, an AST
or an AXCHG that heads none ends them, and a release heads a new one. A newer head of the same task and scope stands
for its older ones. -/
def SyncReq.extend (r : SyncReq) (old : List RelSeq) : List RelSeq :=
  let kept := if r.op = 0x29 ∨ (r.op = 0x26 ∧ isRelease r.order = false) then [] else old
  if isRelease r.order then
    kept.filter (fun e => !(e.scope == r.scope && e.who.launch == r.who.launch && e.who.ord == r.who.ord)) ++ [r.head]
  else kept

/-- What an acquire by `r` joins from what it reads. -/
def SyncReq.joins (r : SyncReq) (rel : List RelSeq) : List Tag :=
  if isAcquire r.order then acquired rel r.who r.scope else []

/-- The value that an operation writes to a word holding `w`, if it writes (R292, R293). -/
def SyncReq.newVal (r : SyncReq) (w : W64) : Option W64 :=
  match r.op with
  | 0x20 => some (w + r.b)
  | 0x21 => some (if r.uns then (if r.b < w then r.b else w) else if BitVec.slt r.b w then r.b else w)
  | 0x22 => some (if r.uns then (if w < r.b then r.b else w) else if BitVec.slt w r.b then r.b else w)
  | 0x23 => some (w &&& r.b)
  | 0x24 => some (w ||| r.b)
  | 0x25 => some (w ^^^ r.b)
  | 0x26 => some r.b
  | 0x27 => if w = r.b then some r.b1 else none
  | 0x29 => some r.b
  | 0x2A =>
    let f (x : W64) : Val := decodeFloat .f32 (x.toNat % 2 ^ 32)
    some (BitVec.ofNat 64 (deliver .f32 .rne 0 (sumVals .rne [f w, f r.b])).1)
  | _ => none

/-- MONITOR_FIRE: after a write to a word, each monitor on it whose word differs from what it expects replies true
(R296); a poisoned word is compared with nothing (R302). -/
def State.fireMonitors (s : State) (d i : Nat) : State :=
  let x := s.wordAt d i
  let hit (m : Monitor) : Bool := m.word == i && m.exp != x.val && !x.poison
  let ms := (s.dieAt d).monitors
  let s1 := (ms.filter hit).foldl (fun s m =>
    match s.reqs.find? fun r => r.id == m.req with
    | some r => s.reply m.req 1 0 (r.joins x.rel) false
    | none => s) s
  s1.mapDie d fun y => { y with monitors := ms.filter fun m => !hit m }

/-! ## Errors of sync state (R302, spec/15 R348 to R351) -/

/-- The array that holds a sync word: sync SRAM, or HBM for an overflow word. -/
def wordArray (i : Nat) : Nat := if i < sramWords then 0x08 else 0x06

/-- An error met at sync state is logged. -/
def State.logSync (s : State) (d ctx array unit : Nat) (x : Flaw) : State := s.logError d (x.entry ctx array 0 unit x.kind)

/-- A word that an operation reads: a single flipped bit is corrected and logged; an uncorrectable error is logged where no result
can carry it. -/
def State.sawWord (s : State) (d ctx i : Nat) (ret : Bool) : State :=
  let x := (s.wordAt d i).flaw
  if x.kind = 3 then
    (s.logSync d ctx (wordArray i) (i / 8) x).mapDie d fun y =>
      { y with words := Store.set SWord.init y.words i { Store.get SWord.init y.words i with flaw := Flaw.clean } }
  else if x.kind = 1 ∧ ret = false then s.logSync d ctx (wordArray i) (i / 8) x
  else s
/-- The same of a word of a deque, mailbox or named task. -/
def State.sawPart (s : State) (d ctx : Nat) (k : Nat × Nat × Nat) (ret : Bool) : State :=
  let x := (s.dieAt d).flawAt k
  if x.kind = 3 then (s.logSync d ctx 0x08 k.2.1 x).mapDie d fun y => y.mapFlaw k fun _ => Flaw.clean
  else if x.kind = 1 ∧ ret = false then s.logSync d ctx 0x08 k.2.1 x
  else s
/-- It is poisoned. -/
def State.partBad (s : State) (d : Nat) (k : Nat × Nat × Nat) : Bool := ((s.dieAt d).flawAt k).kind == 1

/-- What flipped bits of a 64-byte unit make of one of its eight words. -/
def Flaw.ofWord (x : Flaw) (w : Nat) : Flaw := { x with flips := (x.flips.filter (· / 64 == w)).map (· % 64), check := false }.tidy

/-- An armed injection of task `t` fires at its write to word `i` of a die (R350). A word holds no granule check value, so that
inverting one changes nothing: DESIGN CHOICE (log 10). -/
def State.injectWord (s : State) (t : Nat × Nat) (d i : Nat) : State :=
  let (x, s1) := s.fireFor t (wordArray i)
  if x = Flaw.clean then s1
  else s1.mapDie d fun y =>
    { y with words := (List.range 8).foldl (fun ws w =>
        let j := i / 8 * 8 + w
        let old := Store.get SWord.init ws j
        if x.ofWord w = Flaw.clean then ws else Store.set SWord.init ws j { old with flaw := old.flaw.with_ (x.ofWord w) }) y.words }
/-- The same of a write to a part of a deque, mailbox or named task: the unit holds eight of them, entries of one deque or the words
that say how neighbours stand. -/
def State.injectPart (s : State) (t : Nat × Nat) (d space i part : Nat) : State :=
  let (x, s1) := s.fireFor t 0x08
  if x = Flaw.clean then s1
  else s1.mapDie d fun y => (List.range 8).foldl (fun y w =>
    let k : Nat × Nat × Nat := if part = 0 then (space, i / 8 * 8 + w, 0) else (space, i, (part - 1) / 8 * 8 + w + 1)
    if x.ofWord w = Flaw.clean then y else y.mapFlaw k (·.with_ (x.ofWord w))) y

/-- The task that made a request. -/
def SyncReq.task (r : SyncReq) : Nat × Nat := (r.who.launch, r.who.ord)

/-- A word operation at its home engine (R288, R292, R300, R302). A poisoned word stays as it is until an AST or AXCHG
writes it: another operation performs nothing. A result carries the error; an operation without a result logs it. -/
def State.performWord (s : State) (r : SyncReq) : State :=
  let d := syncDie r.addr
  let i := syncIndex r.addr
  let x := s.wordAt d i
  let s := s.sawWord d r.ctx i r.ret.isSome
  if x.poison && r.op != 0x29 && r.op != 0x26 then s.reply r.id 0 0 [] true
  else
    let got := r.joins x.rel
    let s1 := match r.newVal x.val with
      | some v => ((s.setWord r.ctx d i ⟨v, r.extend x.rel, Flaw.clean⟩).injectWord r.task d i).fireMonitors d i
      | none => s
    s1.reply r.id x.val 0 got x.poison

/-- A WAITA's comparison and arming are one step (R296): 4,096 monitors to a die. On a poisoned word it performs nothing and
returns false, and the error is logged (R302; log 88). -/
def State.performWaita (s : State) (r : SyncReq) : State :=
  let d := syncDie r.addr
  let i := syncIndex r.addr
  let x := s.wordAt d i
  let s := s.sawWord d r.ctx i false
  if x.poison then s.reply r.id 0 0 [] false
  else if x.val ≠ r.b then s.reply r.id 1 0 (r.joins x.rel) false
  else if (s.dieAt d).monitors.length < 4096 then
    s.mapDie d fun y => { y with monitors := y.monitors ++ [⟨r.id, i, r.b⟩] }
  else s.reply r.id 0 0 [] false

/-- A deque operation at its home engine (R297): a taken entry's release record comes with it. -/
def State.performDeque (s : State) (r : SyncReq) : State :=
  let d := syncDie r.addr
  let i := syncIndex r.addr
  let q := s.dequeAt d i
  let n := (q.bottom - q.top).toNat
  let at_ (k : W32) : W64 × List RelSeq := Store.get (0, []) q.entries (k.toNat % 256)
  let state : Nat × Nat × Nat := (1, i, 0)
  let s0 := s.sawPart d r.ctx state r.ret.isSome
  if s0.partBad d state then s0.reply r.id 0 0 [] true
  else if r.op = 0x2D then
    if n = 256 then s0.reply r.id 0 2 [] false
    else
      let e : W64 × List RelSeq := (r.b, if isRelease r.order then [r.head] else [])
      let k := q.bottom.toNat % 256
      let s1 := s0.setDeque r.ctx d i { q with entries := Store.set (0, []) q.entries k e, bottom := q.bottom + 1 }
      ((s1.mapDie d fun y => y.mapFlaw (1, i, k + 1) fun _ => Flaw.clean).injectPart r.task d 1 i (k + 1)).reply r.id 0 0 [] false
  else if n = 0 then s0.reply r.id 0 1 [] false
  else
    let k : W32 := if r.op = 0x2E then q.bottom - 1 else q.top
    let entry : Nat × Nat × Nat := (1, i, k.toNat % 256 + 1)
    let s1 := s0.sawPart d r.ctx entry r.ret.isSome
    if s1.partBad d entry then s1.reply r.id 0 0 [] true
    else
      let q' : Deque := if r.op = 0x2E then { q with bottom := q.bottom - 1 } else { q with top := q.top + 1 }
      ((s1.setDeque r.ctx d i q').injectPart r.task d 1 i 0).reply r.id (at_ k).1 0 (r.joins (at_ k).2) false

/-! ## Counters and mailboxes (R298, R299) -/

/-- Lower a named task's counter by `b` for task `t` (R299): an armed one becomes ready when it reaches 0 from a nonzero value,
under the definition then in force (R327), and its arming is consumed. A copy's signal brings its race record. A poisoned
counter stays as it is (R302). -/
def State.lowerNamed (s : State) (t : Nat × Nat) (ctx d n b : Nat) (known : List Tag) : State :=
  if s.partBad d (3, n, 0) then s
  else
    let x := s.namedAt d n
    let c := x.count - b
    let due := x.armed && x.count != 0 && c == 0
    (s.setNamed ctx d n { x with count := c, armed := x.armed && !due, ready := if due then x.ready ++ x.defn.toList else x.ready,
                                 known := joinTags x.known known }).injectPart t d 3 n 0

/-- Post a message to a bound mailbox for task `t` (R298): 16 queue, and the others wait in arrival order. -/
def State.postBox (s : State) (t : Nat × Nat) (d m : Nat) (msg : W64) (known : List Tag) (req : Nat) : State :=
  let b := s.boxAt d m
  if b.queue.length < 16 ∧ b.waiting.isEmpty then
    let s1 := (s.putBox d m { b with queue := b.queue ++ [(msg, known)] }).injectPart t d 2 m 0
    if req = 0 then s1 else s1.reply req 0 0 [] false
  else s.putBox d m { b with waiting := b.waiting ++ [(req, msg, known)] }

/-- Deliver a signal for task `t` (R236, R323, R397): SIGKIND 1 lowers a named task's counter by 1, SIGKIND 2 posts a message. A
counter without a definition and an unbound mailbox take nothing; at a poisoned one nothing is performed, and the error is
logged (R302). -/
def State.signal (s : State) (t : Nat × Nat) (ctx d kind id : Nat) (msg : W64) (known : List Tag) : State :=
  match kind with
  | 1 =>
    match (s.namedAt d id).defn with
    | none => s
    | some _ => (s.sawPart d ctx (3, id, 0) false).lowerNamed t ctx d id 1 known
  | 2 =>
    match (s.boxAt d id).bound with
    | none => s
    | some _ =>
      let s1 := s.sawPart d ctx (2, id, 0) false
      if s1.partBad d (2, id, 0) then s1 else s1.postBox t d id msg known 0
  | _ => s

/-- NOTIFY and DCNT at their home engine; on a poisoned mailbox or counter they perform nothing (R302). -/
def State.performNotify (s : State) (r : SyncReq) : State :=
  let d := syncDie r.addr
  let m := syncIndex r.addr
  match (s.boxAt d m).bound with
  | none => s.reply r.id 0 3 [] false
  | some _ =>
    let s1 := s.sawPart d r.ctx (2, m, 0) r.ret.isSome
    if s1.partBad d (2, m, 0) then s1.reply r.id 0 0 [] true else s1.postBox r.task d m r.b [] r.id
def State.performDcnt (s : State) (r : SyncReq) : State :=
  let d := syncDie r.addr
  let n := syncIndex r.addr
  let x := s.namedAt d n
  match x.defn with
  | none => s.reply r.id 0 3 [] false
  | some _ =>
    let s1 := s.sawPart d r.ctx (3, n, 0) r.ret.isSome
    if s1.partBad d (3, n, 0) then s1.reply r.id 0 0 [] true
    else (s1.lowerNamed r.task r.ctx d n r.b.toNat []).reply r.id (BitVec.ofNat 64 x.count) 0 [] false

/-- A request performed at its home engine. -/
def State.performSync (s : State) (r : SyncReq) : State :=
  match r.op with
  | 0x2B => s.performWaita r
  | 0x2C => s.performNotify r
  | 0x2D | 0x2E | 0x2F => s.performDeque r
  | 0x30 => s.performDcnt r
  | _ => s.performWord r

end Sys2Proof.Machine
end

