-- ==== Sys2Proof/Machine/Specialise.lean ====
section
/-! DEFINITION. Specialisation at launch: the key, the cache and the evaluator (spec/14_die_dispatch_specialisation.md
R333 to R341). -/
namespace Sys2Proof.Machine

/-- The evaluator's outcome: residual code, or none for a decline (R334). It depends on the image and the key's inputs
alone; the mode's latencies are those of the image's table (R91). -/
def evaluate (k : Code) (mask : Nat) (kvals : List W64) (fixed : Bool) : Option Code :=
  let g : Given := ⟨k, mask, kvals⟩
  if k.indirect then none else g.evaluate fixed (4 * evalBudget) (g.fresh 0 ⟨[], []⟩)

/-- FEATURE as a launch checks it: the header's bits, with fixedclk and racedet set where the context's mode calls for them
(R86, R333; 16_program_sliding_attention.md R358). -/
def Rec.feature (r : Rec) (fixed race : Bool) : Nat := r.word 0x30 16 ||| (ofBool fixed * 2 ^ 9 + ofBool race * 2 ^ 10)

/-- The key of a launch (R333): the SHA-256 of the kernel's digest, the static mask, the static values, FEATURE and the two
mode bytes. -/
def specKey (r : Rec) (kvals : List W64) (adaptive fixed race : Bool) : BitVec 256 :=
  let mask := r.word 0x18 4
  let vals := ((List.range 32).filter (bit mask)).flatMap fun i => toBytes 8 ((kvals[i]?).getD 0).toNat
  let b (x : Bool) : Byte := BitVec.ofNat 8 (ofBool x)
  BitVec.ofNat 256 (Crypto.sha256
    (r.mem.readN 0x70 32 ++ toBytes 4 mask ++ vals ++ toBytes 16 (r.feature fixed race) ++ [b adaptive, b fixed]))

/-- A kernel's DIGEST. DESIGN CHOICE (log 67): its first byte is the most significant, as SHA-256 writes it; R86 calls
multi-byte fields little-endian and does not say what holds for a digest. -/
def Rec.digest (r : Rec) : BitVec 256 := BitVec.ofNat 256 (Crypto.beNat (r.mem.readN 0x70 32))

/-- Bytes of the cache that an entry takes: its code; a decline takes none. -/
def SpecEntry.size (e : SpecEntry) : Nat := match e.code with | some k => 4 * k.words.length | none => 0

/-- The size of the cache (R333). -/
def specBytes : Nat := 8 * 2 ^ 20

/-- An entry in use by a launch of its context, or by a saved image of one (R333). -/
def State.specUsed (s : State) (d : Nat) (e : SpecEntry) : Bool :=
  s.launches.any fun l => l.die == d && l.ctx == e.ctx && l.key == some e.key

/-- Flushed entries go when their last user has ended (R341). -/
def State.pruneSpec (s : State) (d : Nat) : State :=
  if (s.dieAt d).spec.any (·.flushed) then
    s.mapDie d fun y => { y with spec := y.spec.filter fun e => !(e.flushed && !s.specUsed d e) }
  else s

/-- Replace entries, least recently used first, until the cache fits (R333). -/
def evictSpec (used : SpecEntry → Bool) : Nat → List SpecEntry → List SpecEntry
  | 0, l => l
  | n + 1, l =>
    if (l.map SpecEntry.size).sum ≤ specBytes then l
    else
      match l.foldl (fun (b : Option SpecEntry) e =>
          if used e then b else match b with | none => some e | some x => if e.used < x.used then some e else b) none with
      | none => l
      | some v => evictSpec used n (l.filter fun e => !decide (e = v))

/-- Obtain the code of a launch (R333): the original without static registers, a cached outcome, or a fresh one, which
enters the cache. -/
def State.specialise (s : State) (d : Nat) (c : Context) (r : Rec) (kvals : List W64) : Code × Option (BitVec 256) × State :=
  let k := r.kernelCode
  if r.word 0x18 4 = 0 then (k, none, s)
  else
    let key := specKey r kvals c.adaptive c.fixed c.raceOn
    let (now, s) := s.fresh
    let out (o : Option Code) : Code := match o with | some x => x | none => k
    match (s.dieAt d).spec.find? fun e => e.ctx == c.id && e.key == key && !e.flushed with
    | some e =>
      (out e.code, some key, s.mapDie d fun y =>
        { y with spec := y.spec.map fun x => if x.ctx = c.id ∧ x.key = key then { x with used := now } else x })
    | none =>
      let o := evaluate k (r.word 0x18 4) kvals c.fixed
      let e : SpecEntry := ⟨c.id, key, r.digest, o, now, false⟩
      let used (x : SpecEntry) : Bool := s.specUsed d x || decide (x = e)
      (out o, some key, s.mapDie d fun y => { y with spec := evictSpec used y.spec.length (y.spec ++ [e]) })

end Sys2Proof.Machine
end

