-- ==== Sys2Proof/Machine/Launch.lean ====
section
/-! DEFINITION. Launches: their checks, the tasks they make, placement, pre-emption and resumption, and their end
(spec/03_assembly_language.md R86 to R90, spec/14_die_dispatch_specialisation.md R323, R324, R327 to R332,
spec/10_hearth_traps.md R260 to R264). -/
namespace Sys2Proof.Machine

/-! ## Launch checks (R90, R322, R323) -/

/-- An argument block: raw or .n64, of at least 0x138 bytes (R322). -/
def Rec.argOk (r : Rec) : Bool := (r.raw || r.format == .n64) && 0x138 ≤ r.bytes

/-- The extents of an argument block (R322). -/
def Rec.extents (r : Rec) : List Nat := (List.range 6).map fun i => r.word (0x100 + 8 * i) 8 + 1
/-- The field widths of a kernel (R86). -/
def Rec.widths (r : Rec) : List Nat := (List.range 6).map fun i => r.word (0x24 + i) 1

/-- The image's SHA-256 with its DIGEST field zero (R86). -/
def Rec.imageHash (r : Rec) : Nat :=
  Crypto.sha256 (r.mem.readN 0 0x70 ++ List.replicate 32 0 ++ r.mem.readN 0x90 (r.bytes - 0x90))

/-- The launch checks in their order (R90): the status of the first that fails, or 0. -/
def launchCheck (r : Rec) (ext : List Nat) (cap : Nat) (strict fixed race : Bool) : Nat :=
  let off := r.word 0x08 4
  let len := r.word 0x0C 4
  let entry := r.word 0x10 4
  let flags := r.word 0x14 4
  let feat := r.feature fixed race
  let lat := (r.mem.readN 0x40 16).map BitVec.toNat
  let ws := r.widths
  if r.word 0x00 4 ≠ 0x4B4E4854 ∨ r.word 0x04 2 ≠ 1 ∨ r.word 0x06 2 ≠ 0x100 then 0x01
  else if r.imageHash ≠ r.digest.toNat then 0x02
  else if r.word 0x1E 2 ≠ 0 ∨ r.word 0x2A 6 ≠ 0 ∨ r.word 0x90 0x70 ≠ 0 ∨ 4 ≤ flags then 0x03
  else if off % 64 ≠ 0 ∨ off < 0x100 ∨ len % 64 ≠ 0 ∨ len = 0 ∨ r.bytes < off + len ∨ r.kernelCode.isHeader entry = false
  then 0x04
  else if ws.any (64 < ·) ∨ 64 < ws.sum then 0x05
  else if (ext.zip ws).any (fun e => 2 ^ e.2 < e.1) then 0x06
  else if 4096 < r.word 0x1C 2 ∨ r.word 0x20 4 = 0 then 0x07
  else if (List.range 128).any (fun i => bit feat i && !bit cap i) ∨ (bit flags 0 ∧ !bit feat 7) then 0x08
  else if (lat.take 15).any (· == 0) ∨ (lat[15]?).getD 0 ≠ 0 then 0x09
  else if strict ∧ lat ≠ nativeLat then 0x0A
  else if bit flags 1 ∧ ((r.mem.readN 0x50 32).any fun b => !bfmtOk b.toNat) then 0x0B
  else 0

/-! ## What the host reads of a launch (R409) -/

/-- What an event read brings the host (spec/20 R409): kind (1 stream fault, 2 lost rollback, 3 rollback report, 4 isolation,
5 launch failure), die, slot and code. The layout is the model's own: PRESUMED (log 18). -/
def eventWord (kind die slot code : Nat) : W64 := BitVec.ofNat 64 (kind * 2 ^ 56 + die * 2 ^ 48 + slot * 2 ^ 40 + code)

/-- An event read brings launch failures too, which are no events: the flag does not tell of them (R409). -/
def flagged (w : W64) : Bool := bits w.toNat 56 8 != 5

/-- A launch into slot `l` of a stream has failed with a status, which an event read brings the host (R323, R409). -/
def State.keepFailure (s : State) (ctx : Nat) (st : StreamId) (l status : Nat) : State :=
  s.mapCtx ctx fun c => { c with events := c.events ++ [eventWord 5 st.die st.slot (l * 256 + status)] }

/-! ## Launch slots -/

/-- The stream in a slot of a die. -/
def State.streamAt (s : State) (st : StreamId) : Option Stream := Store.get none (s.dieAt st.die).streams st.slot
def State.setStream (s : State) (st : StreamId) (x : Option Stream) : State :=
  s.mapDie st.die fun y => { y with streams := Store.set none y.streams st.slot x }
def State.mapStream (s : State) (st : StreamId) (f : Stream → Stream) : State :=
  match s.streamAt st with | some x => s.setStream st (some (f x)) | none => s

/-- Write a launch slot of the stream of an admission; a stream that has left takes nothing (R324). -/
def State.setSlot (s : State) (st : StreamId) (serial l : Nat) (x : LaunchSlot) : State :=
  s.mapStream st fun y => if y.serial = serial then { y with slots := Store.set LaunchSlot.empty y.slots l x } else y

/-- What a launch asks for (R323, R327, R328, R379). -/
structure Ask where
  ctx : Nat
  die : Nat
  kernel : Nat
  args : Nat
  pri : Nat
  dst : Report
  sigKind : Nat
  sigId : Nat
  msg : Option (Nat × Nat)
  known : List Tag
  deriving DecidableEq, Repr

/-- Steps 2 and 3 of a launch: the failing status, or the records of the kernel and the argument block (R323). -/
def State.checkAsk (s : State) (a : Ask) : Nat × Option (Context × Rec × Rec) :=
  match s.ctx? a.ctx with
  | none => (0x0D, none)
  | some c =>
    let look (h : Nat) : Option Rec :=
      (match a.dst with | .recipe _ => s.recAt a.ctx h | _ => s.liveRec a.ctx h).map s.asRead
    match look a.kernel with
    | none => (0x0D, none)
    | some k =>
      match look a.args with
      | none => (0x0C, none)
      | some g =>
        if !g.argOk then (0x0C, none)
        else
          let ext := if a.msg.isSome then [1, 1, 1, 1, 1, 1] else g.extents
          match launchCheck k ext s.capLo (!c.adaptive) c.fixed c.raceOn with
          | 0 => (0, some (c, k, g))
          | n => (n, none)

/-- The sequencer reads a launch's kernel image and argument block at their homes (R322, R323, R391). -/
def State.readAsk (s : State) (a : Ask) : State :=
  let bytes (h : Nat) : Nat := match s.recAt a.ctx h with | some r => r.bytes | none => 0
  (s.homeFetch a.ctx a.kernel 0 (bytes a.kernel)).homeFetch a.ctx a.args 0 (min (bytes a.args) 0x138)

/-- A launch from step 2 on (R323): a failing status, or 0xFF with its tasks ready. An OPLAUNCH that reaches step 4
advances CSTEP (R372). -/
def State.beginLaunch (s0 : State) (a : Ask) (countStep : Bool) : Nat × Nat × State :=
  let s := s0.readAsk a
  match s.checkAsk a with
  | (n, none) => (n, 0, s)
  | (_, some (c, k, g)) =>
    let arg (i : Nat) : W64 := BitVec.ofNat 64 (g.word (8 * i) 8)
    let kv (i : Nat) : W64 :=
      match a.msg with | some m => if i = 0 then BitVec.ofNat 64 m.1 else if i = 1 then BitVec.ofNat 64 m.2 else arg i | none => arg i
    let kvals := (List.range 32).map kv
    let s := if countStep then s.mapCtx a.ctx fun c => { c with cstep := (c.cstep + 1) % 2 ^ 32 } else s
    let (code, key, s) := s.specialise a.die c k kvals
    let (id, s) := s.fresh
    let ext := if a.msg.isSome then [1, 1, 1, 1, 1, 1] else g.extents
    let l : Launch :=
      { id := id, ctx := a.ctx, die := a.die, dst := a.dst, sigKind := a.sigKind, sigId := a.sigId, code := code
        kvals := kvals, seed := BitVec.ofNat 64 (g.word 0x130 8), widths := k.widths, extents := ext, pri := a.pri
        cur := a.pri, time := id, total := ext.foldl (· * ·) 1, next := 0, asked := false, ended := 0, nfail := 0
        ford := 0, cause := 0, known := a.known, key := key
        bankInit := if bit (k.word 0x14 4) 1 then some ((k.mem.readN 0x50 32).map BitVec.toNat) else none }
    (0xFF, id, { s with launches := s.launches ++ [l] })

/-- A launch into a slot of the stream of an admission, from step 2: the slot runs, or holds the failing status (R323, R324).
The answer is the status. -/
def State.beginSlot (s : State) (a : Ask) (st : StreamId) (serial l : Nat) (countStep : Bool) : Nat × State :=
  let (n, id, s) := s.beginLaunch a countStep
  let s1 := s.setSlot st serial l { LaunchSlot.empty with status := n, launch := id }
  (n, if n = 0xFF then s1 else s1.keepFailure a.ctx st l n)

/-- The slot of the stream of an admission holds a launch that has not completed. -/
def State.slotBusy (s : State) (st : StreamId) (serial l : Nat) : Bool :=
  match s.streamAt st with
  | some x => x.serial == serial && (Store.get LaunchSlot.empty x.slots l).status == 0xFF
  | none => false

/-- The tensors that a launch reads and that are not resident, but for those whose attempt failed (R379). -/
def State.awaits (s : State) (ctx kernel args : Nat) : List Nat :=
  [kernel, args].filter fun h => match s.liveRec ctx h with | some r => r.away && !r.rfail | none => false

/-- NAMED_TASK_READY: a ready named task launches, from step 1, once its slot is free and what it reads is resident, under the
definition in force when it became ready (R327, R379). -/
def State.tryNamed (s : State) (d n : Nat) : State :=
  let x := s.namedAt d n
  match x.ready with
  | [] => s
  | f :: rest =>
    let st : StreamId := ⟨d, f.stream⟩
    if s.slotBusy st f.serial f.slot || !(s.awaits f.ctx f.kernel f.args).isEmpty then s
    else
      let a : Ask := ⟨f.ctx, d, f.kernel, f.args, f.pri, .slot st f.serial f.slot, 0, 0, none, x.known⟩
      ((s.putNamed d n { x with ready := rest, known := [] }).beginSlot a st f.serial f.slot false).2

/-- The named tasks of a die that are ready, once for each readiness. -/
def Die.readiness (d : Die) : List Nat := d.named.flatMap fun e => e.2.ready.map fun _ => e.1

/-- Every ready named task of a die tries its slot, in ascending number, until no launch frees a slot that another waits for. -/
def State.tryAllNamed (s : State) (d : Nat) : State :=
  (s.dieAt d).readiness.foldl (fun s _ => (s.dieAt d).readiness.eraseDups.foldl (fun s n => s.tryNamed d n) s) s

/-- A launch into a stream's slot, from step 2 (R323): where a check fails the signal is delivered and ready named tasks try
the slot. -/
def State.launchSlot (s : State) (a : Ask) (st : StreamId) (serial l : Nat) (countStep : Bool) : State :=
  let (n, s1) := s.beginSlot a st serial l countStep
  if n = 0xFF then s1 else (s1.signal noTask a.ctx a.die a.sigKind a.sigId (BitVec.ofNat 64 l) []).tryAllNamed st.die

/-! ## Tasks (R15, R30, R31) -/

/-- The work identifier of an ordinal (R31). -/
def widOf : List Nat → List Nat → Nat → Nat
  | w :: ws, e :: es, n => n % e + widOf ws es (n / e) * 2 ^ w
  | _, _, _ => 0

/-- The field f0 of a work identifier. -/
def fieldZero (widths : List Nat) (wid : W64) : Nat := bits wid.toNat 0 ((widths[0]?).getD 0)

/-- The hearth with a new task (R15, R27, R88): registers and array at their start values, the latched landed entries of the
flues and the scratchpad as they were; `clk` is what its square's other hearths have counted (R342). -/
def Core.startTask (c : Core) (l : Launch) (ord started clk : Nat) : Core :=
  let j := joined [] l.known
  let wid := widOf l.widths l.extents ord
  let ks := (List.range 32).foldl (fun m i => Store.set (0 : W64) m i ((l.kvals[i]?).getD 0)) []
  { Core.init with
    mode := .running
    task := ⟨l.id, ord, BitVec.ofNat 64 wid, l.pri, l.ctx, started, 0, l.code.fuseReq, (l.widths[0]?).getD 0⟩
    code := l.code, regs := { Regs.init with k := ks }
    seq := { pc := l.code.entry, done := 0, pend := none, from_ := l.code.entry, jumped := true, edge := true }
    flue := c.flue.map fun e => (e.1, { e.2 with q := e.2.q.map fun x => { x with land := 0, req := 0 } })
    pad := match l.bankInit with
      | none => c.pad
      | some bs => { c.pad with bfmt := (List.range 32).foldl (fun m i => Store.set Pad.bfmtReset m i ((bs[i]?).getD 0)) c.pad.bfmt }
    st := { Status.init with srkey := l.seed, srctr := BitVec.ofNat 128 (wid * 2 ^ 64) }
    eng := c.eng, race := { Race.init with known := j.1, sat := j.2 }, bad := c.bad, clk := clk }

/-! ## Shapes (R329, R330) -/

/-- The context's partition on a die holds hearth `h` (R263, R408). -/
def State.inPartition (s : State) (ctx h : Nat) : Bool :=
  match s.ctx? ctx with
  | some c => bit (Store.get 0 c.masks (dieOf h)) (h % 64)
  | none => false

/-- A context's partition on a die is about to be swapped, and no task is placed in it (R408). -/
def State.swapping (s : State) (ctx d : Nat) : Bool :=
  match s.ctx? ctx with | some c => (Store.get none c.newMask d).isSome | none => false

/-- The hearth is present, in the partition, and free under `busy`. -/
def State.hearthFree (s : State) (ctx : Nat) (extra : List Nat) (h : Nat) : Bool :=
  s.hearthOk h && s.inPartition ctx h && !s.swapping ctx (dieOf h) && ((s.coreAt h).mode == .free || extra.contains h)

/-- The hearths of a die. -/
def dieHearths (d : Nat) : List Nat := (List.range 64).map (64 * d + ·)

/-- Where the places 0 to 31 of a group may stand (R265, R330): one street, both streets of a square, or squares q and
q XOR 1; the answer gives the hearth of place 0 of each of its streets. The lowest-numbered shape is taken. -/
def streetsFor (free : Nat → Bool) (d : Nat) (streets : Nat) : Option (List Nat) :=
  let whole (n : Nat) : Bool := (List.range 8).all fun i => free (8 * n + i)
  let ss := (List.range 8).map (8 * d + ·)
  let qs := (List.range 4).map (4 * d + ·)
  match streets with
  | 0 | 1 => (ss.find? whole).map fun n => [8 * n]
  | 2 => (qs.find? fun q => whole (2 * q) && whole (2 * q + 1)).map fun q => [16 * q, 16 * q + 8]
  | n =>
    (qs.find? fun q =>
      let p := Nat.xor q 1
      whole (2 * q) && whole (2 * q + 1) && whole (2 * p) && (n == 3 || whole (2 * p + 1))).map fun q =>
        let p := Nat.xor q 1
        ([16 * q, 16 * q + 8, 16 * p, 16 * p + 8]).take n

/-- What waits to be placed (R329): the next task or group of a launch, or a pre-empted image with its group. -/
inductive Cand where
  | fresh (l : Launch)
  | back (r : Ready)
  deriving DecidableEq, Repr

/-- Priority, ready time and ordinal of a candidate (R329). -/
def Cand.rank : Cand → Nat × Nat × Nat
  | .fresh l => (l.cur, l.time, l.next)
  | .back r => (r.cur, r.time, r.image.task.ord)

def lexLt (a b : Nat × Nat × Nat) : Bool :=
  a.1 < b.1 || (a.1 == b.1 && (a.2.1 < b.2.1 || (a.2.1 == b.2.1 && a.2.2 < b.2.2)))

/-- Two tasks of one launch that are placed and swapped as a whole: those whose identifiers differ only in f0 bits [4:0] of a
launch with FUSEREQ, otherwise a task alone (R265, R330, R332). -/
def Launch.together (l : Launch) (a b : TaskId) : Bool :=
  a.launch == l.id && b.launch == l.id &&
    (a.ord == b.ord || (l.code.fuseReq &&
      a.wid.toNat / 2 ^ min ((l.widths[0]?).getD 0) 5 == b.wid.toNat / 2 ^ min ((l.widths[0]?).getD 0) 5))

def State.launch? (s : State) (id : Nat) : Option Launch := s.launches.find? fun l => l.id == id

/-- The hearths on which tasks of the image's group stand. -/
def State.matesOut (s : State) (l : Launch) (t : TaskId) : List Nat :=
  (dieHearths l.die).filter fun h => (s.coreAt h).mode != .free && l.together (s.coreAt h).task t

/-- Two hearths of a group that leave and come back together: of one fused street (R273), or the halves of a pair (R280). -/
def Core.bound (a b : Core) : Bool :=
  (a.link.fused && b.link.fused && a.task.wid.toNat / 2 ^ min a.task.w0 3 == b.task.wid.toNat / 2 ^ min b.task.w0 3) ||
    (a.link.paired && b.link.paired && b.task.wid == a.task.wid ^^^ 16)

/-- The images of `l` and those that are bound to one of them. -/
def boundTo (all l : List Ready) : List Ready := all.filter fun y => l.any fun x => x == y || x.image.bound y.image

/-- The images that resume with `r`: its whole group, and where tasks of the group stand on hearths, which may wait at a line for
it, those that are bound to it (R273, R277, R280; log 50). -/
def State.groupImages (s : State) (l : Launch) (r : Ready) : List Ready :=
  let all := s.images.filter fun x => l.together x.image.task r.image.task
  if (s.matesOut l r.image.task).isEmpty then all else boundTo all (boundTo all (boundTo all [r]))

/-- Some task that is bound to the image has not yet written its own. -/
def State.groupOut (s : State) (l : Launch) (r : Ready) : Bool :=
  (s.matesOut l r.image.task).any fun h => (s.groupImages l r).any fun x => x.image.bound (s.coreAt h)

/-- The candidates of a die: an image only once what is bound to it has been written. -/
def State.cands (s : State) (d : Nat) : List Cand :=
  ((s.launches.filter fun l => l.die == d && l.next < l.total).map .fresh) ++
    (s.images.filterMap fun r =>
      match s.launch? r.image.task.launch with
      | some l => if l.die == d && !s.groupOut l r then some (.back r) else none
      | none => none)

/-- The first candidate in the order of R329. -/
def bestCand (l : List Cand) : Option Cand :=
  l.foldl (fun b c => match b with | none => some c | some x => if lexLt c.rank x.rank then some c else b) none

/-- The launch of a candidate. -/
def State.candLaunch (s : State) (c : Cand) : Option Launch :=
  match c with
  | .fresh l => some l
  | .back r => s.launch? r.image.task.launch

/-- The number of tasks of a fresh group (R265): those of f0 up to the next multiple of 32 within e0. -/
def Launch.groupSize (l : Launch) : Nat :=
  if l.code.fuseReq then min 32 (max 1 ((l.extents[0]?).getD 1 - l.next % (l.extents[0]?).getD 1)) else 1

/-- A task's place in the shape of its group (R265). -/
def Launch.place (l : Launch) (t : TaskId) : Nat := fieldZero l.widths t.wid % 32

/-- The streets that a candidate's shape needs; 0 for a task that stands alone (R330). -/
def State.candStreets (s : State) (l : Launch) (c : Cand) : Nat :=
  if !l.code.fuseReq then 0
  else match c with
    | .fresh _ => ceilDiv l.groupSize 8
    | .back r =>
      ((s.groupImages l r).map (·.image.task) ++ (s.matesOut l r.image.task).map fun h => (s.coreAt h).task).foldl
        (fun n t => max n (l.place t / 8 + 1)) 1

/-- The hearth of each street of the shape, or of the single task; `extra` counts hearths as free. -/
def State.shapeFor (s : State) (l : Launch) (streets : Nat) (extra : List Nat) : Option (List Nat) :=
  let free := s.hearthFree l.ctx extra
  if streets = 0 then ((dieHearths l.die).find? free).map fun h => [h] else streetsFor free l.die streets

/-- The hearth of place `i` of a shape. -/
def placeAt (base : List Nat) (i : Nat) : Nat := (base[i / 8]?).getD 0 + i % 8

/-- The shape on which a group stands whose place `i` is hearth `h` (R265). -/
def shapeAround (streets h i : Nat) : List Nat :=
  if streets ≤ 1 then [h / 8 * 8]
  else
    let q := if i < 16 then h / 16 else Nat.xor (h / 16) 1
    [16 * q, 16 * q + 8, 16 * Nat.xor q 1, 16 * Nat.xor q 1 + 8].take streets

/-- The shape for a candidate: a free one, and for images that join their mates on hearths their own places, which must be free
(R265, R330). -/
def State.shapeOf (s : State) (l : Launch) (c : Cand) (streets : Nat) (extra : List Nat) : Option (List Nat) :=
  match c with
  | .fresh _ => s.shapeFor l streets extra
  | .back r =>
    match s.matesOut l r.image.task with
    | [] => s.shapeFor l streets extra
    | h :: _ =>
      let base := shapeAround streets h (l.place (s.coreAt h).task)
      if (s.groupImages l r).all fun x => s.hearthFree l.ctx extra (placeAt base (l.place x.image.task)) then some base else none

/-- The task on hearth `h` belongs to a context in fixed-timing mode. -/
def State.fixedAt (s : State) (h : Nat) : Bool := match s.ctx? (s.coreAt h).task.ctx with | some c => c.fixed | none => false

/-- The cycles that the hearths on a clock have taken (R342). -/
def State.clockNow (s : State) (clock : Nat) : Nat :=
  maxOf (((s.coreId :: s.others.map Prod.fst).filter fun g => (s.coreAt g).live && clockOf (s.fixedAt g) g == clock).map fun g =>
    (s.coreAt g).clk)

/-- Start one task of a launch on a hearth; a group's street gains a member (R265, R267). A record that starts saturated counts
in SATCNT (R315). -/
def State.startTask (s : State) (l : Launch) (ord h : Nat) : State :=
  let (t, s) := s.fresh
  let fx := match s.ctx? l.ctx with | some c => c.fixed | none => false
  let s0 := s.mapCoreAt h fun c => c.startTask l ord t (s.clockNow (clockOf fx h))
  let s1 := if (joined [] l.known).2 then s0.countSat l.ctx else s0
  if l.code.fuseReq then
    let task := (s1.coreAt h).task
    let x := if task.inStreet (s1.streetAt (streetOf h)) then s1.streetAt (streetOf h) else Street.init
    let memb := x.memb + (if bit x.memb (h % 8) then 0 else 2 ^ (h % 8))
    s1.setStreet (streetOf h)
      { x with memb := memb, leader := lowBit memb, launch := l.id, group := task.wid.toNat / 2 ^ min task.w0 3 }
  else s1

/-- Place a fresh task or group on a shape (R329, R330). -/
def State.placeFresh (s : State) (l : Launch) (base : List Nat) : State :=
  let n := l.groupSize
  let s1 := { s with launches := s.launches.map fun x => if x.id = l.id then { x with next := x.next + n, asked := false } else x }
  (List.range n).foldl (fun s i =>
    s.startTask l (l.next + i) (if l.code.fuseReq then placeAt base i else (base[0]?).getD 0)) s1

/-! ## Pre-emption (R260, R332) -/

/-- Ask a hearth to pre-empt its task: a WAITA in progress is cancelled (R296). -/
def Core.askPreempt (c : Core) : Core :=
  if c.mode = .running then
    { c with mode := .preempting,
             wait := match c.wait with | .waita r p i t v _ => .waita r p i t v true | w => w }
  else c

/-- The hearths that are pre-empted with hearth `h`: its whole group (R280, R332). -/
def State.withGroup (s : State) (h : Nat) : List Nat :=
  match s.launch? (s.coreAt h).task.launch with
  | none => [h]
  | some l => (dieHearths (dieOf h)).filter fun g =>
      g == h || ((s.coreAt g).mode != .free && l.together (s.coreAt g).task (s.coreAt h).task)

/-- Request pre-emption of the task on hearth `h`, with its group. -/
def State.requestPreempt (s : State) (h : Nat) : State :=
  (s.withGroup h).foldl (fun s g => s.mapCoreAt g Core.askPreempt) s

/-- The victims of R332 in their order: running tasks of the partition with a base priority numerically greater than `p`, by
lowest priority, latest start, highest ordinal. -/
def State.victims (s : State) (ctx d p : Nat) : List Nat :=
  let run := (dieHearths d).filter fun h =>
    (s.coreAt h).mode != .free && s.inPartition ctx h && (s.coreAt h).task.ctx == ctx && p < (s.coreAt h).task.pri
  let before (a b : Nat) : Bool :=
    let x := (s.coreAt a).task
    let y := (s.coreAt b).task
    lexLt (y.pri, y.started, y.ord) (x.pri, x.started, x.ord)
  let insert (a : Nat) (l : List Nat) : List Nat := l.takeWhile (fun b => !before a b) ++ a :: l.dropWhile fun b => !before a b
  run.foldr insert []

/-- Take victims in order until the shape would be free (R332). -/
def State.chooseVictims (s : State) (l : Launch) (c : Cand) (streets : Nat) : List Nat → List Nat → List Nat
  | acc, [] => if (s.shapeOf l c streets acc).isSome then acc else []
  | acc, h :: hs =>
    if (s.shapeOf l c streets acc).isSome then acc
    else s.chooseVictims l c streets (acc ++ (s.withGroup h).filter fun g => !acc.contains g) hs

/-- The candidate waits: pre-emption is requested once for it, when there are tasks that its priority displaces (R332). -/
def State.askFor (s : State) (c : Cand) (l : Launch) (streets : Nat) : State :=
  let asked := match c with | .fresh l => l.asked | .back r => r.asked
  let vs := s.chooseVictims l c streets [] (s.victims l.ctx l.die c.rank.1)
  if asked || vs.isEmpty then s
  else
    let s1 := vs.foldl (fun s h => s.mapCoreAt h Core.askPreempt) s
    match c with
    | .fresh _ => { s1 with launches := s1.launches.map fun x => if x.id = l.id then { x with asked := true } else x }
    | .back r => s1.mapImages fun x => some (if x = r then { x with asked := true } else x)

/-- A resumed image on a hearth (R262, R264): latches invalid, its queues those of the hearth with what it brings along. -/
def Core.resumeImage (c : Core) (img : Core) (started clk : Nat) : Core :=
  { img with mode := .running, eng := { c.eng with cp := c.eng.cp ++ img.eng.cp }, task := { img.task with started := started }, clk := clk }

/-- An image goes on at a hearth, with the state of its street (R264, R273), which members that stand there have kept. Clean lines of the square that are homed on another
die go, since the task may have acquired what they do not show (R43, R309). -/
def State.putImage (s : State) (r : Ready) (h : Nat) : State :=
  let (t, s) := s.fresh
  let fx := match s.ctx? r.image.task.ctx with | some c => c.fixed | none => false
  let s1 := s.mapCoreAt h fun c => c.resumeImage r.image t (s.clockNow (clockOf fx h))
  let s2 := (s1.mapImages fun x => if x = r then none else some x).squareFence (squareOf h) false true
  let x := s2.streetAt (streetOf h)
  if r.image.task.fuse && !(r.image.task.inStreet x && x.memb != 0) then
    s2.setStreet (streetOf h) { r.street with arrived := [], halted := 0 }
  else s2

/-- Put a group's images back on a shape (R264, R273). -/
def State.placeImages (s : State) (l : Launch) (rs : List Ready) (base : List Nat) : State :=
  rs.foldl (fun s r =>
    s.putImage r (if l.code.fuseReq then placeAt base (l.place r.image.task) else (base[0]?).getD 0)) s

/-- The best candidate of a die, with its launch and what its shape needs. -/
def State.nextCand (s : State) (d : Nat) : Option (Cand × Launch × Nat) :=
  match bestCand (s.cands d) with
  | none => none
  | some c => (s.candLaunch c).map fun l => (c, l, s.candStreets l c)

/-- TASK_PLACE: the best ready task or group of a die is placed, or pre-emption is requested for it where no shape is
free (R329, R330, R332). -/
def execTaskPlace (s : State) : Host.Outcome State Fault Refusal :=
  atDie s fun d s =>
    match s.nextCand d with
    | some (.fresh l, _, n) =>
      match s.shapeFor l n [] with
      | some base => s.placeFresh l base
      | none => s.askFor (.fresh l) l n
    | some (.back r, l, n) => match s.shapeOf l (.back r) n [] with | some _ => s | none => s.askFor (.back r) l n
    | none => s

/-- TASK_RESUME: the best candidate of a die is a pre-empted image, and it resumes with its group (R264). -/
def execTaskResume (s : State) : Host.Outcome State Fault Refusal :=
  atDie s fun d s =>
    match s.nextCand d with
    | some (.back r, l, n) =>
      match s.shapeOf l (.back r) n [] with
      | some base => s.placeImages l (s.groupImages l r) base
      | none => s
    | _ => s

/-- PRIORITY_AGING: 1 ms passed for what launch `n` keeps waiting ready (R331): for its tasks not yet placed at unit 0, for
the image of ordinal k at unit k + 1. -/
def execPriorityAging (n : Nat) (s : State) : Host.Outcome State Fault Refusal :=
  .next
    (if s.unit = 0 then
      { s with launches := s.launches.map fun l => if l.id = n ∧ l.next < l.total then { l with cur := l.cur - 1 } else l }
     else
      s.mapImages fun r =>
        some (if r.image.task.launch = n ∧ r.image.task.ord + 1 = s.unit then { r with cur := r.cur - 1 } else r))

/-- PREEMPT_REQUEST: the sequencer requests pre-emption of the task on a hearth (R260). -/
def execPreemptRequest (s : State) : Host.Outcome State Fault Refusal :=
  atHearth s fun s => s.requestPreempt s.coreId

/-- The hearth is not the leader of its fused street, or its leader has landed (R273). -/
def State.leaderLanded (s : State) : Bool :=
  let t := s.streetAt (streetOf s.coreId)
  let h := streetOf s.coreId * 8 + t.leader
  !s.core.link.fused || h == s.coreId || (s.coreAt h).mode == .landed || (s.coreAt h).mode == .saved

/-- A member that follows its leader. -/
def State.follows (s : State) : Bool :=
  s.core.link.fused && streetOf s.coreId * 8 + (s.streetAt (streetOf s.coreId)).leader != s.coreId

/-- A hearth of the same clock has taken more cycles: a cycle of its square is under way, which it has still to take (R342). -/
def State.behind (s : State) : Bool :=
  (s.coreId :: s.others.map Prod.fst).any fun g =>
    (s.coreAt g).mode != .free && clockOf (s.fixedAt g) g == clockOf (s.fixedAt s.coreId) s.coreId && s.core.clk < (s.coreAt g).clk

/-- The hearth may land (R260, R273), between cycles of its square: at an iteration boundary, or for a follower once everything delivered has been
executed; not while a partner's trap stops it (R280). A hearth that has stalled at the boundary until a latch became valid
goes on to the next one, so that what it drops is never read (R42, R43). -/
def State.canLand (s : State) : Bool :=
  let c := s.core
  c.mode == .preempting && !c.priv && c.wait == .none && c.seq.done == 0 && c.seq.pend.isNone && c.ctl.isNone &&
    !c.link.stopped && c.owed == 0 && !(c.fly.any fun f => f.left == 0) &&
    (if s.follows then s.leaderLanded && c.link.inbox.isEmpty
     else c.seq.edge && c.mat.grp == 0 && !(c.regs.latch.any fun e => e.2.valid) && !s.behind)

/-- PREEMPT_LAND (R260, R273): the task stops issuing. A follower whose counts are not all 0 sends its leader on to a later
boundary, and with it the members that have landed. -/
def execPreemptLand (s : State) : Host.Outcome State Fault Refusal :=
  atHearth s fun s =>
    if !s.canLand then s
    else if s.core.mat.grp = 0 then s.mapCore fun c => { c with mode := .landed }
    else
      let h := streetOf s.coreId * 8 + (s.streetAt (streetOf s.coreId)).leader
      ((s.fusedWith s.coreId).filter fun g => (s.coreAt g).mode == .landed).foldl (fun s g =>
        s.mapCoreAt g fun c =>
          { c with mode := .preempting, clk := s.core.clk, seq := if g = h then { c.seq with edge := false } else c.seq }) s

/-- A queued operation delivers to hearth state (R262). -/
def CopyKind.toHearth : CopyKind → Bool
  | .tld _ _ _ _ => true
  | .win _ _ _ _ => true
  | .copy c => c.dstPad || c.kind == 4
  | _ => false

/-- Every delivery to hearth state has finished, those of tasks that have halted on the hearth included (R105, R262). -/
def Core.delivered (c : Core) : Bool :=
  !((c.eng.cp ++ c.eng.cl).any fun o => o.kind.toHearth) &&
    c.q.all (fun e => e.2.all fun x => x.data.isSome) && c.flue.all (fun e => e.2.q.all fun x => x.data.isSome) &&
    (match c.mat.fill with | some f => 128 ≤ f.got | none => true) &&
    c.win.all fun e => e.2.fills.all fun f => f.data.isSome

/-- A queue entry takes along what it reads of hearth state: a copy from the scratchpad its bytes, a KIND 5 copy its units. -/
def CopyOp.withState (o : CopyOp) (c : Core) : CopyOp :=
  match o.kind with
  | .copy d =>
    if o.performed || o.snap.isSome || !(d.srcPad || d.kind == 5) then o
    else
      let f := c.flueOf d.flue
      { o with padded := c.paddedOp o, snap := some ⟨c.pad.mem, { f with q := f.q.take d.count }, c.bad, c.win⟩ }
  | _ => o

/-- A KIND 5 copy whose units are not all in the flue. -/
def CopyOp.lacksUnits (o : CopyOp) (c : Core) : Bool :=
  match o.kind with
  | .copy d => d.kind == 5 && !o.performed && o.snap.isNone && (c.flueOf d.flue).q.length < d.count
  | _ => false

/-- What becomes of a task's queue entries, in order, when its image leaves the hearth (R262): they complete on their own, with
what they read of hearth state as it is now, the units of a KIND 5 copy gone from the flue. A copy whose units the task has
still to push goes with the task, and so do the entries behind it: DEDUCED (log 102). The answer is the entries that stay,
those that go, and the hearth. -/
def splitQueue : List CopyOp → Core → List CopyOp × List CopyOp × Core
  | [], c => ([], [], c)
  | o :: r, c =>
    if !c.holds o.launch o.ord then
      let t := splitQueue r c
      (o :: t.1, t.2)
    else if o.lacksUnits c then
      ((r.filter fun x => !c.holds x.launch x.ord), o :: (r.filter fun x => c.holds x.launch x.ord), c)
    else
      let c1 := match o.kind with
        | .copy d => if d.kind = 5 ∧ o.performed = false ∧ o.snap = none then
            c.setFlue d.flue { c.flueOf d.flue with q := (c.flueOf d.flue).q.drop d.count } else c
        | _ => c
      let t := splitQueue r c1
      (o.withState c :: t.1, t.2)

/-- The saved image of a hearth (R42, R262): latches are not part of it, nor the queues of the hearth but for what goes with the
task. -/
def Core.image (c : Core) : Core :=
  let t := splitQueue c.eng.cp c
  { t.2.2 with mode := .saved, regs := { c.regs with latch := [] }, eng := { Engine.init with cp := t.2.1 }, wait := .none, stuck := .no }

/-- The hearth's copy engine once an image has left. -/
def Core.engineLeft (c : Core) : Engine :=
  { c.eng with cp := (splitQueue c.eng.cp c).1
               cl := c.eng.cl.map fun o => if c.holds o.launch o.ord then o.withState c else o }

/-- The image leaves the hearth, which is free (R332): a completed fill's pins on the square's lines are lowered (R283), and the
square's dirty lines homed on another die are written back, since the task's releases may come from another square (R43,
R309). -/
def State.takeImage (s : State) (h : Nat) : Ready × State :=
  let s0 := match (s.coreAt h).mat.fill with | some f => s.unpin f.square f.pins | none => s
  let s1 := s0.squareFence (squareOf h) true false
  let c := s1.coreAt h
  let img := { c.image with mat := { c.mat with fill := c.mat.fill.map fun f => { f with pins := [] } } }
  let time := match s.launch? c.task.launch with | some x => x.time | none => 0
  let r : Ready := ⟨img, s.streetAt (streetOf h), c.task.pri, time, false⟩
  let s2 := (s1.setCoreAt h { Core.init with pad := c.pad, eng := c.engineLeft, bad := c.bad }).mapGroup c.task fun _ => s.streetAt (streetOf h)
  (r, if c.task.inStreet (s2.streetAt (streetOf h)) then s2.vacate (streetOf h) else s2)

/-- The task's image waits to resume (R332). -/
def State.freeSaved (s : State) (h : Nat) : State :=
  let (r, s1) := s.takeImage h
  { s1 with ready := s1.ready ++ [r] }

/-- What lands together has landed: a fused street (R273), and of a pair the partner, unless its image is written (R280). -/
def State.allLanded (s : State) : Bool :=
  (s.fusedWith s.coreId).all (fun g => !(s.coreAt g).live) &&
    (let p := s.coreAt (partnerOf s.coreId)
     !(s.core.link.paired && p.link.paired && p.live))

/-- CONTEXT_IMAGE_WRITE (R262, R273, R280): the landed hearth writes its image, once its fused street and its partner have
landed. In a partition that is being swapped it waits for the swap (R263); otherwise the hearth is free. -/
def execContextImageWrite (s : State) : Host.Outcome State Fault Refusal :=
  atHearth s fun s =>
    if s.core.mode = .landed ∧ s.core.delivered = true ∧ s.allLanded = true then
      let swap := match s.myCtx with | some c => (Store.get none c.newMask s.die).isSome | none => false
      if swap then s.mapCore fun c => { c with mode := .saved } else s.freeSaved s.coreId
    else s

/-- Every hearth of a context's partition on a die has written its image. -/
def State.allSaved (s : State) (ctx d : Nat) : Bool :=
  (dieHearths d).all fun h =>
    (s.coreAt h).mode == .free || (s.coreAt h).task.ctx != ctx || (s.coreAt h).mode == .saved

/-- A hearth's outgoing image goes into its slot of the shadow region, or the slot is empty (R263). -/
def State.shadowOut (s : State) (id h : Nat) : State :=
  if (s.coreAt h).mode == .saved && (s.coreAt h).task.ctx == id then
    let (r, s1) := s.takeImage h
    { s1 with shadow := Store.set none s1.shadow h (some r) }
  else { s with shadow := Store.set none s.shadow h none }

/-- What a hearth's slot held comes in: where the hearth is in its context's partition, and its whole group comes with it, it
goes on there (R263, R264); otherwise the firmware executive moves it out of the shadow region. -/
def State.shadowIn (s : State) (ins : List (Nat × Ready)) (e : Nat × Ready) : State :=
  let t := e.2.image.task
  let whole : Bool := match s.launch? t.launch with
    | none => false
    | some l =>
      (s.images.filter fun x => l.together x.image.task t).isEmpty &&
        (ins.filter fun x => l.together x.2.image.task t).all fun x =>
          s.inPartition t.ctx x.1 && ((s.coreAt x.1).mode == .free || l.together (s.coreAt x.1).task t)
  if whole then s.putImage e.2 e.1 else { s with ready := s.ready ++ [e.2] }

/-- The mask of a context's partition on die `d` becomes `m`: each hearth of the old and of the new one exchanges its image
with its slot in the die's shadow region (R263, R408). -/
def State.swapPartition (s : State) (id d m : Nat) : State :=
  let old := match s.ctx? id with | some c => Store.get 0 c.masks d | none => 0
  let hs := (dieHearths d).filter fun h => bit old (h % 64) || bit m (h % 64)
  let ins := hs.filterMap fun h => (Store.get none s.shadow h).map fun r => (h, r)
  let s1 := (hs.foldl (fun s h => s.shadowOut id h) s).mapCtx id fun c =>
    { c with masks := Store.set 0 c.masks d m, newMask := Store.set none c.newMask d none }
  ins.foldl (fun s e => s.shadowIn ins e) s1

/-- PARTITION_SWAP (R263): every image of the partition on the die has been written, and the new mask holds. -/
def execPartitionSwap (id : Nat) (s : State) : Host.Outcome State Fault Refusal :=
  atDie s fun d s =>
    match (s.ctx? id).bind fun c => Store.get none c.newMask d with
    | none => s
    | some m => if s.allSaved id d then s.swapPartition id d m else s

/-! ## The end of a launch (R323, R328) -/

/-- An accepted operation of the launch's tasks has not completed. -/
def State.launchBusy (s : State) (id : Nat) : Bool :=
  s.reqs.any (fun r => r.who.launch == id) ||
    (List.range 256).any fun h => ((s.coreAt h).eng.cp ++ (s.coreAt h).eng.cl).any fun o => o.launch == id

/-- The launch has completed (R323, step 6). -/
def State.launchDone (s : State) (l : Launch) : Bool :=
  l.next == l.total && l.ended == l.total && !s.launchBusy l.id

/-- LAUNCH_COMPLETE: the slot is written and the signal delivered; a failed handler enters the error log; ready named tasks
try the freed slot (R323, R327, R328). A recipe's launch is left to the stoker (R379). -/
def State.endLaunch (s : State) (l : Launch) : State :=
  let s0 : State := { s with launches := s.launches.filter fun x => x.id != l.id }
  let s1 := s0.pruneSpec l.die
  match l.dst with
  | .slot st serial n =>
    let v : LaunchSlot := ⟨if l.nfail = 0 then 0 else 0x10, l.cause, l.nfail, l.ford, 0⟩
    let mine := match s1.streamAt st with
      | some x => (Store.get LaunchSlot.empty x.slots n).launch == l.id | none => false
    let s2 := if mine then s1.setSlot st serial n v else s1
    let s3 := if l.nfail = 0 then s2 else s2.keepFailure l.ctx st n v.status
    (s3.signal noTask l.ctx l.die l.sigKind l.sigId (BitVec.ofNat 64 n) []).tryAllNamed l.die
  | .handler m =>
    let b := s1.boxAt l.die m
    let s2 := s1.putBox l.die m { b with busy := false }
    if l.nfail = 0 then s2 else s2.logError l.die (errWord l.ctx 0 0 false l.cause 0 m)
  | .recipe _ => s1

/-- A handler task launches for the oldest message of a bound mailbox, unless an MBOXFREE waits for it (R328), once what it
reads is resident (R379). A launch that fails its checks is recorded as a failed handler. -/
def State.launchHandler (s : State) (d m : Nat) : State :=
  let b := s.boxAt d m
  match b.bound, b.busy || b.closing, b.queue with
  | some (pri, kernel, args, ctx), false, (msg, known) :: rest =>
    if !(s.awaits ctx kernel args).isEmpty then s else
    let s1 := s.putBox d m { b with queue := rest, busy := true }
    let a : Ask := ⟨ctx, d, kernel, args, pri, .handler m, 0, 0, some (msg.toNat, m), known⟩
    let (n, _, s2) := s1.beginLaunch a false
    if n = 0xFF then s2
    else (s2.putBox d m { s2.boxAt d m with busy := false }).logError d (errWord ctx 0 0 false n 0 m)
  | _, _, _ => s

/-- MAILBOX_HANDLER_LAUNCH (R328). -/
def execMailboxHandlerLaunch (m : Nat) (s : State) : Host.Outcome State Fault Refusal :=
  atDie s fun d s => s.launchHandler d m

/-- MAILBOX_POST (R298): the oldest waiting message is posted once an entry is free. -/
def execMailboxPost (m : Nat) (s : State) : Host.Outcome State Fault Refusal :=
  atDie s fun d s =>
    let b := s.boxAt d m
    match b.waiting with
    | (req, msg, known) :: rest =>
      if b.queue.length < 16 then
        let s1 := s.putBox d m { b with queue := b.queue ++ [(msg, known)], waiting := rest }
        if req = 0 then s1 else s1.reply req 0 0 [] false
      else s
    | [] => s

end Sys2Proof.Machine
end

