-- ==== Sys2Proof/Machine/Stoker.lean ====
section
/-! DEFINITION. The stoker: footprints and quotas, compression, drop depths, the victim loop, and making a tensor resident
again (spec/18_package_residency.md R365 to R381). -/
namespace Sys2Proof.Machine

/-! ## Footprints, quotas, compression (R366, R371, R376) -/

/-- The bytes of 256-byte block `b` of the memory image, zero beyond its end (R376). -/
def Rec.block (r : Rec) (b : Nat) : List Byte := r.mem.readN (256 * b) 256

/-- The unit of compression in bytes (R376). -/
def Rec.unit (r : Rec) : Nat := if !r.raw && 16 ≤ r.width then 2 else 1

/-- A packed block: a bitmap, whose bit i tells that unit i is not all zero bits, then the set units in order, zero-padded to a
multiple of 32 bytes; one that would take 256 bytes or more is stored raw (R376). -/
def Rec.packedBlock (r : Rec) (b : Nat) : Bool × List Byte :=
  let n := 256 / r.unit
  let us := (List.range n).map fun i => ((r.block b).drop (r.unit * i)).take r.unit
  let set (x : List Byte) : Bool := x.any (· != 0)
  let body := toBytes (n / 8) (((List.range n).zip us).map fun e => ofBool (set e.2) * 2 ^ e.1).sum ++ (us.filter set).flatten
  let len := ceilDiv body.length 32 * 32
  if 256 ≤ len then (true, r.block b) else (false, body ++ List.replicate (len - body.length) 0)

/-- The index entries of packed blocks, the first of which begins at offset `off` in 32-byte units (R376). -/
def packIndex : Nat → List (Bool × List Byte) → List Byte
  | _, [] => []
  | off, b :: bs =>
    let n := b.2.length / 32
    toBytes 4 (ofBool b.1 * 2 ^ 31 + (n - 1) * 2 ^ 28 + off) ++ packIndex (off + n) bs

/-- The packed image: the index table, then the packed blocks (R376). -/
def Rec.packImage (r : Rec) : List Byte :=
  let bs := (List.range (ceilDiv r.bytes 256)).map r.packedBlock
  packIndex 0 bs ++ bs.flatMap (·.2)

/-- The packed footprint (R376). -/
def Rec.packedFootprint (r : Rec) : Nat :=
  let n := ceilDiv r.bytes 256
  ceilDiv (4 * n + ((List.range n).map fun b => (r.packedBlock b).2.length).sum) pageBytes * pageBytes

/-- Measure (R376). -/
def Rec.measure (r : Rec) : Nat := min 0xFFFF (256 * r.fullFootprint / r.packedFootprint)

/-- The pool or the HBM of a die. -/
def fastArea (pool : Bool) (d : Nat) : Area := if pool then .pool d else .hbm d

/-- The record has pages in a fast tier of a die: the pool or HBM. -/
def Rec.inTier (r : Rec) (pool : Bool) (d : Nat) : Bool := r.area == some (fastArea pool d)

/-- A context's usage of a tier of a die, and of LPDDR-6, in bytes (R371). -/
def State.used (s : State) (ctx d : Nat) (pool : Bool) : Nat :=
  ((s.recs.filter fun r => r.ctx == ctx && r.inTier pool d).map Rec.footprint).sum
def State.lpdUsed (s : State) (ctx : Nat) : Nat :=
  ((s.recs.filter fun r => r.ctx == ctx && r.tier == .lpddr).map Rec.footprint).sum

/-- A context's quota of a tier of a die in bytes (R369). -/
def Context.quota (c : Context) (d : Nat) (pool : Bool) : Nat :=
  ((if pool then c.res.poolq[d]? else c.res.hbmq[d]?).getD 0) * pageBytes

/-! ## Choosing victims (R372 to R374, R378) -/

/-- The setting that disables an action (R369). -/
def costOff : Nat := 0xFFFFFFFF

/-- The distance to the next use (R372). -/
def Rec.distance (r : Rec) (cstep : Nat) : Nat :=
  if r.nextUse ≠ costOff ∧ cstep ≤ r.nextUse then r.nextUse - cstep else 2 ^ 32

/-- A tensor is running (R373). -/
def Rec.running (r : Rec) : Bool := r.users != 0

/-- A candidate of a call of the loop (R373). -/
def Rec.candidate (r : Rec) (ctx d : Nat) (pool : Bool) (skip : List Nat) : Bool :=
  r.ctx == ctx && r.inTier pool d && r.pins == 0 && !r.running && !r.moving && !skip.contains r.handle

/-- The candidate with the largest distance, of those the lowest handle (R374). -/
def victimOf (cstep : Nat) (l : List Rec) : Option Rec :=
  l.foldl (fun b r =>
    match b with
    | none => some r
    | some x =>
      if x.distance cstep < r.distance cstep ∨ (x.distance cstep = r.distance cstep ∧ r.handle < x.handle) then some r else b) none

/-- Depth of a record if `t` were dropped (R378), to a depth of `n`. -/
def State.depthOf (s : State) (ctx t : Nat) : Nat → Nat → Nat
  | 0, _ => 0
  | n + 1, h =>
    match s.recAt ctx h with
    | none => 0
    | some r =>
      if r.tier = .dropped ∨ h = t then
        1 + (match r.recipe with | some p => maxOf (p.inputs.map (s.depthOf ctx t n)) | none => 0)
      else 0

/-- The inputs of a record reach `t`, through dropped records, within `n` steps (R378). -/
def State.reaches (s : State) (ctx t : Nat) : Nat → Nat → Bool
  | 0, _ => false
  | n + 1, h =>
    match (s.recAt ctx h).bind (·.recipe) with
    | none => false
    | some p => p.inputs.any fun i =>
        i == t || ((match s.recAt ctx i with | some r => r.tier == .dropped | none => false) && s.reaches ctx t n i)

/-- The records whose depth dropping `t` recomputes: `t` and every dropped record whose inputs reach it (R378). -/
def State.droppedWith (s : State) (ctx t : Nat) : List Nat :=
  (s.recs.filter fun r => r.ctx == ctx && (r.handle == t || (r.tier == .dropped && s.reaches ctx t 5 r.handle))).map (·.handle)

/-- Written in the context's current phase (R365). -/
def State.written (s : State) (r : Rec) : Bool :=
  match s.ctx? r.ctx with | some c => r.pver == c.phase | none => false

/-- DropAllowed (R378). -/
def State.dropAllowed (s : State) (r : Rec) : Bool :=
  r.rcp && !s.written r && (s.droppedWith r.ctx r.handle).all fun h => s.depthOf r.ctx r.handle 6 h ≤ 4

/-- The action chosen for a victim (R374). -/
inductive Act where
  | spill
  | pack
  | drop
  deriving DecidableEq, Repr

def kib (x : Nat) : Nat := ceilDiv x 1024

/-- The spill pages that a tensor would take (R398). -/
def State.spillPages (s : State) (r : Rec) : Option (List (Nat × Nat)) := s.pagesFor .spill r.ctx r.handle r.footprint

/-- The cheapest action allowed for a victim, ties going to spill, then pack, then drop (R374). Spill also needs room in the
tier itself, which no quota bounds (R3, R398; log 17). -/
def State.chooseAct (s : State) (c : Context) (r : Rec) : Option Act :=
  let spill : Option (Act × Nat) :=
    if s.lpddr && c.res.spillCost != costOff && s.lpdUsed c.id + r.footprint ≤ c.res.lpdq * pageBytes && (s.spillPages r).isSome then
      some (.spill, kib r.footprint * c.res.spillCost) else none
  let better (b : Option (Act × Nat)) (a : Act) (cost : Nat) : Option (Act × Nat) :=
    match b with | none => some (a, cost) | some x => if cost < x.2 then some (a, cost) else b
  let b1 :=
    if !r.isPacked && c.res.packCost != costOff then
      let m := if r.mratio = 0 then r.measure else r.mratio
      if c.res.packRatio ≤ m ∧ r.packedFootprint < r.footprint then better spill .pack (kib r.footprint * c.res.packCost) else spill
    else spill
  let b2 :=
    if s.dropAllowed r && c.res.recompCost != costOff then
      let w := match r.recipe with | some p => p.work | none => 0
      better b1 .drop (w * c.res.recompCost * (1 + s.depthOf c.id r.handle 6 r.handle))
    else b1
  b2.map Prod.fst

/-- Apply an action to a tensor (R368, R375): its lines are written back and its translations invalidated first. Freed room
clears RFAIL, so that the next reference tries again (R381). -/
def State.applyAct (s : State) (a : Act) (r : Rec) : State :=
  let s1 := s.dropLines r
  let s2 :=
    match a with
    | .spill =>
      let pages := (s1.spillPages r).getD []
      s1.relocate r.ctx r.handle fun r => { r with tier := .lpddr, pages := pages }
    | .pack => s1.relocate r.ctx r.handle fun r =>
        let n := r.packedFootprint
        { r with tier := if r.inPool then .poolPacked else .hbmPacked, packed := n, image := r.packImage
                 pages := (takePages (n / pageBytes) r.pages).getD r.pages }
    | .drop =>
      let s3 := ((s1.keepRefs r).freeCells r.ctx r.handle).mapRec r.ctx r.handle fun r =>
        { r with tier := .dropped, packed := 0, image := [], pages := [], mem := [], bad := [] }
      (s3.droppedWith r.ctx r.handle).foldl (fun s h =>
        s.mapRec r.ctx h fun x => { x with ddepth := s.depthOf r.ctx r.handle 6 h }) s3
  { s2 with recs := s2.recs.map fun x => if x.ctx = r.ctx then { x with rfail := false } else x }

/-- The victim loop (R374): free `n` bytes below a quota in one tier of one die. The first answer says whether room was
made. -/
def State.roomLoop (c : Context) (d : Nat) (pool : Bool) (n quota : Nat) : Nat → List Nat → State → Bool × State
  | 0, _, s => (decide (s.used c.id d pool + n ≤ quota), s)
  | k + 1, skip, s =>
    if s.used c.id d pool + n ≤ quota then (true, s)
    else
      let cstep := match s.ctx? c.id with | some x => x.cstep | none => 0
      match victimOf cstep (s.recs.filter fun r => r.candidate c.id d pool skip) with
      | none => (false, s)
      | some r =>
        let act := s.chooseAct c r
        let s := if r.mratio = 0 && !r.isPacked && c.res.packCost != costOff then
            s.mapRec r.ctx r.handle fun r => { r with mratio := r.measure } else s
        match act with
        | none => State.roomLoop c d pool n quota k (r.handle :: skip) s
        | some a => State.roomLoop c d pool n quota k skip (s.applyAct a ((s.recAt r.ctx r.handle).getD r))

/-- Room (R374). Each record can be packed, then spilled or dropped, or skipped, so the loop ends within three passes a
record. -/
def State.room (s : State) (ctx d : Nat) (pool : Bool) (n : Nat) : Bool × State :=
  match s.ctx? ctx with
  | none => (false, s)
  | some c => State.roomLoop c d pool n (c.quota d pool) (3 * s.recs.length + 1) [] s

/-- Room for `n` bytes of a tensor's own, and pages for all of its `size` bytes in a fast tier of its home die: none where the
tier lacks them (R366, R374). -/
def State.placeIn (s : State) (ctx h d : Nat) (pool : Bool) (n size : Nat) : Option (List (Nat × Nat)) × State :=
  let (ok, s1) := s.room ctx d pool n
  (if ok then s1.pagesFor (fastArea pool d) ctx h size else none, s1)

/-! ## Making a tensor resident (R379) -/

/-- The record lies in its placement tier, packed as it is. -/
def Rec.atPlace (r : Rec) : Tier :=
  if r.place = 0 then (if r.packed = 0 then .pool else .poolPacked) else (if r.packed = 0 then .hbm else .hbmPacked)

/-- An attempt to make the tensor resident failed (R381). -/
def State.failResident (s : State) (ctx h : Nat) : State := s.mapRec ctx h fun r => { r with rfail := true }

/-- The kernel and argument handles of record `i` of a recipe (R378). -/
def State.recipeRecord (s : State) (ctx : Nat) (p : Recipe) (i : Nat) : Nat × Nat :=
  match (s.recAt ctx p.stream).map s.asRead with
  | none => (0, 0)
  | some r => (r.word (p.off + 32 * i + 4) 4 % 2 ^ 20, r.word (p.off + 32 * i + 8) 4 % 2 ^ 20)

/-- A re-issue ends (R379): the references of the recipe that it followed are no longer running, and the tensor is resident, or it
has failed and its pages are free. Its translations go with the change of tier (R368). -/
def State.endRebuild (s : State) (r : Rec) (ok : Bool) : State :=
  let refs := match r.redo with | some p => p.names ++ p.refs | none => []
  let s1 := (s.unuseRecs r.ctx (r.handle :: refs)).untranslate r.ctx r.handle
  if ok then
    s1.relocate r.ctx r.handle fun x =>
      { x with tier := x.atPlace, ddepth := 0, mratio := 0, moving := false, rebuild := 0, redo := none }
  else
    ((s1.dropLines r).freeCells r.ctx r.handle).mapRec r.ctx r.handle fun x =>
      { x with rfail := true, moving := false, rebuild := 0, redo := none, pages := [], mem := [], bad := [] }

/-- RECIPE_REISSUE: the next record of the recipe that the re-issue follows is issued on the tensor's home's sequencer at priority 0,
one launch after another; a launch that fails its checks fails the attempt (R379). -/
def State.reissue (s : State) (r : Rec) : State :=
  match r.redo with
  | none => s.endRebuild r false
  | some p =>
    if p.nrec < r.rebuild then s.endRebuild r true
    else
      let w := s.recipeRecord r.ctx p (r.rebuild - 1)
      let a : Ask := ⟨r.ctx, r.home, w.1, w.2, 0, .recipe r.handle, 0, 0, none, []⟩
      let (n, _, s1) := (s.homeFetch r.ctx p.stream (p.off + 32 * (r.rebuild - 1)) 32).beginLaunch a false
      if n = 0xFF then s1.mapRec r.ctx r.handle fun x => { x with rebuild := x.rebuild + 1 } else s.endRebuild r false

/-- The new pages of a tensor that is rebuilt hold nothing that the spec gives: free values (log 8). -/
def State.freePages (s : State) (r : Rec) : State :=
  let n := ceilDiv r.bytes 64
  let base := s.free
  { s with free := s.free + n
           recs := s.recs.map fun x => if x.ctx = r.ctx ∧ x.handle = r.handle then
             (List.range n).foldl (fun x g => x.putGran g (Config.freeGranule (base + g))) x else x }

/-- What an attempt comes to so far. -/
inductive Attempt where
  | ok
  | fail
  | pending
  deriving DecidableEq, Repr

/-- What a reference to a tensor comes to without more ado: one that is resident, or whose last attempt failed, or that a re-issue
is rebuilding (R379, R381). -/
def State.settledRef (s : State) (ctx h : Nat) : Option Attempt :=
  match s.recAt ctx h with
  | none => some .fail
  | some r => if !r.away then some .ok else if r.rfail then some .fail else if r.rebuild ≠ 0 then some .pending else none

/-- MakeResident (R379), to a recursion depth of `n`: recipes that name one another in a ring wait for ever. Every reference of the
recipe is made resident, its stream, kernels and argument blocks after its inputs (log 93). -/
def State.makeResident (ctx : Nat) : Nat → Nat → State → Attempt × State
  | 0, h, s => ((s.settledRef ctx h).getD .pending, s)
  | n + 1, h, s =>
    match s.settledRef ctx h, s.recAt ctx h with
    | some a, _ => (a, s)
    | none, none => (.fail, s)
    | none, some r =>
      if r.tier = .lpddr then
        match s.placeIn ctx h r.home (r.place == 0) r.footprint r.footprint with
        | (some pages, s1) => (.ok, (s1.dropLines r).relocate ctx h fun r => { r with tier := r.atPlace, pages := pages })
        | (none, s1) => (.fail, s1.failResident ctx h)
      else
        match r.recipe with
        | none => (.fail, s.failResident ctx h)
        | some p =>
          let each (a : Attempt × State) (l : List Nat) : Attempt × State := l.foldl (fun (a : Attempt × State) i =>
            match a with | (.ok, s) => State.makeResident ctx n i s | r => r) a
          let inputs := each (.ok, s) (p.inputs ++ [p.stream])
          match each inputs (inputs.2.recipeRefs ctx p) with
          | (.fail, s1) => (.fail, s1.failResident ctx h)
          | (.pending, s1) => (.pending, s1)
          | (.ok, s1) =>
            let s2 := s1.useRecs ctx (h :: s1.recipeRefs ctx p)
            let (pages, s3) := s2.placeIn ctx h r.home (r.place == 0) r.fullFootprint r.fullFootprint
            let refs := (s1.recipeRefs ctx p).drop p.names.length
            let t := { r with rebuild := 1, redo := some { p with refs := refs } }
            let s4 := (s3.untranslate ctx h).mapRec ctx h fun x =>
              { x with moving := true, rebuild := 1, redo := t.redo, pages := pages.getD [] }
            if pages.isSome then (.pending, (s4.freePages t).reissue t) else (.fail, s4.endRebuild t false)

/-- Bring a tensor back (R379): no chain of references is longer than the number of records. -/
def State.bringBack (s : State) (ctx h : Nat) : Attempt × State := State.makeResident ctx (s.recs.length + 1) h s

/-- MAKE_RESIDENT: a reference to a spilled or dropped tensor brings it back, starts its recipe, or sets RFAIL (R379). -/
def execMakeResident (id handle : Nat) (s : State) : Host.Outcome State Fault Refusal :=
  .next ([0, 1, 2, 3].foldl State.tryAllNamed (s.bringBack id handle).2)

/-- LAUNCH_COMPLETE at launch `unit`: every task has ended and every operation that they accepted has completed (R323,
R379). -/
def execLaunchComplete (s : State) : Host.Outcome State Fault Refusal :=
  match s.launch? s.unit with
  | none => .fault .noSuchUnit
  | some l =>
    if !s.launchDone l then .next s
    else
      let s1 := s.endLaunch l
      match l.dst with
      | .recipe h =>
        match s1.recAt l.ctx h with
        | some r => .next ([0, 1, 2, 3].foldl State.tryAllNamed (if l.nfail = 0 then s1.reissue r else s1.endRebuild r false))
        | none => .next s1
      | _ => .next s1

end Sys2Proof.Machine
end

