-- ==== Sys2Proof/Machine/Records.lean ====
section
/-! DEFINITION. Operator streams and their records: launches, named tasks, mailboxes, residency, scans, windows
(spec/14_die_dispatch_specialisation.md R318 to R328, R341; spec/18_package_residency.md R384 to R390;
spec/19_package_memory.md R396; spec/23_fabric.md R437, R438). -/
namespace Sys2Proof.Machine

/-! ## Running a record (R319 to R321) -/

/-- What a record comes to: the stream goes on, waits at it, or faults. -/
inductive Recd where
  | done (s : State)
  | wait (s : State)
  | fault (code : Nat) (s : State)
  deriving DecidableEq, Repr

/-- A stream's next offset, at which it may end (R318). -/
def Stream.past (x : Stream) : Stream :=
  { x with off := x.off + 32, run := if x.stop_ ≤ x.off + 32 then .ended else .running }

/-- A completion value with the event flag, which takes bit 7 of the status: PRESUMED (R409, log 18). -/
def flaggedWord (v : Nat) (flag : Bool) : List Byte := toBytes 8 (v + if flag then 0x80 else 0)

/-- The event flag of a context, shown in its first queue's completion word once there is one (R409). -/
def State.setFlag (s : State) (ctx : Nat) (flag : Bool) : State :=
  let s1 := s.mapCtx ctx fun c => { c with flag := flag }
  match (s.ctx? ctx).bind (·.word) with
  | some (a, v) => { s1 with host := { s1.host with mem := s1.host.mem.writeN a (flaggedWord v flag) } }
  | none => s1

/-- An event is kept for the host, and the flag tells of it (R321, R409). -/
def State.postEvent (s : State) (ctx : Nat) (w : W64) : State :=
  (s.mapCtx ctx fun c => { c with events := c.events ++ [w] }).setFlag ctx true

/-- A stream fault stops the stream at the record and is reported (R321). -/
def State.streamFault (s : State) (st : StreamId) (ctx code : Nat) : State :=
  (s.mapStream st fun x => { x with run := .faulted code }).postEvent ctx (eventWord 1 st.die st.slot code)

/-- The stream may take its next record, or try the one at which it waits: it neither faulted, nor ended, nor stands at a
PHASE, and the host has not asked it to stop at its next record (R409). -/
def Stream.canRun (x : Stream) : Bool := match x.run with | .running => !x.stop | .waiting => true | _ => false

/-- The sequencer takes a stream's record: it reads it at its home, once, and the stream is the last that executed (R319, R391). -/
def State.taken (s : State) (st : StreamId) (x : Stream) : State :=
  (if x.run = .waiting then s else s.homeFetch x.ctx x.handle x.off 32).mapDie st.die fun y => { y with lastStream := st.slot }

/-- Execute the record at which a stream stands (R319). A waiting stream that tries again in vain has not executed. -/
def onStream (st : StreamId) (s : State) (k : Stream → Context → State → Recd) : Host.Outcome State Fault Refusal :=
  match s.streamAt st with
  | none => .fault .noSuchUnit
  | some x =>
    match s.ctx? x.ctx with
    | none => .fault .noSuchUnit
    | some c =>
      if !x.canRun || c.rollback then .next s
      else
        match k x c (s.taken st x) with
        | .done s1 => .next (s1.mapStream st Stream.past)
        | .wait s1 =>
          let s2 := if x.run = .waiting then s1.mapDie st.die fun y => { y with lastStream := (s.dieAt st.die).lastStream } else s1
          .next (s2.mapStream st fun y => { y with run := .waiting })
        | .fault n s1 => .next (s1.streamFault st x.ctx n)

/-- A named task or mailbox that a signal names is in range and allocated; otherwise the fault (R321). -/
def Context.sigFault (c : Context) (die kind id : Nat) : Option Nat :=
  if kind = 3 ∨ (kind = 2 ∧ 255 < id) then some 0x02
  else if kind = 1 ∧ c.allocated die 3 id = false then some 0x03
  else if kind = 2 ∧ c.allocated die 2 id = false then some 0x03
  else none

/-- What making a tensor resident comes to for a record: the stream waits, faults with 0x07, or goes on (R379, R384). -/
def reached (r : Attempt × State) (k : State → Recd) : Recd :=
  match r with
  | (.pending, s) => .wait s
  | (.fail, s) => .fault 0x07 s
  | (.ok, s) => k s

/-- The rest of a record, after a fault check. -/
def faultIf (o : Option Nat) (s : State) (k : Recd) : Recd := match o with | some n => .fault n s | none => k
def failWhen (b : Bool) (n : Nat) (s : State) (k : Recd) : Recd := if b then .fault n s else k

/-- The record at which a stream stands, as the sequencer reads it (R319, R320). -/
def State.recordOf (s : State) (st : StreamId) (x : Stream) : Option Instr :=
  match (s.recAt x.ctx x.handle).map s.asRead with
  | none => none
  | some r => decodeRecord st ((List.range 8).map fun i => r.word (x.off + 4 * i) 4)

/-! ## Launches, named tasks, mailboxes -/

/-- Bring a tensor that a stream's record needs into reach, with the dropped tensors that a write to it needs first
(R379, R380). -/
def State.reach (s : State) (ctx h : Nat) (write : Bool) : Attempt × State :=
  match s.bringBack ctx h with
  | (.ok, s1) =>
    if !write then (.ok, s1)
    else match s1.dependent ctx h with
      | none => (.ok, s1)
      | some d => (.pending, (s1.bringBack ctx d).2)
  | r => r

/-- Bring the live ones of some tensors that a record reads into reach (R379). -/
def State.reachAll (s : State) (ctx : Nat) (hs : List Nat) : Attempt × State :=
  (hs.filter fun h => (s.liveRec ctx h).isSome).foldl (fun (a : Attempt × State) h =>
    match a with | (.ok, s) => s.reach ctx h false | r => r) (.ok, s)

/-- OPLAUNCH (R322, R323): the kernel image and the argument block are resident before they are read (R379; log 93). -/
def execOplaunch (st : StreamId) (o : OpLaunch) (s : State) : Host.Outcome State Fault Refusal :=
  onStream st s fun x c s =>
    faultIf (c.sigFault st.die o.sigKind o.sigId) s
      (if s.slotBusy st x.serial o.slot then .wait s
       else reached (s.reachAll x.ctx [o.kernel, o.args]) fun s =>
         let a : Ask := ⟨x.ctx, st.die, o.kernel, o.args, o.pri, .slot st x.serial o.slot, o.sigKind, o.sigId, none, []⟩
         .done (s.launchSlot a st x.serial o.slot true))

/-- PHASE: the stream stands at it until the commit (R326), and is the one that executed last (R319). -/
def execPhase (st : StreamId) (s : State) : Host.Outcome State Fault Refusal :=
  match s.streamAt st with
  | none => .fault .noSuchUnit
  | some x =>
    let back := match s.ctx? x.ctx with | some c => c.rollback | none => true
    if !x.canRun || back then .next s
    else .next ((s.taken st x).mapStream st fun y => { y with run := .atPhase })

/-- TASKDEF (R327). -/
def execTaskdef (st : StreamId) (o : TaskDef) (s : State) : Host.Outcome State Fault Refusal :=
  onStream st s fun x c s =>
    failWhen (!c.allocated st.die 3 o.n) 0x03 s
      (.done (s.putNamed st.die o.n
        { s.namedAt st.die o.n with defn := some ⟨x.ctx, st.slot, x.serial, o.slot, o.pri, o.kernel, o.args⟩ }))

/-- TASKARM: a count of 0 makes the task ready at once (R327). -/
def execTaskarm (st : StreamId) (n count : Nat) (s : State) : Host.Outcome State Fault Refusal :=
  onStream st s fun x c s =>
    failWhen (!c.allocated st.die 3 n) 0x03 s
      (failWhen (s.namedAt st.die n).defn.isNone 0x05 s
        (let y := s.namedAt st.die n
         let now := if count = 0 then y.defn.toList else []
         let s1 := s.setNamed x.ctx st.die n { y with count := count, armed := count != 0, ready := y.ready ++ now }
         .done (s1.tryNamed st.die n)))

/-! ## Writing tensors from a stream -/

/-- Write bytes of a result tensor with a release at .sy, then go on (R325, R390). -/
def writeResult (s : State) (ctx h off : Nat) (bs : List Byte) (k : State → Recd) : Recd :=
  reached (s.reach ctx h true) fun s => k ((s.beforeWrite ctx h off bs.length false).homeWrite ctx h off bs).2

/-- The 16 bytes of a launch slot's record (R323). -/
def LaunchSlot.image (l : LaunchSlot) : List Byte :=
  toBytes 16 (l.status + l.cause * 2 ^ 8 + l.nfail * 2 ^ 32 + l.ford * 2 ^ 64)

/-- OPWAIT (R325). -/
def execOpwait (st : StreamId) (mask : Nat) (cont : Bool) (handle : Nat) (s : State) : Host.Outcome State Fault Refusal :=
  onStream st s fun x _ s =>
    let named := (List.range 16).filter (bit mask)
    let status (i : Nat) : Nat := (Store.get LaunchSlot.empty x.slots i).status
    let bad := handle != 0 && (match s.liveRec x.ctx handle with | none => true | some r => r.bytes < 256)
    failWhen bad 0x02 s
      (if named.any fun i => status i == 0xFE || status i == 0xFF then .wait s
       else
         let finish (s : State) : Recd := failWhen (!cont && named.any fun i => status i != 0) 0x06 s (.done s)
         if handle = 0 then finish s
         else writeResult s x.ctx handle 0
           ((List.range 16).flatMap fun i => (Store.get LaunchSlot.empty x.slots i).image) finish)

/-- MBOXBIND (R328). -/
def execMboxbind (st : StreamId) (o : MboxBind) (s : State) : Host.Outcome State Fault Refusal :=
  onStream st s fun x c s =>
    failWhen (!c.allocated st.die 2 o.m) 0x03 s
      (failWhen (s.boxAt st.die o.m).bound.isSome 0x05 s
        (.done (s.putBox st.die o.m { s.boxAt st.die o.m with bound := some (o.pri, o.kernel, o.args, x.ctx) })))

/-- MBOXFREE: it waits for the running handler, no further one launching, discards the queued messages and unbinds; a NOTIFY that waited returns
UNBOUND (R328). -/
def execMboxfree (st : StreamId) (m : Nat) (s : State) : Host.Outcome State Fault Refusal :=
  onStream st s fun _ c s =>
    let b := s.boxAt st.die m
    failWhen (!c.allocated st.die 2 m) 0x03 s
      (if b.bound.isNone then .done s
       else if b.busy then .wait (s.putBox st.die m { b with closing := true })
       else .done (b.waiting.foldl (fun s w => if w.1 = 0 then s else s.reply w.1 0 3 [] false)
              (s.putBox st.die m Mailbox.init)))

/-- SPECFLUSH (R341). -/
def execSpecflush (st : StreamId) (all : Bool) (handle : Nat) (s : State) : Host.Outcome State Fault Refusal :=
  onStream st s fun x _ s =>
    let flush (s : State) (p : SpecEntry → Bool) : Recd :=
      .done ((s.mapDie st.die fun y =>
        { y with spec := y.spec.map fun e => if e.ctx = x.ctx ∧ p e = true then { e with flushed := true } else e }).pruneSpec st.die)
    if all then flush s fun _ => true
    else match s.liveRec x.ctx handle with
      | none => .fault 0x08 s
      | some _ => reached (s.reach x.ctx handle false) fun s =>
        flush s fun e => match s.recAt x.ctx handle with | some r => e.digest == r.digest | none => false

/-! ## Residency (spec/18 R384 to R390) -/

/-- TDECL's first check (R385). -/
def TDecl_bad (o : TDecl) (present : Bool) : Bool :=
  let ext := [o.e0, o.e1, o.e2, o.e3]
  let used := ext.take (o.rank + 1)
  let f := Fmt.ofCode o.fmt
  let w := if o.raw then 8 else (match f with | some f => f.width | none => 0)
  let e := used.foldl (· * ·) 1
  let mx := !o.raw && (match f with | some f => f.isMx | none => false)
  let plane := ceilDiv (e * w) 8
  let bytes := if mx then ceilDiv plane 64 * 64 + e / 32 else plane
  o.handle == 0 || f.isNone || f == some .e8m0 || (o.raw && o.fmt != 0) || used.any (· == 0) ||
    (ext.drop (o.rank + 1)).any (· != 0) || (mx && (used.getLastD 1) % 32 != 0) || 2 ^ 40 ≤ bytes || !present

/-- The record that TDECL makes (R365, R385). -/
def TDecl_record (o : TDecl) (ctx phase : Nat) : Rec :=
  { ctx := ctx, handle := o.handle, fmt := o.fmt, raw := o.raw, ext := [o.e0, o.e1, o.e2, o.e3].take (o.rank + 1)
    home := o.die, place := if o.place = 0 then 0 else 1, key := o.key, tier := if o.place = 0 then .pool else .hbm
    live := true, retained := false, nextUse := costOff, recipe := none, redo := none, rcp := false, pver := 0, mratio := 0, pins := 0
    ddepth := 0, moving := false, rfail := false, users := 0, rebuild := 0, pages := [], packed := 0, image := [], mem := []
    bad := [], copies := [], declared := phase, releasedIn := none }

/-- TDECL (R385): the stream goes on once the pages are allocated; its zero bits stand in them. -/
def execTdecl (st : StreamId) (o : TDecl) (s : State) : Host.Outcome State Fault Refusal :=
  onStream st s fun x c s =>
    let k := Store.get KeySlot.empty s.keys o.key
    failWhen (TDecl_bad o (s.diePresent o.die)) 0x02 s
      (failWhen (!(k.valid && k.owner == x.ctx && o.key != 0)) 0x03 s
        (failWhen (s.recAt x.ctx o.handle).isSome 0x05 s
          (let r := TDecl_record o x.ctx c.phase
           match s.placeIn x.ctx o.handle o.die (o.place == 0) r.fullFootprint r.fullFootprint with
           | (none, s1) => .fault 0x07 s1
           | (some pages, s1) =>
             .done ({ s1 with recs := s1.recs ++ [{ r with pages := pages }] }.storeCells x.ctx o.handle))))

/-- A handle of 0 is out of range, and one without a live record fails (R384). -/
def handleFault (s : State) (ctx h : Nat) : Option Nat :=
  if h = 0 then some 0x02 else if (s.liveRec ctx h).isNone then some 0x08 else none

/-- TUSE (R386). -/
def execTuse (st : StreamId) (uses : List (Nat × Nat)) (s : State) : Host.Outcome State Fault Refusal :=
  onStream st s fun x c s =>
    failWhen (uses.isEmpty || uses.any fun u => u.1 == 0) 0x02 s
      (failWhen (uses.any fun u => (s.liveRec x.ctx u.1).isNone) 0x08 s
        (.done (uses.foldl (fun s u =>
          s.mapRec x.ctx u.1 fun r => { r with nextUse := if u.2 = 4095 then costOff else (c.cstep + u.2) % 2 ^ 32 }) s)))

/-- TRECIPE (R387): the stream tensor is resident before its range is read (R379). -/
def execTrecipe (st : StreamId) (o : TRecipe) (s : State) : Host.Outcome State Fault Refusal :=
  onStream st s fun x _ s =>
    let inputs := [o.in0, o.in1, o.in2, o.in3].take o.nin
    let n := o.nrec + 1
    let words (r : Rec) (i : Nat) : List Nat := (List.range 8).map fun j => r.word (o.off + 32 * i + 4 * j) 4
    let launches (r : Rec) : List (Option OpLaunch) := (List.range n).map fun i =>
      match decodeRecord st (words r i) with
      | some (.oplaunch _ l) => if l.sigKind = 0 then some l else none
      | _ => none
    failWhen (o.off % 32 != 0 || 2 ^ 27 ≤ o.off || 4 < o.nin || o.target == 0 || o.stream == 0 || inputs.any (· == 0)) 0x02 s
      (failWhen ((o.target :: o.stream :: inputs).any fun h => (s.liveRec x.ctx h).isNone) 0x08 s
        (reached (s.reach x.ctx o.stream false) fun s =>
         match s.liveRec x.ctx o.stream with
         | none => .fault 0x08 s
         | some r0 =>
           failWhen (decide (r0.bytes < o.off + 32 * n)) 0x02 s
             (let r := s.asRead r0
              let s := s.homeFetch x.ctx o.stream o.off (32 * n)
              failWhen ((launches r).any (·.isNone)) 0x02 s
                (failWhen ((launches r).any fun l =>
                    match l with
                    | some l => (s.liveRec x.ctx l.kernel).isNone || (s.liveRec x.ctx l.args).isNone
                    | none => false) 0x08 s
                  (let p : Recipe := ⟨o.stream, o.off, n, o.work, inputs, []⟩
                   .done (s.mapRec x.ctx o.target fun t =>
                     { t with recipe := some { p with refs := r.refsOf p }, rcp := true, rfail := false }))))))

/-- TRELEASE: it waits until the tensor is not running, and the record is retained until a later commit (R388). -/
def execTrelease (st : StreamId) (handle : Nat) (s : State) : Host.Outcome State Fault Refusal :=
  onStream st s fun x c s =>
    faultIf (handleFault s x.ctx handle) s
      (match s.liveRec x.ctx handle with
       | none => .fault 0x08 s
       | some r =>
         if r.pins ≠ 0 then .fault 0x05 s
         else if r.running || r.moving then .wait s
         else .done ((s.dropLines r).mapRec x.ctx handle fun r =>
                { r with live := false, retained := true, releasedIn := some c.phase }))

/-- Make a tensor resident and unpacked in one tier of its home die, under Room; a running tensor is not moved (R373,
R389). -/
def State.intoTier (s : State) (ctx h : Nat) (pool : Bool) : Attempt × State :=
  match s.bringBack ctx h with
  | (.ok, s1) =>
    match s1.recAt ctx h with
    | none => (.fail, s1)
    | some r =>
      let here := if pool then r.inPool else r.inHbm
      if here && r.packed == 0 then (.ok, s1)
      else if r.running then (.pending, s1)
      else
        let need := if here then r.fullFootprint - r.packed else r.fullFootprint
        let s2 := s1.mapRec ctx h fun r => { r with moving := true }
        let (pages, s3) := s2.placeIn ctx h r.home pool need r.fullFootprint
        let s4 := s3.mapRec ctx h fun r => { r with moving := false }
        match pages with
        | none => (.fail, s4)
        | some ps =>
          (.ok, (s4.dropLines r).relocate ctx h fun r =>
            { r with tier := if pool then .pool else .hbm, packed := 0, image := [], pages := ps })
  | r => r

/-- TPIN (R389). -/
def execTpin (st : StreamId) (tier handle : Nat) (s : State) : Host.Outcome State Fault Refusal :=
  onStream st s fun x _ s =>
    failWhen (tier == 3) 0x02 s
      (faultIf (handleFault s x.ctx handle) s
        (match s.liveRec x.ctx handle with
         | none => .fault 0x08 s
         | some r =>
           let pool := if tier = 0 then r.place == 0 else tier == 1
           let here := if pool then r.inPool else r.inHbm
           if r.pins = 255 ∨ (r.pins ≠ 0 ∧ here = false) then .fault 0x02 s
           else if r.rfail then .fault 0x07 s
           else reached (s.intoTier x.ctx handle pool) fun s =>
             .done (s.mapRec x.ctx handle fun r => { r with pins := r.pins + 1 })))

/-- TUNPIN (R389). -/
def execTunpin (st : StreamId) (handle : Nat) (s : State) : Host.Outcome State Fault Refusal :=
  onStream st s fun x _ s =>
    faultIf (handleFault s x.ctx handle) s
      (match s.liveRec x.ctx handle with
       | none => .fault 0x08 s
       | some r =>
         failWhen (r.pins == 0) 0x05 s (.done (s.mapRec x.ctx handle fun r => { r with pins := r.pins - 1 })))

/-- The residency record image (R365). -/
def Rec.recordImage (r : Rec) (written : Bool) : Nat :=
  let ext (i : Nat) : Nat := (r.ext[i]?).getD 0
  let p := r.recipe.getD ⟨0, 0, 1, 0, [], []⟩
  let inp (i : Nat) : Nat := (p.inputs[i]?).getD 0
  r.bytes * 2 ^ 472 + ext 3 * 2 ^ 440 + ext 2 * 2 ^ 408 + ext 1 * 2 ^ 376 + ext 0 * 2 ^ 344 + r.nextUse * 2 ^ 288 +
    p.work * 2 ^ 256 + inp 3 * 2 ^ 236 + inp 2 * 2 ^ 216 + inp 1 * 2 ^ 196 + inp 0 * 2 ^ 176 + p.stream * 2 ^ 156 +
    (p.nrec - 1) * 2 ^ 153 + p.inputs.length * 2 ^ 150 + p.off / 32 * 2 ^ 128 + r.pver * 2 ^ 96 + r.mratio * 2 ^ 80 +
    r.pins * 2 ^ 72 + (if r.tier = .dropped then r.ddepth else 0) * 2 ^ 69 + r.key * 2 ^ 60 + r.ctx * 2 ^ 48 +
    ofBool r.retained * 2 ^ 47 + ofBool written * 2 ^ 46 + ofBool r.rcp * 2 ^ 45 + ofBool r.running * 2 ^ 44 +
    ofBool r.moving * 2 ^ 43 + r.tier.code * 2 ^ 40 + ofBool r.rfail * 2 ^ 39 + r.place * 2 ^ 38 + r.home * 2 ^ 36 +
    (r.ext.length - 1) * 2 ^ 34 + ofBool r.raw * 2 ^ 33 + r.fmt * 2 ^ 28 + r.handle

/-- TQUERY: an image of zeros where the handle has no record (R390). -/
def execTquery (st : StreamId) (handle result : Nat) (s : State) : Host.Outcome State Fault Refusal :=
  onStream st s fun x _ s =>
    let short := match s.liveRec x.ctx result with | some r => r.bytes < 64 | none => true
    failWhen (handle == 0 || result == 0) 0x02 s
      (failWhen short 0x08 s
        (writeResult s x.ctx result 0
          (toBytes 64 (match s.recAt x.ctx handle with | some r => r.recordImage (s.written r) | none => 0)) Recd.done))

/-! ## SCAN at issue (spec/19 R396) -/

/-- The formats that a SCAN takes (R396). -/
def scanFmt (f : Fmt) : Bool :=
  match f with
  | .i8 | .i16 | .i32 | .n8 | .n16 | .n32 | .f32 | .f16 | .bf16 | .e5m2 | .e4m3 => true
  | _ => false

/-- The check of a SCAN's words (R396, step 1). -/
def Scan_bad (o : Scan) : Bool :=
  match Fmt.ofCode o.fmt with
  | none => true
  | some f =>
    !scanFmt f || 2 ^ f.width ≤ o.thr || 2 ^ 24 < o.cap || (o.abs && f.isInt && !f.isSigned) || o.count == 0 ||
      o.sigKind == 3 || (o.sigKind == 2 && 255 < o.sigId) || o.src == 0 || o.res == 0

/-- SCAN (R396): the source and the result are running until the scan completes (R373). -/
def execScan (st : StreamId) (o : Scan) (s : State) : Host.Outcome State Fault Refusal :=
  onStream st s fun x c s =>
    failWhen (Scan_bad o) 0x02 s
      (faultIf (c.sigFault st.die o.sigKind o.sigId) s
        (match s.liveRec x.ctx o.src, s.liveRec x.ctx o.res with
         | some r, some d =>
           failWhen (r.fmt != o.fmt || r.raw || decide (r.elems < o.first + o.count) || decide (d.bytes < 64 + 8 * o.cap) ||
               (r.pins != 0 && r.inPool)) 0x02 s
             (reached (s.intoTier x.ctx o.src false) fun s =>
                let (id, s2) := s.fresh
                .done { s2.useRecs x.ctx [o.src, o.res] with scans := s2.scans ++ [⟨id, st.die, x.ctx, o⟩] })
         | _, _ => .fault 0x08 s))

/-! ## Windows of the fabric (spec/23 R437, R438) -/

def State.windowAt (s : State) (w : Nat) : Window := Store.get Window.free s.fabric.windows w
def State.setWindow (s : State) (w : Nat) (x : Window) : State :=
  { s with fabric := { s.fabric with windows := Store.set Window.free s.fabric.windows w x } }

/-- TEXPORT (R437). It pins as TPIN does (R389): a tensor pinned outside its placement tier is fault 0x02, one that cannot be
rebuilt 0x07, after the checks of R437: DESIGN CHOICE (log 113). -/
def execTexport (st : StreamId) (o : TExport) (s : State) : Host.Outcome State Fault Refusal :=
  onStream st s fun x c s =>
    let r := s.liveRec x.ctx o.handle
    let range := match r with | some r => decide (ceilDiv r.bytes 64 < o.first + o.count) || r.pins == 255 | none => false
    failWhen (o.acc == 0 || o.count == 0 || o.handle == 0 || range) 0x02 s
      (failWhen c.owner.isNone 0x03 s
        (match r with
         | none => .fault 0x08 s
         | some r =>
           failWhen ((s.windowAt o.w).state != 0) 0x05 s
             (failWhen (r.pins != 0 && !(if r.place = 0 then r.inPool else r.inHbm)) 0x02 s
             (failWhen r.rfail 0x07 s
             (reached (s.intoTier x.ctx o.handle (r.place == 0)) fun s =>
                let y : Window := ⟨1, o.acc, x.ctx, o.peer, o.first, o.count, o.handle, none⟩
                .done ((s.mapRec x.ctx o.handle fun r => { r with pins := r.pins + 1 }).setWindow o.w y))))))

/-- TREVOKE: the stream waits from here until the window has drained (R438). -/
def execTrevoke (st : StreamId) (w : Nat) (s : State) : Host.Outcome State Fault Refusal :=
  onStream st s fun x _ s =>
    let y := s.windowAt w
    if y.revoker = some st then (if y.state = 3 then .done (s.setWindow w { y with revoker := none }) else .wait s)
    else failWhen (y.state != 1 || y.ctx != x.ctx || y.revoker.isSome) 0x05 s
      (.wait (s.setWindow w { y with revoker := some st }))

end Sys2Proof.Machine
end

