-- ==== Sys2Proof/Machine/Packets.lean ====
section
/-! DEFINITION. Fabric packets: their header, tag and sequence numbers, and sending them (spec/23_fabric.md R428 to R433,
R441, R442). -/
namespace Sys2Proof.Machine

/-- Bytes 0 to 47 of a packet's header flit (R430); OFFSET has 40 bits. -/
def fabHeader (p : FabPacket) : Nat :=
  p.bmask * 2 ^ 128 + p.off % 2 ^ 40 * 2 ^ 88 + p.seq * 2 ^ 56 + p.owner * 2 ^ 50 + p.op * 2 ^ 46 + p.src * 2 ^ 38 + p.dst * 2 ^ 30 +
    p.win * 2 ^ 20 + p.tag * 2 ^ 8 + p.ng * 2 ^ 6 + p.status * 2 ^ 3

/-- The tag of a packet (R430): AES-256-GMAC over bytes 0 to 47 and the payload; the nonce holds the link's epoch, the
sending port and SEQ, 32 bits each in that order: PRESUMED (log 19). -/
def fabTag (p : FabPacket) (key : BitVec 256) : BitVec 128 :=
  BitVec.ofNat 128 (Crypto.gmac key.toNat (Crypto.natBytes 4 p.epoch ++ Crypto.natBytes 4 p.sender ++ Crypto.natBytes 4 p.seq)
    (toBytes 48 (fabHeader p) ++ p.payload.flatMap fun v => toBytes 64 v.toNat))

/-- The check value of an Ethernet frame under its owner's secure association (R442): the addresses, the queue pair, the fields
and the payload are covered; its layout and its nonce, those of R430, are the model's choice (log 114). -/
def etherTag (p : FabPacket) : BitVec 128 :=
  BitVec.ofNat 128 (Crypto.gmac (Config.macsecKey p.owner).toNat
    (Crypto.natBytes 4 p.epoch ++ Crypto.natBytes 4 p.sender ++ Crypto.natBytes 4 p.seq)
    (toBytes 16 p.dst ++ toBytes 16 p.src ++ toBytes 16 p.qp ++ toBytes 48 (fabHeader { p with dst := 0, src := 0, owner := 0 }) ++
      p.payload.flatMap fun v => toBytes 64 v.toNat))

/-- The package's pod number, 0 to 143 (R428). -/
def podNumber : Nat := Config.podNumber % 144

def State.portAt (s : State) (n : Nat) : Port := Store.get Port.init s.fabric.ports n
def State.setPort (s : State) (n : Nat) (x : Port) : State :=
  { s with fabric := { s.fabric with ports := Store.set Port.init s.fabric.ports n x } }
def Port.entry (x : Port) (o : Nat) : OwnerEntry := Store.get OwnerEntry.empty x.owners o
def Port.setEntry (x : Port) (o : Nat) (e : OwnerEntry) : Port := { x with owners := Store.set OwnerEntry.empty x.owners o e }

/-- Package port numbers, and after them the four Ethernet ports of dies 2 and 3 (R428, R442). -/
def scalePorts : Nat := 64

/-- SEQ_RETRAIN: when SEQ would reach 2^32 the link retrains, which advances its epoch, and SEQ begins again (R430). -/
def Port.nextSeq (x : Port) (o : Nat) : Nat × Port :=
  let n := Store.get 0 x.seq o
  if n + 1 < 2 ^ 32 then (n, { x with seq := Store.set 0 x.seq o (n + 1) })
  else (0, { x with epoch := (x.epoch + 1) % 2 ^ 32, seq := Store.set 0 [] o 1 })

/-- Put the sequence number, the sender and the tag on a packet that leaves by a port. -/
def State.sealPacket (s : State) (port : Nat) (p : FabPacket) : FabPacket × State :=
  let x := s.portAt port
  let (n, x) := x.nextSeq p.owner
  let q := { p with seq := n, epoch := x.epoch, sender := port, src := if port < scalePorts then podNumber else Config.etherAddr port }
  ({ q with mac := if port < scalePorts then fabTag q (x.entry p.owner).key else etherTag q }, s.setPort port x)

/-- An owner's packets may use a port: it is up and the entry is active (R432). -/
def State.portOk (s : State) (port owner : Nat) : Bool :=
  s.hasPort port && (scalePorts ≤ port || !(s.portAt port).down && ((s.portAt port).entry owner).state == 1)

/-- The next plane in rotation on which a context's owner is active, other than `not` where another is usable (R441). -/
def State.nextPlane (s : State) (ctx : Nat) (not : Option Nat) : Option (Nat × State) :=
  let ps := s.planes ctx
  let qs := match not with | some p => (let r := ps.filter (· != p); r) | none => ps
  if qs.isEmpty then none
  else (qs[s.fabric.rotate % qs.length]?).map fun p => (p, { s with fabric := { s.fabric with rotate := s.fabric.rotate + 1 } })

/-- Send a request of a remote copy: over a plane, or over an Ethernet port. Without a path its status is 4 (R441). -/
def State.sendOut (s : State) (r : RemoteOut) (not : Option Nat) : State :=
  let put (s : State) (x : RemoteOut) : State := { s with fabric := { s.fabric with out := s.fabric.out ++ [x] } }
  if r.eth then
    match s.etherPorts[s.fabric.rotate % s.etherPorts.length]? with
    | none => put s { r with status := some 4 }
    | some p =>
      let (q, s1) := s.sealPacket p r.pkt
      put s1 { r with pkt := q, port := p, tries := r.tries + 1 }
  else
    match s.nextPlane r.ctx not with
    | none => put s { r with status := some 4 }
    | some (p, s1) =>
      let (q, s2) := s1.sealPacket p r.pkt
      put s2 { r with pkt := q, port := p, tries := r.tries + 1 }

/-- The requests that await a reply from a node: a TAG names one of them (R430). -/
def State.outstanding (s : State) (r : RemoteOut) : List RemoteOut :=
  s.fabric.out.filter fun x => x.eth == r.eth && x.pkt.dst == r.pkt.dst && x.tries != 0 && x.status.isNone

/-- A TAG that no request outstanding at the node has, the next in rotation. -/
def State.freeTag (s : State) (r : RemoteOut) : Option Nat :=
  let used := (s.outstanding r).map fun x => x.pkt.tag
  ((List.range 4096).map fun i => (r.id + i) % 4096).find? fun t => !used.contains t

/-- A request of a remote copy sets out under a TAG of its own; while every TAG of the node is taken it waits unsent. A write of
a context that is not deterministic has then left (R383). -/
def State.launchOut (s : State) (r : RemoteOut) : State :=
  match s.freeTag r with
  | none => { s with fabric := { s.fabric with out := s.fabric.out ++ [r] } }
  | some t =>
    let s1 := s.sendOut { r with pkt := { r.pkt with tag := t } } none
    if r.pkt.op = 0 then
      s1.mapCtx r.ctx fun k =>
        if k.det || k.egressGone.contains (r.hearth, r.op) then k else { k with egressGone := k.egressGone ++ [(r.hearth, r.op)] }
    else s1

/-- A row of `n` bytes at remote byte offset `off`, cut into packets of at most 4 granules: each with its aligned offset, its
granules and the bytes it covers (R441). -/
def cutRow (off n : Nat) : List (Nat × Nat × Nat) :=
  if n = 0 then []
  else
    let g0 := off / 64
    let g1 := (off + n - 1) / 64
    (List.range ((g1 - g0) / 4 + 1)).map fun i =>
      let a := g0 + 4 * i
      let k := min 4 (g1 + 1 - a)
      let lo := max off (64 * a) - 64 * a
      let hi := min (off + n) (64 * (a + k)) - 64 * a
      (64 * a, k, byteMask lo (hi - lo))

/-- The bytes of a row that a packet covers, at their places in its payload. -/
def packPayload (bs : List Byte) (rowOff off k : Nat) : List V512 :=
  (List.range k).map fun i => packV 8 64 fun j =>
    let a := off + 64 * i + j
    if rowOff ≤ a then ((bs[a - rowOff]?).getD 0).toNat else 0

end Sys2Proof.Machine
end

