-- ==== Sys2Proof/Machine/CopyEngine.lean ====
section
/-! DEFINITION. The copy engine: performing the queued operations of a hearth, with conversion, errors and race checks
(spec/09_memory_instructions.md R230 to R237, R245; spec/06 R156, R157; spec/13 R310, R315, R316; spec/15 R348;
spec/18 R377, R380, R381; spec/23 R439 to R441). -/
namespace Sys2Proof.Machine

/-! ## When an operation may be performed (R232, R375, R379 to R381) -/

/-- The issuing task of a queued operation, as the race detector sees it (R315). -/
def CopyOp.who (o : CopyOp) : Who := ⟨o.ctx, (o.launch, o.ord, o.epoch), o.known, o.sat, o.req⟩

/-- The tensors that an operation writes. -/
def CopyKind.targets : CopyKind → List Nat
  | .tst h _ _ => [h]
  | .copy c => if c.dstTensor && !c.dstRemote then [c.dhandle] else []
  | _ => []

/-- A tensor is within reach of an operation: it is resident and not being moved for another, or its attempt failed. -/
def State.within (s : State) (o : CopyOp) (h : Nat) : Bool :=
  match s.recAt o.ctx h with
  | none => true
  | some r => s.rebuildingBy o.launch r || (!r.moving && (!r.away || r.rfail))

/-- A dropped tensor whose recipe names a target must be made resident first (R380). -/
def State.dependents (s : State) (o : CopyOp) : List Nat :=
  o.kind.targets.filterMap fun h =>
    match s.recAt o.ctx h with
    | some r => if s.rebuildingBy o.launch r then none else s.dependent o.ctx h
    | none => none

/-- The units that a kind 5 copy pops are due and there (R235); those that it took along are. -/
def CopyOp.unitsDue (o : CopyOp) (c : Core) : Bool :=
  match o.kind with
  | .copy d =>
    d.kind != 5 || o.snap.isSome || (let q := (c.flueOf d.flue).q.take d.count
                    q.length == d.count && q.all fun e => e.landed && e.data.isSome)
  | _ => true

/-- The next operation of a queue to be performed: the first that has not been, once every earlier one has had its effect
(R232). -/
def nextOp : List CopyOp → Option CopyOp
  | [] => none
  | o :: r => if !o.performed then some o else if o.awaits = 0 then nextOp r else none

/-- A copy whose remote writes a deterministic context holds until its commit (R313). -/
def State.heldCopy (s : State) (o : CopyOp) : Bool :=
  match o.kind with
  | .copy c => c.dstRemote && (match s.ctx? o.ctx with | some k => k.det | none => false)
  | _ => false

/-- The egress buffer of a die is full: it holds `Config.egressRoom` granules (R313, log 55). -/
def State.egressFull (s : State) (d : Nat) : Bool :=
  Config.egressRoom ≤ ((s.fabric.out.filter fun x => x.held && dieOf x.hearth == d).map fun x => x.pkt.ng + 1).sum

/-- An operation has yet to have its effect. -/
def CopyOp.waits (o : CopyOp) : Bool := !o.performed || o.awaits != 0

/-- Earlier operations of its task in a queue of the hearth from which the task was pre-empted have had their effect (R43,
R232). -/
def State.oldDone (s : State) (o : CopyOp) : Bool :=
  let older (q : List CopyOp) : Bool := q.any fun x => x.launch == o.launch && x.ord == o.ord && x.id < o.id && x.waits
  let coll := s.core.eng.cl.any fun x => x.id == o.id
  !(s.others.any fun e => older (if coll then e.2.eng.cl else e.2.eng.cp))

/-- The scratchpad rows that an operation reads, as (offset, bytes) (R235). -/
def State.padReads (s : State) (o : CopyOp) : List (Nat × Nat) :=
  match o.kind with
  | .copy d => if d.srcPad then s.padRows o d false else []
  | _ => []

/-- Every row of an earlier window fill that an operation reads has arrived (R232, R249). -/
def State.rowsThere (s : State) (o : CopyOp) : Bool :=
  o.snap.isSome || (s.padReads o).all fun p => (s.core.fillsOver o.id p).all fun e => e.2.data.isSome

/-- It may be performed now; a copy whose writes find the egress buffer full waits in its queue (R313). -/
def State.opReady (s : State) (o : CopyOp) : Bool :=
  o.kind.handles.all (s.within o) && (s.dependents o).isEmpty && o.unitsDue s.core && s.rowsThere o && s.oldDone o &&
    !(s.heldCopy o && s.egressFull s.die)

/-- The launch of an operation is a re-issue of a recipe (R379). -/
def State.ofRecipe (s : State) (o : CopyOp) : Bool :=
  match s.launches.find? fun l => l.id == o.launch with
  | some l => (match l.dst with | .recipe _ => true | _ => false)
  | none => false

/-- The tensor bytes of a TLD, TST or TPREF, as handle, offset, length, and whether it writes them. -/
def CopyOp.range (o : CopyOp) : Option (Nat × Nat × Nat × Bool) :=
  match o.kind with
  | .tld _ h off k => some (h, off, 64 * k, false)
  | .tst h off data => some (h, off, 64 * data.length, true)
  | .tpref h off len => some (h, off, len, false)
  | _ => none

/-- Two such operations touch no byte in common that either writes: each may go first (R232). -/
def CopyOp.apart (a b : CopyOp) : Bool :=
  match a.range, b.range with
  | some (h, o, n, w), some (k, p, m, v) => a.ctx != b.ctx || h != k || (!w && !v) || o + n ≤ p || p + m ≤ o
  | _, _ => false

/-- The first ready operation of a queue that is apart from all that it would pass (R232). -/
def State.passing (s : State) : List CopyOp → List CopyOp → Option CopyOp
  | _, [] => none
  | before, o :: r =>
    if !o.performed && before.all (·.apart o) && s.opReady o then some o
    else State.passing s (if o.waits then before ++ [o] else before) r

/-- The operation that the engine performs next: the next of the queue, and while that waits one of a recipe's re-issue, which
may be what it waits for, or one that may pass it (R232, R379, R380): DEDUCED (log 95). -/
def State.nextOf (s : State) (q : List CopyOp) : Option CopyOp :=
  match nextOp q with
  | none => none
  | some o =>
    if s.opReady o then some o
    else match (nextOp (q.filter s.ofRecipe)).filter s.opReady with
      | some p => some p
      | none => (s.passing [] q).or (some o)

/-! ## Reading and writing ranges -/

/-- What reading a byte range gave: its bytes, the poisoned granules with their kind, a race report, the packets that bring it, the
state. -/
structure Got where
  bytes : List Byte
  bad : List (Nat × Nat)
  race : Option Nat
  port : List Nat
  st : State

/-- Read bytes of a tensor for a queued operation (R310, R315, R348): `q` is its queue's bit in a QFENCE mask. -/
def readRange (s : State) (q : Nat) (r : Rec) (w : Who) (off n hint : Nat) : Got :=
  let t := (granulesOf off n).foldl (fun (t : Got) g =>
    let (k, v, s1) := t.st.readGran (squareOf s.coreId) (w.tag.1, w.tag.2.1) r g hint
    let (rep, s2) := s1.raceAccess r.home w (granAddr r.handle g) false
    let s3 := if rep then s2.report q (granAddr r.handle g) w else s2
    { bytes := t.bytes ++ toBytes 64 v.toNat, bad := if k = 0 then t.bad else t.bad ++ [(g, k)]
      race := if rep then t.race.or (some (w.reported (granAddr r.handle g))) else t.race, port := t.port ++ s1.portReads r g, st := s3 }) (Got.mk [] [] none [] s)
  { t with bytes := (t.bytes.drop (off % 64)).take n }

/-- The mark that a landed element carries from what was read (R230, R316). -/
def Got.mark (t : Got) (h : Nat) : Option (Nat × Nat) :=
  match t.race, t.bad with
  | some g, _ => some (0x18, g)
  | none, (g, k) :: _ => some (if k = 2 then 0x21 else 0x20, granAddr h g)
  | none, [] => none

/-- The status of a copy whose granules carry marks; an uncorrectable error stands before a mismatch (R236). -/
def statusOf (l : List Nat) : Nat := if l.any (· == 1) then 1 else if l.any (· == 2) then 2 else 0

/-- Write bytes of a tensor for a queued operation: each granule's write is checked, and a reported one is not performed
(R316); `poison` names the granules that receive poisoned data, which are written with canonical poison and marked (R236); the
answer is the kinds of the marks met. -/
def writeRange (s : State) (q : Nat) (ctx h : Nat) (w : Who) (off : Nat) (bs : List Byte) (hint : Nat) (reissue : Bool)
    (poison : Nat → Nat) : List Nat × State :=
  let n := bs.length
  let s0 := if n = 0 then s else s.beforeWrite ctx h off n reissue
  (granulesOf off n).foldl (fun (a : List Nat × State) g =>
    match a.2.recAt ctx h with
    | none => a
    | some r =>
      let (rep, s1) := a.2.raceAccess r.home w (granAddr h g) true
      if rep then (a.1, s1.report q (granAddr h g) w)
      else
        let k := poison g
        let v := if k ≠ 0 then Config.canonicalPoison else packV 8 64 fun j => if off ≤ 64 * g + j then ((bs[64 * g + j - off]?).getD 0).toNat else 0
        let lo := max off (64 * g) - 64 * g
        let hi := min (off + n) (64 * g + 64) - 64 * g
        let (m, s2) := s1.writeGran (squareOf s.coreId) (w.tag.1, w.tag.2.1) r g hint v (byteMask lo (hi - lo)) k
        (if m = 0 then a.1 else a.1 ++ [m], s2)) ([], s0)

/-! ## Rows of a TCOPY -/

/-- A row on its way: its elements as a bit string, its scales, which elements are poisoned, the status and the state. -/
structure Row where
  bits : Nat
  scales : List Nat
  bad : Nat → Nat
  st : State

/-- The attempt to make a record resident for an operation failed (R381). -/
def State.lost (s : State) (o : CopyOp) (r : Rec) : Bool := r.away && r.rfail && !s.rebuildingBy o.launch r

/-- A row read from a tensor (R235); one that could not be made resident is uncorrectable throughout (R381). -/
def tensorRow (s : State) (o : CopyOp) (q : Nat) (r : Rec) (c : List Int) (count w : Nat) : Row :=
  let off := (r.offsetOf c (count * w)).getD 0
  if s.lost o r then ⟨0, List.replicate (count / 32) 0, fun _ => 1, s⟩ else
  let t := readRange s q r o.who off (ceilDiv (count * w) 8) o.hint
  let raw := bitsOfBytes t.bytes 0 (count * w)
  let kind (l : List (Nat × Nat)) (lo hi : Nat) : Nat := statusOf ((l.filter fun e => lo ≤ e.1 && e.1 ≤ hi).map Prod.snd)
  let elem (i : Nat) : Nat := kind t.bad ((off * 8 + i * w) / 512) ((off * 8 + i * w + w - 1) / 512)
  if r.isMx then
    let so := r.scaleBase + off * 8 / w / 32
    let u := readRange t.st q r o.who so (count / 32) o.hint
    ⟨raw, u.bytes.map BitVec.toNat, fun i => statusOf [elem i, kind u.bad ((so + i / 32) / 64) ((so + i / 32) / 64)],
      u.st⟩
  else ⟨raw, [], elem, t.st⟩

/-- A row read from the scratchpad (R233, R235); its poisoned units are logged (R348). A slot whose row arrived uncorrectable
answers as such (R236, R381). -/
def padRow (s : State) (ctx off n w : Nat) : Row :=
  let ps := placesOf off n
  let bad (i : Nat) : Nat :=
    let qs := ps.drop (i * w / 8) |>.take (ceilDiv w 8)
    match s.core.padCause qs, s.core.rowMark qs with
    | some t, _ => if t.cause = 0x21 then 2 else 1
    | none, some (c, _) => if c = 0x21 then 2 else if c = 0x20 ∨ c = 0x14 then 1 else 0
    | none, none => 0
  ⟨ofBytes (ps.map s.core.pad.mem.read), [], if s.core.bad.isEmpty && s.core.win.all (·.2.marks.isEmpty) then fun _ => 0 else bad,
    if s.core.bad.isEmpty then s else (ps.map (· / 64)).eraseDups.foldl (fun s u => s.sawWords ctx (.pad u) (wordsIn u ps)) s⟩

/-- The conversion of a row (R156, R157): elements, scales, flags. From one MX format to another the values pass through FP32
(R137, log 16). -/
def convertRow (a b : Option Fmt) (count bits : Nat) (scales : List Nat) : Nat × List Nat × Nat :=
  match a, b with
  | some f, some g =>
    if f = g then (bits, scales, 0)
    else
      let vs := (List.range count).map fun i =>
        let e := elemAt f.width bits i
        if f.isMx then (mxVal f ((scales[i / 32]?).getD 0) e, false, 0) else readElem f e
      planeRow g (if f.isMx && g.isMx then vs.map viaF32 else vs)
  | _, _ => (bits, scales, 0)

/-- The worst mark among the elements that a unit of 512 bits receives. -/
def unitMark (bad : Nat → Nat) (count w base u : Nat) : Nat :=
  let first := if u * 512 ≤ base then 0 else (u * 512 - base) / w
  let last := min count (ceilDiv ((u + 1) * 512 - base) w)
  statusOf ((List.range (last - first)).map fun i => bad (first + i))

/-- The worst mark among the elements whose MX scales the granule `u` of a scale plane receives, from byte `so` on. -/
def scaleMark (bad : Nat → Nat) (count so u : Nat) : Nat :=
  let first := 64 * u - so
  let last := min (count / 32) (64 * u + 64 - so)
  statusOf ((List.range (32 * (last - first))).map fun i => bad (32 * first + i))

/-- Put bytes into the scratchpad for a copy: the units that receive poisoned data get canonical poison and a mark (R236,
R348). -/
def State.padRowPut (s : State) (off : Nat) (bs : List Byte) (mark : Nat → Nat) : State :=
  let ps := placesOf off bs.length
  let s1 := s.padPut ps ((ps.zip bs).map fun e =>
    if mark (e.1 / 64) = 0 then e.2 else BitVec.ofNat 8 (elemAt 8 Config.canonicalPoison.toNat (e.1 % 64)))
  let us := ((ps.map (· / 64)).eraseDups).filter fun u => mark u != 0
  if us.isEmpty then s1
  else s1.mapCore fun c => us.foldl (fun c u => c.mapFlaw (.pad u) fun _ => Flaw.ofMark (mark u)) c

/-- What a copy has come to: the kinds of the marks met, flags, and the state. -/
structure Done where
  marks : List Nat
  flags : Nat
  st : State

/-- One row of a copy between local sides (R235). -/
def copyRow (o : CopyOp) (q : Nat) (c : CopyDesc) (a : Done) (r : Nat) : Done :=
  let s := a.st
  let src := if c.srcTensor then s.recAt o.ctx c.shandle else none
  let dst := if c.dstTensor then s.recAt o.ctx c.dhandle else none
  let f := c.rowSides src dst r
  let ws := sideWidth f.1 f.2
  let wd := sideWidth f.2 f.1
  let po (b : Int) : Nat := (b + r * c.pitch).toNat
  let row := match src with
    | some x => tensorRow s o q x (rowCoords c c.sc r) c.count ws
    | none => padRow s o.ctx (po c.soff) (c.count * ws / 8) ws
  let v := convertRow f.1 f.2 c.count row.bits row.scales
  let mine := statusOf ((List.range c.count).map row.bad)
  match dst with
  | some x =>
    let off := (x.offsetOf (rowCoords c c.dc r) (c.count * wd)).getD 0
    let n := ceilDiv (c.count * wd) 8
    let tail := c.count * wd % 8
    let reissue := s.rebuildingBy o.launch x
    let old : Nat := if tail = 0 then 0 else
      ((row.st.readGran (squareOf s.coreId) (o.launch, o.ord) x ((off + n - 1) / 64) o.hint).2.1.toNat / 2 ^ (8 * ((off + n - 1) % 64))) % 256
    let bits := if tail = 0 then v.1 else v.1 % 2 ^ (c.count * wd) + old / 2 ^ tail * 2 ^ (c.count * wd)
    let (m1, s1) := writeRange row.st q o.ctx x.handle o.who off (toBytes n bits) o.hint reissue
      (fun g => if mine = 0 then 0 else unitMark row.bad c.count wd (off * 8) g)
    let (m2, s2) := if x.isMx then
        let so := x.scaleBase + off * 8 / wd / 32
        writeRange s1 q o.ctx x.handle o.who so (v.2.1.map (BitVec.ofNat 8)) o.hint reissue
          (fun g => if mine = 0 then 0 else scaleMark row.bad c.count so g)
      else ([], s1)
    ⟨a.marks ++ mine :: (m1 ++ m2), orF a.flags v.2.2, s2⟩
  | none =>
    let off := po c.doff
    let s1 := row.st.padRowPut off (toBytes (c.count * wd / 8) v.1)
      (fun u => if mine = 0 then 0 else unitMark row.bad c.count wd (off * 8) u)
    ⟨a.marks ++ [mine], orF a.flags v.2.2, s1⟩

/-- Flags raised by an operation reach its task's FLAGS wherever the task stands; those of a halted task are lost (R149). -/
def State.opFlags (s : State) (o : CopyOp) (f : Nat) : State := s.mapTask o.launch o.ord fun c => c.engineFlags f

/-- Data sets out for the hearth. -/
def State.sendData (s : State) (t : Transit) : State :=
  s.mapCore fun c => { c with eng := { c.eng with transit := c.eng.transit ++ [t] } }

/-! ## Remote sides (R439, R441) -/

/-- The requests of row `r` of a remote copy; a read carries no payload. The remote side's coordinates are resolved at the
exporter (R439). Over Ethernet the packets go to the peer that the node number names in the context's table (R442). -/
def rowRequests (o : CopyOp) (h : Nat) (c : CopyDesc) (rem : Remote) (peer : Peer) (r n : Nat) (bs : List Byte)
    (bad : Nat → Nat → Nat) : List RemoteOut :=
  let off := Config.remoteOffset rem.eth rem.node rem.win (rowCoords c (if rem.dst then c.dc else c.sc) r)
  (cutRow off n).map fun p =>
    let pkt : FabPacket :=
      { bmask := p.2.2, off := p.1, seq := 0, owner := peer.owner, op := if rem.dst then 0 else 1, src := 0, dst := peer.addr
        win := rem.win, tag := 0, ng := p.2.1 - 1, status := 0
        payload := if rem.dst then packPayload bs off p.1 p.2.1 else [], mac := 0, epoch := 0, sender := 0, qp := peer.qp }
    { id := 0, hearth := h, op := o.id, ctx := o.ctx, eth := rem.eth, port := 0, pkt := pkt, row := r, rowOff := off
      poison := ((List.range p.2.1).map fun i => ofBool (bad off (p.1 / 64 + i) != 0) * 2 ^ i).sum
      tries := 0, status := none, held := false }

/-- Where the packets for a remote side go, and the owner that they carry (R430, R442): a pod number under the context's fabric
owner index, or an entry of its Ethernet peer table; none when that entry is not there. -/
def State.remoteEnd (s : State) (ctx : Nat) (rem : Remote) : Option Peer :=
  match s.ctx? ctx with
  | none => none
  | some k => if rem.eth then (k.peers.find? fun p => p.1 == rem.node).map Prod.snd else some ⟨rem.node, 0, k.owner.getD 0⟩

/-- One row of a remote copy: its local bytes are read for a put, and its requests are sent, granules with an error marked
poisoned (R349). In a deterministic context writes are held until the commit and count as accepted by the egress buffer
(R313). -/
def remoteRow (o : CopyOp) (c : CopyDesc) (rem : Remote) (held : Bool) (a : Done) (r : Nat) : Done :=
  let s := a.st
  let h := s.coreId
  let peer := s.remoteEnd o.ctx rem
  let loc := if rem.dst then (if c.srcTensor then s.recAt o.ctx c.shandle else none)
             else if c.dstTensor then s.recAt o.ctx c.dhandle else none
  let pad := if rem.dst then c.srcPad else c.dstPad
  let po := ((if rem.dst then c.soff else c.doff) + r * c.pitch).toNat
  let w := if pad then sideWidth (sideFmt (bfmtOf c.bfmt po)) none else sideWidth (loc.bind Rec.side) none
  let n := ceilDiv (c.count * w) 8
  let row : Row :=
    if rem.dst then
      (match loc with
       | some x => tensorRow s o 4 x (rowCoords c c.sc r) c.count w
       | none => padRow s o.ctx po n w)
    else ⟨0, [], fun _ => 0, s⟩
  let mine := if rem.dst then statusOf ((List.range c.count).map row.bad) else 0
  let send (s : State) (x : RemoteOut) : State :=
    let (id, s) := s.fresh
    let y := { x with id := id }
    let put (y : RemoteOut) : State := { s with fabric := { s.fabric with out := s.fabric.out ++ [y] } }
    if peer.isNone then put { y with status := some 4 }
    else if held then put { y with status := some 0, held := true }
    else s.launchOut y
  let bad (off u : Nat) : Nat := if mine = 0 then 0 else unitMark row.bad c.count w (off * 8) u
  ⟨a.marks ++ [mine], a.flags, (rowRequests o h c rem (peer.getD ⟨0, 0, 0⟩) r n (toBytes n row.bits) bad).foldl send row.st⟩

/-! ## COPY_PERFORM -/

/-- Mark an operation of the hearth's queues. -/
def State.mapOp (s : State) (id : Nat) (f : CopyOp → CopyOp) : State :=
  s.mapCore fun c =>
    let g (o : CopyOp) : CopyOp := if o.id = id then f o else o
    { c with eng := { c.eng with cp := c.eng.cp.map g, cl := c.eng.cl.map g } }

/-- The rows of a window fill: the image of each row in the format that the bank of its slot had at acceptance (R156, R158); a
row outside the extent is zero (R245). -/
def winRow (s : State) (o : CopyOp) (r : Rec) (w : Nat) (bfmt : Store Nat) (row : Int) : State :=
  let n := (r.ext[1]?).getD 0
  let x := Store.get Win.closed s.core.win w
  let size := x.size
  let fb := sideFmt (bfmtOf bfmt (x.slotBase row))
  if row < 0 ∨ ((r.ext.headD 0 : Nat) : Int) ≤ row then
    s.sendData ⟨.win w o.id row, List.replicate size 0, 0, none, o.id, []⟩
  else
    let f := match fb, r.side with | some b, some a => (some a, some b) | _, _ => (none, none)
    let off := row.toNat * n * r.width / 8
    let sh := row.toNat * n * r.width % 8
    let t := readRange s 0 r o.who off (ceilDiv (sh + n * r.width) 8) o.hint
    let raw := bitsOfBytes t.bytes sh (n * r.width)
    let u : Got := if r.isMx then readRange t.st 0 r o.who (r.scaleBase + row.toNat * n / 32) (n / 32) o.hint else ⟨[], [], none, [], t.st⟩
    let v := convertRow f.1 f.2 n raw (u.bytes.map BitVec.toNat)
    let m := (t.mark r.handle).or (u.mark r.handle)
    u.st.sendData ⟨.win w o.id row, toBytes size v.1, v.2.2, m, o.id, t.port ++ u.port⟩

/-- A KIND 5 copy takes its units, after which the groups then open cannot be replayed (R235, R257). One that pops while a handler
runs, its group abandoned by then, leaves the frame's REPLAYOK as it was: DESIGN CHOICE (log 97). -/
def State.popUnits (s : State) (c : CopyDesc) : List Elem × State :=
  ((s.core.flueOf c.flue).q.take c.count,
   s.mapCore fun k => (k.setFlue c.flue { k.flueOf c.flue with q := (k.flueOf c.flue).q.drop c.count }).took)

/-- Perform a TCOPY (R235, R236). The units that a KIND 5 copy pops are converted as any pop is (R171, R172), and reach the
tensor unchanged from there: DEDUCED (log 90). -/
def State.performCopy (s : State) (o : CopyOp) (c : CopyDesc) : State :=
  let q := if c.remote.isSome then 4 else 0
  let start : Done := ⟨[], 0, s⟩
  let rows := List.range c.rows
  let finish (d : Done) (awaits : Nat) (more : List Nat) : State :=
    (d.st.opFlags o d.flags).mapOp o.id fun x =>
      { x with performed := true, status := max (statusOf d.marks) (maxOf more), awaits := awaits }
  match c.remote with
  | some rem =>
    let d := rows.foldl (remoteRow o c rem (s.heldCopy o)) start
    let mine (x : RemoteOut) : Bool := x.hearth == s.coreId && x.op == o.id
    let all := d.st.fabric.out.filter mine
    let keep (x : RemoteOut) : Bool := !mine x || x.status.isNone || x.held
    let s1 := { d.st with fabric := { d.st.fabric with out := d.st.fabric.out.filter keep } }
    finish { d with st := s1 } (all.filter fun x => x.status.isNone).length (all.filterMap (·.status))
  | none =>
    if c.kind = 4 then
      match s.recAt o.ctx c.shandle with
      | none => finish start 0 []
      | some r =>
        let off := (r.offsetOf (rowCoords c c.sc 0) (c.count * 512)).getD 0
        let d := (List.range c.count).foldl (fun (a : Done) j =>
          let t := readRange a.st 0 r o.who (off + 64 * j) 64 o.hint
          ⟨a.marks ++ t.bad.map Prod.snd, 0,
            t.st.sendData ⟨.flue c.flue o.id j, t.bytes, 0, t.mark r.handle, o.id, t.port⟩⟩) start
        finish d 0 []
    else if c.kind = 5 then
      match s.recAt o.ctx c.dhandle with
      | none => finish start 0 []
      | some r =>
        let off := (r.offsetOf (rowCoords c c.dc 0) (c.count * 512)).getD 0
        let (es, s1) := s.popUnits c
        let f := s.core.flueOf c.flue
        let vs := es.map fun e => flueConvert f.source f.sink (e.data.getD 0).toNat
        let bs := vs.flatMap fun v => toBytes 64 v.1
        let kind (e : Elem) : Nat := match e.mark with | some (0x21, _) => 2 | some (0x20, _) => 1 | _ => 0
        let poison (g : Nat) : Nat := statusOf ((List.range es.length).map fun j =>
          if (off + 64 * j) / 64 ≤ g ∧ g ≤ (off + 64 * j + 63) / 64 then ((es[j]?).map kind).getD 0 else 0)
        let (m, s2) := writeRange s1 0 o.ctx r.handle o.who off bs o.hint (s.rebuildingBy o.launch r) poison
        finish ⟨m ++ es.map kind, orAll (vs.map Prod.snd), s2⟩ 0 []
    else finish (rows.foldl (copyRow o q c) start) 0 []

/-- The tensors of an operation whose attempt to be made resident failed (R381). -/
def State.failedOf (s : State) (o : CopyOp) : Option Nat :=
  o.kind.handles.find? fun h => match s.recAt o.ctx h with | some r => s.lost o r | none => false

/-- An operation whose tensor could not be made resident completes as though its source were uncorrectable: its elements
carry cause 0x14, a copy has status 1 and writes poison where its destination is there (R236, R381). -/
def State.performFailed (s : State) (o : CopyOp) (h : Nat) : State :=
  let m : Option (Nat × Nat) := some (0x14, h)
  let end_ (s : State) (st : Nat) : State := s.mapOp o.id fun x => { x with performed := true, status := st }
  match o.kind with
  | .tld q _ _ k => end_ ((List.range k).foldl (fun s j => s.sendData ⟨.q q o.id j, List.replicate 64 0, 0, m, o.id, []⟩) s) 0
  | .win w _ rows _ =>
    end_ (rows.foldl (fun s r => s.sendData ⟨.win w o.id r, [], 0, m, o.id, []⟩) s) 0
  | .copy c =>
    if c.kind = 4 then
      end_ ((List.range c.count).foldl (fun s j => s.sendData ⟨.flue c.flue o.id j, List.replicate 64 0, 0, m, o.id, []⟩) s) 1
    else if c.kind = 5 then end_ (s.popUnits c).2 1
    else if c.dstTensor && !c.dstRemote && c.dhandle == h then end_ s 1
    else (match (if c.dstTensor && !c.dstRemote then s.recAt o.ctx c.dhandle else none) with
      | some r => if s.lost o r then end_ s 1 else s.performCopy o c
      | none => s.performCopy o c)
  | _ => end_ s 0

/-- The stoker brings a packed tensor back unpacked for a TPREF of an elastic context, where room can be made (R238, R371). -/
def State.bringUnpacked (s : State) (ctx h : Nat) : State :=
  match s.recAt ctx h with
  | none => s
  | some r =>
    let (ok, s1) := s.room ctx r.home r.inPool (r.fullFootprint - r.footprint)
    if ok then s1.unpack ctx h else s1

/-- Rows of earlier window fills that an operation reads are written before it, and its own writes stand against theirs
(R232, R249). -/
def State.afterFills (s : State) (o : CopyOp) : State :=
  let s1 := (s.padReads o).foldl (fun s p => (s.core.fillsOver o.id p).foldl (fun s e => s.putRow e.1 e.2) s) s
  (s1.padWrites o).foldl (fun s p => s.mapCore fun c => c.overFills o.id p) s1

/-- Act on what a queue entry took along in place of the hearth's scratchpad, windows and flue (R43, R262). -/
def State.withSnap (s : State) (o : CopyOp) (k : State → State) : State :=
  match o.snap, o.kind with
  | some p, .copy d =>
    let c := s.core
    (k (s.mapCore fun c =>
      { c.setFlue d.flue p.flue with pad := { c.pad with mem := p.mem }, bad := p.bad, win := p.win })).mapCore fun x =>
      { x with flue := c.flue, pad := c.pad, bad := c.bad, win := c.win, mat := c.mat }
  | _, _ => k s

/-- Perform an operation of the copy engine. A KIND 5 copy's padded completion follows the units that it takes (R345). -/
def State.performLocal (s : State) (o : CopyOp) : State :=
  let s := s.mapOp o.id fun x => { x with padded := s.core.paddedOp x }
  let done (s : State) (st : Nat) : State := s.mapOp o.id fun x => { x with performed := true, status := st }
  match s.failedOf o with
  | some h => s.performFailed o h
  | none =>
    match o.kind with
    | .tld q h off k =>
      (match s.recAt o.ctx h with
       | none => done s 0
       | some r =>
         done ((List.range k).foldl (fun s j =>
           let t := readRange s 0 r o.who (off + 64 * j) 64 o.hint
           t.st.sendData ⟨.q q o.id j, t.bytes, 0, t.mark h, o.id, t.port⟩) s) 0)
    | .tst h off data =>
      (match s.recAt o.ctx h with
       | none => done s 0
       | some r =>
         let (m, s1) := writeRange s 0 o.ctx h o.who off (data.flatMap fun v => toBytes 64 v.toNat) o.hint
           (s.rebuildingBy o.launch r) (fun _ => 0)
         done s1 (statusOf m))
    | .tpref h off len =>
      (match s.recAt o.ctx h with
       | none => done s 0
       | some r0 =>
         let s := if s.fixed || r0.packed == 0 then s else s.bringUnpacked o.ctx h
         let r := (s.recAt o.ctx h).getD r0
         done (readRange s 0 r o.who off len o.hint).st 0)
    | .win w h rows bfmt =>
      (match s.recAt o.ctx h with
       | none => done s 0
       | some r => done (rows.foldl (fun s row => winRow s o r w bfmt row) s) 0)
    | .copy c => s.performCopy o c

/-- Perform an operation of the copy engine after the window rows that come before it (R232). -/
def State.performOp (s : State) (o : CopyOp) : State := s.withSnap o fun s => (s.afterFills o).performLocal o

/-- COPY_PERFORM: the copy engine performs the next operation of the copy queue or of the collective queue (R232). -/
def execCopyPerform (coll : Bool) (s : State) : Host.Outcome State Fault Refusal :=
  atHearth s fun s =>
    match s.nextOf (if coll then s.core.eng.cl else s.core.eng.cp) with
    | none => s
    | some o => if s.opReady o then s.performOp o else s

/-! ## DATA_ARRIVAL (R163, R165, R214, R245) -/

/-- Data reaches the element that awaits it. -/
def Elem.arrive (e : Elem) (req j : Nat) (v : V512) (m : Option (Nat × Nat)) : Elem :=
  if e.req = req ∧ e.j = j then { e with data := some v, mark := m } else e

/-- An item of data arrives; data for a cancelled record is discarded (R105). -/
def Core.arrive (c : Core) (t : Transit) : Core :=
  let v : V512 := BitVec.ofNat 512 (ofBytes t.data)
  match t.dest with
  | .q n req j => c.setQ n ((c.qOf n).map fun e => e.arrive req j v t.mark)
  | .flue n req j =>
    let f := c.flueOf n
    let e' (e : Elem) : Elem :=
      if e.req = req ∧ e.j = j then { e with data := some (f.entry v), mark := t.mark } else e
    c.setFlue n { f with q := f.q.map e' }
  | .win w req row =>
    let x := Store.get Win.closed c.win w
    { c with win := Store.set Win.closed c.win w { x with fills := x.fills.map fun f =>
        if f.req = req ∧ f.row = row then { f with data := some t.data, flags := t.flags, mark := t.mark } else f } }

/-- The pending fill's next row may arrive: its packets have been answered (R392), and its tensor is within reach, or its attempt
failed (R213, R381). -/
def State.fillReady (s : State) : Bool :=
  match s.core.mat.fill with
  | none => false
  | some f =>
    f.got < 128 && s.portClear f.port &&
      (match f.src with
       | .pad _ => true
       | .tile h _ _ _ =>
         (match s.recAt s.core.task.ctx h with
          | none => true
          | some r => s.rebuilding r || (!r.moving && (!r.away || r.rfail))))

/-- DATA_ARRIVAL: item `n` of the data on its way arrives, once its packets have been answered (R392), or, when `n` is their number,
the next row of the plane fill. -/
def execDataArrival (n : Nat) (s : State) : Host.Outcome State Fault Refusal :=
  atHearth s fun s =>
    let l := s.core.eng.transit
    match l[n]? with
    | some t =>
      if !s.portClear t.port then s
      else s.mapCore fun c =>
        ({ c with eng := { c.eng with transit := l.take n ++ l.drop (n + 1) }, link := { c.link with frozen := false } }).arrive t
    | none =>
      if n = l.length && s.fillReady then
        s.fillRow.mapCore fun c => { c with link := { c.link with frozen := false } }
      else s

/-! ## COPY_COMPLETE (R232, R236) -/

/-- The operation is complete: it has been performed, its data has arrived and every packet has a status. -/
def CopyOp.complete (o : CopyOp) (c : Core) : Bool :=
  o.performed && o.awaits == 0 && !(c.eng.transit.any fun t => t.op == o.id)

/-- The copy completion message (R236). -/
def copyMessage (c : CopyDesc) (ord status : Nat) : W64 :=
  let h :=
    match c.remote with
    | some r => r.win
    | none => if c.dstTensor then c.dhandle else if c.srcTensor then c.shandle else 0
  BitVec.ofNat 64 (h * 2 ^ 32 + ord % 2 ^ 16 * 2 ^ 16 + 0xC0 * 2 ^ 8 + status)

/-- The dirty lines homed on another die that a completed copy may have left in the square are written back where its signal
starts a task, or its own task goes on elsewhere (R306, R309). -/
def State.flushFor (s : State) (o : CopyOp) : State :=
  let signals := match o.kind with | .copy c => c.sigKind != 0 | _ => false
  if signals || !s.core.holds o.launch o.ord then s.squareFence (squareOf s.coreId) true false else s

/-- A completed operation frees its entry and delivers its signal, with the issuing task's record (R236, R315). The task
remembers it until its padded completion (R345). -/
def State.completeOp (s : State) (o : CopyOp) : State :=
  let s1 := (((s.flushFor o).unuseRecs o.ctx o.kind.handles).mapCore fun c =>
    { c with eng := { c.eng with cp := c.eng.cp.filter fun x => x.id != o.id, cl := c.eng.cl.filter fun x => x.id != o.id } }).mapTask
      o.launch o.ord fun c => c.keepPadded o
  match o.kind with
  | .copy c =>
    let known := carried o.known o.sat (o.launch, o.ord, o.epoch)
    (s1.signal (o.launch, o.ord) o.ctx s1.die c.sigKind c.sigId (copyMessage c o.ord o.status) known).tryAllNamed s1.die
  | _ => s1

/-- COPY_COMPLETE: the first complete operation of the queue (R236). -/
def execCopyComplete (coll : Bool) (s : State) : Host.Outcome State Fault Refusal :=
  atHearth s fun s =>
    match (if coll then s.core.eng.cl else s.core.eng.cp).find? fun o => o.complete s.core with
    | some o => s.completeOp o
    | none => s

/-! ## Acceptance after a full queue (R232, R294) -/

/-- COPY_QUEUE_ACCEPT: an entry of the full queue is free, and the domain unfreezes (R232). -/
def execCopyQueueAccept (s : State) : Host.Outcome State Fault Refusal :=
  atHearth s fun s =>
    let room : Bool := match s.core.stuck with
      | .cp => s.core.eng.cp.length < 32
      | .cl => s.core.eng.cl.length < 32
      | _ => false
    if room then s.mapCore fun c => { c with stuck := .no, link := { c.link with frozen := false } } else s

/-- SYNC_REQUEST_ACCEPT: fewer than 32 requests are outstanding, and the domain unfreezes (R294). -/
def execSyncRequestAccept (s : State) : Host.Outcome State Fault Refusal :=
  atHearth s fun s =>
    if s.core.stuck = .sync ∧ (s.reqs.filter fun r => r.hearth == s.coreId).length < 32 then
      s.mapCore fun c => { c with stuck := .no, link := { c.link with frozen := false } }
    else s

/-! ## LANDING and WINDOW_ROW_LANDING (R163, R164, R245) -/

/-- LANDING: the elements whose landing cycle has come are readable. -/
def execLanding (s : State) : Host.Outcome State Fault Refusal :=
  atHearth s fun s =>
    s.mapCore fun c =>
      let f (e : Elem) : Elem := if c.due e.hand e.land then { e with landed := true } else e
      { c with q := c.q.map fun e => (e.1, e.2.map f), flue := c.flue.map fun e => (e.1, { e.2 with q := e.2.q.map f }) }

/-- A due row of a window fill whose data has arrived. -/
def Core.dueRow (c : Core) : Option (Nat × Win × WinFill) :=
  c.win.findSome? fun e =>
    (e.2.fills.find? fun f => c.due f.hand f.land && f.data.isSome).map fun f => (e.1, e.2, f)

/-- WINDOW_ROW_LANDING: a due row is written into its slot, with its flags and its mark (R245, R316, R381). A slot holds S
bytes, S being fixed at WOPEN: of a row that a later format of its bank makes longer the first S are written, and a shorter one
is followed by zeros: DESIGN CHOICE (log 91). -/
def execWindowRowLanding (s : State) : Host.Outcome State Fault Refusal :=
  atHearth s fun s =>
    match s.core.dueRow with
    | none => s
    | some (n, w, f) =>
      let base := w.slotBase f.row
      let s1 := s.putRow w f
      let old := w.marks.filter fun m => w.slotBase m.1 != base
      let w' : Win := { w with fills := w.fills.filter fun x => !(x.row == f.row && x.req == f.req)
                               marks := match f.mark with | some m => old ++ [(f.row, m)] | none => old }
      s1.mapCore fun c => { c.engineFlags f.flags with win := Store.set Win.closed c.win n w' }

end Sys2Proof.Machine
end

