-- ==== Sys2Proof/Machine/SyncEngine.lean ====
section
/-! DEFINITION. The events of the sync engines and of the waits that atomics, fences and WAITA make
(spec/12_die_sync_engine.md R288, R290, R294, R296; spec/09 R240 to R243; spec/15 R345). -/
namespace Sys2Proof.Machine

/-! ## Requests at their home engine -/

/-- A request of the task in focus. -/
def State.ownReq (s : State) (r : SyncReq) : Bool :=
  s.core.mode != .free && s.core.task.launch == r.who.launch && s.core.task.ord == r.who.ord

/-- A WAITA whose monitor is armed. -/
def State.armed (s : State) (r : SyncReq) : Bool := (s.dieAt (syncDie r.addr)).monitors.any fun m => m.req == r.id

/-- A NOTIFY that waits for room in its mailbox (R298). -/
def State.inBox (s : State) (r : SyncReq) : Bool :=
  r.op == 0x2C && (s.boxAt (syncDie r.addr) (syncIndex r.addr)).waiting.any fun w => w.1 == r.id

/-- A request may be performed: it has left its hearth, nothing of it has been performed, and every earlier request of its
task to the same engine has been performed (R288). -/
def State.canPerform (s : State) (r : SyncReq) : Bool :=
  let earlier := s.reqs.takeWhile fun x => x.id != r.id
  r.sent && !r.done && !s.armed r && !s.inBox r &&
    earlier.all fun x => x.done || x.who.launch != r.who.launch || x.who.ord != r.who.ord || syncDie x.addr != syncDie r.addr

/-- ATOMIC_PERFORM: the engine of the die performs request `n` (R288, R292). -/
def execAtomicPerform (n : Nat) (s : State) : Host.Outcome State Fault Refusal :=
  atDie s fun d s =>
    match s.reqs.find? fun r => r.id == n && syncDie r.addr == d with
    | some r => if s.canPerform r then (s.performSync r).tryAllNamed d else s
    | none => s

/-! ## Replies -/

/-- The element that a result delivers (R290): its value and status, and the mark of an uncorrectable error. -/
def SyncReq.element (r : SyncReq) : V512 := BitVec.ofNat 512 (r.val.toNat + r.status * 2 ^ 64)
def SyncReq.elemMark (r : SyncReq) : Option (Nat × Nat) := if r.bad then some (0x20, r.addr.toNat) else none

/-- A request is no longer outstanding. -/
def State.dropReq (s : State) (id : Nat) : State := { s with reqs := s.reqs.filter fun r => r.id != id }

/-- A WAITA ends (R296): the acquire actions of a true reply, the write of pD, and the next bundle may issue. -/
def State.endWaita (s : State) (r : SyncReq) (val : Bool) (got : List Tag) (inv : Bool) : State :=
  let s1 := s.dropReq r.id
  let s2 := if val then (s1.acquire got).squareFence (squareOf s.coreId) false inv else s1
  (s2.mapCore fun c => { c with wait := .none, regs := c.regs.setP r.pd val }).goOn

/-- ATOMIC_ACK: the reply of request `n` returns to its hearth (R290, R294): its element arrives, and an acquire joins
what it read. -/
def execAtomicAck (n : Nat) (s : State) : Host.Outcome State Fault Refusal :=
  atHearth s fun s =>
    match s.reqs.find? fun r => r.id == n && r.hearth == s.coreId && r.done with
    | none => s
    | some r =>
      if !s.ownReq r then s.dropReq n
      else
        let other : State :=
          let s1 := s.dropReq n
          let s2 := match r.ret with
            | some q => s1.mapCore fun c =>
                { c.setQ q ((c.qOf q).map fun e => e.arrive r.id 0 r.element r.elemMark) with
                  link := { c.link with frozen := false } }
            | none => s1
          if isAcquire r.order then s2.acquire r.got else s2
        match s.core.wait with
        | .waita req _ _ _ inv cancelling =>
          if req = n then (if cancelling then s else s.endWaita r (r.val != 0) r.got inv) else other
        | _ => other

/-! ## The ends of waits (R240, R294, R345) -/

/-- The padded end of a wait binds in a fixed-timing context only. -/
def State.paddedOver (s : State) (padded : Nat) : Bool := !s.fixed || padded ≤ s.core.now

/-- What the hearth waits for has come about. -/
def State.waitOver (s : State) : Bool :=
  match s.core.wait with
  | .fence ops reqs fills padded _ _ _ _ _ => s.fenceDone ops reqs fills && s.paddedOver padded
  | .acquire req padded _ => !(s.reqs.any fun r => r.id == req) && s.paddedOver padded
  | _ => false

/-- VJOIN leaves its banks CLEAN (R243). -/
def Core.cleanBanks (c : Core) (m : Nat) : Core :=
  if m = 0 then c
  else { c with pad := { c.pad with view := (List.range 32).foldl (fun v b => if bit m b then Store.set View.clean v b .clean else v) c.pad.view } }

/-- The rows of pending window fills that have arrived for the named banks are written (R243, R245); their landing, which makes
them readable and stands against slot writes made until then (R249), is still to come. -/
def State.writeRows (s : State) (m : Nat) : State :=
  (s.core.fillsIn m).foldl (fun s e => s.putRow e.1 e.2) s

/-- FENCE_WAIT_END: the wait's actions are done and the next bundle may issue (R240): write-back and invalidation (R242),
the rows that a VJOIN awaits written and its banks clean (R243), the request leaves after its release side (R294), or the barrier's member arrives (R277). -/
def execFenceWaitEnd (s : State) : Host.Outcome State Fault Refusal :=
  atHearth s fun s =>
    if !s.waitOver then s
    else
      let done (s : State) : State := s.mapCore fun c => { c with wait := .none, link := { c.link with frozen := false } }
      match s.core.wait with
      | .fence _ _ _ _ wb inv banks release arrive =>
        let s1 : State := ((done (s.squareFence (squareOf s.coreId) wb inv)).writeRows banks).mapCore fun c => c.cleanBanks banks
        let s2 : State := match release with
          | none => s1
          | some id =>
            match s1.reqs.find? (fun (r : SyncReq) => r.id == id) with
            | none => s1
            | some r =>
              (s1.mapReq id fun r => { r with sent := true }).mapCore fun c =>
                { c with wait := r.waitAfter (c.mode == .preempting) }
        (match arrive with
         | none => s2.goOn
         | some k => s2.arrive (s2.lineTime - 1) s2.core.seq.from_ k)
      | .acquire _ _ inv => (done (s.squareFence (squareOf s.coreId) false inv)).goOn
      | _ => s

/-! ## WAITA (R296) -/

/-- WAITA_TIMEOUT: T cycles have passed without a reply, and the monitor is being cancelled. -/
def execWaitaTimeout (s : State) : Host.Outcome State Fault Refusal :=
  atHearth s fun s =>
    match s.core.wait with
    | .waita req pd issued t inv false =>
      if t ≠ 0 ∧ t ≤ s.core.now - issued ∧ !(s.reqs.any fun r => r.id == req && r.done) then
        s.mapCore fun c => { c with wait := .waita req pd issued t inv true }
      else s
    | _ => s

/-- MONITOR_CANCEL_ACK: the cancellation has been performed at the home engine, in the word's order: true if the monitor
fired first, else it is freed (R296). A request that has not been performed at its engine yet is awaited. -/
def execMonitorCancelAck (s : State) : Host.Outcome State Fault Refusal :=
  atHearth s fun s =>
    match s.core.wait with
    | .waita req _ _ _ inv true =>
      (match s.reqs.find? fun r => r.id == req with
       | none => s
       | some r =>
         if r.done then s.endWaita r (r.val != 0) r.got inv
         else if s.armed r then
           (s.mapDie (syncDie r.addr) fun d => { d with monitors := d.monitors.filter fun m => m.req != req }).endWaita r false [] inv
         else s)
    | _ => s

end Sys2Proof.Machine
end

