-- ==== Sys2Proof/Machine/Bundle.lean ====
section
/-! DEFINITION. One cycle of a hearth: the issue of one execution of a bundle, with sticky re-issues, guards, traps and
frozen cycles, stalls, and lock step in a fused street (spec/02_bundle_encoding.md R60 to R73, spec/06 R166,
spec/10 R250 to R255, spec/11 R268 to R272, R280; spec/03 R91). -/
namespace Sys2Proof.Machine

/-! ## Slots and their records (R28, R62) -/

def Sticky.get (t : Sticky) : Slot → Option Instr
  | .c => none | .s => t.s | .a => t.a | .x => t.x | .v0 => t.v0 | .v1 => t.v1 | .m => t.m | .f => t.f

def Sticky.set (t : Sticky) (sl : Slot) (o : Option Instr) : Sticky :=
  match sl with
  | .c => t
  | .s => { t with s := o }
  | .a => { t with a := o }
  | .x => { t with x := o }
  | .v0 => { t with v0 := o }
  | .v1 => { t with v1 := o }
  | .m => { t with m := o }
  | .f => { t with f := o }

/-- An operation that issues in an execution: its slot, whether it is a re-issue, and the offset of its first syllable, for a
re-issue that of its bundle. -/
structure Issued where
  slot : Slot
  op : Instr
  re : Bool
  at_ : Nat
  deriving DecidableEq, Repr

/-- A C-slot operation other than NOP in a delay bundle (R71). -/
def Bundle.badDelay (b : Bundle) (c : Core) : Bool :=
  c.seq.pend.isSome && b.ops.any fun o => o.1 == .c && bits (o.2.2.headD 0) 18 7 != 0

/-- The operations that issue in this execution (R62): a named one in the first execution, then its record; an unnamed
armed slot's record without HOLD; the C slot's in the last execution, and only where the leader performs it (R35, R270). -/
def Core.acts (c : Core) (b : Bundle) (withC : Bool) : List Issued :=
  Slot.all.filterMap fun sl =>
    let again : Option Issued := (c.sticky.get sl).map fun i => ⟨sl, i, true, c.seq.pc⟩
    match b.named.find? fun o => o.1 == sl with
    | some o =>
      if sl = .c then (if withC && c.seq.done == b.hdr.rep then some ⟨.c, o.2.2, false, o.2.1⟩ else none)
      else if c.seq.done = 0 then some ⟨sl, o.2.2, false, o.2.1⟩
      else if reissuable o.2.2 then again
      else none
    | none => if sl = .c || b.hdr.hold then none else again

/-- The cause 0x04 of an operation outside privileged mode, whatever its guard (R60, R107, R118). -/
def Issued.privileged (a : Issued) (priv : Bool) : Option Trap :=
  match a.op with
  | .mfs o => if sysCheck priv false o.i = some 0x04 then some ⟨0x04, o.i, []⟩ else none
  | .mts o => if sysCheck priv true o.i = some 0x04 then some ⟨0x04, o.i, []⟩ else none
  | .eret _ => if priv then none else some ⟨0x04, 0, []⟩
  | _ => none

/-- The first operation that raises cause 0x04. -/
def firstPriv (priv : Bool) : List Issued → Option (Trap × Issued)
  | [] => none
  | a :: r => match a.privileged priv with | some t => some (t, a) | none => firstPriv priv r

/-! ## Running the operations of an execution (R63, R72, R73) -/

/-- Step the address registers that a re-issue names, each once in an execution: the stepped values by register, or the
register whose step overflows (R63). -/
def stepRegs (c : Core) : List Nat → List (Nat × W64) → Sum Nat (List (Nat × W64))
  | [], m => .inr m
  | n :: r, m =>
    if n = 0 || m.any (fun e => e.1 == n) then stepRegs c r m
    else match (c.readA n).stepBy (c.readA n).step.toInt with
      | none => .inl n
      | some v => stepRegs c r (m ++ [(n, v)])

/-- The registers as a re-issue uses them. -/
def Regs.withSteps (r : Regs) (ns : List Nat) (m : List (Nat × W64)) : Regs :=
  (m.filter fun e => ns.contains e.1).foldl (fun r e => r.mapA e.1 fun a => { a with val := e.2 }) r

/-- What an execution comes to: the state with the stepped registers, the first cause in slot order with the operation
that raised it, or a frozen cycle. -/
inductive Ran where
  | ok (s : State) (steps : List (Nat × W64))
  | trap (t : Trap) (a : Issued)
  | freeze (f : Freeze)
  deriving DecidableEq, Repr

/-- Run the operations of an execution in slot order; a source in error raises its cause before anything else of its operation
(R348). TRAPADDR of a cause 0x01 that an operation raises as it runs is the
offset of its first syllable (log 34). -/
def runActs : List Issued → State → List (Nat × W64) → Ran
  | [], s, m => .ok s m
  | a :: r, s, m =>
    let ns := if a.re then addrOperands a.op else []
    match stepRegs s.core ns m with
    | .inl n => .trap ⟨0x12, n, []⟩ a
    | .inr m' =>
      let regs := s.core.regs.a
      let s1 := s.mapCore fun c => { c with regs := c.regs.withSteps ns m' }
      match s1.core.badSource a.op with
      | some t => .trap t a
      | none =>
        match runOp a.slot a.op s1 with
        | .ok t => runActs r (t.mapCore fun c => { c.matWrote a.op with regs := { c.regs with a := regs } }) m'
        | .trap t => .trap (if t.cause = 0x01 then { t with addr := a.at_ } else t) a
        | .freeze f => .freeze f

/-- What the operations of an execution have read: single flipped bits are corrected in place and logged (R348). -/
def State.scrub (s : State) (c : Core) (acts : List Issued) : State :=
  if s.core.bad.isEmpty then s
  else
    let ctx := s.core.task.ctx
    let seen := s.core.pad.seen
    let s1 := (acts.flatMap fun a => c.unitsRead a.op).eraseDups.foldl (fun s u => s.sawWords ctx u (s.core.flawOf u).words) s
    (seen.map (· / 8)).eraseDups.foldl (fun s u => s.sawWords ctx (.pad u) ((seen.filter (· / 8 == u)).map (· % 8))) s1

/-! ## Cycles (R66, R122, R166) -/

/-- A cycle ends: results in flight advance, but for an MTS's, which its bundle's end makes due, and the flags that engines
raised in it are those of the cycle that has ended. -/
def Core.pass (c : Core) : Core :=
  { c with vt := c.vt + 1, fly := c.fly.map fun f => if f.late then f else { f with left := f.left - 1 }, st := { c.st with kept := c.st.fresh, fresh := 0 } }

/-- A cycle passes: CYCLE counts it, or the handler's clock while it runs, and so does the schedule of a fused street. -/
def Core.tick (c : Core) : Core :=
  let d := c.pass
  { d with
    st := { d.st with iterLate := d.st.iterLate || c.tooLong }
    cycle := if c.priv then c.cycle else c.cycle + 1
    hclk := if c.priv then c.hclk + 1 else c.hclk
    link := if c.link.fused && !c.priv then { c.link with tick := c.link.tick + 1 } else c.link }

/-- A stall cycle. -/
def State.stall (s : State) : State := s.mapCore Core.tick

/-- The values of a bundle's MTS are due: its last execution is over (R39, R117). -/
def Core.sysDue (c : Core) : Core := { c with fly := c.fly.map fun f => if f.late then { f with left := 0 } else f }

/-- The last cycle of a bundle. -/
def State.stallLast (s : State) : State := s.stall.mapCore Core.sysDue

/-- A stall cycle of a fused street that waits for one of its members: its schedule stands (R269). -/
def Core.heldTick (c : Core) : Core := { c.tick with link := c.link }

/-- A frozen cycle (R166, R271). -/
def State.freezeCycle (s : State) (f : Freeze) : State :=
  (s.freezeBy f).mapCore fun c => { c with link := { c.link with frozen := true } }

/-- A frozen cycle that a port conflict left is over (R161). -/
def Core.payOwed (c : Core) : Core := { c with owed := c.owed - 1 }

/-- A hearth stands frozen: by late data, by port conflicts, by a full queue, or by a wait that its context does not count
(R161, R166, R240). -/
def Core.frozenNow (c : Core) (fixed : Bool) : Bool :=
  c.link.frozen || c.owed != 0 || c.stuck != .no ||
    (match c.wait with
     | .fence _ _ _ padded _ _ _ _ _ => !fixed || padded ≤ c.now
     | .acquire _ padded _ => !fixed || padded ≤ c.now
     | _ => false)

/-- What a cycle of one hearth comes to: it has taken it; it is a member of a fused street that cannot yet execute what has
reached it; it stands at a paired MSWAP of an accumulator; or the cycle is frozen. -/
inductive Cycle where
  | went (s : State)
  | hold
  | swap (n : Nat)
  | stands (f : Freeze)
  deriving DecidableEq, Repr

/-! ## Lock step (R269 to R272, R280) -/

/-- The other hearths of the fused street. -/
def State.mates (s : State) : List Nat :=
  (s.fusedWith s.coreId).filter fun g => g != s.coreId && (s.coreAt g).mode != .free

/-- A raised cause: the trap is taken at the end of the cycle, or, behind another member's trap of the same cycle, the
execution is annulled and held (R250, R272). -/
def State.raised (s : State) (t : Trap) (slot : Nat) (re : Bool) (repleft pc : Nat) : State :=
  if s.core.link.fused && !s.core.priv && s.myStreet.trapped.isSome then
    s.mapCore fun c => { c with link := { c.link with stopped := true } }
  else
    let s1 := s.mapCore Core.pass
    ((s1.writeDue s1.core.fly.length).takeTrap t slot re s.core.seq repleft pc).mapCore fun c =>
      { c with link := { c.link with frozen := false, atSwap := none } }

/-- The leader's execution goes out to the other members, each offset by the difference of the ranks times the skew
(R269, R270); what a replay repeats has gone out already (R272). A TRAP is the leader's alone (R272). -/
def State.deliver (s : State) (d : Delivery) : State :=
  if d.at_ < s.core.link.sent then s
  else
    (s.mates.foldl (fun s g => s.mapCoreAt g fun c =>
      { c with link := { c.link with inbox := c.link.inbox ++ [{ d with at_ := d.at_ + (g - s.coreId) * s.myStreet.skew }] } })
      s).mapCore fun c => { c with link := { c.link with sent := d.at_ + 1 } }

/-- The MSWAP of a bundle that issues with a true guard. -/
def Core.swapOf (c : Core) (l : List Issued) : Option Nat :=
  (l.find? fun a => a.slot == .m).bind fun a =>
    match a.op with
    | .mswap o => if c.readP o.g then some (bits o.sc 9 2) else none
    | _ => none

/-- A paired MSWAP waits until the partner has issued, or stands at, its matching one (R280). -/
def State.swapWaits (s : State) (n : Nat) : Bool :=
  let d := (s.coreAt (partnerOf s.coreId)).link
  let mine := Store.get 0 s.core.link.mswaps n
  let theirs := Store.get 0 d.mswaps n
  s.core.link.paired && !(mine < theirs || (mine == theirs && d.atSwap == some n))

/-! ## One execution -/

/-- The groups opened in an execution take the state from before it as their checkpoint (R257). -/
def Core.patchGroups (c : Core) (old : Core) (req : Nat) : Core :=
  let fix (g : Nat × Checkpoint) : Nat × Checkpoint :=
    if old.mat.groups.any (fun h => h.1 == g.1) then g
    else (g.1, { old.checkpoint req g.2.taken with taken := g.2.taken })
  { c with mat := { c.mat with groups := c.mat.groups.map fix } }

/-- The steps of an execution, written at its end unless an A-slot result for the same register completes with them
(R63). -/
def Core.putSteps (c : Core) (m : List (Nat × W64)) : Core :=
  let beaten (n : Nat) : Bool := c.fly.any fun f => f.slot == .a && f.left ≤ 1 && f.locs.contains (.a n)
  let es := (m.filter fun e => !beaten e.1).map fun e => Eff.aval e.1 e.2
  if es.isEmpty then c else c.putFlight ⟨.c, 1, es, none, 0, false⟩

/-- The records after the first execution of a bundle (R62). -/
def Sticky.arm (t : Sticky) (ops : List (Slot × Nat × Instr)) : Sticky :=
  ops.foldl (fun t o => t.set o.1 (if reissuable o.2.2 then some o.2.2 else none)) t

/-- A C-slot outcome that starts a wait of its own, or a trap: it stands back behind a wait of the X slot. -/
def Ctl.standsBack : Ctl → Bool
  | .halt => true
  | .trap _ => true
  | .eret => true
  | .fuse _ => true
  | .rejoin => true
  | .sbar => true
  | .sqbar => true
  | .pair on => on
  | _ => false

/-- The end of an execution's cycle: another execution follows, or the bundle closes (R36, R46, R70). Cause 0x28 is taken
at the bundle boundary, once the cycle's results are written (R106), so that CYCLE counts the TRAP bundle's own cycle when the
handler reads it: R122 does not say which bundle is the trapping one there, DESIGN CHOICE (log 92). -/
def State.endCycle (s : State) (last : Bool) : State :=
  let at_ := s.lineTime
  if !last then
    (s.mapCore fun c => { c with ctl := none, seq := { c.seq with done := c.seq.done + 1, edge := false } }).stall
  else
    match s.core.ctl with
    | some k =>
      if k.standsBack && s.core.wait != .none then
        (s.mapCore fun c => { c with seq := { c.seq with done := c.seq.done + 1, edge := false } }).stallLast
      else
        (match k with
         | .trap _ => let t := s.stallLast; (t.writeDue t.core.fly.length).closeBundle at_
         | _ => (s.closeBundle at_).stallLast)
    | none => (s.closeBundle at_).stallLast

/-- What an execution leaves in the hearth's links: nothing of it waits, and of what was delivered it holds again what a
replay of an open group would repeat (R272). -/
def Link.executed (l : Link) (d : Option Delivery) (open_ : Bool) : Link :=
  { l with frozen := false, atSwap := none
           inbox := if d.isSome then l.inbox.drop 1 else l.inbox
           past := if open_ then l.past ++ d.toList else [] }

/-- A hearth that has nothing to issue: it stalls, and with it the fused street whose next bundle is due at it (R269). -/
def State.stallOr (s : State) (due : Bool) : Cycle := if due then .hold else .went s.stall

/-- The operations of an execution run. -/
def State.runBundle (s : State) (d : Option Delivery) (b : Bundle) (acts : List Issued) (left : Nat) : Cycle :=
  let c := s.core
  match runActs acts s [] with
  | .trap t a => .went (s.raised t a.slot.num a.re left c.seq.pc)
  | .freeze f => .stands f
  | .ok t m =>
    let mine := t.core.fly.drop c.fly.length
    let xres := (mine.filter fun f => f.slot == .c).flatMap fun f =>
      f.effs.filterMap fun e => match e with | .x n v => some (n, v) | _ => none
    let res (k : Core) (r : Nat × W64) : Flight := ⟨.c, k.latency 0, [.x r.1 r.2], none, 0, k.locks 0⟩
    let t1 := match d with
      | some e => t.mapCore fun k => { k with ctl := e.ctl, fly := k.fly ++ e.xres.map (res k) }
      | none => t
    let t2 := ((t1.scrub c acts).mapCore fun k => { k with owed := k.owed + k.pad.conflicts }).setViews.mapCore fun k =>
      let k1 := (k.putSteps m).patchGroups c s.nextId
      { k1 with
        sticky := if c.seq.done = 0 then k1.sticky.arm b.named else k1.sticky
        link := k1.link.executed d (!k1.mat.groups.isEmpty) }
    let t3 := if d.isNone && c.link.fused && !c.priv then
        t2.deliver ⟨c.link.tick, c.seq, c.loops, match t2.core.ctl with | some (.trap _) => none | k => k, xres⟩
      else t2
    .went (t3.endCycle (c.seq.done = b.hdr.rep))

/-- One execution of the bundle at PC, of the leader or of a hearth on its own (`d` none), or of a member that a delivery
reaches. The sources of an operation count for the interlock whatever its guard: DESIGN CHOICE (log 63). -/
def State.execute (s : State) (d : Option Delivery) : Cycle :=
  let c := s.core
  match c.fetch with
  | .bad t pc rep => .went (s.raised t 8 false (rep + 1 - c.seq.done) pc)
  | .bundle b =>
    let left := b.hdr.rep + 1 - c.seq.done
    let raise1 (t : Trap) (slot : Nat) (re : Bool) : Cycle := .went (s.raised t slot re left c.seq.pc)
    if b.badDelay c then raise1 ⟨0x03, c.seq.pc, []⟩ 8 false
    else match b.illegal c.priv c.seq.pc with
    | some (slot, off) => raise1 ⟨0x01, off, []⟩ slot false
    | none =>
      let acts := c.acts b d.isNone
      match firstPriv c.priv acts with
      | some (t, a) => raise1 t a.slot.num a.re
      | none =>
        if acts.any (fun a => c.interlocked a.op) then s.stallOr d.isSome
        else
          match (c.swapOf acts).filter fun _ => c.link.paired with
          | some n => if c.link.atSwap ≠ some n then .swap n else if s.swapWaits n then s.stallOr d.isSome else s.runBundle d b acts left
          | none => s.runBundle d b acts left

/-- A delivered execution (R270): the leader's place, and its loop state where the C slot has a result. -/
def State.executeDelivery (s : State) (d : Delivery) : Cycle :=
  (s.mapCore fun c => { c with seq := d.seq, loops := if d.ctl.isSome then d.loops else c.loops }).execute (some d)

/-! ## The cycle of one hearth -/

/-- What is due at the start of the cycle has come about: results are written, elements, fills and rows have landed. -/
def Core.settled (c : Core) : Bool :=
  !(c.fly.any fun f => f.left == 0) &&
    c.q.all (fun e => e.2.all fun x => x.landed || !c.due x.hand x.land) &&
    c.flue.all (fun e => e.2.q.all fun x => x.landed || !c.due x.hand x.land) &&
    (match c.mat.fill with | some f => !(c.due f.hand f.land && 128 ≤ f.got) | none => true) && c.dueRow.isNone

/-- The next delivery to a member of a fused street is due. -/
def Core.inboxDue (c : Core) : Bool :=
  c.link.fused && !c.priv && (match c.link.inbox with | d :: _ => d.at_ ≤ c.link.tick | [] => false)

/-- The hearths of a street's members that have not halted, by rank. -/
def State.members (s : State) (street : Nat) : List Nat :=
  ((List.range 8).filter fun i => bit (s.streetAt street).memb i).map (street * 8 + ·)

/-- The line at which the hearth in focus waits cannot read high before its next cycle: a member that has not arrived, or the
arrival of one that has, is not behind it. In a fixed-timing context a stall beyond that would turn on a member's frozen
cycles, and the cycle is frozen instead (R268, R347): DEDUCED (log 101). -/
def State.lineOpen (s : State) (ms : List Nat) (arrivals : List (Nat × Nat)) : Bool :=
  !s.fixed || ms.any fun h => match arrivals.find? fun a => a.1 == h with
    | some a => s.core.vt ≤ a.2 + 1
    | none => s.core.vt ≤ (s.coreAt h).vt + 1

/-- A stall cycle at a chimney or pair line (R268). -/
def State.lineCycle (s : State) (due : Bool) : Cycle :=
  let go (ms : List Nat) (as : List (Nat × Nat)) : Cycle := if s.lineOpen ms as then s.stallOr due else .stands .plain
  match s.core.wait with
  | .line .sqbar => go (s.squareStreets.flatMap s.members) (s.squareAt (squareOf s.coreId)).sqbar
  | .line _ =>
    let n := streetOf s.coreId
    go (s.members n) ((s.streetAt n).arrived.map fun a => (8 * n + a.1, a.2.2.2))
  | .pairLine _ =>
    let g := partnerOf s.coreId
    go [g] (match (s.coreAt g).wait with | .pairLine t => [(g, t)] | _ => [])
  | _ => s.stallOr due

/-- A cycle of a wait (R240, R268): stalls count; a fixed-timing wait past its padded end is frozen and counts once in
OVRCNT; an elastic one is frozen throughout. -/
def State.waitCycle (s : State) : Cycle :=
  let due := s.core.inboxDue
  let still (padded : Nat) : Cycle :=
    if s.fixed then (if s.core.now < padded then s.stallOr due else .stands .wait) else .stands .plain
  match s.core.wait with
  | .fence _ _ _ padded _ _ _ _ _ => still padded
  | .acquire _ padded _ => still padded
  | .ereting => if s.core.fly.isEmpty then .went s.resume else .went s.stall
  | _ => s.lineCycle due

/-- The handler's image is there and its code begins; where it could not be brought back the task ends as one without a handler
does (R251, log 111). -/
def State.handlerIn (s : State) : State :=
  match s.handlerCode with
  | some k => s.mapCore fun c => { c with stuck := .no, code := k, seq := k.begin_ }
  | none =>
    (s.mapCore fun c => { c with trap := { c.trap with cause := c.trap.cause ||| 2 ^ 26 } }).fail (s.core.trap.cause.toNat % 256) true

/-- One cycle of the hearth in focus. A leader whose own rank is not 0 executes the first bundle that it issues after a line only
when its rank's offset has passed (R269, R275, R278). -/
def State.memberCycle (s : State) : Cycle :=
  let c := s.core
  if c.link.stopped || !c.live then .went s
  else if c.stuck == .handler && !s.handlerAway then .went s.handlerIn
  else if c.stuck != .no || c.owed != 0 then .stands .plain
  else if c.wait != .none && (c.seq.done == 0 || c.ctl.isSome) then s.waitCycle
  else if c.link.fused && !c.priv then
    match c.link.inbox with
    | d :: _ => if d.at_ ≤ c.link.tick then s.executeDelivery d else .went s.stall
    | [] =>
      if s.myStreet.leader = s.coreId % 8 ∧ c.link.start + s.coreId % 8 * s.myStreet.skew ≤ c.link.tick then s.execute none else .went s.stall
  else s.execute none

/-! ## The cycle of a freeze domain (R166, R271, R280) -/

/-- The hearths of a fused street that still issue. -/
def State.streetDomain (s : State) (h : Nat) : List Nat := (s.fusedWith h).filter fun g => (s.coreAt g).live

/-- The partners of those of some hearths that are paired, each with its street. -/
def State.partnersOf (s : State) (hs : List Nat) : List Nat :=
  (hs.filter fun g => (s.coreAt g).link.paired).flatMap fun g => s.streetDomain (partnerOf g)

/-- The hearths that take a cycle together with the hearth in focus: its street, and in a fixed-timing context, where both
squares run on one clock, the paired partners too (R271, R280, R344). -/
def State.domain (s : State) : List Nat :=
  let own := s.streetDomain s.coreId
  (own ++ (if s.fixed then s.partnersOf own else [])).eraseDups

/-- In a fused street members take a cycle in rank order, and behind a member's trap only those that owe the trapping cycle
execute it, once the trap is over (R269, R272). -/
def State.inStep (s : State) (h : Nat) : Bool :=
  let c := s.coreAt h
  !c.link.fused || c.priv ||
    ((s.streetAt (streetOf h)).trapped.isNone &&
      (s.streetDomain h).all fun g => (s.coreAt g).priv || c.link.tick ≤ (s.coreAt g).link.tick)

/-- The cycle of each of some hearths in turn, in a state `base` at its start: the state after it, or the first hearth that
does not simply take it. In the streets that `held` names the schedule stands. -/
def runMembers (base : State) (held : List Nat) : List Nat → State → Sum State (Nat × Cycle)
  | [], s => .inl s
  | h :: r, s =>
    if !base.inStep h then runMembers base held r s
    else
      let s1 := s.focus h
      let wait := held.contains (streetOf h) && s1.core.link.fused && !s1.core.priv
      match s1.memberCycle with
      | .went t => runMembers base held r (if wait && !s1.core.link.stopped then s1.mapCore Core.heldTick else t)
      | .stands f => .inr (h, .stands f)
      | k => if wait then runMembers base held r (s1.mapCore Core.heldTick) else .inr (h, k)

/-- The cycle of a domain: a frozen cycle of one hearth is frozen for all (R166, R271, R280), a member that cannot execute yet
holds its street, and a hearth that reaches a paired MSWAP is seen there by its partner in the same cycle. -/
def State.runDomain : Nat → List Nat → List Nat → State → State
  | 0, _, _, s => s
  | n + 1, held, hs, s =>
    match runMembers s held hs s with
    | .inl t => t
    | .inr (h, .swap k) =>
      (s.mapCoreAt h fun c => { c with link := { c.link with atSwap := some k } }).runDomain n held hs
    | .inr (h, .hold) => s.runDomain n (streetOf h :: held) hs
    | .inr (h, .stands f) => hs.foldl (fun s g => s.mapCoreAt g Core.payOwed) ((s.focus h).freezeCycle f)
    | .inr (_, .went t) => t

/-! ## When a hearth may take its next cycle -/

/-- A chimney line reads high at the end of the cycle after the last arrival, and the members go on in the cycle that follows;
a halt counts as an arrival (R267, R275, R278). -/
def State.highAt (s : State) (hs : List Nat) (arrivals : List Nat) (halted : Nat) : Bool :=
  hs.all fun h =>
    let now := (s.coreAt h).lineTime (s.fixedAt h)
    maxOf arrivals + 2 ≤ now && halted + 1 ≤ now

/-- A street's line reads high: every member has arrived, and the time has come. -/
def State.lineOver (s : State) (street : Nat) : Bool :=
  let t := s.streetAt street
  let hs := s.members street
  !hs.isEmpty && hs.all (fun h => t.arrived.any fun a => a.1 == h % 8) &&
    s.highAt hs (t.arrived.map fun a => a.2.2.2) t.halted

/-- The second line of the square reads high for the square group of the hearth in focus, none of whose members is out on an
image (R265, R277). -/
def State.squareOver (s : State) : Bool :=
  let q := s.squareAt (squareOf s.coreId)
  let hs := s.squareStreets.flatMap s.members
  !hs.isEmpty && hs.all (fun h => q.sqbar.any fun a => a.1 == h) && !(s.images.any fun r => s.core.task.sharesSquare r.street) &&
    s.highAt hs ((q.sqbar.filter fun a => hs.contains a.1).map Prod.snd)
      (maxOf ((s.squarePlaces.map s.streetAt).filterMap fun t => if s.core.task.sameSquare t then some t.halted else none))

/-- The pair line has both partners, and the time has come at both: the cycle after the next one, counted from the later arrival
where both squares run on one clock, and otherwise from each partner's own (R267, R279; log 45). -/
def State.pairOver (s : State) : Bool :=
  let p := s.coreAt (partnerOf s.coreId)
  match s.core.wait, p.wait with
  | .pairLine a, .pairLine b =>
    let m := if s.fixed then max a b else 0
    max a m + 2 ≤ s.lineTime && max b m + 2 ≤ p.lineTime s.fixed
  | _, _ => false

/-- The wait of the hearth in focus is to end before its next cycle. -/
def State.waitEnds (s : State) : Bool :=
  match s.core.wait with
  | .none => false
  | .fence .. => s.waitOver
  | .acquire .. => s.waitOver
  | .line .sqbar => s.squareOver
  | .line _ => s.lineOver (streetOf s.coreId)
  | .pairLine _ => s.pairOver
  | .waita req _ issued t _ cancelling =>
    !cancelling && t != 0 && t ≤ s.core.now - issued && !(s.reqs.any fun r => r.id == req && r.done)
  | .halting => s.core.fly.isEmpty
  | .ereting => false

/-- A sync request will be performed and answered without the hearth. -/
def State.syncComing (s : State) (r : SyncReq) : Bool :=
  r.done || ((s.reqs.takeWhile fun x => x.id != r.id) ++ [r]).all fun x =>
    x.done || x.who.launch != r.who.launch || x.who.ord != r.who.ord || syncDie x.addr != syncDie r.addr ||
      (x.sent && !s.armed x && !s.inBox x)

/-- A request of the hearth in focus will bring its data without the hearth. -/
def State.coming (s : State) (req : Nat) : Bool :=
  let queue (l : List CopyOp) : Bool :=
    l.any (fun o => o.id == req) && (l.takeWhile fun o => o.id != req).all (fun o => if o.performed then o.awaits == 0 else s.opReady o) &&
      l.all fun o => o.id != req || o.performed || s.opReady o
  queue s.core.eng.cp || queue s.core.eng.cl || s.reqs.any fun r => r.id == req && s.syncComing r

/-- In a fixed-timing context data is there by its landing cycle, unless error recovery delays it: whether it does for a
request is `Config.recovery` (R168, R344; log 83). -/
def State.onTime (s : State) : Bool :=
  let c := s.core
  let ok (req : Nat) : Bool := Config.recovery req || !s.coming req
  let waits : Bool := match c.wait with
    | .fence ops reqs fills padded _ _ _ _ _ =>
      c.now < padded || ops.any ok || reqs.any ok ||
        (!c.mat.fillArrived fills && (match c.mat.fill with | some f => Config.recovery f.req || !s.fillReady | none => false))
    | .acquire req padded _ => c.now < padded || ok req
    | _ => true
  let elem (e : Elem) : Bool := e.data.isSome || !c.due e.hand e.land || ok e.req
  !s.fixed || waits &&
    (c.q.all (fun e => e.2.all elem) && c.flue.all (fun e => e.2.q.all elem) &&
      c.win.all (fun e => e.2.fills.all fun f => f.data.isSome || !c.due f.hand f.land || ok f.req) &&
      (match c.mat.fill with
       | some f => 128 ≤ f.got || !c.due f.hand f.land || Config.recovery f.req || !s.fillReady
       | none => true))

/-- The hearth in focus may take its next cycle: what comes first has come about. -/
def State.ready_ (s : State) : Bool := s.core.live && s.core.settled && !s.canLand && !s.waitEnds && s.onTime

/-- The hearths of a domain that are to take the next cycle: those of its squares' clocks that are behind (R342). -/
def State.takers (s : State) (hs : List Nat) : List Nat :=
  hs.filter fun h => hs.all fun g => (s.coreAt h).clk ≤ (s.coreAt g).clk

/-- No hearth that runs on the clock of `h` has taken fewer cycles: every hearth of a square counts the same cycles (R342). -/
def State.evenAt (s : State) (h : Nat) : Bool :=
  (s.coreId :: s.others.map Prod.fst).all fun g =>
    !(s.coreAt g).live || clockOf (s.fixedAt g) g != clockOf (s.fixedAt h) h || (s.coreAt h).clk ≤ (s.coreAt g).clk

/-- The domain of the hearth in focus may take its next cycle. -/
def State.canCycle (s : State) : Bool :=
  s.core.live && (s.takers s.domain).contains s.coreId &&
    (s.takers s.domain).all fun h => s.evenAt h && (s.focus h).ready_

/-- A partner that does not take its cycles together with the domain stands frozen (R280). -/
def State.partnerFrozen (s : State) : Bool :=
  (s.partnersOf s.domain).any fun g => !s.domain.contains g && (s.coreAt g).frozenNow false

/-- A hearth has entered its handler, whose image it reads at its home (R251, R391). -/
def State.fetchHandler (s t : State) (g : Nat) : State :=
  if (t.coreAt g).code == (s.coreAt g).code || !(t.coreAt g).priv then t
  else match (t.focus g).handlerRec with
    | some r => t.homeFetch r.ctx r.handle 0 r.bytes
    | none => t

/-- One cycle of the domain of the hearth in focus. -/
def State.issueCycle (s : State) : State :=
  if s.canCycle then
    let hs := s.takers s.domain
    let t := if s.partnerFrozen then hs.foldl (fun s g => s.mapCoreAt g Core.payOwed) s else s.runDomain (3 * hs.length + 1) [] hs
    let t1 := hs.foldl (s.fetchHandler · ·) t
    (hs.foldl (fun s g => s.mapCoreAt g fun c => { c with clk := c.clk + 1 }) t1).focus s.coreId
  else s

/-- BUNDLE_ISSUE (R62): one cycle of the hearth at which the event happens, and of those that share it. -/
def execBundleIssue (s : State) : Host.Outcome State Fault Refusal := atHearth s State.issueCycle

end Sys2Proof.Machine
end

