-- ==== Sys2Proof/Machine/Hbm.lean ====
section
/-! DEFINITION. The HBM base dies: the die port with its tags, the packets performed on encrypted granules, and the scan
units (spec/19_package_memory.md R391 to R397, R399; spec/15_die_clocks_errors.md R348, R349, R351). -/
namespace Sys2Proof.Machine

/-! ## The die port (R391, R392) -/

/-- An event of a stack: each die drives two (R391). -/
def atStack (s : State) (k : Nat → State → State) : Host.Outcome State Fault Refusal :=
  if s.diePresent (s.unit / 2) then .next (k s.unit s) else .fault .noSuchUnit

/-- The tags of a pseudo-channel that are free at the port (R392). -/
def Stack.freeTags (x : Stack) (pc : Nat) : List Nat :=
  (List.range 8).filter fun t => !(x.queue.any fun r => r.pc == pc && r.tag == some t)

/-- Change the request with a number. -/
def Stack.mapReq (x : Stack) (id : Nat) (f : HbmReq → HbmReq) : Stack :=
  { x with queue := x.queue.map fun r => if r.id = id then f r else r }

/-- HBM_REQUEST_SEND: the request at the head of the port takes a free tag of its pseudo-channel, which one is free (log 1);
without one the whole port stalls (R392). -/
def execHbmRequestSend (s : State) : Host.Outcome State Fault Refusal :=
  atStack s fun k s =>
    let x := s.stackAt k
    match x.queue.find? fun r => r.tag.isNone with
    | none => s
    | some r =>
      let ts := x.freeTags r.pc
      match ts[Config.choose s.free % ts.length]? with
      | none => s
      | some t => { s.setStack k (x.mapReq r.id fun r => { r with tag := some t }) with free := s.free + 1 }

/-! ## Performing packets (R393, R394, R399) -/

/-- The place of a page among some spans. -/
def spanIndex (p : Nat) : List (Nat × Nat) → Nat → Option Nat
  | [], _ => none
  | (f, k) :: r, n => if f ≤ p ∧ p < f + k then some (n + (p - f)) else spanIndex p r (n + k)

/-- The record whose pages hold a granule of a stack, and the unit of its allocation that lies there (R391, log 17). -/
def State.stackRec (s : State) (k g : Nat) : Option (Rec × Nat) :=
  let page := g / 64 * 2 + k % 2
  s.recs.findSome? fun r =>
    if r.area = some (.hbm (k / 2)) then (spanIndex page r.pages 0).map fun i => (r, i * 64 + g % 64) else none

/-- What reading and decrypting a granule gives (R394): reply status, plaintext and check value. A granule that nothing has
written yet holds what the spec does not give: what its tensor shows there (log 8, log 20). -/
def State.readCell (s : State) (k g key : Nat) : Nat × V512 × BitVec 16 :=
  match Store.get none (s.stackAt k).cells g with
  | some c =>
    let v := s.openCell key (hbmTweak k g) c
    (if c.flaw.kind = 1 then 1 else if checkValue (toBytes 64 v.toNat) = c.check then 0 else 2, v, c.check)
  | none =>
    match s.stackRec k g with
    | some (r, i) => ((r.unitFlaw i).mark, r.unitData i, storedCheck (r.unitData i) (r.unitFlaw i))
    | none => (0, Config.freeGranule (hbmTweak k g), storedCheck (Config.freeGranule (hbmTweak k g)) Flaw.clean)

/-- What a request met at a granule is logged, and a single flipped bit is corrected in place (R348, R394). A read of a tensor has
logged what its granule holds where it was asked for, so that only what the memory system itself reads is left. -/
def State.sawCell (s : State) (k g ctx : Nat) : State :=
  match Store.get none (s.stackAt k).cells g with
  | some c =>
    if c.flaw.kind = 0 then s else (s.logError (k / 2) (c.flaw.entry ctx 0x06 (k % 2) g c.flaw.kind)).correctCell k g
  | none => s

/-- HBM_REQUEST_PERFORM: a sent request whose granule no earlier request of the port still holds is performed (R393, R394). -/
def execHbmRequestPerform (n : Nat) (s : State) : Host.Outcome State Fault Refusal :=
  atStack s fun k s =>
    let x := s.stackAt k
    match x.queue.find? fun r => r.id == n with
    | none => s
    | some r =>
      if r.tag.isNone ∨ r.reply.isSome = true ∨
          ((x.queue.takeWhile fun e => e.id != n).any fun e => e.gran == r.gran && e.reply.isNone) = true then s
      else
        let answer (s : State) (status : Nat) (v : V512) (check : BitVec 16) : State :=
          s.setStack k ((s.stackAt k).mapReq n fun e => { e with reply := some (status, v, check) })
        if r.op = 1 ∨ (r.op = 2 ∧ r.mask = BitVec.allOnes 64) then answer (s.writeCell k r.gran r.key r.data r.flaw) 0 0 0
        else
          let (status, v, check) := s.readCell k r.gran r.key
          if r.op = 0 then answer (s.correctCell k r.gran) status v check
          else
            let s1 := s.sawCell k r.gran (s.keyAt r.key).owner
            if status ≠ 0 then answer s1 status 0 0
            else answer (s1.writeCell k r.gran r.key (mergeBytes v r.data r.mask.toNat) r.flaw) 0 0 0

/-- HBM_REPLY: the port receives a reply, and the request's tag frees (R392, R393). What the reply brings has reached its
tensor's image (log 20). -/
def execHbmReply (n : Nat) (s : State) : Host.Outcome State Fault Refusal :=
  atStack s fun k s =>
    let x := s.stackAt k
    match x.queue.find? fun r => r.id == n with
    | none => s
    | some r => if r.reply.isNone then s else s.setStack k { x with queue := x.queue.filter fun e => e.id != n }

/-! ## Scan units (R395 to R397) -/

/-- An element passes the comparison (R397). -/
def Scan_passes (o : Scan) (f : Fmt) (w : Nat) : Bool :=
  if f.isInt then
    let v := if o.abs then ((decodeInt f w).natAbs : Int) else decodeInt f w
    if o.ge then decodeInt f o.thr ≤ v else decodeInt f o.thr < v
  else
    let x := decodeFloat f w
    let v := if o.abs && x.neg then x.negate else x
    let t := decodeFloat f o.thr
    !x.isNan && !t.isNan && (ltVals t v || (o.ge && eqVals t v))

/-- The bytes of its source that a scan reads, as offset and length. -/
def Scan_range (o : Scan) (r : Rec) : Nat × Nat :=
  let lo := o.first * r.width / 8
  (lo, ceilDiv ((o.first + o.count) * r.width) 8 - lo)

/-- The marks that a scan meets, by granule (R348, R349, R397). -/
def State.scanMarks (s : State) (o : Scan) (r : Rec) : List (Nat × Nat) :=
  s.homeMarks r.ctx r.handle (Scan_range o r).1 (Scan_range o r).2

/-- What a scan meets is logged, and single flipped bits are corrected (R348, R351). -/
def State.sawScan (s : State) (o : Scan) (r : Rec) : State :=
  (granulesOf (Scan_range o r).1 (Scan_range o r).2).foldl (fun s g => s.sawHome r g) s

/-- The channels whose units a scan is spread over, by stack × 32 + channel: a channel's two pseudo-channels are 2c and 2c + 1
(R391, R395): DEDUCED (log 112). -/
def State.scanChannels (s : State) (j : ScanJob) : List Nat :=
  match s.recAt j.ctx j.o.src with
  | none => []
  | some r => ((granulesOf (Scan_range j.o r).1 (Scan_range j.o r).2).map fun g =>
      let (k, c) := hbmPlace (r.unitAddr g)
      k * 32 + pcOf c / 2).eraseDups

/-- A unit that the scan needs still serves a scan that reached it before: each serves its scans in arrival order (R395). -/
def State.scanBehind (s : State) (j : ScanJob) : Bool :=
  let mine := s.scanChannels j
  (s.scans.takeWhile fun x => x.id != j.id).any fun x => (s.scanChannels x).any mine.contains

/-- The passing elements of a scan as (index, bits); a marked granule contributes none (R397). -/
def State.scanFound (s : State) (o : Scan) (r : Rec) : List (Nat × Nat) :=
  let f := r.format
  let marks := s.scanMarks o r
  let raw := ofBytes (s.homeRead r.ctx r.handle 0 r.planeBytes)
  (List.range o.count).filterMap fun j =>
    let i := o.first + j
    let w := elemAt f.width raw i
    if marks.any (fun e => e.1 == i * f.width / 512) = false ∧ Scan_passes o f w = true then some (i, w) else none

/-- The status of a scan: 1 where a granule is uncorrectable, else 2 where one fails its check value (R397). -/
def Scan_status (marks : List (Nat × Nat)) : Nat :=
  if marks.any (·.2 == 1) then 1 else if marks.any (·.2 == 2) then 2 else 0

/-- The result header's 64 bytes (R397). -/
def scanHeader (status kept found : Nat) : List Byte := toBytes 64 (status * 2 ^ 64 + kept * 2 ^ 32 + found)

/-- SCAN_COMPLETE: the scan that `unit` numbers writes its pairs and header, signals and ends (R397). It waits while a unit that it needs serves an earlier scan (R395), and while its result tensor must first
be made resident or a dropped tensor depends on it (R380). An ordinal past 32 bits stands in a pair by its low 32: DESIGN CHOICE
(log 112). -/
def execScanComplete (s : State) : Host.Outcome State Fault Refusal :=
  match s.scans.find? fun j => j.id == s.unit with
  | none => .next s
  | some j =>
    let o := j.o
    match s.recAt j.ctx o.src, s.recAt j.ctx o.res with
    | some r, some t =>
      if s.scanBehind j = true ∨ t.moving = true ∨ (t.away && !t.rfail) = true ∨ (s.dependent j.ctx o.res).isSome = true then .next s
      else
        let found := s.scanFound o r
        let kept := found.take o.cap
        let status := Scan_status (s.scanMarks o r)
        let hdr := scanHeader status kept.length (min found.length (2 ^ 32 - 1))
        let bytes := hdr ++ kept.flatMap fun e => toBytes 8 (e.1 % 2 ^ 32 + e.2 * 2 ^ 32)
        let s1 := (((s.sawScan o r).beforeWrite j.ctx o.res 0 bytes.length false).homeWrite j.ctx o.res 0 bytes).2
        let s3 := { s1.unuseRecs j.ctx [o.src, o.res] with scans := s1.scans.filter fun x => x.id != j.id }
        .next ((s3.signal noTask j.ctx j.die o.sigKind o.sigId 0x20 []).tryAllNamed j.die)
    | _, _ => .next { s with scans := s.scans.filter fun x => x.id != j.id }

end Sys2Proof.Machine
end

