-- ==== Sys2Proof/Machine/Fabric.lean ====
section
/-! DEFINITION. The fabric's events: links, owners, requests of peers, replies, revocation (spec/23_fabric.md R428 to R442). -/
namespace Sys2Proof.Machine

/-! ## Owners and links (R429, R431, R432) -/

/-- OWNER_ISOLATE: an entry of a port is isolated, and the contexts that use it are told (R432, R409; log 18). -/
def State.isolate (s : State) (port o : Nat) : State :=
  let x := s.portAt port
  let e := x.entry o
  if e.state = 1 then
    (s.contexts.filter fun c => c.owner == some o).foldl (fun s c => s.postEvent c.id (eventWord 4 (port / 16) (port % 16) o))
      (s.setPort port (x.setEntry o { e with state := 2 }))
  else s

/-- The owner entries of a port. -/
def ownerEntries : Nat := 64

/-- PORT_FAULT: the port is down, and every entry that it carries is isolated on it (R432). -/
def State.portFault (s : State) (port : Nat) : State :=
  let s1 := (List.range ownerEntries).foldl (fun s o => s.isolate port o) s
  s1.setPort port { s1.portAt port with down := true, replays := 0 }

/-- FLIT_REPLAY: a flit of a port fails its CRC; after 8 replays the port goes down (R429). -/
def execFlitReplay (s : State) : Host.Outcome State Fault Refusal :=
  if s.unit < scalePorts ∧ s.hasPort s.unit = true then
    let x := s.portAt s.unit
    if x.down then .next s
    else if 8 ≤ x.replays then .next (s.portFault s.unit)
    else .next (s.setPort s.unit { x with replays := x.replays + 1 })
  else .fault .noSuchUnit

/-- DISCARD_INTERVAL: 1 ms has passed on a port, and its DISCARDS counts begin again (R431). -/
def execDiscardInterval (s : State) : Host.Outcome State Fault Refusal :=
  if s.unit < scalePorts ∧ s.hasPort s.unit = true then
    let x := s.portAt s.unit
    .next (s.setPort s.unit { x with owners := Store.mapVals OwnerEntry.empty (fun e => { e with discards := 0 }) x.owners })
  else .fault .noSuchUnit

/-- A packet is discarded: its entry's DISCARDS rises, and at 16 the entry is isolated (R432). -/
def State.discard (s : State) (port o : Nat) : State :=
  let x := s.portAt port
  let e := x.entry o
  let s1 := s.setPort port (x.setEntry o { e with discards := min (e.discards + 1) 255 })
  if e.discards + 1 = 16 then s1.isolate port o else s1

/-- The checks of a link end in their order (R432), and those of an Ethernet port: MACsec and the address (R442). -/
def State.packetOk (s : State) (port : Nat) (p : FabPacket) : Bool :=
  let e := (s.portAt port).entry p.owner
  if port < scalePorts then e.state == 1 && p.epoch == (s.portAt port).epoch && p.mac == fabTag p e.key && p.dst == podNumber
  else p.mac == etherTag p && p.dst == Config.etherAddr port

/-- The flits of a link's receive buffer that are taken (R429): the header and payload flits of the packets that no one has
taken up; a held write lies at the home die. -/
def State.linkFlits (s : State) (port : Nat) : Nat :=
  ((s.fabric.inn.filter fun r => r.port == port && r.held.isNone).map fun r => 1 + r.pkt.payload.length).sum

/-- A receiver stalls its sender while 192 or more of its 256 flits are taken (R429). -/
def State.linkStalls (s : State) (port : Nat) : Bool := port < scalePorts && 192 ≤ s.linkFlits port

/-- The context that a window's entry names is deterministic. -/
def State.windowDet (s : State) (w : Nat) : Bool :=
  match s.ctx? (s.windowAt w).ctx with | some c => c.det && (s.windowAt w).state != 0 | none => false

/-- PACKET_RECEIVE: a packet arrives at a package port, is checked, and waits for its performance; a write to a deterministic
context's window is held (R432, R436). -/
def execPacketReceive (p : FabPacket) (s : State) : Host.Outcome State Fault Refusal :=
  if s.hasPort s.unit then
    let port := s.unit
    if port < scalePorts ∧ (s.portAt port).down = true then .next s
    else if !s.packetOk port p then .next (if port < scalePorts then s.discard port p.owner else s)
    else if 3 < p.op then .next s
    else
      let (id, s1) := s.fresh
      let s2 := if port < scalePorts then s1.setPort port { s1.portAt port with replays := 0 } else s1
      let held := if p.op = 0 ∧ s.windowDet p.win = true then some (s.windowAt p.win).ctx else none
      .next { s2 with fabric := { s2.fabric with inn := s2.fabric.inn ++ [⟨id, port, p, held, false⟩] } }
  else .fault .noSuchUnit

/-! ## Requests of peers (R434 to R436) -/

/-- The owner identifier of a request: that of the port's entry, or over Ethernet of its secure association, which the
packet's OWNER field stands for (R435, R442). -/
def State.ownerOf (s : State) (r : RemoteIn) : Nat :=
  if r.port < scalePorts then ((s.portAt r.port).entry r.pkt.owner).owner else r.pkt.owner

/-- The masked bytes of a packet, by place. -/
def FabPacket_places (p : FabPacket) : List Nat := (List.range (64 * (p.ng + 1))).filter (bit p.bmask)

/-- The status that a request meets (R435): 0 when it is to be performed. -/
def State.requestStatus (s : State) (r : RemoteIn) (w : Window) (rec_ : Option Rec) : Nat :=
  let bytes := match rec_ with | some x => x.bytes | none => 0
  if r.gone = true ∨ w.state = 2 ∨ w.state = 3 then 3
  else if w.state = 0 ∨ s.ownerOf r ≠ w.peer ∨ bit w.acc (if r.pkt.op = 0 then 1 else 0) = false ∨
      ((FabPacket_places r.pkt).any fun i =>
        let a := r.pkt.off + i
        a < 64 * w.firstg || 64 * (w.firstg + w.ngran) ≤ a || bytes ≤ a) = true then 4
  else 0

/-- Reply to a request on the port it came by, unless its owner may not use that port (R432). -/
def State.sendReply (s : State) (r : RemoteIn) (status : Nat) (payload : List V512) : State :=
  if s.portOk r.port r.pkt.owner then
    let p : FabPacket := { r.pkt with op := r.pkt.op + 2, dst := r.pkt.src, status := status, payload := payload }
    let (q, s1) := s.sealPacket r.port p
    { s1 with fabric := { s1.fabric with replies := s1.fabric.replies ++ [q] } }
  else s

/-- Byte `i` of a packet's payload. -/
def FabPacket_byte (p : FabPacket) (i : Nat) : Nat := elemAt 8 ((p.payload[i / 64]?).getD 0).toNat (i % 64)

/-- The masked bytes of a write reach their tensor as masked writes of its granules (R394, R435). The offset is a byte offset, and
the bytes need not lie on granule boundaries. -/
def State.remoteWrite (s : State) (ctx h : Nat) (p : FabPacket) : State :=
  (granulesOf p.off (64 * (p.ng + 1))).foldl (fun s g =>
    let at_ (j : Nat) : Option Nat :=
      if p.off ≤ 64 * g + j ∧ 64 * g + j < p.off + 64 * (p.ng + 1) then some (64 * g + j - p.off) else none
    let on (j : Nat) : Bool := match at_ j with | some i => bit p.bmask i | none => false
    let mask := ((List.range 64).map fun j => ofBool (on j) * 2 ^ j).sum
    let v := packV 8 64 fun j => match at_ j with | some i => FabPacket_byte p i | none => 0
    if mask = 0 then s else (s.homeGran ctx h g v mask).2) s

/-- Perform a request of a peer whole, and reply (R435); the errors that it meets are logged (R348, R349). A remote write counts as a write of the phase (R380, R382). -/
def State.performRemote (s : State) (r : RemoteIn) : State :=
  let s0 := { s with fabric := { s.fabric with inn := s.fabric.inn.filter fun x => x.id != r.id } }
  let w := s.windowAt r.pkt.win
  let rec_ := s.recAt w.ctx w.handle
  let st := s.requestStatus r w rec_
  let ix := FabPacket_places r.pkt
  if st ≠ 0 then s0.sendReply r st []
  else if r.pkt.op = 0 then
    let lo := r.pkt.off + ix.headD 0
    let n := if ix.isEmpty then 0 else (ix.getLast?).getD 0 + 1 - ix.headD 0
    let s1 := if n = 0 then s0 else (s0.beforeWrite w.ctx w.handle lo n false).mapCtx w.ctx fun c =>
      { c with dirtyOut := if c.dirtyOut.contains w.handle then c.dirtyOut else c.dirtyOut ++ [w.handle] }
    (s1.remoteWrite w.ctx w.handle r.pkt).sendReply r 0 []
  else
    let n := 64 * (r.pkt.ng + 1)
    let bs := s0.homeRead w.ctx w.handle r.pkt.off n
    let marks := (s0.homeMarks w.ctx w.handle r.pkt.off n).filter fun e => ix.any fun i => (r.pkt.off + i) / 64 == e.1
    let s1 := s0.homeFetch w.ctx w.handle r.pkt.off n
    let pay := (List.range (r.pkt.ng + 1)).map fun g => packV 8 64 fun j =>
      if bit r.pkt.bmask (64 * g + j) then ((bs[64 * g + j]?).getD 0).toNat else 0
    s1.sendReply r (statusOf (marks.map Prod.snd)) pay

/-- REMOTE_REQUEST: the home die performs request `unit`, when it is not held and no tensor must be rebuilt first (R380,
R435, R436). -/
def execRemoteRequest (s : State) : Host.Outcome State Fault Refusal :=
  match s.fabric.inn.find? fun r => r.id == s.unit with
  | none => .fault .noSuchUnit
  | some r =>
    let w := s.windowAt r.pkt.win
    let waits := r.pkt.op == 0 && (s.dependent w.ctx w.handle).isSome
    if r.held.isSome || 1 < r.pkt.op || waits then .next s else .next (s.performRemote r)

/-- No held write to a context's windows awaits a tensor that must be rebuilt first (R380). -/
def State.heldReady (s : State) (ctx : Nat) : Bool :=
  (s.fabric.inn.filter fun r => r.held == some ctx && !r.gone).all fun r =>
    (s.dependent ctx (s.windowAt r.pkt.win).handle).isNone

/-- HELD_REMOTE_WRITE: the writes held for a context are performed in arrival order (R436), one whose window is gone with
status 3. -/
def State.performHeld (s : State) (ctx : Nat) : State :=
  (s.fabric.inn.filter fun r => r.held == some ctx).foldl State.performRemote s

/-! ## Replies and time-outs of a remote copy (R441) -/

/-- A request leaves the list of those that await a reply. -/
def State.dropOut (s : State) (id : Nat) : State :=
  { s with fabric := { s.fabric with out := s.fabric.out.filter fun y => y.id != id } }

/-- The copy that a packet belongs to awaits one less. -/
def State.awaited (s : State) (x : RemoteOut) (status : Nat) : State :=
  ((s.focus x.hearth).mapOp x.op fun o => { o with awaits := o.awaits - 1, status := max o.status status }).focus s.coreId

/-- The first request that waits for a TAG sets out, when one is free; without a path its status is 4. -/
def State.launchWaiting (s : State) : State :=
  match s.fabric.out.find? fun x => !x.held && x.status.isNone && x.tries == 0 with
  | none => s
  | some x =>
    let s1 := (s.dropOut x.id).launchOut x
    if s1.fabric.out.any fun y => y.id == x.id && y.status.isSome then (s1.dropOut x.id).awaited x 4 else s1

/-- A packet of a copy has its status: the copy awaits one less. Its TAG is free for a request that waits. -/
def State.packetDone (s : State) (x : RemoteOut) (status : Nat) : State := ((s.dropOut x.id).awaited x status).launchWaiting

/-- The bytes of a read reply reach the local destination (R441): `d` names the row's part by its first byte. -/
def State.placeReply (s : State) (x : RemoteOut) (o : CopyOp) (c : CopyDesc) (status : Nat) (p : FabPacket) : State :=
  let ix := FabPacket_places x.pkt
  let bs := ix.map fun i => BitVec.ofNat 8 (elemAt 8 ((p.payload[i / 64]?).getD 0).toNat (i % 64))
  let d := x.pkt.off + ix.headD 0 - x.rowOff
  if bs.isEmpty then s
  else if c.dstTensor then
    match s.recAt o.ctx c.dhandle with
    | none => s
    | some r =>
      match r.offsetOf (rowCoords c c.dc x.row) (c.count * r.width) with
      | none => s
      | some off =>
        let tail := c.count * r.width % 8
        let lastHere := tail ≠ 0 ∧ d + bs.length = ceilDiv (c.count * r.width) 8
        let old := ((s.readGran (squareOf s.coreId) (o.launch, o.ord) r ((off + d + bs.length - 1) / 64) o.hint).2.1.toNat /
          2 ^ (8 * ((off + d + bs.length - 1) % 64))) % 256
        let bs' := if lastHere then bs.dropLast ++ [BitVec.ofNat 8 (((bs.getLast?).getD 0).toNat % 2 ^ tail + old / 2 ^ tail * 2 ^ tail)]
          else bs
        (writeRange s 4 o.ctx r.handle o.who (off + d) bs' o.hint (s.rebuildingBy o.launch r) (fun _ => status)).2
  else s.padRowPut ((c.doff + x.row * c.pitch).toNat + d) bs (fun _ => status)

/-- REMOTE_REPLY: reply `unit` returns to the copy whose request has its TAG (R430, R441); a read reply waits while its write
must wait for a tensor to be rebuilt (R380). -/
def execRemoteReply (s : State) : Host.Outcome State Fault Refusal :=
  match s.fabric.inn.find? fun r => r.id == s.unit && 1 < r.pkt.op with
  | none => .fault .noSuchUnit
  | some r =>
    let s0 := { s with fabric := { s.fabric with inn := s.fabric.inn.filter fun x => x.id != r.id } }
    match s0.fabric.out.find? fun x =>
        x.pkt.tag == r.pkt.tag && x.pkt.dst == r.pkt.src && x.pkt.op + 2 == r.pkt.op && x.status.isNone && x.tries != 0 && !x.held &&
          x.eth == decide (scalePorts ≤ r.port) with
    | none => .next s0
    | some x =>
      let st := r.pkt.status
      let s1 := s0.focus x.hearth
      let op := if x.pkt.op = 1 ∧ st < 3 then s1.core.eng.cl.find? fun o => o.id == x.op else none
      if (match op with | some o => !(s1.dependents o).isEmpty | none => false) then .next s
      else
        let s2 := match op with
          | some o => (match o.kind with | .copy c => s1.placeReply x o c st r.pkt | _ => s1)
          | none => s1
        .next ((s2.focus s.coreId).packetDone x st)

/-- REMOTE_TIMEOUT: 250 µs have passed without a reply to request `unit`: it is sent once more on another plane, and after
that its status is 4 (R441). -/
def execRemoteTimeout (s : State) : Host.Outcome State Fault Refusal :=
  match s.fabric.out.find? fun x => x.id == s.unit with
  | none => .fault .noSuchUnit
  | some x =>
    if x.held ∨ x.status.isSome = true ∨ x.tries = 0 then .next s
    else if 2 ≤ x.tries then .next (s.packetDone x 4)
    else
      let s2 := (s.dropOut x.id).sendOut x (if x.eth then none else some x.port)
      match s2.fabric.out.find? fun y => y.id == x.id with
      | some y => .next (if y.status.isSome then s2.packetDone y 4 else s2)
      | none => .next s2

/-! ## Revocation (R438) -/

/-- REVOKE_EFFECT: the point E of window `unit`'s revocation. -/
def execRevokeEffect (s : State) : Host.Outcome State Fault Refusal :=
  if s.unit < 1024 then
    let w := s.windowAt s.unit
    if w.state = 1 ∧ w.revoker.isSome = true then .next (s.setWindow s.unit { w with state := 2 }) else .next s
  else .fault .noSuchUnit

/-- REVOKE_DRAIN_DONE: every request begun before E has been performed and replied, so the pin goes and the window is in
quarantine; the stream's TREVOKE then goes on. -/
def execRevokeDrainDone (s : State) : Host.Outcome State Fault Refusal :=
  if s.unit < 1024 then
    let w := s.windowAt s.unit
    if w.state = 2 then
      .next ((s.mapRec w.ctx w.handle fun r => { r with pins := r.pins - 1 }).setWindow s.unit { w with state := 3 })
    else .next s
  else .fault .noSuchUnit

/-- The stream whose TREVOKE started a revocation still stands at it. -/
def State.revokerWaits (s : State) (w : Window) : Bool :=
  match w.revoker.bind s.streamAt with | some x => x.canRun | none => false

/-- No request to a window waits to be performed, but those held for a commit (R438: a later export receives none of them). -/
def State.windowQuiet (s : State) (w : Nat) : Bool :=
  s.fabric.inn.all fun r => !(r.pkt.op < 2 && r.pkt.win == w && r.held.isNone)

/-- WINDOW_QUARANTINE_END: 1 ms after the stream went on the entry is free. The writes to it that are still held stay revoked. -/
def execWindowQuarantineEnd (s : State) : Host.Outcome State Fault Refusal :=
  if s.unit < 1024 then
    let w := s.windowAt s.unit
    if w.state = 3 ∧ s.revokerWaits w = false ∧ s.windowQuiet s.unit = true then
      let off (r : RemoteIn) : RemoteIn := if r.pkt.op = 0 ∧ r.pkt.win = s.unit then { r with gone := true } else r
      .next ({ s with fabric := { s.fabric with inn := s.fabric.inn.map off } }.setWindow s.unit Window.free)
    else .next s
  else .fault .noSuchUnit

end Sys2Proof.Machine
end

