-- ==== Sys2Proof/Machine/Phase.lean ====
section
/-! DEFINITION. The phase commit and the rollback of a context (spec/13_die_memory_model.md R312, R313; spec/14 R326;
spec/12 R301; spec/18_package_residency.md R382, R383, R388; spec/23_fabric.md R436). -/
namespace Sys2Proof.Machine

/-! ## What a context has under way -/

/-- The streams of a context, with their places. -/
def State.streamsOf (s : State) (ctx : Nat) : List (StreamId × Stream) :=
  [0, 1, 2, 3].flatMap fun d => (s.dieAt d).streams.filterMap fun e =>
    match e.2 with | some x => if x.ctx = ctx then some (⟨d, e.1⟩, x) else none | none => none

/-- Accepted operations of a context that have not completed: queue entries and sync requests. -/
def State.ctxBusy (s : State) (ctx : Nat) : Bool :=
  s.reqs.any (fun r => r.ctx == ctx) ||
    (List.range hearthCount).any fun h => ((s.coreAt h).eng.cp ++ (s.coreAt h).eng.cl).any fun o => o.ctx == ctx

/-- Named tasks made ready and mailboxes with messages or a handler. -/
def State.ctxReady (s : State) (ctx : Nat) : Bool :=
  [0, 1, 2, 3].any fun d =>
    (s.dieAt d).named.any (fun e => e.2.ready.any fun n => n.ctx == ctx) ||
      (s.dieAt d).boxes.any fun e =>
        (match e.2.bound with | some (_, _, _, c) => c == ctx | none => false) &&
          (e.2.busy || !e.2.queue.isEmpty || !e.2.waiting.isEmpty)

/-- The phase of a context may commit (R312, R326). -/
def State.canCommit (s : State) (ctx : Nat) : Bool :=
  let xs := s.streamsOf ctx
  xs.any (fun e => e.2.run == .atPhase) && xs.all (fun e => e.2.run == .atPhase || e.2.run == .ended) &&
    !(s.launches.any fun l => l.ctx == ctx) && !s.ctxBusy ctx && !s.ctxReady ctx

/-! ## The commit -/

/-- Steps 1 and 2: every square writes back the context's dirty lines and drops its clean ones homed on another die
(R312). -/
def State.commitSquare (s : State) (ctx q : Nat) : State :=
  let sq := s.squareAt q
  let mine (l : Line) : Bool := l.ctx == ctx
  let dirty := sq.lines.filterMap fun e => match e.2 with | some l => if l.dirty && mine l then some l else none | none => none
  let s1 := dirty.foldl (fun s l => s.writeHome q l) s
  let now := s1.squareAt q
  let clean := now.lines.map fun e => (e.1, e.2.map fun l => if mine l then { l with dirty := false } else l)
  let far (l : Line) : Bool := match s.recAt l.ctx l.handle with | some r => r.home != q / 4 | none => true
  if sq.lines.any fun e => match e.2 with | some l => mine l | none => false then
    s1.setSquare q { now with lines := clean.filter fun e => match e.2 with | some l => !(mine l && far l) | none => false }
  else s1

/-- Step 4: the context's entries of the race map, and the records and epochs of its tasks, wherever they are kept. -/
def Die.clearRecords (d : Die) (ctx : Nat) (owns : Nat → Nat → Bool) : Die :=
  let words := d.words.map fun e => if owns 0 e.1 then (e.1, { e.2 with rel := [] }) else e
  let deques := d.deques.map fun e =>
    if owns 1 e.1 then (e.1, { e.2 with entries := (e.2.entries.map fun x => (x.1, (x.2.1, []))).filter fun x => !decide (x.2 = (0, [])) })
    else e
  let named := d.named.map fun e => if owns 3 e.1 then (e.1, { e.2 with known := [] }) else e
  { d with
    raceMap := d.raceMap.filter fun e => e.ctx != ctx
    words := words.filter fun e => !decide (e.2 = SWord.init)
    deques := deques.filter fun e => !decide (e.2 = Deque.init)
    named := named.filter fun e => !decide (e.2 = Named.init) }

def State.clearRecords (s : State) (ctx : Nat) : State :=
  match s.ctx? ctx with
  | none => s
  | some c => [0, 1, 2, 3].foldl (fun s d => s.mapDie d fun x => x.clearRecords ctx (c.allocated d)) s

/-- Step 3 and the counters of R314: the recovery point is here, and a new phase begins (R301, R382). -/
def Context.nextPhase (c : Context) : Context :=
  { c with phase := c.phase + 1, satCnt := 0, rdrFull := false, mapFull := false, lost := false, savedWords := [],
           savedDeques := [], savedNamed := [], dirtyOut := [], egressGone := [] }

/-- EGRESS_RELEASE: held writes of a deterministic context leave, in their order (R313); one without a path is dropped. -/
def State.releaseEgress (s : State) (ctx : Nat) : State :=
  let held := s.fabric.out.filter fun x => x.held && x.ctx == ctx
  let s1 := { s with fabric := { s.fabric with out := s.fabric.out.filter fun x => !(x.held && x.ctx == ctx) } }
  let s2 := held.foldl (fun s x => s.launchOut { x with held := false, status := none, tries := 0 }) s1
  { s2 with fabric := { s2.fabric with out := s2.fabric.out.filter fun x => x.held || x.status.isNone } }

/-- The streams that stand at PHASE go on; where they resume after a rollback is recorded (R326, R383). -/
def State.passPhase (s : State) (ctx : Nat) : State :=
  (s.streamsOf ctx).foldl (fun s e =>
    s.mapStream e.1 fun x =>
      let y := if x.run = .atPhase then x.past else x
      { y with afterPhase := y.off, phaseSlots := y.slots }) s

/-- PHASE_COMMIT of the context `unit` (R312): the held writes of peers come first (R436), each once no dropped tensor depends
on what it writes (R380). -/
def execPhaseCommit (s : State) : Host.Outcome State Fault Refusal :=
  match s.ctx? s.unit with
  | none => .fault .noSuchUnit
  | some _ =>
    let ctx := s.unit
    if !(s.canCommit ctx && s.heldReady ctx) then .next s
    else
      let s1 := s.performHeld ctx
      let s2 := (List.range 16).foldl (fun s q => s.commitSquare ctx q) s1
      let s3 := (s2.mapCtx ctx Context.nextPhase)
      let s4 := s3.dropReserve fun r => r.ctx == ctx
      let ph := match s4.ctx? ctx with | some c => c.phase | none => 0
      let s5 := State.sweep ctx ph s4.recs.length s4
      .next (((s5.clearRecords ctx).releaseEgress ctx).passPhase ctx)

/-! ## Rollback (R383) -/

/-- Step 1: every task of the context ends as failed, its pre-empted images and with them their open windows among them
(R373), and nothing of its launches goes on. The monitors that it armed are
freed (R301), and a post that waits at a full mailbox stays there without its request. -/
def State.endTasks (s : State) (ctx : Nat) : State :=
  let s1 := (List.range hearthCount).foldl (fun s h =>
    if (s.coreAt h).mode != .free && (s.coreAt h).task.ctx == ctx then
      ((s.focus h).taskEnd (some 0x20)).focus s.coreId
    else s) s
  let rebuilt := s1.launches.filterMap fun l =>
    if l.ctx = ctx then (match l.dst with | .recipe h => s1.recAt ctx h | _ => none) else none
  let mine (r : Ready) : Bool := r.image.task.ctx == ctx
  let sB := (s1.images.filter mine).foldl (fun s r => s.unuseRecs ctx r.image.held) s1
  let sC := sB.mapImages fun r => if mine r then none else some r
  let s2 := rebuilt.foldl (fun s r => s.endRebuild r false) { sC with launches := sC.launches.filter fun l => l.ctx != ctx }
  let gone (r : SyncReq) : Bool := r.ctx == ctx && (s2.armed r || s2.inBox r || !r.sent)
  let ids := (s2.reqs.filter gone).map (·.id)
  let s3 := { s2 with reqs := s2.reqs.filter fun r => !gone r }
  [0, 1, 2, 3].foldl (fun s d => s.mapDie d fun x =>
    { x with
      monitors := x.monitors.filter fun m => !ids.contains m.req
      named := (x.named.map fun e => (e.1, { e.2 with ready := e.2.ready.filter fun n => n.ctx != ctx })).filter
        fun e => !decide (e.2 = Named.init)
      boxes := x.boxes.map fun e => if (match e.2.bound with | some (_, _, _, c) => c == ctx | none => false)
        then (e.1, { e.2 with busy := false, closing := false }) else e }) s3

/-- The granules of a record's copied pages as they were, each with its value and the error that it holds. -/
def State.copied (s : State) (r : Rec) : List (Nat × V512 × Flaw) :=
  r.copies.flatMap fun e => (List.range 64).filterMap fun i =>
    let (k, g) := hbmPlace (hbmPageAddr r.home e.2 i)
    (Store.get none (s.stackAt k).cells g).map fun c => (64 * e.1 + i, s.openCell r.key (hbmTweak k g) c, c.flaw.carried)

/-- A record with some granules as they were, their errors included. -/
def Rec.restored (old : List (Nat × V512 × Flaw)) (r : Rec) : Rec :=
  old.foldl (fun r e =>
    { (if 64 * e.1 < r.bytes then r.putGran e.1 e.2.1 else r) with bad := Store.set Flaw.clean r.bad e.1 e.2.2 }) r

/-- Step 3: each copied page is restored, unpacked, and no cache keeps a line of the tensor (R382). Every line that the phase
wrote lies in a copied page. -/
def State.restorePages (s : State) (ctx : Nat) : State :=
  ((s.recs.filter fun r => r.ctx == ctx && !r.copies.isEmpty).foldl (fun s r =>
    ((s.unpack ctx r.handle).dropLines r).relocate ctx r.handle (Rec.restored (s.copied r))) s).dropReserve fun r => r.ctx == ctx

/-- Step 4: records declared in the phase go, and records released in it are live again; a retained record that no recipe names
any longer is freed (R388). -/
def State.restoreRecs (s : State) (ctx phase : Nat) : State :=
  let gone (r : Rec) : Bool := r.ctx == ctx && r.declared == phase
  let s1 := (s.recs.filter gone).foldl State.freeRec s
  let back (r : Rec) : Rec :=
    if r.ctx = ctx ∧ r.releasedIn = some phase then { r with live := true, retained := false, releasedIn := none } else r
  State.sweep ctx phase s1.recs.length { s1 with recs := s1.recs.map back }

/-- Step 5: words, deques and counters that the phase wrote hold their values at the last commit (R301). -/
def State.restoreSync (s : State) (c : Context) : State :=
  let s1 := c.savedWords.foldl (fun s e => (s.mapDie e.1 fun y => { y with words := Store.set SWord.init y.words e.2.1 e.2.2 }).storeOverflow e.1 e.2.1) s
  let s2 := c.savedDeques.foldl (fun s e => s.mapDie e.1 fun y => { y with deques := Store.set Deque.init y.deques e.2.1 e.2.2 }) s1
  c.savedNamed.foldl (fun s e =>
    s.putNamed e.1 e.2.1 { s.namedAt e.1 e.2.1 with count := e.2.2.count, armed := e.2.2.armed, known := e.2.2.known }) s2

/-- Steps 7 and 8: every stream stands after its last PHASE with the launch slots it had there, and runs; where the phase's
rollback is lost, every stream faults instead (R382). -/
def State.restartStreams (s : State) (c : Context) : State :=
  (s.streamsOf c.id).foldl (fun s e =>
    if c.lost then s.mapStream e.1 fun x => { x with run := .faulted 0 }
    else s.mapStream e.1 fun x =>
      { x with off := x.afterPhase, slots := x.phaseSlots, stop := false
               run := if x.stop ∨ x.stop_ ≤ x.afterPhase then .ended else .running }) s

/-- ROLLBACK of the context `unit` after cause 0x20 (R252, R383): its tasks end first, and once every accepted operation has
completed its state is restored. Windows that peers or the host wrote, and the copies that had left, are reported. -/
def execRollback (s : State) : Host.Outcome State Fault Refusal :=
  match s.ctx? s.unit with
  | none => .fault .noSuchUnit
  | some c =>
    if !c.rollback then .next s
    else
      let s1 := s.endTasks c.id
      if s1.ctxBusy c.id || s1.scans.any (fun j => j.ctx == c.id) then .next s1
      else
        let s2 : State := if c.lost then s1.postEvent c.id (eventWord 2 0 0 0)
          else (((s1.restorePages c.id).restoreRecs c.id c.phase).restoreSync c)
        let s3 := (s2.restartStreams c).clearRecords c.id
        let s4 : State := { s3 with fabric := { s3.fabric with out := s3.fabric.out.filter fun x => !(x.held && x.ctx == c.id) } }
        let s5 := c.dirtyOut.foldl (fun s h => s.postEvent c.id (eventWord 3 0 1 h)) s4
        let s6 := if c.egressGone.isEmpty then s5 else s5.postEvent c.id (eventWord 3 0 2 c.egressGone.length)
        .next (s6.mapCtx c.id fun k =>
          { k with rollback := false, lost := false, savedWords := [], savedDeques := [], savedNamed := [], dirtyOut := [],
                   egressGone := [], satCnt := 0, rdrFull := false, mapFull := false })

end Sys2Proof.Machine
end

