-- ==== Sys2Proof/Machine/Host.lean ====
section
/-! DEFINITION. The host's side: BAR0, firmware download, the firmware executive and its service slots, kick registers,
command packets, resets, power (spec/20_package_host_firmware.md R401 to R412; spec/12 R287; spec/14 R318; spec/18 R369,
R370; spec/19 R400; spec/23 R431; spec/13 R303, R311). -/
namespace Sys2Proof.Machine

def State.mapHost (s : State) (f : HostSide → HostSide) : State := { s with host := f s.host }

/-! ## Firmware (R402, R403) -/

/-- The bytes of a firmware image in host memory, as a boot ROM fetches them: a body of more than 4 MiB is not fetched (R402). -/
def fwBytes (m : Memory) (base : Nat) : List Byte :=
  let len := ofBytes (m.readN (base + 4) 4)
  m.readN base (0x100 + if 4 * 2 ^ 20 < len then 0 else len)

/-- The check of a firmware image in host memory (R402): 0, or the number of the first check that fails. The coordinates of PUBKEY
and the two numbers of SIG are little-endian values of 32 bytes (R5; log 67). -/
def fwCheck (m : Memory) (base : Nat) : Nat :=
  let word (o : Nat) : Nat := ofBytes (m.readN (base + o) 4)
  let key (o : Nat) : Nat := ofBytes (m.readN (base + o) 32)
  let len := word 4
  if word 0 ≠ 0x46574854 ∨ len % 64 ≠ 0 ∨ 4 * 2 ^ 20 < len then 1
  else if Crypto.sha256 (m.readN (base + 0x80) 64) ≠ Config.fusedKeyHash.toNat then 2
  else if Crypto.ecdsaVerify (key 0x80) (key 0xA0) (key 0xC0) (key 0xE0)
      (Crypto.sha256 (m.readN base 0x80 ++ m.readN (base + 0x100) len)) = false then 3
  else if word 8 < Config.fusedMinSvn then 4
  else 0

/-- A die's firmware SRAM takes an image (R402, R411). -/
def State.loadFw (s : State) (d : Nat) (image : List Byte) : State :=
  s.mapDie d fun x => { x with fwImage := image, fwVer := ofBytes ((image.drop 12).take 4) }

/-- The boot ROM of die 0 fetches the image at FWBASE into the die's firmware SRAM in STATE 1 and verifies it: STATE 3, with the
image copied to the other dies, or STATE 5 with the failing check (R402). STATE 2 lasts for this step alone. -/
def State.fwGo (s : State) : State :=
  if s.host.state ≠ 1 then s
  else
    let b := s.host.fwbase.toNat
    let image := fwBytes s.host.mem b
    match fwCheck s.host.mem b with
    | 0 =>
      let ver := ofBytes (s.host.mem.readN (b + 12) 4)
      let svn := ofBytes (s.host.mem.readN (b + 8) 4)
      ([0, 1, 2, 3].filter s.diePresent).foldl (fun s d => s.loadFw d image)
        (s.mapHost fun h => { h with state := 3, fail := 0, svn := svn, fwVer := ver })
    | n => (s.mapDie 0 fun x => { x with fwImage := image }).mapHost fun h => { h with state := 5, fail := n }

def execFwgo (s : State) : Host.Outcome State Fault Refusal := .next (if s.powered then s.fwGo else s)

/-- A port after training: its epoch is the next one, and its sequence numbers begin again (R430, R432). -/
def Port.trained (x : Port) : Port :=
  { x with down := false, replays := 0, epoch := (x.epoch + 1) % 2 ^ 32, seq := [], retraining := none }

/-- TRAINING (R403): the device's ports train, key slot 0 is generated, stacked SRAM is zeroed, and STATE is 4. No record lies in the
pool then. -/
def execTraining (s : State) : Host.Outcome State Fault Refusal :=
  .next
    (if s.host.state ≠ 3 then s
     else
       let s1 := ((List.range (scalePorts + 4)).filter s.hasPort).foldl (fun s p => s.setPort p (s.portAt p).trained) s
       let g := Config.generated s1.free
       let k : KeySlot := ⟨true, 0, BitVec.ofNat 256 (g.toNat % 2 ^ 256), BitVec.ofNat 256 (g.toNat / 2 ^ 256)⟩
       { s1 with free := s1.free + 1, keys := Store.set KeySlot.empty s1.keys 0 k, host := { s1.host with state := 4 } })

/-! ## Reset and power (R401, R410, R412) -/

/-- A die across a warm reset: only what was taken out of service stays so (log 22). -/
def Die.afterReset (d : Die) : Die := { Die.init with absent := d.absent, spares := d.spares, retired := d.retired }

/-- A warm reset (R410): HBM cells and both repair maps, host memory with its rings, and the link epochs stay; in-flight work is
abandoned, everything else is lost, and STATE is 1. -/
def State.warmReset (s : State) : State :=
  if !s.powered then s
  else
    { State.reset with
      form := s.form, unit := s.unit, agenda := s.agenda, free := s.free, nextId := s.nextId
      dies := Store.mapVals Die.init Die.afterReset s.dies
      spillLost := s.spillLost
      hbmStacks := Store.mapVals Stack.init (fun x => { x with queue := [] }) s.hbmStacks
      fabric := { Fabric.init with
        ports := Store.mapVals Port.init (fun x => { Port.init with epoch := x.epoch }) s.fabric.ports }
      host := { HostSide.init with mem := s.host.mem, ring := s.host.ring } }

def execReset (s : State) : Host.Outcome State Fault Refusal := .next s.warmReset
def execCxlReset (s : State) : Host.Outcome State Fault Refusal := .next s.warmReset
/-- CXL_LINK_LOSS: a link error beyond replay brings the link down, which is a warm reset (R401). -/
def execCxlLinkLoss (s : State) : Host.Outcome State Fault Refusal := .next s.warmReset

/-- The device without power: nothing on it persists (spec/20), and host memory stays. -/
def State.unpowered (s : State) (on : Bool) : State :=
  { State.reset with
    form := s.form, unit := s.unit, agenda := s.agenda, free := s.free, nextId := s.nextId, powered := on
    host := { HostSide.init with mem := s.host.mem, ring := s.host.ring, state := if on then 1 else 0 } }

/-- POWER_UP: a cold start, in STATE 1 (R402). -/
def execPowerUp (s : State) : Host.Outcome State Fault Refusal := .next (if s.powered then s else s.unpowered true)

/-- THERMAL_SHUTDOWN: at 105 °C the module removes its own power (R412). -/
def execThermalShutdown (s : State) : Host.Outcome State Fault Refusal :=
  .next (match s.form with | .module_ => if s.powered then s.unpowered false else s | _ => s)

/-- POWER_LIMIT_THROTTLE: the nominal clock of elastic square `unit` goes down by 50 MHz, to 1.0 GHz at least (R343, R412).
Only a module has the power limit (R2). -/
def execPowerLimitThrottle (s : State) : Host.Outcome State Fault Refusal :=
  if s.diePresent (s.unit / 4) then
    let x := s.squareAt s.unit
    .next (match s.form with
      | .module_ => if s.squareFixed s.unit || x.mhz < 1050 then s else s.setSquare s.unit { x with mhz := x.mhz - 50 }
      | _ => s)
  else .fault .noSuchUnit

/-- DROOP_STRETCH: a cycle of elastic square `unit` lasts 1 + n/8 nominal periods, n from 1 to 8 (R343). Nothing else
changes: it still counts as one cycle (R9). -/
def execDroopStretch (n : Nat) (s : State) : Host.Outcome State Fault Refusal :=
  if s.diePresent (s.unit / 4) then
    .next (if s.squareFixed s.unit || n = 0 || 8 < n then s else s.setSquare s.unit { s.squareAt s.unit with stretch := n })
  else .fault .noSuchUnit

/-! ## BAR0 and kick registers (R401, R406) -/

/-- The place of queue q of context slot c among the kick registers. -/
def queueKey (slot q : Nat) : Nat := slot * 64 + q

/-- A write to a kick register (R406): the merge rule, and the log entry of a write of another size. The log word of such a
write holds the register's unit number and nothing else (log 23). -/
def State.kickWrite (s : State) (slot q size v : Nat) : State :=
  if size ≠ 4 then s.logError 0 (errWord 0 0 0 false 0 0 ((0x10000 + 256 * slot + 4 * q) / 64))
  else
    let k := queueKey slot q
    let o := Store.get 0 s.host.kick k
    if (v % 2 ^ 32 + 2 ^ 32 - o) % 2 ^ 32 < 2 ^ 31 then
      s.mapHost fun h => { h with kick := Store.set 0 h.kick k (v % 2 ^ 32) }
    else s

def execKick (slot queue size v : Nat) (s : State) : Host.Outcome State Fault Refusal :=
  if slot < 256 ∧ queue < 64 then .next (if s.powered then s.kickWrite slot queue size v else s) else .fault .noSuchUnit

/-- REGISTER_WRITE (R401): FWBASE is writable in STATE 1; the other registers act as their access says. -/
def execRegisterWrite (off size v : Nat) (s : State) : Host.Outcome State Fault Refusal :=
  .next
    (if !s.powered then s
     else if off = 0x8 ∧ size = 8 ∧ s.host.state = 1 then s.mapHost fun h => { h with fwbase := BitVec.ofNat 64 v }
     else if off = 0x10 ∧ size = 4 ∧ v = 1 then s.fwGo
     else if off = 0x18 ∧ size = 4 ∧ v = 0x52455354 then s.warmReset
     else if 0x10000 ≤ off ∧ off < 0x20000 then
       (if off % 4 = 0 ∨ size ≠ 4 then s.kickWrite ((off - 0x10000) / 256) (off % 256 / 4) size v else s)
     else s)

/-- What a read of a BAR0 register returns (R401): DEVSTAT, FWBASE and the kick registers are readable. -/
def State.bar0 (s : State) (off : Nat) : Option Nat :=
  if off = 0 then some (s.host.svn % 2 ^ 32 * 2 ^ 32 + s.host.fail * 2 ^ 16 + s.host.state)
  else if off = 8 then some s.host.fwbase.toNat
  else if 0x10000 ≤ off ∧ off < 0x20000 ∧ off % 4 = 0 then
    some (Store.get 0 s.host.kick (queueKey ((off - 0x10000) / 256) (off % 256 / 4)))
  else none

/-! ## HDM ranges and host memory (R303, R311, R409) -/

/-- The tensor bytes that an HDM address reaches: context, handle, offset (R409). -/
def State.hdm (s : State) (a : Nat) : Option (Nat × Nat × Nat) :=
  s.contexts.findSome? fun c => c.maps.findSome? fun e =>
    match s.recAt c.id e.1 with
    | some r => if e.2 ≤ a ∧ a < e.2 + r.bytes then some (c.id, e.1, a - e.2) else none
    | none => none

/-- What a write at a host physical address needs first, where an HDM range reaches a tensor: the tensor in reach, and no dropped
tensor that depends on it (R380). -/
def State.hostReach (s : State) (a : Nat) : Attempt × State :=
  match s.hdm a with
  | some (ctx, h, _) => s.reach ctx h true
  | none => (.ok, s)

/-- The executive writes bytes at a host physical address: an HDM range or host memory (R409). -/
def State.hostWrite (s : State) (a : Nat) (bs : List Byte) : State :=
  match s.hdm a with
  | some (ctx, h, off) => ((s.beforeWrite ctx h off bs.length false).homeWrite ctx h off bs).2
  | none => s.mapHost fun x => { x with mem := x.mem.writeN a bs }

/-- A flush of a listed buffer (R409): lines of the range that the device holds modified are written to their home. Copies in
host caches, and device copies of host memory, are no state of this model: both sides write through (log 24). -/
def State.flushBuffer (s : State) (b : Buffer) : State :=
  if b.mode % 2 = 0 then s
  else
    let inRange (l : Line) : Bool := s.contexts.any fun c => c.id == l.ctx && c.maps.any fun e =>
      e.1 == l.handle && b.addr < e.2 + 64 * l.gran + 64 && e.2 + 64 * l.gran < b.addr + b.len
    (List.range 16).foldl (fun s q =>
      let sq := s.squareAt q
      let dirty := sq.lines.filterMap fun e => match e.2 with | some l => if l.dirty && inRange l then some l else none | none => none
      if dirty.isEmpty then s
      else
        let s1 := dirty.foldl (fun s l => s.writeHome q l) s
        let now := s1.squareAt q
        s1.setSquare q
          { now with lines := now.lines.map fun e => (e.1, e.2.map fun l => if inRange l then { l with dirty := false } else l) }) s

/-! ## Packets (R404, R405, R409) -/

/-- The header of a command. -/
def packetOf : Instr → Option Packet
  | .contextCreate k _ | .contextSet k _ | .contextDestroy k _ | .partition k _ _ _ | .streamAdmit k _ | .streamStop k _
  | .keyLoad k _ _ _ _ | .keyDestroy k _ | .ownerKeyLoad k _ _ _ _ | .ownerKeyDestroy k _ _ | .syncAllocate k _
  | .poolWays k _ _ | .map k _ _ _ | .slotTable k _ _ | .dieFirmwareReload k _ _ | .hbmRepair k _ _ _ | .portRetrain k _
  | .hearthRetirement k _ | .eventRead k _ => some k
  | _ => none

/-- The completion value of a packet: its index and its status (R409). -/
def completion (index status : Nat) : Nat := index * 256 + status

/-- A completion value is written; that of a context's first queue shows the context's event flag, there and when an event comes
later (R409). -/
def State.writeCompletion (s : State) (slot queue caddr index status : Nat) : State :=
  let v := completion index status
  let first (c : Context) : Bool := c.slot == slot && queue == 0
  let put (s : State) (flag : Bool) : State := s.mapHost fun h => { h with mem := h.mem.writeN caddr (flaggedWord v flag) }
  match s.contexts.find? first with
  | some c => put (s.mapCtx c.id fun c => { c with word := some (caddr, v) }) c.flag
  | none => put s false

/-- A started packet is complete: its completion value is written (R409). -/
def State.finish (s : State) (self : Instr) (k : Packet) (status : Nat) : State :=
  (s.mapHost fun h => { h with started := h.started.erase self }).writeCompletion k.slot k.queue k.caddr k.index status

/-- A started packet stays until what it waits for has come. -/
def State.keepStarted (s : State) (self : Instr) : State :=
  if s.host.started.contains self then s else s.mapHost fun h => { h with started := h.started ++ [self] }

/-- An earlier packet of the queue has not completed: packets of a queue complete in ring order (R409). -/
def State.queueAhead (s : State) (self : Instr) (k : Packet) : Bool :=
  (s.host.started.takeWhile (· != self)).any fun i =>
    match packetOf i with | some p => p.slot == k.slot && p.queue == k.queue | none => false

/-- The queue has stopped at a packet, the oldest that it has not consumed (R405). -/
def State.stoppedAt (s : State) (k : Packet) : Bool :=
  let q := queueKey k.slot k.queue
  s.host.stopped.contains q && k.index % 2 ^ 32 == Store.get 0 s.host.consumed q

/-- What a command comes to: a completion status, or it waits. -/
inductive Cmd where
  | done (status : Nat) (s : State)
  | wait (s : State)
  deriving DecidableEq, Repr

def Cmd.check (ok : Bool) (status : Nat) (s : State) (k : Cmd) : Cmd := if ok then k else .done status s

/-- A buffer list that the entry's fields admit (R409). -/
def Packet_bufsOk (k : Packet) : Bool :=
  k.bufs.length ≤ 16 && k.caddr % 8 == 0 && k.bufs.all fun b => 0 < b.len && b.len < 2 ^ 32 && b.mode < 4

/-- Perform a command packet (R409): flushes, the command, invalidations, the completion value. Commands are accepted from
STATE 4 on (R403). -/
def command (self : Instr) (k : Packet) (s : State) (body : State → Cmd) : Host.Outcome State Fault Refusal :=
  .next
    (if s.host.state ≠ 4 then s
     else if s.queueAhead self k then s.keepStarted self
     else if s.stoppedAt k then s.finish self k 0x06
     else if k.bad then s.finish self k 0x01
     else if !Packet_bufsOk k then s.finish self k 0x02
     else
       match body (k.bufs.foldl State.flushBuffer s) with
       | .done st s1 => s1.finish self k st
       | .wait s1 => s1.keepStarted self)

/-- The command names a context that exists (R409, status 0x02). -/
def State.ofCtx (s : State) (id : Nat) (k : Context → Cmd) : Cmd :=
  match s.ctx? id with | some c => k c | none => .done 0x02 s

/-! ## Contexts and partitions (R405 to R408) -/

/-- The residency settings at reset (R369). -/
def Residency_init : Residency := ⟨[0, 0, 0, 0], [0, 0, 0, 0], [0, 0, 0, 0], 0, 0x200, 1, 1, 1⟩

/-- A new context (R405, R372); its phases are numbered from 1, since PVER 0 means never written (R365). -/
def Context.new (id slot : Nat) : Context :=
  { id := id, slot := slot, fixed := false, det := false, adaptive := false, raceEn := false, handler := 0
    res := Residency_init, owner := none, peers := [], masks := [], newMask := [], sync := [], phase := 1, cstep := 0
    satCnt := 0, rdrFull := false, mapFull := false, lost := false, rollback := false, savedWords := [], savedDeques := []
    savedNamed := [], dirtyOut := [], egressGone := [], events := [], flag := false, word := none, maps := [] }

/-- Context create: binds an identifier to a free slot, which one is free (R405; log 1). -/
def execContextCreate (k : Packet) (id : Nat) (s : State) : Host.Outcome State Fault Refusal :=
  command (.contextCreate k id) k s fun s =>
    Cmd.check (decide (1 ≤ id ∧ id < 4096)) 0x02 s
      (Cmd.check (s.ctx? id).isNone 0x05 s
        (let slots := (List.range 256).filter fun n => !(s.contexts.any fun c => c.slot == n)
         match slots[Config.choose s.free % slots.length]? with
         | none => .done 0x03 s
         | some n => .done 0 { s with contexts := s.contexts ++ [Context.new id n], free := s.free + 1 }))

/-- A mask holds each square whole or not at all (R408). -/
def wholeSquares (m : Nat) : Bool := [0, 1, 2, 3].all fun q => bits m (16 * q) 16 == 0 || bits m (16 * q) 16 == 0xFFFF

/-- The squares of a mask hold no hearth of a context in the other mode (R342). -/
def State.modeClear (s : State) (id d m : Nat) (fixed : Bool) : Bool :=
  s.contexts.all fun c => c.id == id || c.fixed == fixed || [0, 1, 2, 3].all fun q =>
    bits m (16 * q) 16 == 0 ||
      (bits (Store.get 0 c.masks d) (16 * q) 16 == 0 && bits ((Store.get none c.newMask d).getD 0) (16 * q) 16 == 0)

/-- Residency settings within their fields (R369). -/
def Residency_ok (r : Residency) : Bool :=
  let four (l : List Nat) : Bool := l.length == 4 && l.all (· < 2 ^ 32)
  four r.rbres && four r.hbmq && four r.poolq && r.lpdq < 2 ^ 32 && r.packRatio < 2 ^ 16 && r.recompCost < 2 ^ 32 &&
    r.packCost < 2 ^ 32 && r.spillCost < 2 ^ 32

/-- Context set (R407, R342, R442). -/
def execContextSet (k : Packet) (o : ContextSet) (s : State) : Host.Outcome State Fault Refusal :=
  command (.contextSet k o) k s fun s =>
    s.ofCtx o.id fun c =>
      let fixed := bit o.mode 0
      let ownerOk := match o.owner with | some n => n < ownerEntries | none => true
      Cmd.check (s.streamsOf o.id).isEmpty 0x05 s
        (Cmd.check (decide (o.mode < 2 ^ 24)) 0x01 s
          (Cmd.check (Residency_ok o.res && ownerOk && o.peers.all (·.1 < 64)) 0x02 s
            (Cmd.check ([0, 1, 2, 3].all fun d =>
                (Store.get 0 c.masks d :: (Store.get none c.newMask d).toList).all fun m =>
                  (!fixed || wholeSquares m) && s.modeClear o.id d m fixed) 0x04 s
              (.done 0 (s.mapCtx o.id fun c =>
                { c with fixed := fixed, det := bit o.mode 1, adaptive := bit o.mode 2, raceEn := bit o.mode 3
                         handler := bits o.mode 4 20, res := o.res, owner := o.owner, peers := o.peers })))))

/-- What a destroyed context held goes (R409): records, partitions, sync ranges with their deques, named tasks and mailboxes, the
cached code, and its windows, which answer late requests as revoked until their quarantine ends (log 25). -/
def State.freeContext (s : State) (c : Context) : State :=
  let s1 := (s.recs.filter fun r => r.ctx == c.id).foldl State.freeRec s
  let s2 := [0, 1, 2, 3].foldl (fun s d => s.mapDie d fun x =>
    let mine (space n : Nat) : Bool := c.allocated d space n
    { x with
      named := x.named.filter fun e => !mine 3 e.1
      deques := x.deques.filter fun e => !mine 1 e.1
      boxes := x.boxes.filter fun e => !mine 2 e.1
      spec := x.spec.filter fun e => e.ctx != c.id
      raceMap := x.raceMap.filter fun e => e.ctx != c.id }) s1
  let win (w : Window) : Window := if w.ctx = c.id ∧ w.state ≠ 0 then { w with state := 3, revoker := none } else w
  { s2 with
    contexts := s2.contexts.filter fun x => x.id != c.id
    fabric := { s2.fabric with
      windows := s2.fabric.windows.map fun e => (e.1, win e.2)
      out := s2.fabric.out.filter fun x => !(x.held && x.ctx == c.id)
      inn := s2.fabric.inn.map fun r => if r.held = some c.id then { r with held := none, gone := true } else r } }

/-- Context destroy: streams stop, tasks end as failed, and what they accepted completes first (R409). -/
def execContextDestroy (k : Packet) (id : Nat) (s : State) : Host.Outcome State Fault Refusal :=
  command (.contextDestroy k id) k s fun s =>
    s.ofCtx id fun c =>
      let s1 := (s.streamsOf id).foldl (fun s e => s.setStream e.1 none) s
      let s2 := s1.endTasks id
      if s2.ctxBusy id || s2.scans.any (fun j => j.ctx == id) then .wait s2 else .done 0 (s2.freeContext c)

/-- Hearths that the device has. -/
def State.maskOk (s : State) (d m : Nat) : Bool :=
  decide (m < 2 ^ 64) && (List.range 64).all fun i => !bit m i || s.hearthOk (64 * d + i)

/-- A hearth of a mask belongs to another context's partition, or will (R408). -/
def State.maskTaken (s : State) (id d m : Nat) : Bool :=
  s.contexts.any fun x => x.id != id &&
    (Nat.land (Store.get 0 x.masks d) m != 0 || Nat.land ((Store.get none x.newMask d).getD 0) m != 0)

/-- The squares of the package that fixed-timing contexts hold once context `id` has the masks `m` (R342, R412). -/
def State.fixedSquares (s : State) (id : Nat) (m : Nat → Nat) : List Nat :=
  (List.range 16).filter fun q => s.contexts.any fun c => c.fixed &&
    bits (if c.id = id then m (q / 4) else Nat.lor (Store.get 0 c.masks (q / 4)) ((Store.get none c.newMask (q / 4)).getD 0))
      (16 * (q % 4)) 16 != 0

/-- The mask of one die of a partition command: a resident partition is pre-empted and waits for its swap (R263, R408). -/
def State.setPartition (s : State) (id d m : Nat) : State :=
  let resident := (dieHearths d).filter fun h => (s.coreAt h).mode != .free && (s.coreAt h).task.ctx == id
  if (match s.ctx? id with | some c => Store.get 0 c.masks d == m | none => true) then s
  else if resident.isEmpty then s.swapPartition id d m
  else (resident.foldl (fun s h => s.mapCoreAt h Core.askPreempt) s).mapCtx id fun c =>
    { c with newMask := Store.set none c.newMask d (some m) }

/-- Partition: a mask for each die, that of die 0 and those of dies 1 to 3 (R408, R263, R342, R412). It completes once every swap is over. Only a module has the power
limit (R2). -/
def execPartition (k : Packet) (id mask0 : Nat) (masks : List Nat) (s : State) : Host.Outcome State Fault Refusal :=
  command (.partition k id mask0 masks) k s fun s =>
    s.ofCtx id fun c =>
      let m (d : Nat) : Nat := ((mask0 :: masks)[d]?).getD 0
      let dies := [0, 1, 2, 3]
      if dies.any fun d => (Store.get none c.newMask d).isSome then .wait s
      else
        Cmd.check (masks.length == 3 && dies.all fun d => m d == 0 || (s.diePresent d && s.maskOk d (m d))) 0x02 s
          (Cmd.check (dies.all fun d => !s.maskTaken id d (m d) && (!c.fixed || wholeSquares (m d)) && s.modeClear id d (m d) c.fixed)
            0x04 s
            (Cmd.check (!c.fixed || !s.lpddr || Config.powerHeadroom (s.fixedSquares id m)) 0x03 s
              (let t := dies.foldl (fun s d => s.setPartition id d (m d)) s
               if (match t.ctx? id with | some x => dies.any fun d => (Store.get none x.newMask d).isSome | none => false) then .wait t
               else .done 0 t)))

/-! ## Streams (R318, R409) -/

/-- Stream admit (R318). -/
def execStreamAdmit (k : Packet) (o : StreamAdmit) (s : State) : Host.Outcome State Fault Refusal :=
  command (.streamAdmit k o) k s fun s =>
    s.ofCtx o.id fun _ =>
      let fits := match s.liveRec o.id o.handle with | some r => r.raw && o.start + o.len ≤ r.bytes | none => false
      Cmd.check (s.diePresent o.die && fits && o.pri < 4) 0x02 s
        (match (List.range 16).find? fun n => (s.streamAt ⟨o.die, n⟩).isNone with
         | none => .done 0x03 s
         | some n =>
           let (serial, s) := s.fresh
           let x : Stream :=
             { ctx := o.id, handle := o.handle, off := o.start, stop_ := o.start + o.len, pri := o.pri
               run := if o.len = 0 then .ended else .running, slots := [], stop := false, afterPhase := o.start
               phaseSlots := [], serial := serial }
           .done 0 (s.setStream ⟨o.die, n⟩ (some x)))

/-- Stream stop: the stream ends at its next record and leaves its slot (R318, R321, R409). An OPWAIT that blocks it ends at
once (R325); another record at which it waits is executed first: DEDUCED (log 26). -/
def execStreamStop (k : Packet) (st : StreamId) (s : State) : Host.Outcome State Fault Refusal :=
  command (.streamStop k st) k s fun s =>
    match s.streamAt st with
    | none => .done 0x02 s
    | some x =>
      let blocked := match s.recordOf st x with | some (.opwait _ _ _ _) => true | _ => false
      if x.run = .waiting ∧ blocked = false then .wait (s.mapStream st fun y => { y with stop := true })
      else .done 0 (s.setStream st none)

/-! ## Keys (R400, R431) -/

/-- Some record, live or retained, names a key slot; data in LPDDR-6 belongs to records too (R400). -/
def State.keyUsed (s : State) (n : Nat) : Bool := s.recs.any fun r => r.key == n

/-- Key load (R400). A slot that records name is not loaded over: DEDUCED (log 27). -/
def execKeyLoad (k : Packet) (slot owner key1 key2 : Nat) (s : State) : Host.Outcome State Fault Refusal :=
  command (.keyLoad k slot owner key1 key2) k s fun s =>
    Cmd.check (decide (1 ≤ slot ∧ slot < 512 ∧ owner < 4096 ∧ key1 < 2 ^ 256 ∧ key2 < 2 ^ 256)) 0x02 s
      (Cmd.check (!s.keyUsed slot) 0x05 s
        (.done 0 { s with keys := Store.set KeySlot.empty s.keys slot ⟨true, owner, BitVec.ofNat 256 key1, BitVec.ofNat 256 key2⟩ }))

/-- Key destroy (R400). -/
def execKeyDestroy (k : Packet) (slot : Nat) (s : State) : Host.Outcome State Fault Refusal :=
  command (.keyDestroy k slot) k s fun s =>
    Cmd.check (decide (1 ≤ slot ∧ slot < 512)) 0x02 s
      (Cmd.check (!s.keyUsed slot) 0x05 s (.done 0 { s with keys := Store.set KeySlot.empty s.keys slot KeySlot.empty }))

/-- Owner key load (R431): the entry is active in the named ports; on a port that is down it stays isolated until the port
has retrained and the key is loaded again (R432). -/
def execOwnerKeyLoad (k : Packet) (entry owner key : Nat) (ports : List Nat) (s : State) : Host.Outcome State Fault Refusal :=
  command (.ownerKeyLoad k entry owner key ports) k s fun s =>
    Cmd.check (decide (entry < ownerEntries ∧ owner < 2 ^ 16 ∧ key < 2 ^ 256) && ports.all fun p => p < scalePorts && s.hasPort p) 0x02 s
      (.done 0 (ports.foldl (fun s p =>
        let x := s.portAt p
        s.setPort p (x.setEntry entry ⟨if x.down then 2 else 1, owner, 0, BitVec.ofNat 256 key⟩)) s))

/-- Owner key destroy (R431). -/
def execOwnerKeyDestroy (k : Packet) (entry : Nat) (ports : List Nat) (s : State) : Host.Outcome State Fault Refusal :=
  command (.ownerKeyDestroy k entry ports) k s fun s =>
    Cmd.check (decide (entry < ownerEntries) && ports.all fun p => p < scalePorts && s.hasPort p) 0x02 s
      (.done 0 (ports.foldl (fun s p => s.setPort p ((s.portAt p).setEntry entry OwnerEntry.empty)) s))

/-! ## Sync state, pool, maps, slots (R287, R370, R404, R409) -/

/-- Sync allocate (R287): a range of one space of a die, and OVFWORDS where the command sets it. A deque's counters start equal
(R297). An overflow area that would reach pages in use is refused with status 0x03 (log 17). -/
def execSyncAllocate (k : Packet) (o : SyncAllocate) (s : State) : Host.Outcome State Fault Refusal :=
  command (.syncAllocate k o) k s fun s =>
    s.ofCtx o.id fun _ =>
      let ovf := o.ovf.getD (s.dieAt o.die).ovfWords
      let limit := match o.space with | 0 => 2 ^ 20 + ovf | 1 => 1024 | 2 => 256 | _ => 4096
      let clash := s.contexts.any fun c => c.id != o.id && c.sync.any fun r =>
        r.1 == o.die && r.2.1 == o.space && r.2.2.1 ≤ o.hi && o.lo ≤ r.2.2.2
      let short := s.contexts.any fun c => c.sync.any fun r => r.1 == o.die && r.2.1 == 0 && 2 ^ 20 + ovf ≤ r.2.2.2
      let first := 2 ^ 25 - ceilDiv ovf 512
      let room := ovf ≤ (s.dieAt o.die).ovfWords ||
        !((s.recs.filter fun r => r.home == o.die).any fun r =>
          (r.inTier false o.die && r.pages.any fun e => first < e.1 + e.2) || r.copies.any fun e => first ≤ e.2)
      Cmd.check (s.diePresent o.die && decide (o.space < 4 ∧ ovf ≤ 2 ^ 26 ∧ o.lo ≤ o.hi ∧ o.hi < limit)) 0x02 s
        (Cmd.check (!clash && !short) 0x05 s
         (Cmd.check room 0x03 s
          (.done 0 ((s.mapDie o.die fun x =>
              { x with ovfWords := ovf
                       deques := if o.space = 1 then x.deques.filter fun e => !(o.lo ≤ e.1 && e.1 ≤ o.hi) else x.deques
                       flaws := x.flaws.filter fun e => !(o.space == 1 && e.1.1 == 1 && e.1.2.2 == 0 && o.lo ≤ e.1.2.1 && e.1.2.1 ≤ o.hi) }).mapCtx o.id fun c =>
            { c with sync := c.sync ++ [(o.die, o.space, o.lo, o.hi)] }))))

/-- Bytes of a die's pool in use by every context. -/
def State.poolUsed (s : State) (d : Nat) : Nat := ((s.contexts.map fun c => s.used c.id d true)).sum

/-- The record holds pages of a die's pool from page `cap` on: in ways that leave it (R370). -/
def Rec.beyond (r : Rec) (d cap : Nat) : Bool := r.inTier true d && r.pages.any fun e => cap < e.1 + e.2

/-- The victim loop for every context that holds pool pages in the leaving ways, with the pool's capacity reduced to `cap`
pages (R370, R374). -/
def State.shrinkPool (s : State) (d cap : Nat) : State :=
  s.contexts.foldl (fun s c =>
    let excess := s.poolUsed d - cap * pageBytes
    if s.recs.any fun r => r.ctx == c.id && r.beyond d cap then
      (State.roomLoop c d true 0 (s.used c.id d true - excess) (3 * s.recs.length + 1) [] s).2
    else s) s

/-- The pages that are still in the leaving ways go to lower ones (R370); none where they do not fit. -/
def State.lowerPages (s : State) (d cap : Nat) : Option State :=
  (s.recs.filter fun r => r.beyond d cap).foldl (fun (a : Option State) r =>
    a.bind fun s => (s.pagesBelow (.pool d) cap r.ctx r.handle r.footprint).map fun ps =>
      (s.dropLines r).relocate r.ctx r.handle fun r => { r with pages := ps }) (some s)

/-- Ways of the memory-side cache become pool: their dirty lines are written back, their clean ones invalidated (R370). -/
def State.clearWays (s : State) (d ways : Nat) : State :=
  let of (e : Nat × Option Line) : Bool := e.1 % 16 < ways
  let s1 := ((s.dieAt d).side.filterMap fun e => if of e then e.2.map fun l => (e.1, l) else none).foldl (fun s e => s.sideOut e.1 e.2) s
  s1.mapDie d fun x => { x with side := x.side.filter fun e => !of e }

/-- Pool ways (R370). Before the number is lowered every page leaves the ways that become cache: a running tensor is awaited,
and without room the status is 0x03. -/
def execPoolWays (k : Packet) (die ways : Nat) (s : State) : Host.Outcome State Fault Refusal :=
  command (.poolWays k die ways) k s fun s =>
    let set (s : State) : Cmd := .done 0 (s.mapDie die fun x => { x with poolWays := ways })
    let cap := ways * wayPages
    Cmd.check (s.diePresent die && decide (ways ≤ 12)) 0x02 s
      (if (s.dieAt die).poolWays ≤ ways then set (s.clearWays die ways)
       else
         let s1 := s.shrinkPool die cap
         if s1.recs.any fun r => r.beyond die cap && (r.running || r.moving) then .wait s1
         else match s1.lowerPages die cap with | some s2 => set s2 | none => .done 0x03 s1)

/-- Map: exposes the HBM pages of a tensor as an HDM range at a page boundary (R409). -/
def execMap (k : Packet) (id handle base : Nat) (s : State) : Host.Outcome State Fault Refusal :=
  command (.map k id handle base) k s fun s =>
    s.ofCtx id fun _ =>
      match s.liveRec id handle with
      | none => .done 0x02 s
      | some r =>
        let clash := s.contexts.any fun c => c.maps.any fun e =>
          match s.recAt c.id e.1 with | some x => e.2 < base + r.bytes && base < e.2 + x.bytes | none => false
        Cmd.check (r.inHbm && base % pageBytes == 0) 0x02 s
          (Cmd.check (!clash) 0x05 s (.done 0 (s.mapCtx id fun c => { c with maps := c.maps ++ [(handle, base)] })))

/-- Slot table (R404). -/
def execSlotTable (k : Packet) (die : Nat) (entries : List (Option (Nat × Nat))) (s : State) :
    Host.Outcome State Fault Refusal :=
  command (.slotTable k die entries) k s fun s =>
    let ok := entries.length == 32 && entries.all fun e => match e with | some p => p.1 < 256 && p.2 < 64 | none => true
    Cmd.check (s.diePresent die && ok) 0x02 s
      (.done 0 (s.mapDie die fun x =>
        { x with slotTable := (List.range 32).foldl (fun m i => Store.set none m i ((entries[i]?).getD none)) [] }))

/-! ## Service (R411) -/

/-- Die firmware reload (R411). -/
def execDieFirmwareReload (k : Packet) (die addr : Nat) (s : State) : Host.Outcome State Fault Refusal :=
  command (.dieFirmwareReload k die addr) k s fun s =>
    let idle := ((s.dieAt die).streams.all fun e => e.2.isNone) && (dieHearths die).all fun h => (s.coreAt h).mode == .free
    let ver := ofBytes (s.host.mem.readN (addr + 12) 4)
    Cmd.check (s.diePresent die) 0x02 s
      (Cmd.check (idle && fwCheck s.host.mem addr == 0 && ver == s.host.fwVer) 0x04 s
        (.done 0 (s.loadFw die (fwBytes s.host.mem addr))))

/-- A record of the die's HBM with a page in a range of pages. -/
def Rec.hits (r : Rec) (d first count : Nat) : Bool :=
  r.inTier false d && r.pages.any fun e => e.1 < first + count && first < e.1 + e.2

/-- Some pages of a die are taken out of use in both of its stacks (R411). -/
def State.takeOut (s : State) (d first count : Nat) : State :=
  [2 * d, 2 * d + 1].foldl (fun s q => s.setStack q { s.stackAt q with repaired := (s.stackAt q).repaired ++ [(first, count)] }) s

/-- Migrate one record off the pages that are out of use (R411): to other pages of the die's HBM where they fit, else after the
victim loop has made room there, else into the die's pool under Room. `none`: no room can be made. -/
def State.migrate (s : State) (d : Nat) (r : Rec) : Option State :=
  let move (s : State) : Option State := (s.pagesFor (.hbm d) r.ctx r.handle r.footprint).map fun ps =>
    (s.dropLines r).relocate r.ctx r.handle fun r => { r with pages := ps }
  if r.pins ≠ 0 then none
  else match move s with
    | some s1 => some s1
    | none =>
      match s.ctx? r.ctx with
      | none => none
      | some c =>
        let taken := ((s.usedPages (.hbm d) r.ctx r.handle).map Prod.snd).sum
        let lack := r.footprint - (s.areaPages (.hbm d) - taken) * pageBytes
        let s1 := (State.roomLoop c d false 0 (s.used c.id d false - lack) (3 * s.recs.length + 1) [] s).2
        match s1.recAt r.ctx r.handle with
        | some x =>
          if !x.inTier false d then some s1
          else (move s1).or
            (match s1.placeIn r.ctx r.handle d true x.footprint x.footprint with
             | (some ps, s2) => some ((s2.dropLines x).relocate r.ctx r.handle fun y =>
                 { y with tier := if y.packed = 0 then .pool else .poolPacked, pages := ps })
             | (none, _) => none)
        | none => some s1

/-- HBM repair of pages of a die (R411): every record leaves the range first; one that is running is awaited. The range is
in pages of the die's HBM: the operands' layout is the model's (log 28). -/
def execHbmRepair (k : Packet) (die first count : Nat) (s : State) : Host.Outcome State Fault Refusal :=
  command (.hbmRepair k die first count) k s fun s =>
    let hit := s.recs.filter fun r => r.hits die first count
    Cmd.check (s.diePresent die && decide (0 < count ∧ first + count ≤ s.areaPages (.hbm die))) 0x02 s
      (if hit.any fun r => r.running || r.moving then .wait s
       else
         match hit.foldl (fun (a : Option State) r =>
             a.bind fun s => match s.recAt r.ctx r.handle with
               | some x => if x.hits die first count then s.migrate die x else some s
               | none => some s) (some (s.takeOut die first count)) with
         | none => .done 0x03 s
         | some s1 => .done 0 s1)

/-- Port retrain of a fabric or Ethernet port (R411): one at a time. -/
def execPortRetrain (k : Packet) (port : Nat) (s : State) : Host.Outcome State Fault Refusal :=
  command (.portRetrain k port) k s fun s =>
    let x := s.portAt port
    Cmd.check (s.hasPort port) 0x02 s
      (let me := (k.slot, k.queue, k.index)
       if x.retraining = some me then .done 0 (s.setPort port x.trained)
       else if (List.range (scalePorts + 4)).any fun p => (s.portAt p).retraining.isSome then .wait s
       else .wait (s.setPort port { x with retraining := some me }))

/-- Hearth retirement (R411): a free hearth is replaced by a spare, or leaves every partition. -/
def execHearthRetirement (k : Packet) (h : Nat) (s : State) : Host.Outcome State Fault Refusal :=
  command (.hearthRetirement k h) k s fun s =>
    let d := dieOf h
    let x := s.dieAt d
    Cmd.check (s.hearthOk h) 0x02 s
      (Cmd.check ((s.coreAt h).mode == .free) 0x05 s
        (if x.spares ≠ 0 then .done 0 ((s.setDie d { x with spares := x.spares - 1 }).setCoreAt h Core.init)
         else
           let s1 := s.setDie d { x with retired := x.retired ++ [h] }
           let clear (m : Nat) : Nat := if bit m (h % 64) then m - 2 ^ (h % 64) else m
           let out (c : Context) : Context :=
             { c with masks := Store.set 0 c.masks d (clear (Store.get 0 c.masks d))
                      newMask := Store.set none c.newMask d ((Store.get none c.newMask d).map clear) }
           .done 0 { s1 with contexts := s1.contexts.map out }))

/-- Event read: the context's events, launch failures and error-log entries go into buffer 0, as far as it holds them (R409,
R351); the events leave the executive, and once none is left the flag clears. A buffer that cannot be brought back completes with status
0x03 (log 24). -/
def execEventRead (k : Packet) (id : Nat) (s : State) : Host.Outcome State Fault Refusal :=
  command (.eventRead k id) k s fun s =>
    match k.bufs with
    | [] => .done 0x02 s
    | b :: _ =>
      let evs := match s.ctx? id with | some c => c.events | none => []
      let logs := [0, 1, 2, 3].flatMap fun d => (s.dieAt d).errlog.filter fun w => bits w.toNat 52 12 == id
      Cmd.check (id == 0 || (s.ctx? id).isSome) 0x02 s
        (let n := min evs.length (b.len / 8)
         let ws := (evs ++ logs).take (b.len / 8)
         match s.hostReach b.addr with
         | (.pending, s) => .wait s
         | (.fail, s) => .done 0x03 s
         | (.ok, s) =>
           .done 0 (((s.hostWrite b.addr (ws.flatMap fun w => toBytes 8 w.toNat)).mapCtx id fun c =>
             { c with events := c.events.drop n }).setFlag id ((evs.drop n).any flagged)))

/-! ## Service slots (R404, R405) -/

/-- Packets of a queue that its kick register has made pending and that have not been started (R405). -/
def State.pending (s : State) (q : Nat) : Nat :=
  if s.host.stopped.contains q then 0 else (Store.get 0 s.host.kick q + 2 ^ 32 - Store.get 0 s.host.consumed q) % 2 ^ 32

/-- The entries of a queue's ring (R405; log 21). -/
def ringSize (q : Nat) : Nat := 2 ^ (4 + Config.queueSize q % 9)

/-- The non-empty queue of highest priority, 0 being the highest, of those the lowest slot and number (R404). -/
def State.bestQueue (s : State) : Option Nat :=
  let qs := ((s.host.kick.map Prod.fst ++ s.host.consumed.map Prod.fst).eraseDups).filter fun q => s.pending q != 0
  let pri (q : Nat) : Nat := Config.queuePriority q % 4
  qs.foldl (fun b q =>
    match b with | none => some q | some x => if pri q < pri x ∨ (pri q = pri x ∧ q < x) then some q else b) none

/-- The bytes of the ring entry at an index of a queue, in host memory (R405). -/
def State.ringBytes (s : State) (q i : Nat) : List Byte := s.host.mem.readN (Config.queueBase q + 512 * (i % ringSize q)) 512

/-- The OPC of a packet and its header with the buffer list (R409). -/
def packetHeader (q i : Nat) (bs : List Byte) : Nat × Packet :=
  let num (o n : Nat) : Nat := ofBytes ((bs.drop o).take n)
  let opc := num 0 1
  let nbuf := num 1 1
  let entry (k : Nat) : Nat := 64 + 16 * k
  (opc,
    { slot := q / 64, queue := q % 64, index := i, caddr := num 8 8
      bufs := (List.range nbuf).map fun k => ⟨num (entry k) 8, num (entry k + 8) 4, num (entry k + 12) 1⟩
      bad := opc == 0 || 13 < opc || num 2 6 != 0 || num 16 48 != 0 ||
        (List.range (min nbuf 16)).any fun k => num (entry k + 13) 3 != 0 })

/-- The OPC of a command (R409, R411, R431). -/
def opcOf : Instr → Nat
  | .contextCreate _ _ => 1 | .contextSet _ _ => 2 | .contextDestroy _ _ => 3 | .partition _ _ _ _ => 4 | .streamAdmit _ _ => 5
  | .streamStop _ _ => 6 | .keyLoad _ _ _ _ _ | .keyDestroy _ _ | .ownerKeyLoad _ _ _ _ _ | .ownerKeyDestroy _ _ _ => 7
  | .syncAllocate _ _ => 8 | .poolWays _ _ _ => 9 | .map _ _ _ _ => 10 | .slotTable _ _ _ => 11
  | .dieFirmwareReload _ _ _ | .hbmRepair _ _ _ _ | .portRetrain _ _ | .hearthRetirement _ _ => 12
  | .eventRead _ _ => 13
  | _ => 0

/-- A command under a packet's header. -/
def withHeader (k : Packet) : Instr → Instr
  | .contextCreate _ a => .contextCreate k a | .contextSet _ a => .contextSet k a | .contextDestroy _ a => .contextDestroy k a
  | .partition _ a b c => .partition k a b c | .streamAdmit _ a => .streamAdmit k a | .streamStop _ a => .streamStop k a
  | .keyLoad _ a b c d => .keyLoad k a b c d | .keyDestroy _ a => .keyDestroy k a
  | .ownerKeyLoad _ a b c d => .ownerKeyLoad k a b c d | .ownerKeyDestroy _ a b => .ownerKeyDestroy k a b
  | .syncAllocate _ a => .syncAllocate k a | .poolWays _ a b => .poolWays k a b | .map _ a b c => .map k a b c
  | .slotTable _ a b => .slotTable k a b | .dieFirmwareReload _ a b => .dieFirmwareReload k a b
  | .hbmRepair _ a b c => .hbmRepair k a b c | .portRetrain _ a => .portRetrain k a
  | .hearthRetirement _ a => .hearthRetirement k a | .eventRead _ a => .eventRead k a
  | i => i

/-- The ring index and queue that a command of the host's stands at. -/
def standsAt (q i : Nat) (p : Instr) : Bool :=
  match packetOf p with | some k => queueKey k.slot k.queue == q && k.index % 2 ^ 32 == i | none => false

/-- The packet at a ring index of a queue (R405, R409): its OPC, header and buffers are those of the entry's bytes; what its operand
bytes ask for, whose layout the spec does not give, is the command that the host's side holds for the entry (log 21). Without
one the operands are out of range. -/
def State.ringPacket (s : State) (q i : Nat) : Instr :=
  let (opc, k) := packetHeader q i (s.ringBytes q i)
  match s.host.ring.find? fun p => standsAt q i p && opcOf p == opc with
  | some p => withHeader k p
  | none => .contextCreate k 0

/-- Start the oldest pending packet of a queue (R404). -/
def State.startOne (s : State) (q : Nat) : State :=
  let i := Store.get 0 s.host.consumed q
  s.mapHost fun h =>
    { h with consumed := Store.set 0 h.consumed q ((i + 1) % 2 ^ 32), ring := h.ring.filter fun p => !standsAt q i p
             started := h.started ++ [s.ringPacket q i] }

/-- Serve a queue: at most 4 pending packets start in ring order; a kick index too far ahead stops the queue, and the oldest
packet is to complete with status 0x06, once those before it have (R404, R405, R409). -/
def State.serve (s : State) (q : Nat) : State :=
  let n := s.pending q
  if ringSize q < n then
    s.mapHost fun h =>
      { h with stopped := h.stopped ++ [q], started := h.started ++ [s.ringPacket q (Store.get 0 h.consumed q)] }
  else (List.range (min n 4)).foldl (fun s _ => s.startOne q) s

/-- SERVICE_SLOT: the next slot of a die's frame (R404). -/
def execServiceSlot (s : State) : Host.Outcome State Fault Refusal :=
  atDie s fun d s =>
    if s.host.state ≠ 4 then s
    else
      let x := s.dieAt d
      let own := match Store.get none x.slotTable x.serviceSlot with
        | some (c, q) => if s.pending (queueKey c q) ≠ 0 then some (queueKey c q) else none
        | none => none
      let s1 := s.setDie d { x with serviceSlot := (x.serviceSlot + 1) % 32 }
      match own.or s.bestQueue with | some q => s1.serve q | none => s1

/-! ## Host accesses over CXL.mem (R303, R311, R380, R349) -/

/-- HOST_MEM_ACCESS: a read or a write of mapped device memory at the home die's directory. Where tensors must first be made
resident it waits among the started packets. -/
def execHostMemAccess (a : HostAccess) (s : State) : Host.Outcome State Fault Refusal :=
  let self := Instr.hostMemAccess a
  let gone (s : State) : State := s.mapHost fun h => { h with started := h.started.erase self }
  match s.ctx? a.ctx, s.recAt a.ctx a.handle with
  | some c, some r =>
    let n := match a.data with | some bs => bs.length | none => a.len
    if !(c.maps.any fun e => e.1 == a.handle) || decide (r.bytes < a.off + n) || n = 0 then .next (gone s)
    else
      match s.reach a.ctx a.handle a.data.isSome with
      | (.pending, s1) => .next (s1.keepStarted self)
      | (.fail, s1) => .next ((gone s1).mapHost fun h => { h with reply := [], replyBad := true })
      | (.ok, s1) =>
        match a.data with
        | some bs =>
          let out := s1.fabric.windows.any fun w => w.2.ctx == a.ctx && w.2.handle == a.handle && w.2.state != 0
          let s2 := (s1.beforeWrite a.ctx a.handle a.off n false).mapCtx a.ctx fun c =>
            if out && !c.dirtyOut.contains a.handle then { c with dirtyOut := c.dirtyOut ++ [a.handle] } else c
          .next (gone (s2.homeWrite a.ctx a.handle a.off bs).2)
        | none =>
          let bad := s1.homeMarks a.ctx a.handle a.off n
          let s2 := s1.homeFetch a.ctx a.handle a.off n
          .next ((gone s2).mapHost fun h => { h with reply := s2.homeRead a.ctx a.handle a.off n, replyBad := !bad.isEmpty })
  | _, _ => .next (gone s)

end Sys2Proof.Machine
end

