-- ==== Sys2Proof/Machine/Street.lean ====
section
/-! DEFINITION. Chimney lines, pair lines and the completion of HALT (spec/11_square_streets.md R267, R274, R275, R277 to
R280; spec/04 R105; spec/10 R251; spec/13 R315). -/
namespace Sys2Proof.Machine

/-- What a task released at its barrier (R315): its record with its own entry at the epoch before the barrier. -/
def Core.barrierTags (c : Core) : List Tag :=
  carried c.race.known c.race.sat (c.task.launch, c.task.ord, c.race.epoch - 1)

/-- Every member acquires what every member released (R277), and goes on; the leader of a fused street issues from here on
(R278). -/
def State.joinAll (s : State) (hs : List Nat) : State :=
  let q := hs.foldl (fun q h => joinTags q (s.coreAt h).barrierTags) []
  hs.foldl (fun s h => ((s.focus h).acquire q).mapCore fun c => { c with wait := .none, link := { c.link with start := c.link.tick } }) s

/-- A member enters lock step (R275): a group switch, and its cycles count from here. -/
def Core.fuseIn (c : Core) (rank : Nat) : Core :=
  let g := c.groupSwitch 0
  { g with wait := .none, link := { g.link with rank := some rank, fused := true, tick := 0, inbox := [], past := [], sent := 0, start := 0 } }

/-- What is pre-empted as a whole has come together: a request to one is served for all (R280, R332). -/
def State.shareRequest (s : State) (hs : List Nat) : State :=
  if hs.any fun h => (s.coreAt h).mode == .preempting then hs.foldl (fun s h => s.mapCoreAt h Core.askPreempt) s else s

/-- FUSION_MISMATCH: cause 0x03 in a member, taken at the boundary after the fusing bundle (R275). -/
def State.fusionMismatch (s : State) (h pc : Nat) : State :=
  let s0 := (s.focus h).mapCore fun c => { c with wait := .none }
  let s1 := s0.writeDue s0.core.fly.length
  s1.takeTrap ⟨0x03, pc, []⟩ 0 false s1.core.seq 0 s1.core.seq.pc

/-- The street's line reads high: every member has arrived, and the next cycle is come (R267). -/
def State.streetHigh (s : State) (street : Nat) : State :=
  let t := s.streetAt street
  let hs := s.members street
  let in_ (h : Nat) : Option (Nat × Nat × Ctl × Nat) := t.arrived.find? fun a => a.1 == h % 8
  if !s.lineOver street then s
  else
    let s0 := s.setStreet street { t with arrived := [] }
    match (hs.headD 0, (hs.head?).bind in_) with
    | (_, none) => s
    | (_, some (_, pc, k, _)) =>
      let same := hs.all fun h => match in_ h with | some (_, pc', k', _) => k' == k && (k == .sbar || pc' == pc) | none => false
      if !same then hs.foldl (fun s h => s.fusionMismatch h (match in_ h with | some (_, p, _, _) => p | none => 0)) s0
      else match k with
        | .sbar => s0.joinAll hs
        | .fuse skew =>
          (hs.foldl (fun s h => s.mapCoreAt h fun c => c.fuseIn (h % 8))
            (s0.setStreet street { t with arrived := [], mode := 1, skew := skew })).shareRequest hs
        | .rejoin =>
          (hs.foldl (fun s h => s.mapCoreAt h fun c => c.fuseIn (h % 8))
            (s0.setStreet street { t with arrived := [], mode := 1 })).shareRequest hs
        | _ => s

/-- The square's second line reads high for the square group of the hearth in focus: every member of its street groups has
arrived at SQBAR (R265, R267, R277). -/
def State.squareHigh (s : State) : State :=
  let q := squareOf s.coreId
  let hs := s.squareStreets.flatMap s.members
  if !s.squareOver then s
  else (s.setSquare q { s.squareAt q with sqbar := (s.squareAt q).sqbar.filter fun a => !hs.contains a.1 }).joinAll hs

/-- CHIMNEY_LINE_HIGH: the line of the hearth's street, or of its square (R267). -/
def execChimneyLineHigh (square : Bool) (s : State) : Host.Outcome State Fault Refusal :=
  atHearth s fun s =>
    let h := s.coreId
    (if square then s.squareHigh else s.streetHigh (streetOf h)).focus h

/-- PAIR_LINE_MEET: both partners stand at PAIR on, and they are paired from the next bundle on (R279). -/
def execPairLineMeet (s : State) : Host.Outcome State Fault Refusal :=
  atHearth s fun s =>
    let g := partnerOf s.coreId
    if s.pairOver then
      let on (c : Core) : Core :=
        { c with wait := .none, link := { c.link with paired := true, mswaps := [], atSwap := none } }
      ((s.mapCore on).mapCoreAt g on).shareRequest [s.coreId, g]
    else s

/-- HALT_COMPLETE: every result in flight has been written and the hearth becomes free (R105, R274, R280). A handler's HALT
ends the task as failed with the frame's cause (R251). -/
def execHaltComplete (s : State) : Host.Outcome State Fault Refusal :=
  atHearth s fun s =>
    if s.core.wait = .halting ∧ s.core.fly.isEmpty = true then
      (if s.core.priv then s.fail (bits s.core.trap.cause.toNat 0 8) false else s.taskEnd none)
    else s

end Sys2Proof.Machine
end

