-- ==== Sys2Proof/Machine/Agents.lean ====
section
/-! DEFINITION. The agents that execute steps on their own, and what each can do next: hearths, their copy engines, the
dies' sync engines and sequencers, the stoker, the firmware executive, base dies and ports (spec/00_scope.md; R62, R163,
R232, R288, R319, R329, R404, R443). -/
namespace Sys2Proof.Machine

/-- A thing that an agent can do: an event at a unit (or a record of a stream), or a stream fault that the sequencer finds
before it has a record (R321). -/
inductive Turn where
  | event (unit : Nat) (i : Instr)
  | streamFault (st : StreamId) (ctx code : Nat)
  deriving DecidableEq, Repr

/-- An event when its condition holds. -/
def Turn.when (b : Bool) (unit : Nat) (i : Instr) : List Turn := if b then [.event unit i] else []

/-! ## Hearths and their copy engines -/

/-- An element whose landing cycle has come (R163). -/
def Core.landingDue (c : Core) : Bool :=
  let due (e : Elem) : Bool := !e.landed && c.due e.hand e.land
  c.q.any (fun e => e.2.any due) || c.flue.any fun e => e.2.q.any due

/-- The wait of a hearth may end, or its WAITA may time out or be cancelled (R240, R296). -/
def State.waitTurns (s : State) (h : Nat) : List Turn :=
  match s.core.wait with
  | .fence .. => Turn.when s.waitOver h .fenceWaitEnd
  | .acquire .. => Turn.when s.waitOver h .fenceWaitEnd
  | .waita req _ issued t _ cancelling =>
    let r := s.reqs.find? fun r => r.id == req
    if cancelling then Turn.when (match r with | some r => r.done || s.armed r | none => false) h .monitorCancelAck
    else Turn.when (t != 0 && t ≤ s.core.now - issued && !(match r with | some r => r.done | none => false)) h .waitaTimeout
  | .pairLine _ => Turn.when s.pairOver h .pairLineMeet
  | .halting => Turn.when s.core.fly.isEmpty h .haltComplete
  | _ => []

/-- What can happen at the hearth in focus. -/
def State.hearthTurns (s : State) : List Turn :=
  let c := s.core
  let h := s.coreId
  Turn.when (c.fly.any fun f => f.left == 0) h .resultWriteback ++
  Turn.when c.landingDue h .landing ++
  Turn.when (match c.mat.fill with | some f => c.due f.hand f.land && 128 ≤ f.got | none => false) h .planeFillLanding ++
  Turn.when c.dueRow.isSome h .windowRowLanding ++
  Turn.when s.canCycle h .bundleIssue ++
  s.waitTurns h ++
  Turn.when ((s.nextOf c.eng.cp).any s.opReady) h (.copyPerform false) ++
  Turn.when ((s.nextOf c.eng.cl).any s.opReady) h (.copyPerform true) ++
  Turn.when (c.eng.cp.any fun o => o.complete c) h (.copyComplete false) ++
  Turn.when (c.eng.cl.any fun o => o.complete c) h (.copyComplete true) ++
  Turn.when (match c.stuck with | .cp => c.eng.cp.length < 32 | .cl => c.eng.cl.length < 32 | _ => false) h .copyQueueAccept ++
  Turn.when (c.stuck == .sync && (s.reqs.filter fun r => r.hearth == h).length < 32) h .syncRequestAccept ++
  ((List.range c.eng.transit.length).filterMap fun n => match c.eng.transit[n]? with
    | some t => if s.portClear t.port then some (.event h (.dataArrival n)) else none
    | none => none) ++
  Turn.when s.fillReady h (.dataArrival c.eng.transit.length) ++
  (s.reqs.filterMap fun r => if r.hearth = h ∧ r.done = true then some (.event h (.atomicAck r.id)) else none) ++
  Turn.when s.canLand h .preemptLand ++
  Turn.when (c.mode == .landed && c.delivered && s.allLanded) h .contextImageWrite

/-- The hearths at which something can happen. -/
def State.active (s : State) : List Nat := s.coreId :: (s.others.map Prod.fst).filter (· != s.coreId)

/-! ## Streets and squares -/

/-- Lines that read high: those of streets, and for each square the first hearth whose square group's line does (R265, R267). -/
def State.lineTurns (s : State) : List Turn :=
  ((s.streets.filter fun e => s.lineOver e.1).map fun e => .event (8 * e.1) (.chimneyLineHigh false)) ++
    s.squares.filterMap fun e =>
      (e.2.sqbar.find? fun a => (s.focus a.1).squareOver).map fun a => .event a.1 (.chimneyLineHigh true)

/-! ## Dies -/

/-- The stream whose record the sequencer of a die takes next (R319). -/
def State.nextStream (s : State) (d : Nat) : Option (Nat × Stream) :=
  let x := s.dieAt d
  let far (n : Nat) : Nat := (n + 31 - x.lastStream) % 16
  let runs := x.streams.filterMap fun e =>
    match e.2 with | some y => if y.run = .running ∧ y.stop = false then some (e.1, y) else none | none => none
  runs.foldl (fun b e =>
    match b with
    | none => some e
    | some a => if e.2.pri < a.2.pri ∨ (e.2.pri = a.2.pri ∧ far e.1 < far a.1) then some e else b) none

/-- What a stream's next record asks of the sequencer: its execution, a fault, or its tensor's return (R319, R321, R379). A
tensor that has failed gives fault 0x07, one that is gone fault 0x08: DEDUCED (log 29). -/
def State.recordTurn (s : State) (st : StreamId) (x : Stream) : List Turn :=
  if (match s.ctx? x.ctx with | some c => c.rollback | none => true) then []
  else if x.off % 32 ≠ 0 ∨ x.stop_ < x.off + 32 then [.streamFault st x.ctx 0x04]
  else
    match s.recAt x.ctx x.handle with
    | none => [.streamFault st x.ctx 0x08]
    | some r =>
      if r.away then (if r.rfail then [.streamFault st x.ctx 0x07] else [.event 0 (.makeResident x.ctx x.handle)])
      else
        match s.recordOf st x with
        | none => [.streamFault st x.ctx 0x01]
        | some i => [.event 0 i]

/-- What the sequencer of a die can do with its streams: the next record, and what waiting streams wait for. -/
def State.streamTurns (s : State) (d : Nat) : List Turn :=
  (match s.nextStream d with | some (n, x) => s.recordTurn ⟨d, n⟩ x | none => []) ++
    ((s.dieAt d).streams.flatMap fun e =>
      match e.2 with | some x => if x.run = .waiting then s.recordTurn ⟨d, e.1⟩ x else [] | none => [])

/-- Placement of the best candidate of a die (R329). -/
def State.placeTurns (s : State) (d : Nat) : List Turn :=
  match s.nextCand d with
  | none => []
  | some (.fresh l, _, n) => Turn.when ((s.shapeFor l n []).isSome || !l.asked) d .taskPlace
  | some (.back r, l, n) =>
    if (s.shapeOf l (.back r) n []).isSome then [.event d .taskResume] else Turn.when (!r.asked) d .taskPlace

/-- Mailboxes that can post or launch their handler (R298, R328). -/
def State.boxTurns (s : State) (d : Nat) : List Turn :=
  (s.dieAt d).boxes.flatMap fun e =>
    Turn.when (!e.2.waiting.isEmpty && e.2.queue.length < 16) d (.mailboxPost e.1) ++
      Turn.when
        (match e.2.bound with
         | some (_, k, g, ctx) => !e.2.busy && !e.2.closing && !e.2.queue.isEmpty && (s.awaits ctx k g).isEmpty
         | none => false) d (.mailboxHandlerLaunch e.1)

/-- Ready named tasks that can launch: the event that brings tensors back tries them all (R327, R379). -/
def State.namedTurns (s : State) (d : Nat) : List Turn :=
  (s.dieAt d).named.flatMap fun e =>
    match e.2.ready with
    | [] => []
    | n :: _ => Turn.when (!s.slotBusy ⟨d, n.stream⟩ n.serial n.slot && (s.awaits n.ctx n.kernel n.args).isEmpty) 0
        (.makeResident n.ctx n.kernel)

/-- What a die's agents can do. -/
def State.dieTurns (s : State) (d : Nat) : List Turn :=
  s.streamTurns d ++ s.placeTurns d ++ s.namedTurns d ++ s.boxTurns d ++
    (s.contexts.flatMap fun c => Turn.when ((Store.get none c.newMask d).isSome && s.allSaved c.id d) d (.partitionSwap c.id)) ++
    Turn.when (s.host.state == 4 && s.diePresent d) d .serviceSlot

/-- Requests that sync engines can perform (R288). -/
def State.syncTurns (s : State) : List Turn :=
  s.reqs.flatMap fun r => Turn.when (s.canPerform r) (syncDie r.addr) (.atomicPerform r.id)

/-- What waits ready and can grow older (R331). -/
def State.agingTurns (s : State) : List Turn :=
  (s.launches.flatMap fun l => Turn.when (l.next < l.total && l.cur != 0) 0 (.priorityAging l.id)) ++
    s.images.flatMap fun r => Turn.when (r.cur != 0) (r.image.task.ord + 1) (.priorityAging r.image.task.launch)

/-- Launches, phases and rollbacks that can end (R312, R323, R383). -/
def State.endTurns (s : State) : List Turn :=
  (s.launches.flatMap fun l => Turn.when (s.launchDone l) l.id .launchComplete) ++
    s.contexts.flatMap fun c => Turn.when (s.canCommit c.id && s.heldReady c.id) c.id .phaseCommit ++ Turn.when c.rollback c.id .rollback

/-! ## The stoker, memory, host and fabric -/

/-- Tensors that something waits for: those of the next queued operations of each hearth, of tile fills, of launches by named
tasks and mailboxes, and the dropped tensors that a write awaits (R379, R380). -/
def State.wanted (s : State) : List (Nat × Nat) :=
  let gone (ctx h : Nat) : Bool :=
    match s.recAt ctx h with | some r => r.away && !r.rfail && r.rebuild == 0 | none => false
  let ofOp (o : CopyOp) : List (Nat × Nat) := (o.kind.handles ++ s.dependents o).map fun h => (o.ctx, h)
  let ofCore (c : Core) : List (Nat × Nat) :=
    ((nextOp c.eng.cp).elim [] ofOp) ++ ((nextOp c.eng.cl).elim [] ofOp) ++
      ((nextOp (c.eng.cp.filter s.ofRecipe)).elim [] ofOp) ++
      ((c.eng.cl.filter fun o => o.awaits != 0).flatMap fun o => (s.dependents o).map fun h => (o.ctx, h)) ++
      (match c.mat.fill with
       | some f => (match f.src with | .tile h _ _ _ => [(c.task.ctx, h)] | .pad _ => [])
       | none => []) ++
      (if c.stuck = .handler then (match s.ctx? c.task.ctx with | some k => [(k.id, k.handler)] | none => []) else [])
  let ofScan (j : ScanJob) : List (Nat × Nat) := (j.ctx, j.o.res) :: ((s.dependent j.ctx j.o.res).toList.map fun h => (j.ctx, h))
  let ofReq (r : RemoteIn) : List (Nat × Nat) :=
    let w := s.windowAt r.pkt.win
    (s.dependent w.ctx w.handle).toList.map fun h => (w.ctx, h)
  let ofDie (d : Nat) : List (Nat × Nat) :=
    ((s.dieAt d).named.flatMap fun e => (e.2.ready.take 1).flatMap fun n => (s.awaits n.ctx n.kernel n.args).map fun h => (n.ctx, h)) ++
      (s.dieAt d).boxes.flatMap fun e =>
        match e.2.bound with
        | some (_, k, g, ctx) => if e.2.queue.isEmpty then [] else (s.awaits ctx k g).map fun h => (ctx, h)
        | none => []
  ((s.active.flatMap fun h => ofCore (s.coreAt h)) ++ [0, 1, 2, 3].flatMap ofDie ++ s.scans.flatMap ofScan ++ s.fabric.inn.flatMap ofReq).eraseDups.filter
    fun e => gone e.1 e.2

/-- Packets at the ports of the base dies (R392, R393). -/
def State.stackTurns (s : State) : List Turn :=
  s.hbmStacks.flatMap fun e =>
    Turn.when (match e.2.queue.find? fun r => r.tag.isNone with | some r => !(e.2.freeTags r.pc).isEmpty | none => false)
      e.1 .hbmRequestSend ++
    e.2.queue.flatMap fun r =>
      Turn.when (r.tag.isSome && r.reply.isNone) e.1 (.hbmRequestPerform r.id) ++ Turn.when r.reply.isSome e.1 (.hbmReply r.id)

/-- Requests, replies and revocations of the fabric (R435, R438, R441). -/
def State.fabricTurns (s : State) : List Turn :=
  (s.fabric.inn.flatMap fun r => if r.pkt.op < 2 then Turn.when r.held.isNone r.id .remoteRequest else [.event r.id .remoteReply]) ++
    (s.fabric.out.flatMap fun x => Turn.when (!x.held && x.status.isNone && x.tries != 0) x.id .remoteTimeout) ++
    (s.fabric.windows.flatMap fun e =>
      Turn.when (e.2.state == 1 && e.2.revoker.isSome) e.1 .revokeEffect ++ Turn.when (e.2.state == 2) e.1 .revokeDrainDone ++
        Turn.when (e.2.state == 3 && !s.revokerWaits e.2 && s.windowQuiet e.1) e.1 .windowQuarantineEnd) ++
    s.fabric.ports.flatMap fun e => Turn.when (e.2.owners.any fun o => o.2.discards != 0) e.1 .discardInterval

/-- Packets that the executive has started, each the first of its queue, and host accesses that wait (R409). -/
def State.hostTurns (s : State) : List Turn :=
  Turn.when (s.host.state == 3) 0 .training ++
    s.host.started.flatMap fun i =>
      Turn.when (match packetOf i with | some k => !s.queueAhead i k | none => true) 0 i

/-- Everything that some agent can do next. An entry may come to nothing yet; nothing that can happen is missing. -/
def State.turns (s : State) : List Turn :=
  (s.active.flatMap fun h => (s.focus h).hearthTurns) ++ s.lineTurns ++ ([0, 1, 2, 3].flatMap s.dieTurns) ++ s.syncTurns ++
    s.agingTurns ++ s.endTurns ++ (s.wanted.map fun e => .event 0 (.makeResident e.1 e.2)) ++ s.stackTurns ++
    (s.scans.flatMap fun j => Turn.when (!s.scanBehind j) j.id .scanComplete) ++ s.fabricTurns ++ s.hostTurns

/-! ## The outside world -/

/-- What comes from outside the device: the host, peers, power and the physical world. -/
def outside : Instr → Bool
  | .kick _ _ _ _ => true
  | .registerWrite _ _ _ => true
  | .hostMemAccess _ => true
  | .packetReceive _ => true
  | .droopStretch _ => true
  | .powerUp => true
  | .cxlReset => true
  | .cxlLinkLoss => true
  | .fwgo => true
  | .reset => true
  | .thermalShutdown => true
  | .powerLimitThrottle => true
  | .preemptRequest => true
  | .flitReplay => true
  | _ => false

end Sys2Proof.Machine
end

