-- ==== Sys2Proof/Machine/Dispatch.lean ====
section
/-! DEFINITION. The dispatch: one arm for each constructor of `Instr`, in the order of the table. -/

namespace Sys2Proof.Machine

/-- One step of the machine: the effect of an event, a command, a slot operation or a record. -/
def exec (i : Instr) (s : State) : Host.Outcome State Fault Refusal :=
  match i with
  | .kick slot queue size v => Sys2Proof.Machine.execKick slot queue size v s
  | .registerWrite off size v => Sys2Proof.Machine.execRegisterWrite off size v s
  | .contextCreate k id => Sys2Proof.Machine.execContextCreate k id s
  | .contextSet k o => Sys2Proof.Machine.execContextSet k o s
  | .contextDestroy k id => Sys2Proof.Machine.execContextDestroy k id s
  | .partition k id mask0 masks => Sys2Proof.Machine.execPartition k id mask0 masks s
  | .streamAdmit k o => Sys2Proof.Machine.execStreamAdmit k o s
  | .streamStop k stm => Sys2Proof.Machine.execStreamStop k stm s
  | .keyLoad k slot owner key1 key2 => Sys2Proof.Machine.execKeyLoad k slot owner key1 key2 s
  | .keyDestroy k slot => Sys2Proof.Machine.execKeyDestroy k slot s
  | .ownerKeyLoad k entry owner key ports => Sys2Proof.Machine.execOwnerKeyLoad k entry owner key ports s
  | .ownerKeyDestroy k entry ports => Sys2Proof.Machine.execOwnerKeyDestroy k entry ports s
  | .syncAllocate k o => Sys2Proof.Machine.execSyncAllocate k o s
  | .poolWays k die ways => Sys2Proof.Machine.execPoolWays k die ways s
  | .map k id handle base => Sys2Proof.Machine.execMap k id handle base s
  | .slotTable k die entries => Sys2Proof.Machine.execSlotTable k die entries s
  | .dieFirmwareReload k die addr => Sys2Proof.Machine.execDieFirmwareReload k die addr s
  | .hbmRepair k die first count => Sys2Proof.Machine.execHbmRepair k die first count s
  | .portRetrain k port => Sys2Proof.Machine.execPortRetrain k port s
  | .hearthRetirement k h => Sys2Proof.Machine.execHearthRetirement k h s
  | .eventRead k id => Sys2Proof.Machine.execEventRead k id s
  | .dataArrival n => Sys2Proof.Machine.execDataArrival n s
  | .copyPerform coll => Sys2Proof.Machine.execCopyPerform coll s
  | .copyComplete coll => Sys2Proof.Machine.execCopyComplete coll s
  | .atomicPerform n => Sys2Proof.Machine.execAtomicPerform n s
  | .atomicAck n => Sys2Proof.Machine.execAtomicAck n s
  | .mailboxPost m => Sys2Proof.Machine.execMailboxPost m s
  | .mailboxHandlerLaunch m => Sys2Proof.Machine.execMailboxHandlerLaunch m s
  | .chimneyLineHigh square => Sys2Proof.Machine.execChimneyLineHigh square s
  | .partitionSwap id => Sys2Proof.Machine.execPartitionSwap id s
  | .priorityAging n => Sys2Proof.Machine.execPriorityAging n s
  | .makeResident id handle => Sys2Proof.Machine.execMakeResident id handle s
  | .hbmRequestPerform n => Sys2Proof.Machine.execHbmRequestPerform n s
  | .hbmReply n => Sys2Proof.Machine.execHbmReply n s
  | .hostMemAccess a => Sys2Proof.Machine.execHostMemAccess a s
  | .packetReceive p => Sys2Proof.Machine.execPacketReceive p s
  | .br o => Sys2Proof.Machine.execBr o s
  | .brp o => Sys2Proof.Machine.execBrp o s
  | .bri o => Sys2Proof.Machine.execBri o s
  | .call o => Sys2Proof.Machine.execCall o s
  | .ret o => Sys2Proof.Machine.execRet o s
  | .loop o => Sys2Proof.Machine.execLoop o s
  | .sloop o => Sys2Proof.Machine.execSloop o s
  | .next o => Sys2Proof.Machine.execNext o s
  | .lexit o => Sys2Proof.Machine.execLexit o s
  | .lix o => Sys2Proof.Machine.execLix o s
  | .halt o => Sys2Proof.Machine.execHalt o s
  | .trap o => Sys2Proof.Machine.execTrap o s
  | .eret o => Sys2Proof.Machine.execEret o s
  | .fuse o => Sys2Proof.Machine.execFuse o s
  | .decouple o => Sys2Proof.Machine.execDecouple o s
  | .rejoin o => Sys2Proof.Machine.execRejoin o s
  | .sbar o => Sys2Proof.Machine.execSbar o s
  | .sqbar o => Sys2Proof.Machine.execSqbar o s
  | .pair o => Sys2Proof.Machine.execPair o s
  | .add o => Sys2Proof.Machine.execAdd o s
  | .sub o => Sys2Proof.Machine.execSub o s
  | .mul o => Sys2Proof.Machine.execMul o s
  | .mulhs o => Sys2Proof.Machine.execMulhs o s
  | .mulhn o => Sys2Proof.Machine.execMulhn o s
  | .divs o => Sys2Proof.Machine.execDivs o s
  | .divn o => Sys2Proof.Machine.execDivn o s
  | .rems o => Sys2Proof.Machine.execRems o s
  | .remn o => Sys2Proof.Machine.execRemn o s
  | .and o => Sys2Proof.Machine.execAnd o s
  | .or o => Sys2Proof.Machine.execOr o s
  | .xor o => Sys2Proof.Machine.execXor o s
  | .andn o => Sys2Proof.Machine.execAndn o s
  | .shl o => Sys2Proof.Machine.execShl o s
  | .shrn o => Sys2Proof.Machine.execShrn o s
  | .shrs o => Sys2Proof.Machine.execShrs o s
  | .rotl o => Sys2Proof.Machine.execRotl o s
  | .mins o => Sys2Proof.Machine.execMins o s
  | .maxs o => Sys2Proof.Machine.execMaxs o s
  | .minn o => Sys2Proof.Machine.execMinn o s
  | .maxn o => Sys2Proof.Machine.execMaxn o s
  | .clz o => Sys2Proof.Machine.execClz o s
  | .ctz o => Sys2Proof.Machine.execCtz o s
  | .popc o => Sys2Proof.Machine.execPopc o s
  | .bext o => Sys2Proof.Machine.execBext o s
  | .bins o => Sys2Proof.Machine.execBins o s
  | .add128 o => Sys2Proof.Machine.execAdd128 o s
  | .addi o => Sys2Proof.Machine.execAddi o s
  | .movi o => Sys2Proof.Machine.execMovi o s
  | .cmpEq o => Sys2Proof.Machine.execCmpEq o s
  | .cmpNe o => Sys2Proof.Machine.execCmpNe o s
  | .cmpLts o => Sys2Proof.Machine.execCmpLts o s
  | .cmpLes o => Sys2Proof.Machine.execCmpLes o s
  | .cmpLtn o => Sys2Proof.Machine.execCmpLtn o s
  | .cmpLen o => Sys2Proof.Machine.execCmpLen o s
  | .cmpAny o => Sys2Proof.Machine.execCmpAny o s
  | .cmpNone o => Sys2Proof.Machine.execCmpNone o s
  | .sel o => Sys2Proof.Machine.execSel o s
  | .pand o => Sys2Proof.Machine.execPand o s
  | .por o => Sys2Proof.Machine.execPor o s
  | .pxor o => Sys2Proof.Machine.execPxor o s
  | .pnot o => Sys2Proof.Machine.execPnot o s
  | .pmov o => Sys2Proof.Machine.execPmov o s
  | .wid o => Sys2Proof.Machine.execWid o s
  | .rank o => Sys2Proof.Machine.execRank o s
  | .mfs o => Sys2Proof.Machine.execMfs o s
  | .mts o => Sys2Proof.Machine.execMts o s
  | .alea o => Sys2Proof.Machine.execAlea o s
  | .aset o => Sys2Proof.Machine.execAset o s
  | .astep o => Sys2Proof.Machine.execAstep o s
  | .aring o => Sys2Proof.Machine.execAring o s
  | .wopen o => Sys2Proof.Machine.execWopen o s
  | .wadv o => Sys2Proof.Machine.execWadv o s
  | .wclose o => Sys2Proof.Machine.execWclose o s
  | .fill o => Sys2Proof.Machine.execFill o s
  | .flcfg o => Sys2Proof.Machine.execFlcfg o s
  | .flpush o => Sys2Proof.Machine.execFlpush o s
  | .flpop o => Sys2Proof.Machine.execFlpop o s
  | .lds o => Sys2Proof.Machine.execLds o s
  | .sts o => Sys2Proof.Machine.execSts o s
  | .vld o => Sys2Proof.Machine.execVld o s
  | .vst o => Sys2Proof.Machine.execVst o s
  | .vldx o => Sys2Proof.Machine.execVldx o s
  | .vstx o => Sys2Proof.Machine.execVstx o s
  | .tld o => Sys2Proof.Machine.execTld o s
  | .tst o => Sys2Proof.Machine.execTst o s
  | .tcopy o => Sys2Proof.Machine.execTcopy o s
  | .tpref o => Sys2Proof.Machine.execTpref o s
  | .fence o => Sys2Proof.Machine.execFence o s
  | .qfence o => Sys2Proof.Machine.execQfence o s
  | .vjoin o => Sys2Proof.Machine.execVjoin o s
  | .aadd o => Sys2Proof.Machine.execAadd o s
  | .amin o => Sys2Proof.Machine.execAmin o s
  | .amax o => Sys2Proof.Machine.execAmax o s
  | .aand o => Sys2Proof.Machine.execAand o s
  | .aor o => Sys2Proof.Machine.execAor o s
  | .axor o => Sys2Proof.Machine.execAxor o s
  | .axchg o => Sys2Proof.Machine.execAxchg o s
  | .acas o => Sys2Proof.Machine.execAcas o s
  | .ald o => Sys2Proof.Machine.execAld o s
  | .ast o => Sys2Proof.Machine.execAst o s
  | .afadd o => Sys2Proof.Machine.execAfadd o s
  | .waita o => Sys2Proof.Machine.execWaita o s
  | .notify o => Sys2Proof.Machine.execNotify o s
  | .dqpush o => Sys2Proof.Machine.execDqpush o s
  | .dqpop o => Sys2Proof.Machine.execDqpop o s
  | .dqsteal o => Sys2Proof.Machine.execDqsteal o s
  | .dcnt o => Sys2Proof.Machine.execDcnt o s
  | .vadd o => Sys2Proof.Machine.execVadd o s
  | .vsub o => Sys2Proof.Machine.execVsub o s
  | .vadds o => Sys2Proof.Machine.execVadds o s
  | .vsubs o => Sys2Proof.Machine.execVsubs o s
  | .vmul o => Sys2Proof.Machine.execVmul o s
  | .vmulh o => Sys2Proof.Machine.execVmulh o s
  | .vmad o => Sys2Proof.Machine.execVmad o s
  | .vabs o => Sys2Proof.Machine.execVabs o s
  | .vneg o => Sys2Proof.Machine.execVneg o s
  | .vmin o => Sys2Proof.Machine.execVmin o s
  | .vmax o => Sys2Proof.Machine.execVmax o s
  | .vand o => Sys2Proof.Machine.execVand o s
  | .vor o => Sys2Proof.Machine.execVor o s
  | .vxor o => Sys2Proof.Machine.execVxor o s
  | .vshl o => Sys2Proof.Machine.execVshl o s
  | .vshr o => Sys2Proof.Machine.execVshr o s
  | .vsar o => Sys2Proof.Machine.execVsar o s
  | .vcmp o => Sys2Proof.Machine.execVcmp o s
  | .vsel o => Sys2Proof.Machine.execVsel o s
  | .vclz o => Sys2Proof.Machine.execVclz o s
  | .vpopc o => Sys2Proof.Machine.execVpopc o s
  | .vfadd o => Sys2Proof.Machine.execVfadd o s
  | .vfsub o => Sys2Proof.Machine.execVfsub o s
  | .vfmul o => Sys2Proof.Machine.execVfmul o s
  | .vfma o => Sys2Proof.Machine.execVfma o s
  | .vfnma o => Sys2Proof.Machine.execVfnma o s
  | .vfmin o => Sys2Proof.Machine.execVfmin o s
  | .vfmax o => Sys2Proof.Machine.execVfmax o s
  | .vfabs o => Sys2Proof.Machine.execVfabs o s
  | .vfneg o => Sys2Proof.Machine.execVfneg o s
  | .vfcmp o => Sys2Proof.Machine.execVfcmp o s
  | .vfclass o => Sys2Proof.Machine.execVfclass o s
  | .vfscale o => Sys2Proof.Machine.execVfscale o s
  | .vfrcp o => Sys2Proof.Machine.execVfrcp o s
  | .vfrsq o => Sys2Proof.Machine.execVfrsq o s
  | .vfexp2 o => Sys2Proof.Machine.execVfexp2 o s
  | .vflog2 o => Sys2Proof.Machine.execVflog2 o s
  | .vcvt o => Sys2Proof.Machine.execVcvt o s
  | .vqmx o => Sys2Proof.Machine.execVqmx o s
  | .vdqmx o => Sys2Proof.Machine.execVdqmx o s
  | .vpack o => Sys2Proof.Machine.execVpack o s
  | .vunpack o => Sys2Proof.Machine.execVunpack o s
  | .vradd o => Sys2Proof.Machine.execVradd o s
  | .vrfadd o => Sys2Proof.Machine.execVrfadd o s
  | .vrmax o => Sys2Proof.Machine.execVrmax o s
  | .vrmin o => Sys2Proof.Machine.execVrmin o s
  | .vrfmax o => Sys2Proof.Machine.execVrfmax o s
  | .vperm o => Sys2Proof.Machine.execVperm o s
  | .vbcast o => Sys2Proof.Machine.execVbcast o s
  | .vlrot o => Sys2Proof.Machine.execVlrot o s
  | .vshuf o => Sys2Proof.Machine.execVshuf o s
  | .vcmpr o => Sys2Proof.Machine.execVcmpr o s
  | .vexpd o => Sys2Proof.Machine.execVexpd o s
  | .viota o => Sys2Proof.Machine.execViota o s
  | .mand o => Sys2Proof.Machine.execMand o s
  | .mor o => Sys2Proof.Machine.execMor o s
  | .mnot o => Sys2Proof.Machine.execMnot o s
  | .mpop o => Sys2Proof.Machine.execMpop o s
  | .vrng o => Sys2Proof.Machine.execVrng o s
  | .mldb o => Sys2Proof.Machine.execMldb o s
  | .mpush o => Sys2Proof.Machine.execMpush o s
  | .mshift o => Sys2Proof.Machine.execMshift o s
  | .macc o => Sys2Proof.Machine.execMacc o s
  | .mtern o => Sys2Proof.Machine.execMtern o s
  | .mdrain o => Sys2Proof.Machine.execMdrain o s
  | .mzero o => Sys2Proof.Machine.execMzero o s
  | .mswap o => Sys2Proof.Machine.execMswap o s
  | .mtfetch o => Sys2Proof.Machine.execMtfetch o s
  | .oplaunch stm o => Sys2Proof.Machine.execOplaunch stm o s
  | .phase stm => Sys2Proof.Machine.execPhase stm s
  | .taskdef stm o => Sys2Proof.Machine.execTaskdef stm o s
  | .taskarm stm n count => Sys2Proof.Machine.execTaskarm stm n count s
  | .opwait stm mask cont handle => Sys2Proof.Machine.execOpwait stm mask cont handle s
  | .mboxbind stm o => Sys2Proof.Machine.execMboxbind stm o s
  | .mboxfree stm m => Sys2Proof.Machine.execMboxfree stm m s
  | .specflush stm all handle => Sys2Proof.Machine.execSpecflush stm all handle s
  | .tdecl stm o => Sys2Proof.Machine.execTdecl stm o s
  | .tuse stm uses => Sys2Proof.Machine.execTuse stm uses s
  | .trecipe stm o => Sys2Proof.Machine.execTrecipe stm o s
  | .trelease stm handle => Sys2Proof.Machine.execTrelease stm handle s
  | .tpin stm tier handle => Sys2Proof.Machine.execTpin stm tier handle s
  | .tunpin stm handle => Sys2Proof.Machine.execTunpin stm handle s
  | .tquery stm handle result => Sys2Proof.Machine.execTquery stm handle result s
  | .scan stm o => Sys2Proof.Machine.execScan stm o s
  | .texport stm o => Sys2Proof.Machine.execTexport stm o s
  | .trevoke stm w => Sys2Proof.Machine.execTrevoke stm w s
  | .droopStretch n => Sys2Proof.Machine.execDroopStretch n s
  | .powerUp => Sys2Proof.Machine.execPowerUp s
  | .cxlReset => Sys2Proof.Machine.execCxlReset s
  | .cxlLinkLoss => Sys2Proof.Machine.execCxlLinkLoss s
  | .fwgo => Sys2Proof.Machine.execFwgo s
  | .reset => Sys2Proof.Machine.execReset s
  | .training => Sys2Proof.Machine.execTraining s
  | .thermalShutdown => Sys2Proof.Machine.execThermalShutdown s
  | .powerLimitThrottle => Sys2Proof.Machine.execPowerLimitThrottle s
  | .serviceSlot => Sys2Proof.Machine.execServiceSlot s
  | .bundleIssue => Sys2Proof.Machine.execBundleIssue s
  | .resultWriteback => Sys2Proof.Machine.execResultWriteback s
  | .landing => Sys2Proof.Machine.execLanding s
  | .planeFillLanding => Sys2Proof.Machine.execPlaneFillLanding s
  | .windowRowLanding => Sys2Proof.Machine.execWindowRowLanding s
  | .copyQueueAccept => Sys2Proof.Machine.execCopyQueueAccept s
  | .fenceWaitEnd => Sys2Proof.Machine.execFenceWaitEnd s
  | .syncRequestAccept => Sys2Proof.Machine.execSyncRequestAccept s
  | .waitaTimeout => Sys2Proof.Machine.execWaitaTimeout s
  | .monitorCancelAck => Sys2Proof.Machine.execMonitorCancelAck s
  | .pairLineMeet => Sys2Proof.Machine.execPairLineMeet s
  | .haltComplete => Sys2Proof.Machine.execHaltComplete s
  | .preemptRequest => Sys2Proof.Machine.execPreemptRequest s
  | .preemptLand => Sys2Proof.Machine.execPreemptLand s
  | .contextImageWrite => Sys2Proof.Machine.execContextImageWrite s
  | .taskResume => Sys2Proof.Machine.execTaskResume s
  | .taskPlace => Sys2Proof.Machine.execTaskPlace s
  | .launchComplete => Sys2Proof.Machine.execLaunchComplete s
  | .phaseCommit => Sys2Proof.Machine.execPhaseCommit s
  | .rollback => Sys2Proof.Machine.execRollback s
  | .hbmRequestSend => Sys2Proof.Machine.execHbmRequestSend s
  | .scanComplete => Sys2Proof.Machine.execScanComplete s
  | .flitReplay => Sys2Proof.Machine.execFlitReplay s
  | .discardInterval => Sys2Proof.Machine.execDiscardInterval s
  | .remoteRequest => Sys2Proof.Machine.execRemoteRequest s
  | .remoteReply => Sys2Proof.Machine.execRemoteReply s
  | .remoteTimeout => Sys2Proof.Machine.execRemoteTimeout s
  | .revokeEffect => Sys2Proof.Machine.execRevokeEffect s
  | .revokeDrainDone => Sys2Proof.Machine.execRevokeDrainDone s
  | .windowQuarantineEnd => Sys2Proof.Machine.execWindowQuarantineEnd s
  | .cNop => Sys2Proof.Machine.execCNop s
  | .sNop => Sys2Proof.Machine.execSNop s
  | .aNop => Sys2Proof.Machine.execANop s
  | .fNop => Sys2Proof.Machine.execFNop s
  | .xNop => Sys2Proof.Machine.execXNop s
  | .vNop => Sys2Proof.Machine.execVNop s
  | .mNop => Sys2Proof.Machine.execMNop s

end Sys2Proof.Machine
end

