-- ==== Sys2Proof/Machine/Run.lean ====
section
/-! DEFINITION. Which event happens next (log 1): what the outside world has set down, else what an agent of the device can
do, and where several can, a free choice (spec/15_die_clocks_errors.md R443). -/
namespace Sys2Proof.Machine

/-- A turn is taken. -/
def State.take (s : State) (t : Turn) : Host.Outcome State Fault Refusal :=
  match t with
  | .event u i => exec i { s with unit := u }
  | .streamFault st ctx code => .next (s.streamFault st ctx code)

/-- One of several turns, by a free choice. -/
def State.choose (s : State) (ts : List Turn) : Host.Outcome State Fault Refusal :=
  match ts[Config.choose s.free % ts.length]? with
  | some t => { s with free := s.free + 1 }.take t
  | none => .next s

/-- A step of the device's own agents. -/
def State.autonomous (s : State) : Host.Outcome State Fault Refusal :=
  match s.turns with
  | [] => .next s
  | [t] => s.take t
  | ts => s.choose ts

/-- An item of the agenda happens. A device without power does nothing but power up. -/
def State.fromOutside (s : State) (u : Nat) (i : Instr) : Host.Outcome State Fault Refusal :=
  if outside i && (s.powered || i == .powerUp) then exec i { s with unit := u } else .next s

/-- Bits of a granule's stored cell flip. -/
def State.flipCell (s : State) (r : Rec) (g : Nat) (x : Flaw) : State :=
  let hit (c : HbmCell) : HbmCell := { c with cipher := c.cipher ^^^ x.bits, flaw := c.flaw.with_ x }
  match r.cellAt g with
  | some (true, k, c) => s.setCell k c ((Store.get none (s.stackAt k).cells c).map hit)
  | some (false, _, i) => s.setSpill i ((Store.get none s.spill i).map hit)
  | none => s

/-- Stored bits flip by themselves (spec/15 R348): by the distance of a bit from the start of its unit. -/
def State.strike (s : State) (at_ : Strike) (flips : List Nat) : State :=
  let x : Flaw := ⟨flips, false, false, false⟩
  match at_ with
  | .own h u => s.mapCoreAt h fun c => c.mapFlaw u (·.with_ x)
  | .l2 q w =>
    (match Store.get none (s.squareAt q).lines w with
     | some l => s.setSquare q ((s.squareAt q).put w (some { l with flaw := l.flaw.with_ x }))
     | none => s)
  | .side d w =>
    (match Store.get none (s.dieAt d).side w with
     | some l => s.sidePut d w (some { l with flaw := l.flaw.with_ x })
     | none => s)
  | .gran ctx h g =>
    (match s.recAt ctx h with
     | some r =>
       let y := if r.inPool then x else x.granule
       (s.setHome r g ((Store.get Flaw.clean r.bad g).with_ y)).flipCell r g y
     | none => s)
  | .word d i =>
    s.mapDie d fun y =>
      let w := Store.get SWord.init y.words i
      { y with words := Store.set SWord.init y.words i { w with flaw := w.flaw.with_ x } }
  | .sync d space i part => s.mapDie d fun y => y.mapFlaw (space, i, part) (·.with_ x)

/-- The upsets whose time has come. -/
def State.struck (s : State) : State :=
  match s.upsets with
  | [] => s
  | (0, u, fs) :: rest => { s with upsets := rest }.strike u fs
  | (n + 1, u, fs) :: rest => { s with upsets := (n, u, fs) :: rest }

/-- A packet that arrives at a link whose buffer is full waits with its sender (R429). -/
def State.linkFull (s : State) (u : Nat) (i : Instr) : Bool := match i with | .packetReceive _ => s.linkStalls u | _ => false

/-- One step of the machine: the next item of the agenda when its time has come, else a step of the device's own. -/
def State.advance (s0 : State) : Host.Outcome State Fault Refusal :=
  let s := s0.struck
  match s.agenda with
  | [] => s.autonomous
  | (0, u, i) :: rest => if s.linkFull u i then s.autonomous else { s with agenda := rest }.fromOutside u i
  | (n + 1, u, i) :: rest => { s with agenda := (n, u, i) :: rest }.autonomous

/-! ## Placing an instruction -/

/-- The syllables of a bundle that holds one table word in the slot that its decoding takes (R46, R49). -/
def wordBundle (nbits w : Nat) : List Nat :=
  let sl := match decodeTableSlot nbits w with | some e => e.1 | none => .c
  let ws := tableWords nbits w
  (Header.enc [sl] 0 true true :: ws) ++ List.replicate (15 - ws.length) 0

/-- The hearth in focus runs a task whose code is one bundle with a table word. -/
def Core.withWord (c : Core) (nbits w : Nat) : Core :=
  { c with mode := .running, code := { Code.empty with words := wordBundle nbits w }, seq := { Seq.init with pc := 0x100, from_ := 0x100 } }

end Sys2Proof.Machine
end

