-- ==== Sys2Proof/Machine/Step.lean ====
section
/-! DEFINITION. One step of the device, and the placing of an instruction where it issues next. -/
namespace Sys2Proof.Machine

/-- One step of the machine. -/
def step (s : State) : Host.Outcome State Fault Refusal := s.advance

/-- The state with one instruction in a bundle of its own, in the code of the hearth in focus, which runs it next (log 30).
It stands for the load of a program: a kernel launched by a host (log 30). -/
def State.withFetchWord (s : State) (nbits w : Nat) : State := { s with agenda := [], upsets := [], core := s.core.withWord nbits w }

end Sys2Proof.Machine
end

