-- ==== Sys2Proof/Certificates/Slice0/Obligations.lean ====
section
/-! DEFINITION. The statements for the provers, with the words they use. A statement that gives an instruction's effect
names the state before, the conditions on it and on the operands, and the next state. -/
open Sys2Proof Sys2Proof.Machine

namespace Sys2Proof.Machine

/-! ## Words of the statements -/

/-- The guard of an operation is true (R60). -/
abbrev State.on (s : State) (g : Nat) : Prop := s.core.readP g = true

/-- The step of an S-slot operation that puts scalar `v` in flight to x[d] and b1, of latency class `cls`. -/
def State.scalarOut (s : State) (cls d : Nat) (v : W64) : Host.Outcome State Fault Refusal :=
  .next (s.result .s cls [.x (physX s.core.loops.rot d) v] (some (v.setWidth 512)) 0).setViews

/-- The step of an S-slot operation that puts truth value `b` in flight to p[d] and b1. -/
def State.predOut (s : State) (d : Nat) (b : Bool) : Host.Outcome State Fault Refusal :=
  .next (s.result .s 0 [.p (physP s.core.loops.rot d) b] (some (if b then 1 else 0)) 0).setViews

/-- The step of an A-slot operation that puts writes in flight, with the new VAL for b2. -/
def State.addrOut (s : State) (val : W64) (effs : List Eff) : Host.Outcome State Fault Refusal :=
  .next (s.result .a 3 effs (some (val.setWidth 512)) 0).setViews

end Sys2Proof.Machine

namespace Sys2Proof.Machine

/-- A vector source can be read: its register holds no poison, or its latch is valid (R56, R68, R348). -/
abbrev State.vReady (s : State) (n : Nat) : Prop :=
  if n < 1024 then s.core.cause (.v (physV s.core.loops.rot n)) = none else (s.core.readLatch (n - 1024)).valid = true

/-- The value of a vector source (R56). -/
def State.vSrc (s : State) (n : Nat) : V512 := if n < 1024 then s.core.readV n else (s.core.readLatch (n - 1024)).val

/-- A scalar source of a long operation can be read (R68). -/
abbrev State.xReady (s : State) (n : Nat) : Prop := 1024 ≤ n → (s.core.readLatch (n - 1024)).valid = true

/-- The value of a scalar source of a long operation (R56). -/
def State.xSrc (s : State) (n : Nat) : W64 :=
  if n < 1024 then s.core.readX n else (s.core.readLatch (n - 1024)).val.setWidth 64

/-- An address register plus a displacement is the scratchpad offset `x`, aligned and inside the scratchpad (R21, R154,
R227). -/
abbrev AReg.reach (a : AReg) (disp : Int) (len align x : Nat) : Prop :=
  a.int + disp = x ∧ x + len ≤ padBytes ∧ x % align = 0 ∧ a.ringOver = false

/-- Places of the scratchpad can be read through a view: no bank of theirs is in the other view's state, no pending
window row covers them, and nothing marks or poisons them (R160, R249, R316, R348). -/
abbrev State.padReady (s : State) (v : View) (places : List Nat) : Prop :=
  s.core.pad.clash v places = none ∧ s.core.pendingRow places = none ∧ s.core.rowMark places = none ∧
    s.core.padCause places = none

/-- Memory with bytes written at some places in order. -/
def Memory.puts (m : Memory) (places : List Nat) (bytes : List Byte) : Memory :=
  (places.zip bytes).foldl (fun m e => m.write e.1 e.2) m

/-- What no operation that only stores to the scratchpad changes: registers, results in flight, loops, the program
counter, flags, trap registers, stream registers, flues and the matrix array. -/
def State.keepsTask (s t : State) : Prop :=
  t.core.regs = s.core.regs ∧ t.core.fly = s.core.fly ∧ t.core.loops = s.core.loops ∧ t.core.seq = s.core.seq ∧
    t.core.st.flags = s.core.st.flags ∧ t.core.trap = s.core.trap ∧ t.core.q = s.core.q ∧ t.core.flue = s.core.flue ∧
    t.core.mat = s.core.mat

/-- The frame of a store: the task's other state stands, and every byte outside the stored places reads as before. -/
def State.storesAt (s t : State) (places : List Nat) (bytes : List Byte) : Prop :=
  t.core.pad.mem = s.core.pad.mem.puts places bytes ∧ s.keepsTask t ∧
    ∀ a, a ∉ places → t.core.pad.mem.read a = s.core.pad.mem.read a

/-- A record may be used at issue: the task belongs to its recipe's re-issue, or no move holds it and it is neither away in a
fixed-timing context nor failed (R229, R375, R379, R381). -/
abbrev State.recReady (s : State) (r : Rec) : Prop :=
  s.rebuilding r = true ∨ (r.moving = false ∧ (s.fixed && r.away) = false ∧ r.rfail = false)

/-- A tensor of the task can be named at issue: the task finds its record, and the record may be used (R228, R388). -/
abbrev State.tensorReady (s : State) (h : Nat) (r : Rec) : Prop :=
  h < 2 ^ 20 ∧ s.recFor s.core.task.launch s.core.task.ctx h = some r ∧ s.recReady r

end Sys2Proof.Machine

/-! ## The S slot -/

/-- Each three-register operation computes the value that R108 gives it and puts it in flight to x[D] and b1; the
quotients and remainders are in `DivisionNeverTraps`. -/
def Obligations.ScalarArithmeticResults : Prop :=
  ∀ (o : S3) (s : State), s.on o.g →
    let a := o.src2 s.core
    let b := o.src3 s.core
    exec (.add o) s = s.scalarOut 0 o.f1 (a + b) ∧
    exec (.sub o) s = s.scalarOut 0 o.f1 (a - b) ∧
    exec (.mul o) s = s.scalarOut 1 o.f1 (a * b) ∧
    exec (.mulhs o) s = s.scalarOut 1 o.f1 (BitVec.ofInt 64 (a.toInt * b.toInt / 2 ^ 64)) ∧
    exec (.mulhn o) s = s.scalarOut 1 o.f1 (BitVec.ofNat 64 (a.toNat * b.toNat / 2 ^ 64)) ∧
    exec (.and o) s = s.scalarOut 0 o.f1 (a &&& b) ∧
    exec (.or o) s = s.scalarOut 0 o.f1 (a ||| b) ∧
    exec (.xor o) s = s.scalarOut 0 o.f1 (a ^^^ b) ∧
    exec (.andn o) s = s.scalarOut 0 o.f1 (a &&& ~~~b) ∧
    exec (.shl o) s = s.scalarOut 0 o.f1 (a <<< (b.toNat % 64)) ∧
    exec (.shrn o) s = s.scalarOut 0 o.f1 (a >>> (b.toNat % 64)) ∧
    exec (.shrs o) s = s.scalarOut 0 o.f1 (a.sshiftRight (b.toNat % 64)) ∧
    exec (.rotl o) s = s.scalarOut 0 o.f1 (a.rotateLeft (b.toNat % 64)) ∧
    exec (.mins o) s = s.scalarOut 0 o.f1 (if a.slt b then a else b) ∧
    exec (.maxs o) s = s.scalarOut 0 o.f1 (if a.slt b then b else a) ∧
    exec (.minn o) s = s.scalarOut 0 o.f1 (if a < b then a else b) ∧
    exec (.maxn o) s = s.scalarOut 0 o.f1 (if a < b then b else a) ∧
    exec (.clz o) s = s.scalarOut 0 o.f1 (BitVec.ofNat 64 (leadingZeros a.toNat 64)) ∧
    exec (.ctz o) s = s.scalarOut 0 o.f1 (BitVec.ofNat 64 (trailingZeros a.toNat 64)) ∧
    exec (.popc o) s = s.scalarOut 0 o.f1 (BitVec.ofNat 64 (popCount a.toNat 64))

/-- R109: division truncates towards zero, a remainder has the sign of the dividend, and no operand pair traps; the two
corner cases are the rule's. -/
def Obligations.DivisionNeverTraps : Prop :=
  ∀ (o : S3) (s : State), s.on o.g →
    let a := o.src2 s.core
    let b := o.src3 s.core
    exec (.divs o) s = s.scalarOut 2 o.f1
      (if b = 0 then BitVec.allOnes 64 else if a = BitVec.intMin 64 ∧ b = BitVec.allOnes 64 then BitVec.intMin 64
       else BitVec.ofInt 64 (a.toInt.tdiv b.toInt)) ∧
    exec (.divn o) s = s.scalarOut 2 o.f1 (if b = 0 then BitVec.allOnes 64 else BitVec.ofNat 64 (a.toNat / b.toNat)) ∧
    exec (.rems o) s = s.scalarOut 2 o.f1
      (if b = 0 then a else if a = BitVec.intMin 64 ∧ b = BitVec.allOnes 64 then 0
       else BitVec.ofInt 64 (a.toInt.tmod b.toInt)) ∧
    exec (.remn o) s = s.scalarOut 2 o.f1 (if b = 0 then a else BitVec.ofNat 64 (a.toNat % b.toNat))

/-- Immediates, bit fields, the 128-bit sum and SEL (R110, R111, R112, R114). R116: WID delivers the work identifier, RANK
the street rank or all ones before any FUSE. R113 and R115: compares and predicate logic write pN or pD, and b1 with 0
or 1. -/
def Obligations.ScalarFieldAndPredicateResults : Prop :=
  ((∀ (o : S2I) (s : State), s.on o.g →
      exec (.addi o) s = s.scalarOut 0 o.f1 (o.src2 s.core + BitVec.ofInt 64 o.simm)) ∧
    (∀ (o : S1I) (s : State), s.on o.g → exec (.movi o) s = s.scalarOut 0 o.f1 (BitVec.ofInt 64 o.simm)) ∧
    (∀ (o : S3X) (s : State), s.on o.g →
      let a := o.src2 s.core
      let b := o.src3 s.core
      let pos := o.x % 64
      let len := o.x / 64 % 64 + 1
      let field := a.toNat / 2 ^ pos % 2 ^ len
      exec (.bext o) s = s.scalarOut 0 o.f1
        (if o.x / 4096 % 2 = 1 then BitVec.ofInt 64 (signed len field) else BitVec.ofNat 64 field) ∧
      exec (.bins o) s = s.scalarOut 0 o.f1
        (BitVec.ofNat 64 (b.toNat % 2 ^ pos + a.toNat % 2 ^ len * 2 ^ pos + b.toNat / 2 ^ (pos + len) * 2 ^ (pos + len))) ∧
      exec (.sel o) s = s.scalarOut 0 o.f1 (if s.core.readP (o.x % 16) then a else b)) ∧
    (∀ (o : S3) (s : State), s.on o.g →
      let k := KSel.ofExt o.ext
      let pair (sel : Bool) (n : Nat) : Nat :=
        (s.core.readX (selNum sel n)).toNat + (s.core.readX (selNum sel (n + 1))).toNat * 2 ^ 64
      let v := (pair k.k2 o.f2 + pair k.k3 o.f3) % 2 ^ 128
      exec (.add128 o) s = .next (s.result .s 0
        [.x (physX s.core.loops.rot o.f1) (BitVec.ofNat 64 v),
         .x (physX s.core.loops.rot (o.f1 + 1)) (BitVec.ofNat 64 (v / 2 ^ 64))]
        (some (BitVec.ofNat 512 v)) 0).setViews)) ∧
  (∀ (o : S3) (s : State), s.on o.g →
      exec (.wid o) s = s.scalarOut 0 o.f1 s.core.task.wid ∧
      exec (.rank o) s = s.scalarOut 0 o.f1
        (s.core.link.rank.elim (BitVec.allOnes 64) (BitVec.ofNat 64))) ∧
  ((∀ (o : SC) (s : State), s.on o.g →
      let a := o.src2 s.core
      let b := o.src3 s.core
      exec (.cmpEq o) s = s.predOut o.p1 (decide (a = b)) ∧
      exec (.cmpNe o) s = s.predOut o.p1 (decide (a ≠ b)) ∧
      exec (.cmpLts o) s = s.predOut o.p1 (decide (a.toInt < b.toInt)) ∧
      exec (.cmpLes o) s = s.predOut o.p1 (decide (a.toInt ≤ b.toInt)) ∧
      exec (.cmpLtn o) s = s.predOut o.p1 (decide (a.toNat < b.toNat)) ∧
      exec (.cmpLen o) s = s.predOut o.p1 (decide (a.toNat ≤ b.toNat)) ∧
      exec (.cmpAny o) s = s.predOut o.p1 (decide (a &&& b ≠ 0)) ∧
      exec (.cmpNone o) s = s.predOut o.p1 (decide (a &&& b = 0))) ∧
    (∀ (o : SL) (s : State), s.on o.g →
      let a := s.core.readP o.p2
      let b := s.core.readP o.p3
      exec (.pand o) s = s.predOut o.p1 (a && b) ∧
      exec (.por o) s = s.predOut o.p1 (a || b) ∧
      exec (.pxor o) s = s.predOut o.p1 (a != b) ∧
      exec (.pnot o) s = s.predOut o.p1 (!a) ∧
      exec (.pmov o) s = s.predOut o.p1 a))

/-- R117, R118, R120, R121, R350: of the registers of the map, an MFS of one that it lets the level read delivers the
value of `readSys`, which is stated for the registers that hold state of the hearth, and an MTS of one that it lets
the level write puts the write at the end of the issue cycle, whose effect is stated for the loop registers, FLAGS and
SRKEY; the accesses that the map denies raise cause 0x04 or 0x01 whatever the guard, and an EINJ value that is not
taken raises cause 0x01. R118: outside privileged mode MFS and MTS of a trap register raise cause 0x04 with the
register's number, whatever the guard. The model's choices: which EINJ values are taken, ADDR being 0 and MODE other
than 0 (log 13), and the bundle's PC as the TRAPADDR of a cause 0x01 that a value raises (log 34). -/
def Obligations.SystemRegistersReadAndWrite : Prop :=
  (∀ (o : S1I) (s : State), sysRegOk o.i = true →
      let free := o.i = 0x000 ∨ o.i = 0x002 ∨ o.i = 0x003 ∨ o.i = 0x004 ∨ o.i = 0x006 ∨ o.i = 0x008 ∨ o.i = 0x009 ∨ o.i = 0x00A
      let hidden := (0x020 ≤ o.i ∧ o.i ≤ 0x02A) ∨ o.i = 0x050 ∨ o.i = 0x051
      let priv := s.core.priv = true
      let trap (cause addr : Nat) : Host.Outcome State Fault Refusal :=
        .next (s.takeTrap ⟨cause, addr, []⟩ 1 false s.core.seq 1 s.core.seq.pc)
      (s.on o.g → (priv ∨ ¬hidden) → exec (.mfs o) s = s.scalarOut 0 o.f1 (s.readSys o.i)) ∧
      (¬priv → hidden → exec (.mfs o) s = trap 0x04 o.i) ∧
      (s.on o.g → (free ∨ (priv ∧ (o.i = 0x012 ∨ o.i = 0x050))) → (o.i = 0x050 → einjOk (o.src1 s.core) = true) →
        exec (.mts o) s = .next (s.atEnd .s [.sys o.i (o.src1 s.core)] 0).setViews) ∧
      (s.on o.g → priv → o.i = 0x050 → einjOk (o.src1 s.core) = false → exec (.mts o) s = trap 0x01 s.core.seq.pc) ∧
      (¬priv → hidden ∨ o.i = 0x012 → exec (.mts o) s = trap 0x04 o.i) ∧
      (¬free → o.i ≠ 0x012 → o.i ≠ 0x050 → (priv ∨ ¬hidden) → exec (.mts o) s = trap 0x01 s.core.seq.pc) ∧
      (s.readSys 0x000 = BitVec.ofNat 64 s.core.st.flags ∧ s.readSys 0x001 = BitVec.ofNat 64 s.core.cycle ∧
        s.readSys 0x002 = BitVec.ofNat 64 s.core.loops.trip ∧ s.readSys 0x003 = BitVec.ofNat 64 s.core.loops.exe ∧
        s.readSys 0x004 = BitVec.ofNat 64 s.core.loops.rot ∧ s.readSys 0x005 = BitVec.ofNat 64 s.core.loops.stack.length ∧
        s.readSys 0x006 = BitVec.ofNat 64 s.core.loops.stg ∧ s.readSys 0x008 = s.core.st.srkey ∧
        s.readSys 0x009 = s.core.st.srctr.setWidth 64 ∧ s.readSys 0x00A = (s.core.st.srctr >>> 64).setWidth 64 ∧
        s.readSys 0x020 = s.core.trap.cause ∧ s.readSys 0x021 = s.core.trap.pc ∧ s.readSys 0x022 = s.core.trap.rpc ∧
        s.readSys 0x023 = s.core.trap.addr ∧ s.readSys 0x050 = s.core.st.einj) ∧
      (∀ (c : Core) (v : W64),
        (c.writeSys 0x002 v).loops = { c.loops with trip := v.toNat % 2 ^ 33 } ∧
        (c.writeSys 0x003 v).loops = { c.loops with exe := v.toNat % 2 ^ 34 } ∧
        (c.writeSys 0x004 v).loops = { c.loops with rot := v.toNat % 2 ^ 9 } ∧
        (∀ k, v.toNat % 2 ^ 4 = k → (c.writeSys 0x006 v).loops =
          { c.loops with stg := if k = 0 then 1 else if 9 ≤ k then 8 else k }) ∧
        (c.writeSys 0x008 v).st = { c.st with srkey := v } ∧
        (∀ i, c.st.fresh = 0 → c.st.kept = 0 → c.st.flags < 2 ^ 64 →
          bit (c.writeSys 0x000 v).st.flags i = (bit c.st.flags i && !bit v.toNat i)))) ∧
  (∀ (o : S1I) (s : State), s.core.priv = false → 0x020 ≤ o.i → o.i ≤ 0x02A →
      exec (.mfs o) s = .next (s.takeTrap ⟨0x04, o.i, []⟩ 1 false s.core.seq 1 s.core.seq.pc) ∧
      exec (.mts o) s = .next (s.takeTrap ⟨0x04, o.i, []⟩ 1 false s.core.seq 1 s.core.seq.pc))

/-! ## The A slot, the F slot and the X slot -/

/-- R244 with the stepping of R21: ALEA, ASET, ASTEP and ARING put their writes in flight; an exact value outside 64 bits
is cause 0x12. -/
def Obligations.AddressRegisterResults : Prop :=
  (∀ (o : S2I) (s : State), s.on o.g →
    let v : Int := (o.src2 s.core).toInt + o.simm
    (-(2 ^ 63) ≤ v ∧ v < 2 ^ 63 → exec (.alea o) s = s.addrOut (BitVec.ofInt 64 v) [.aval o.f1 (BitVec.ofInt 64 v)]) ∧
    (v < -(2 ^ 63) ∨ 2 ^ 63 ≤ v →
      exec (.alea o) s = .next (s.takeTrap ⟨0x12, o.f1, []⟩ 2 false s.core.seq 1 s.core.seq.pc))) ∧
  (∀ (o : S3) (s : State), s.on o.g →
    let a := o.src2 s.core
    let r := s.core.readA o.f1
    let d := (o.src3 s.core).toInt
    let lin := r.val.toInt + d
    let base : Int := r.rbase.toNat * 64
    let ring := base + (r.val.toInt - base + d).fmod (r.rlen.toNat * 64)
    exec (.aset o) s = s.addrOut a [.aval o.f1 a, .astep o.f1 ((o.src3 s.core).setWidth 32)] ∧
    (r.rlen = 0 → -(2 ^ 63) ≤ lin → lin < 2 ^ 63 →
      exec (.astep o) s = s.addrOut (BitVec.ofInt 64 lin) [.aval o.f1 (BitVec.ofInt 64 lin)]) ∧
    (r.rlen = 0 → lin < -(2 ^ 63) ∨ 2 ^ 63 ≤ lin →
      exec (.astep o) s = .next (s.takeTrap ⟨0x12, o.f1, []⟩ 2 false s.core.seq 1 s.core.seq.pc)) ∧
    (r.rlen ≠ 0 → exec (.astep o) s = s.addrOut (BitVec.ofInt 64 ring) [.aval o.f1 (BitVec.ofInt 64 ring)]) ∧
    exec (.aring o) s = s.addrOut r.val [.aring o.f1 (a.setWidth 16) ((a >>> 16).setWidth 16)])

/-- R246: a WOPEN whose tensor has rank 2 and whose slots fit opens the window with its first `n` fills in the copy queue,
and puts the ring of its address register in flight. R247, R248: WADV moves an open window's first row on by K and
queues fills of the rows that follow; WCLOSE closes it; both raise cause 0x13 for a window that is not open. The
model's choices (log 42): the element size and format of a window are those of the bank that holds its base when WOPEN
is accepted, and RLEN is the ring's length in units cut to 16 bits. -/
def Obligations.WindowsOpenAdvanceClose : Prop :=
  (∀ (o : S3X) (s : State) (r : Rec), s.on o.g →
      let n := bits o.x 0 2
      let cnt : Nat := bits o.x 2 11 + 1
      let d := bits o.x 13 10
      let h := (o.src2 s.core).toNat
      let base : Nat := (o.src3 s.core).toNat % 2 ^ 32
      let r0 := signed 32 ((o.src3 s.core).toNat / 2 ^ 32)
      let z := s.closeWin n
      let code := bfmtOf z.core.pad.bfmt base
      let size := winSize r code
      let w : Win := ⟨true, h, r0, cnt, size, base, d, [], []⟩
      let rows := (List.range cnt).map fun (i : Nat) => r0 + (i : Int)
      z.tensorReady h r → r.ext.length = 2 → base % 64 = 0 → base + cnt * size ≤ padBytes →
      ((List.range cnt).any fun i => bankOf (base + i * size) != bankOf (base + i * size + size - 1)) = false →
      (r.isMx && (List.range cnt).any fun i => bfmtOf z.core.pad.bfmt (base + i * size) == 0x80) = false → (z.fixed && d < r.worst) = false →
      z.core.pad.clashW .lin ((rows.map fun r => bankPlaces (w.slotBase r) w.size).flatten) = none →
      z.core.eng.cp.length < 32 →
      ∃ (t : State) (op : CopyOp), exec (.wopen o) s = .next t ∧
        t.core.eng.cp = z.core.eng.cp ++ [op] ∧ op.kind = .win n h rows z.core.pad.bfmt ∧
        t.core.win = Store.set Win.closed z.core.win n
          { w with fills := winFills r0 size (z.core.now + d) op.id z.core.priv cnt } ∧
        ∃ f : Flight, t.core.fly = z.core.fly ++ [f] ∧ f.slot = .a ∧
          f.effs = [.aval o.f1 (BitVec.ofNat 64 (w.slotBase r0)), .astep o.f1 (BitVec.ofNat 32 size),
            .aring o.f1 (BitVec.ofNat 16 (base / 64)) (BitVec.ofNat 16 (cnt * size / 64))]) ∧
  (∀ (o : S3) (s : State), s.on o.g →
      let w := Store.get Win.closed s.core.win o.f1
      let k := (o.src2 s.core).toNat
      (w.opened = false →
        exec (.wadv o) s = .next (s.takeTrap ⟨0x13, o.f1, []⟩ 2 false s.core.seq 1 s.core.seq.pc) ∧
        exec (.wclose o) s = .next (s.takeTrap ⟨0x13, o.f1, []⟩ 2 false s.core.seq 1 s.core.seq.pc)) ∧
      (w.opened = true →
        (∃ t : State, exec (.wclose o) s = .next t ∧ Store.get Win.closed t.core.win o.f1 = Win.closed ∧
          t.core.regs = s.core.regs ∧ t.core.fly = s.core.fly) ∧
        (k = 0 → exec (.wadv o) s = .next s.setViews) ∧
        (∀ r : Rec, 0 < k → k ≤ w.n → s.tensorReady w.handle r → (s.fixed && w.d < r.worst) = false →
          s.core.eng.cp.length < 32 →
          let rows := (List.range k).map fun (i : Nat) => w.r0 + w.n + (i : Int)
          s.core.pad.clashW .lin ((rows.map fun r => bankPlaces (w.slotBase r) w.size).flatten) = none →
          ∃ (t : State) (op : CopyOp) (x : Win), exec (.wadv o) s = .next t ∧ Store.get Win.closed t.core.win o.f1 = x ∧ x.r0 = w.r0 + k ∧
            x.opened = true ∧ t.core.eng.cp = s.core.eng.cp ++ [op] ∧
            op.kind = .win o.f1 w.handle rows s.core.pad.bfmt ∧
            t.core.regs = s.core.regs ∧ t.core.fly = s.core.fly)))

/-- R174, R175: FILL stores the address-bound bytes of its pattern and nothing else; FLCFG of a flue sets its formats and
empties it, and FLCFG of a bank sets the bank's format register. R172, R176, R177: FLPUSH puts one entry that lands in
the next cycle into a flue with room; FLPOP takes the oldest landed entry and puts its converted value in flight to vD
and b7. -/
def Obligations.FlueOperations : Prop :=
  ((∀ (o : S2I) (s : State) (x : Nat), s.on o.g →
      let n : Nat := o.imm + 1
      (s.core.readA o.f1).reach 0 n 1 x → x / 64 = (x + n - 1) / 64 →
      s.core.pad.clashW .lin (placesOf x n) = none →
      ∃ t : State, exec (.fill o) s = .next t ∧
        s.storesAt t (placesOf x n)
          ((List.range n).map fun k => BitVec.ofNat 8 ((o.src2 s.core).toNat / 2 ^ (8 * ((x + k) % 8))))) ∧
    (∀ (o : S3X) (s : State), s.on o.g →
      (o.f1 < 8 → exec (.flcfg o) s =
        .next (s.mapCore fun c => { c with cfg := none }.setFlue o.f1 ⟨o.x % 256, o.x / 256 % 256, []⟩).setViews) ∧
      (8 ≤ o.f1 → exec (.flcfg o) s = .next (s.mapCore fun c =>
        { c with cfg := none, pad := { c.pad with bfmt := Store.set 0x80 c.pad.bfmt (o.f1 - 32) (o.x % 256) } }).setViews))) ∧
  ((∀ (o : S3X) (s : State), s.on o.g → s.core.flueRoom o.f1 1 = true →
      (bit o.x 10 = false → s.vReady (o.x % 1024) →
        exec (.flpush o) s =
          .next (s.pushFlue o.f1 (s.core.now + 1) ((s.core.flueOf o.f1).entry (s.vSrc (o.x % 1024)))).setViews) ∧
      (∀ (e : Elem) (l : List Elem) (v : V512), bit o.x 10 = true → s.core.qOf (o.x % 16) = e :: l → e.landed = true →
        e.data = some v → e.mark = none →
        let z := s.mapCore fun c => (c.setQ (o.x % 16) l).took
        exec (.flpush o) s = .next (z.pushFlue o.f1 (z.core.now + 1) ((z.core.flueOf o.f1).entry v)).setViews)) ∧
    (∀ (o : S3X) (s : State) (e : Elem) (l : List Elem) (v : V512), s.on o.g → (s.core.flueOf o.f1).q = e :: l →
      e.landed = true → e.data = some v → e.mark = none →
      let f := s.core.flueOf o.f1
      let z := s.mapCore fun c => (c.setFlue o.f1 { f with q := l }).took
      let r := flueConvert f.source f.sink v.toNat
      exec (.flpop o) s = .next (z.result .f 14 [.v (physV s.core.loops.rot (o.x % 1024)) (BitVec.ofNat 512 r.1)]
        (some (BitVec.ofNat 512 r.1)) r.2).setViews))

/-- R227: the stores write the low bytes of their source at the places of their view and leave every other byte alone. -/
def Obligations.ScratchpadStores : Prop :=
  (∀ (o : Long) (s : State) (x : Nat), s.on o.g → s.xReady o.sb →
    let n : Nat := 2 ^ o.ty
    (s.core.readA o.sa).reach (signed 10 o.sc * n) n n x → s.core.pad.clashW .lin (placesOf x n) = none →
    ∃ t : State, exec (.sts o) s = .next t ∧ s.storesAt t (placesOf x n) (toBytes n (s.xSrc o.sb).toNat)) ∧
  (∀ (o : Long) (s : State) (x : Nat), s.on o.g → s.vReady o.sb →
    (s.core.readA o.sa).reach (signed 10 o.sc * 64) 64 64 x → s.core.pad.clashW .lin (placesOf x 64) = none →
    ∃ t : State, exec (.vst o) s = .next t ∧ s.storesAt t (placesOf x 64) (toBytes 64 (s.vSrc o.sb).toNat)) ∧
  (∀ (o : Long) (s : State) (x : Nat), s.on o.g → s.vReady o.sb →
    (s.core.readA o.sa).reach (signed 10 o.sc * (swzSpan o).2) (swzSpan o).1 (swzSpan o).2 x →
    s.core.pad.clashW .swz (swzPlaces o x) = none →
    ∃ t : State, exec (.vstx o) s = .next t ∧
      s.storesAt t (swzPlaces o x) (toBytes (swzPlaces o x).length (s.vSrc o.sb).toNat))

/-- R227: the loads. LDS and VLD read through the linear view, VLDX a row or a column through the swizzled view; the value
goes in flight to its register and b3. R226, R227: an access outside the scratchpad or off its alignment raises cause
0x10 with the offset. The model's choice (log 41): TRAPADDR of cause 0x10 is the offset modulo 2^64 where it is
negative. -/
def Obligations.ScratchpadLoadsAndRanges : Prop :=
  ((∀ (o : Long) (s : State) (x : Nat), s.on o.g →
      let n : Nat := 2 ^ (o.ty % 4)
      (s.core.readA o.sa).reach (signed 10 o.sc * n) n n x → s.padReady .lin (placesOf x n) →
      let w := ofBytes (s.core.pad.mem.readN x n)
      let v : W64 := if o.ty < 4 then BitVec.ofInt 64 (signed (8 * n) w) else BitVec.ofNat 64 w
      exec (.lds o) s = .next (s.result .x 4 (if o.wbs then [] else [.x (physX s.core.loops.rot o.dst) v])
        (some (v.setWidth 512)) 0).setViews) ∧
    (∀ (o : Long) (s : State) (x : Nat), s.on o.g →
      (s.core.readA o.sa).reach (signed 10 o.sc * 64) 64 64 x → s.padReady .lin (placesOf x 64) →
      let v := BitVec.ofNat 512 (ofBytes (s.core.pad.mem.readN x 64))
      exec (.vld o) s = .next (s.result .x 4 (if o.wbs then [] else [.v (physV s.core.loops.rot o.dst) v]) (some v) 0).setViews) ∧
    (∀ (o : Long) (s : State) (x : Nat), s.on o.g →
      (s.core.readA o.sa).reach (signed 10 o.sc * (swzSpan o).2) (swzSpan o).1 (swzSpan o).2 x →
      s.padReady .swz (swzPlaces o x) →
      let v := BitVec.ofNat 512 (ofBytes ((swzPlaces o x).map s.core.pad.mem.read))
      exec (.vldx o) s = .next (s.result .x 4 (if o.wbs then [] else [.v (physV s.core.loops.rot o.dst) v]) (some v) 0).setViews)) ∧
  (∀ (o : Long) (s : State), s.on o.g →
      let x := (s.core.readA o.sa).int + signed 10 o.sc * 64
      (x < 0 ∨ (padBytes : Int) < x + 64 ∨ x % 64 ≠ 0) →
      exec (.vld o) s = .next (s.takeTrap ⟨0x10, (x % 2 ^ 64).toNat, []⟩ 3 false s.core.seq 1 s.core.seq.pc) ∧
      (s.vReady o.sb → exec (.vst o) s =
        .next (s.takeTrap ⟨0x10, (x % 2 ^ 64).toNat, []⟩ 3 false s.core.seq 1 s.core.seq.pc)))

/-- R230, R231, R238: TLD, TST and TPREF of a resident tensor enter the copy queue; TLD reserves its elements. R238: a
TPREF that the checks of R228 or R229 would stop does nothing. R234, R235, R440: a TCOPY whose descriptor passes every
check enters the copy queue, or the collective queue where a side is remote, with the descriptor's fields. The model's
choices: a TPREF resolves and checks its first 8 bits alone (log 41), and the descriptor's checks stand in the order
of log 99. -/
def Obligations.TensorTransfersQueue : Prop :=
  (∀ (o : Long) (s : State) (r : Rec), s.on o.g → s.xReady o.sa →
      let h := (s.xSrc o.sa).toNat
      let c := s.core.pairCoords o.sb
      let k : Nat := o.ty + 1
      let d : Nat := o.sc % 256 * 4
      s.tensorReady h r → s.core.eng.cp.length < 32 →
      (∀ off, r.offsetOf c (512 * k) = some off → off % 64 = 0 → (s.fixed && d < r.worst) = false →
        s.core.qRoom o.dst k = true →
        ∃ (t : State) (op : CopyOp), exec (.tld o) s = .next t ∧ t.core.eng.cp = s.core.eng.cp ++ [op] ∧
          op.kind = .tld o.dst r.handle off k ∧ op.hint = o.md ∧
          t.core.q = Store.set [] s.core.q o.dst (s.core.reserve (s.core.qOf o.dst) op.req (s.core.now + d) k) ∧
          t.core.regs = s.core.regs ∧ t.core.fly = s.core.fly ∧ t.core.pad.mem = s.core.pad.mem) ∧
      (∀ off, r.offsetOf c (512 * k) = some off → off % 64 = 0 → (∀ i < k, s.vReady (o.sc + i)) →
        ∃ (t : State) (op : CopyOp), exec (.tst o) s = .next t ∧ t.core.eng.cp = s.core.eng.cp ++ [op] ∧
          op.kind = .tst r.handle off ((List.range k).map fun i => s.vSrc (o.sc + i)) ∧ op.hint = o.md ∧
          t.core.q = s.core.q ∧ t.core.regs = s.core.regs ∧ t.core.fly = s.core.fly ∧ t.core.pad.mem = s.core.pad.mem) ∧
      (∀ off, r.offsetOf c 8 = some off →
        ∃ (t : State) (op : CopyOp), exec (.tpref o) s = .next t ∧ t.core.eng.cp = s.core.eng.cp ++ [op] ∧
          op.kind = .tpref r.handle off (min (2 ^ o.ty * 4096) (r.bytes - off)) ∧ op.hint = o.md ∧
          t.core.q = s.core.q ∧ t.core.regs = s.core.regs ∧ t.core.fly = s.core.fly ∧ t.core.pad.mem = s.core.pad.mem)) ∧
  (∀ (o : Long) (s : State), s.on o.g → s.xReady o.sa →
      (s.recFor s.core.task.launch s.core.task.ctx (s.xSrc o.sa).toNat = none ∨
        ∃ r, s.recFor s.core.task.launch s.core.task.ctx (s.xSrc o.sa).toNat = some r ∧
          (r.offsetOf (s.core.pairCoords o.sb) 8 = none ∨
            (s.rebuilding r = false ∧ ((s.fixed && r.away) = true ∨ r.rfail = true)))) →
      exec (.tpref o) s = .next s.setViews) ∧
  (∀ (o : Long) (s : State), s.on o.g → s.vReady o.sa →
      let v := (s.vSrc o.sa).toNat
      let p := s.core.readA o.sb
      let c := CopyDesc.of v p.int (s.core.readA o.sc).int s.core.pad.bfmt
      let src := if c.srcTensor && !c.srcRemote then s.recFor s.core.task.launch s.core.task.ctx c.shandle else none
      let dst := if c.dstTensor && !c.dstRemote then s.recFor s.core.task.launch s.core.task.ctx c.dhandle else none
      let ready (x : Option Rec) : Prop := ∀ r, x = some r → s.recReady r
      let q := if c.remote.isSome then s.core.eng.cl else s.core.eng.cp
      c.illegal v src dst = false →
      ((c.srcTensor && !c.srcRemote) = true → src.isSome = true) →
      ((c.dstTensor && !c.dstRemote) = true → dst.isSome = true) →
      ((c.srcPad || c.dstPad) && p.ringOver) = false →
      (List.range c.rows).findSome? (c.rowBad src dst) = none → ready src → ready dst →
      (∀ r, c.kind = 4 → src = some r → (s.fixed && c.d < r.worst) = false) →
      (∀ r, c.remote = some r → s.fixed = false ∧ s.pathOk s.core.task.ctx r = true) →
      (c.srcPad = true → s.core.pad.clash .lin (c.padPlaces c.soff fun r =>
        sideWidth (c.rowSides src dst r).1 (c.rowSides src dst r).2) = none) →
      (c.dstPad = true → s.core.pad.clashW .lin (c.padPlaces c.doff fun r =>
        sideWidth (c.rowSides src dst r).2 (c.rowSides src dst r).1) = none) →
      (c.kind = 4 → s.core.flueRoom c.flue c.count = true) → q.length < 32 →
      ∃ (t : State) (op : CopyOp), exec (.tcopy o) s = .next t ∧ op.kind = .copy c ∧ op.hint = o.md ∧
        (if c.remote.isSome then t.core.eng.cl = s.core.eng.cl ++ [op] ∧ t.core.eng.cp = s.core.eng.cp
         else t.core.eng.cp = s.core.eng.cp ++ [op] ∧ t.core.eng.cl = s.core.eng.cl) ∧
        t.core.regs = s.core.regs ∧ t.core.fly = s.core.fly ∧ t.core.pad.mem = s.core.pad.mem)

/-- R240 to R243: FENCE, QFENCE and VJOIN make the hearth wait for what they name; a QFENCE of an empty mask does nothing. -/
def Obligations.FencesWait : Prop :=
  ∀ (o : Long) (s : State), s.on o.g →
    (s.core.raceDue 0x1F = none → s.unchecked 0x1F = false →
      ∃ t : State, exec (.fence o) s = .next t ∧ s.keepsTask t ∧ t.core.pad.mem = s.core.pad.mem ∧
        t.core.wait = s.fenceWait 0x1F [] (if 3 ≤ o.ty then 256 else 0) (decide (3 ≤ o.ty) && bit o.sc 1)
          (decide (3 ≤ o.ty) && bit o.sc 0) none none) ∧
    (o.sc = 0 → exec (.qfence o) s = .next s.setViews) ∧
    (o.sc ≠ 0 → s.core.raceDue o.sc = none → s.unchecked o.sc = false →
      ∃ t : State, exec (.qfence o) s = .next t ∧ s.keepsTask t ∧ t.core.pad.mem = s.core.pad.mem ∧
        t.core.wait = s.fenceWait o.sc [] 0 false false none none) ∧
    (s.xReady o.sa →
      let m := (s.xSrc o.sa).toNat % 2 ^ 32
      let ops := (s.core.eng.cp ++ s.core.eng.cl).filter fun x => (s.opBanks x).any (bit m)
      ∃ (t : State) (padded : Nat), exec (.vjoin o) s = .next t ∧ s.keepsTask t ∧ t.core.pad.mem = s.core.pad.mem ∧
        t.core.wait = .fence (ops.map (·.id)) [] 0 padded false false m none none ∧
        (∀ x ∈ ops, s.core.paddedOp x < padded) ∧
        ∀ e ∈ s.core.fillsIn m, s.core.now + s.core.until_ e.2.hand e.2.land < padded)

/-! ## Atomics at issue -/

namespace Sys2Proof.Machine

/-- The checks of R294 pass for an atomic of opcode `op` on an address: its space and allocation, no AFADD in a
deterministic context, the landing distance and the room of a result, no race report at a release, and fewer than 32
requests outstanding. -/
abbrev State.atomicReady (s : State) (o : Long) (op space : Nat) (a : W64) : Prop :=
  s.syncOk s.core.task.ctx space a = true ∧ (op = 0x2A → s.det = false) ∧
    (bit o.sc 10 = true → (s.fixed = true → syncLeast s.die a ≤ o.sc % 256 * 4) ∧ s.core.qRoom o.dst 1 = true) ∧
    (isRelease o.md = true → s.core.raceDue 0x1F = none ∧ s.unchecked 0x1F = false) ∧
    (s.reqs.filter fun r => r.hearth == s.coreId).length < 32

/-- The step of an accepted atomic: one new request with its operands, held back while its release side waits; the
registers and memory of the hearth stand. -/
def State.atomicSent (s : State) (i : Instr) (o : Long) (op : Nat) (a b b1 : W64) : Prop :=
  ∃ (t : State) (r : SyncReq), exec i s = .next t ∧ t.reqs = s.reqs ++ [r] ∧ r.hearth = s.coreId ∧ r.op = op ∧
    r.addr = a ∧ r.b = b ∧ r.b1 = b1 ∧ r.uns = bit o.sc 8 ∧ r.scope = o.ty ∧ r.order = o.md ∧ r.done = false ∧
    r.ret = (if bit o.sc 10 then some o.dst else none) ∧ (r.sent = !isRelease o.md) ∧
    t.core.regs = s.core.regs ∧ t.core.fly = s.core.fly ∧ t.core.pad.mem = s.core.pad.mem

end Sys2Proof.Machine

/-- R292 to R299: an atomic that passes the checks of R294 becomes one outstanding request to its sync engine. R293, R294:
an AFADD in a deterministic context raises cause 0x19 with the sync address, and an address outside the context's
allocation raises cause 0x10 first. -/
def Obligations.AtomicsBecomeRequests : Prop :=
  (∀ (o : Long) (s : State), s.on o.g → s.xReady o.sa →
      let a := s.xSrc o.sa
      (s.xReady o.sb →
        let b := s.xSrc o.sb
        (s.atomicReady o 0x20 0 a → s.atomicSent (.aadd o) o 0x20 a b 0) ∧
        (s.atomicReady o 0x21 0 a → s.atomicSent (.amin o) o 0x21 a b 0) ∧
        (s.atomicReady o 0x22 0 a → s.atomicSent (.amax o) o 0x22 a b 0) ∧
        (s.atomicReady o 0x23 0 a → s.atomicSent (.aand o) o 0x23 a b 0) ∧
        (s.atomicReady o 0x24 0 a → s.atomicSent (.aor o) o 0x24 a b 0) ∧
        (s.atomicReady o 0x25 0 a → s.atomicSent (.axor o) o 0x25 a b 0) ∧
        (s.atomicReady o 0x26 0 a → s.atomicSent (.axchg o) o 0x26 a b 0) ∧
        (s.atomicReady o 0x29 0 a → s.atomicSent (.ast o) o 0x29 a b 0) ∧
        (s.atomicReady o 0x2A 0 a → s.atomicSent (.afadd o) o 0x2A a b 0) ∧
        (s.atomicReady o 0x2C 2 a → s.atomicSent (.notify o) o 0x2C a b 0) ∧
        (s.atomicReady o 0x2D 1 a → s.atomicSent (.dqpush o) o 0x2D a b 0) ∧
        (s.atomicReady o 0x30 3 a → s.atomicSent (.dcnt o) o 0x30 a b 0)) ∧
      (s.atomicReady o 0x27 0 a →
        s.atomicSent (.acas o) o 0x27 a (s.core.readX o.sb) (s.core.readX (o.sb + 1))) ∧
      (s.atomicReady o 0x28 0 a → s.atomicSent (.ald o) o 0x28 a 0 0) ∧
      (s.atomicReady o 0x2B 0 a →
        s.atomicSent (.waita o) o 0x2B a (s.core.readX o.sb) (s.core.readX (o.sb + 1))) ∧
      (s.atomicReady o 0x2E 1 a → s.atomicSent (.dqpop o) o 0x2E a 0 0) ∧
      (s.atomicReady o 0x2F 1 a → s.atomicSent (.dqsteal o) o 0x2F a 0 0)) ∧
  (∀ (o : Long) (s : State), s.on o.g → s.xReady o.sa → s.xReady o.sb →
      (s.syncOk s.core.task.ctx 0 (s.xSrc o.sa) = false →
        exec (.afadd o) s = .next (s.takeTrap ⟨0x10, (s.xSrc o.sa).toNat, []⟩ 3 false s.core.seq 1 s.core.seq.pc)) ∧
      (s.syncOk s.core.task.ctx 0 (s.xSrc o.sa) = true → s.det = true →
        exec (.afadd o) s = .next (s.takeTrap ⟨0x19, (s.xSrc o.sa).toNat, []⟩ 3 false s.core.seq 1 s.core.seq.pc)))

/-! ## The V slots -/

namespace Sys2Proof.Machine

/-- A merge can read the old destination where it must: some lane is off and the register is written (R180). -/
abbrev State.mergeReady (s : State) (o : Long) (all : Bool) : Prop := all = true ∨ o.wbs = true ∨ s.vReady o.dst

/-- The old destination of a merge. -/
def State.old (s : State) (o : Long) (all : Bool) : Nat := if all || o.wbs then 0 else (s.vSrc o.dst).toNat

/-- Every lane of width `w` is selected by the lane mask. -/
def State.allLanes (s : State) (o : Long) (w : Nat) : Bool := (List.range (512 / w)).all (bit (s.core.readM o.lm).toNat)

/-- A vector of lanes in flight from V0 to vD and b4, with the flags that the selected lanes raise: a lane that the mask
selects takes its value, another keeps the old one (R180, R181). -/
def State.lanesOut (s : State) (o : Long) (cls w : Nat) (lane : Nat → Nat × Nat) : Host.Outcome State Fault Refusal :=
  let m := (s.core.readM o.lm).toNat
  let old := s.old o (s.allLanes o w)
  let rs := (List.range (512 / w)).map fun i => if bit m i then lane i else (elemAt w old i, 0)
  let v := BitVec.ofNat 512 (packList w (rs.map Prod.fst))
  .next (s.result .v0 cls (if o.wbs then [] else [.v (physV s.core.loops.rot o.dst) v]) (some v)
    (orAll (rs.map Prod.snd))).setViews

/-- A vector whose lanes are all written, in flight from V0. -/
def State.vectorOut (s : State) (o : Long) (cls w : Nat) (lane : Nat → Nat × Nat) : Host.Outcome State Fault Refusal :=
  let rs := (List.range (512 / w)).map lane
  let v := BitVec.ofNat 512 (packList w (rs.map Prod.fst))
  .next (s.result .v0 cls (if o.wbs then [] else [.v (physV s.core.loops.rot o.dst) v]) (some v)
    (orAll (rs.map Prod.snd))).setViews

/-- A whole vector value in flight from V0. -/
def State.valueOut (s : State) (o : Long) (cls v flags : Nat) : Host.Outcome State Fault Refusal :=
  .next (s.result .v0 cls (if o.wbs then [] else [.v (physV s.core.loops.rot o.dst) (BitVec.ofNat 512 v)])
    (some (BitVec.ofNat 512 v)) flags).setViews

/-- A mask in flight from V0 to mD and b4: bit i is lane i's condition where the lane mask selects it, else 0. -/
def State.maskOut (s : State) (o : Long) (cls w : Nat) (lane : Nat → Bool × Nat) : Host.Outcome State Fault Refusal :=
  let m := (s.core.readM o.lm).toNat
  let rs := (List.range (512 / w)).map fun i => if bit m i then lane i else (false, 0)
  let v := packList 1 (rs.map fun r => ofBool r.1)
  .next (s.result .v0 cls (if o.wbs then [] else [.m o.dst (BitVec.ofNat 64 v)]) (some (BitVec.ofNat 512 v))
    (orAll (rs.map Prod.snd))).setViews

/-- SRCTR after a .rs operation: 16 more (R141). -/
def State.drawn (s : State) (o : Long) : State :=
  if o.md = 4 then s.mapCore fun c => { c with st := { c.st with srctr := c.st.srctr + 16 } } else s

/-- The rounding mode of a float operation and the random word of each lane (R138, R141). -/
def roundOf (o : Long) : Rnd := if o.md = 4 then .rs else (rndOf o.md).getD .rne
def State.word (s : State) (o : Long) (i : Nat) : Nat :=
  if o.md = 4 then srWord s.core.st.srkey.toNat s.core.st.srctr.toNat i else 0

end Sys2Proof.Machine

/-- Lanes are packed little-endian, the first lowest: lane i of a packed list is its element i (R178). R184, R185:
lane-wise integer arithmetic and logic under the lane mask. -/
def Obligations.IntegerLaneResults : Prop :=
  (∀ (w : Nat) (l : List Nat) (i : Nat), 0 < w → elemAt w (packList w l) i = (l[i]?).getD 0 % 2 ^ w) ∧
  (∀ (o : Long) (s : State), s.on o.g → s.vReady o.sa → s.vReady o.sb →
      let t := (intTy o.ty).getD .i8
      let w := t.width
      s.mergeReady o (s.allLanes o w) →
      let x (i : Nat) : Nat := elemAt w (s.vSrc o.sa).toNat i
      let y (i : Nat) : Nat := elemAt w (s.vSrc o.sb).toNat i
      let a (i : Nat) : Int := decodeInt t (x i)
      let b (i : Nat) : Int := decodeInt t (y i)
      let out (f : Nat → Int) : Host.Outcome State Fault Refusal := s.lanesOut o 5 w fun i => (wrap w (f i), 0)
      let raw (f : Nat → Nat) : Host.Outcome State Fault Refusal := s.lanesOut o 5 w fun i => (f i, 0)
      let sh (i : Nat) : Nat := if bit o.ci 6 then o.ci % 64 else y i % w
      exec (.vadd o) s = out (fun i => a i + b i) ∧
      exec (.vsub o) s = out (fun i => a i - b i) ∧
      exec (.vadds o) s = out (fun i => clampInt t.minInt t.maxInt (a i + b i)) ∧
      exec (.vsubs o) s = out (fun i => clampInt t.minInt t.maxInt (a i - b i)) ∧
      exec (.vmul o) s = out (fun i => a i * b i) ∧
      exec (.vmulh o) s = out (fun i => a i * b i / 2 ^ w) ∧
      exec (.vmin o) s = out (fun i => if a i < b i then a i else b i) ∧
      exec (.vmax o) s = out (fun i => if a i < b i then b i else a i) ∧
      exec (.vabs o) s = raw (fun i => if t.isSigned then wrap w (a i).natAbs else x i) ∧
      exec (.vneg o) s = out (fun i => 0 - a i) ∧
      exec (.vand o) s = raw (fun i => Nat.land (x i) (y i)) ∧
      exec (.vor o) s = raw (fun i => Nat.lor (x i) (y i)) ∧
      exec (.vxor o) s = raw (fun i => Nat.xor (x i) (y i)) ∧
      exec (.vclz o) s = raw (fun i => leadingZeros (x i) w) ∧
      exec (.vpopc o) s = raw (fun i => popCount (x i) w) ∧
      exec (.vshl o) s = raw (fun i => x i * 2 ^ sh i % 2 ^ w) ∧
      exec (.vshr o) s = raw (fun i => x i / 2 ^ sh i) ∧
      exec (.vsar o) s = raw (fun i => wrap w (signed w (x i) / 2 ^ sh i)))

/-- R184, R186, R187: the three-source product-sum, the compare and the select. R181, R200: the mask operations deliver
all 64 bits to mD, MPOP a count to xD. -/
def Obligations.IntegerSelectCompareAndMasks : Prop :=
  (∀ (o : Long) (s : State), s.on o.g → s.vReady o.sa → s.vReady o.sb →
      let t := (intTy o.ty).getD .i8
      let w := t.width
      let x (i : Nat) : Nat := elemAt w (s.vSrc o.sa).toNat i
      let y (i : Nat) : Nat := elemAt w (s.vSrc o.sb).toNat i
      let a (i : Nat) : Int := decodeInt t (x i)
      let b (i : Nat) : Int := decodeInt t (y i)
      (s.vReady o.sc → exec (.vmad o) s = s.vectorOut o 5 w fun i =>
        (wrap w (a i + b i * decodeInt t (elemAt w (s.vSrc o.sc).toNat i)), 0)) ∧
      exec (.vsel o) s = s.vectorOut o 5 w (fun i => (if bit (s.core.readM o.sc).toNat i then x i else y i, 0)) ∧
      (o.md = 0 → exec (.vcmp o) s = s.maskOut o 5 w fun i => (decide (a i = b i), 0)) ∧
      (o.md = 1 → exec (.vcmp o) s = s.maskOut o 5 w fun i => (decide (a i ≠ b i), 0)) ∧
      (o.md = 2 → exec (.vcmp o) s = s.maskOut o 5 w fun i => (decide (a i < b i), 0)) ∧
      (o.md = 3 → exec (.vcmp o) s = s.maskOut o 5 w fun i => (decide (a i ≤ b i), 0)) ∧
      (o.md = 4 → exec (.vcmp o) s = s.maskOut o 5 w fun i => (decide (b i < a i), 0)) ∧
      (o.md = 5 → exec (.vcmp o) s = s.maskOut o 5 w fun i => (decide (b i ≤ a i), 0))) ∧
  (∀ (o : Long) (s : State), s.on o.g →
      let a := s.core.readM o.sa
      let out (v : W64) : Host.Outcome State Fault Refusal :=
        .next (s.result .v0 5 (if o.wbs then [] else [.m o.dst v]) (some (v.setWidth 512)) 0).setViews
      let n := BitVec.ofNat 64 (popCount (a &&& s.core.readM o.lm).toNat 64)
      exec (.mand o) s = out (a &&& s.core.readM o.sb) ∧
      exec (.mor o) s = out (a ||| s.core.readM o.sb) ∧
      exec (.mnot o) s = out (~~~a) ∧
      exec (.mpop o) s = .next (s.result .v0 5 (if o.wbs then [] else [.x (physX s.core.loops.rot o.dst) n])
        (some (n.setWidth 512)) 0).setViews)

/-- R188, R192: lane-wise float arithmetic, rounded once in the operation's mode; a .rs operation draws one word per lane
and advances SRCTR by 16. R189 to R191: minimum, maximum, sign operations, compare and class test. -/
def Obligations.FloatLaneResults : Prop :=
  (∀ (o : Long) (s : State), s.on o.g → s.vReady o.sa →
      let t := (floatTy o.ty).getD .f32
      let w := t.width
      let rd := (roundOf o)
      let x (n i : Nat) : Val := decodeFloat t (elemAt w (s.vSrc n).toNat i)
      let a (i : Nat) : Val := x o.sa i
      let b (i : Nat) : Val := x o.sb i
      let z := s.drawn o
      let out (f : Nat → Nat × Nat) : Host.Outcome State Fault Refusal := z.lanesOut o 6 w f
      let slow (f : Nat → Nat × Nat) : Host.Outcome State Fault Refusal := z.lanesOut o 7 w f
      (s.mergeReady o (s.allLanes o w) →
        (s.vReady o.sb →
          exec (.vfadd o) s = out (fun i => deliver t rd (s.word o i) (sumVals rd [a i, b i])) ∧
          exec (.vfsub o) s = out (fun i => deliver t rd (s.word o i) (sumVals rd [a i, (b i).negate])) ∧
          exec (.vfmul o) s = out (fun i => deliver t rd (s.word o i) (mulVals (a i) (b i))) ∧
          exec (.vfscale o) s = out (fun i =>
            fScale t rd (s.word o i) (a i) (signed w (elemAt w (s.vSrc o.sb).toNat i)))) ∧
        exec (.vfrcp o) s = slow (fun i => fRcp t rd (s.word o i) (a i)) ∧
        exec (.vfrsq o) s = slow (fun i => fRsq t rd (s.word o i) (a i)) ∧
        exec (.vfexp2 o) s = slow (fun i => fExp2 t rd (s.word o i) (a i)) ∧
        exec (.vflog2 o) s = slow (fun i => fLog2 t rd (s.word o i) (a i))) ∧
      (s.vReady o.sb → s.vReady o.sc →
        exec (.vfma o) s = z.vectorOut o 6 w (fun i => deliver t rd (s.word o i) (fmaVals rd (a i) (b i) (x o.sc i))) ∧
        exec (.vfnma o) s = z.vectorOut o 6 w
          (fun i => deliver t rd (s.word o i) (fmaVals rd (a i) (b i).negate (x o.sc i))))) ∧
  (∀ (o : Long) (s : State), s.on o.g → s.vReady o.sa →
      let t := (floatTy o.ty).getD .f32
      let w := t.width
      let x (i : Nat) : Nat := elemAt w (s.vSrc o.sa).toNat i
      let y (i : Nat) : Nat := elemAt w (s.vSrc o.sb).toNat i
      let a (i : Nat) : Val := decodeFloat t (x i)
      let b (i : Nat) : Val := decodeFloat t (y i)
      let un (i : Nat) : Bool := (a i).isNan || (b i).isNan
      let cmp (f : Nat → Bool) : Host.Outcome State Fault Refusal := s.maskOut o 6 w fun i => (f i, sigFlag [a i, b i])
      (s.mergeReady o (s.allLanes o w) →
        (s.vReady o.sb →
          exec (.vfmin o) s = s.lanesOut o 6 w (fun i => fMinMax t false (x i) (y i)) ∧
          exec (.vfmax o) s = s.lanesOut o 6 w (fun i => fMinMax t true (x i) (y i))) ∧
        exec (.vfabs o) s = s.lanesOut o 6 w
          (fun i => (if (a i).isNan then t.canonicalNan else x i % 2 ^ (w - 1), 0)) ∧
        exec (.vfneg o) s = s.lanesOut o 6 w
          (fun i => (if (a i).isNan then t.canonicalNan else Nat.xor (x i) (2 ^ (w - 1)), 0))) ∧
      (s.vReady o.sb →
        (o.md = 0 → exec (.vfcmp o) s = cmp fun i => !un i && eqVals (a i) (b i)) ∧
        (o.md = 1 → exec (.vfcmp o) s = cmp fun i => un i || !eqVals (a i) (b i)) ∧
        (o.md = 2 → exec (.vfcmp o) s = cmp fun i => !un i && ltVals (a i) (b i)) ∧
        (o.md = 3 → exec (.vfcmp o) s = cmp fun i => !un i && (ltVals (a i) (b i) || eqVals (a i) (b i))) ∧
        (o.md = 4 → exec (.vfcmp o) s = cmp un)) ∧
      exec (.vfclass o) s = s.maskOut o 6 w (fun i => (bit o.ci (classOf t (a i)), 0)))

/-- R193 to R196: conversions between formats and MX blocks, narrowing and widening. R197, R198: reductions over the
selected lanes; without a lane the sum is 0, the maximum the least value and the minimum the greatest. -/
def Obligations.ConversionAndReductionResults : Prop :=
  (∀ (o : Long) (s : State), s.on o.g → s.vReady o.sa →
      let v := (s.vSrc o.sa).toNat
      let f := (Fmt.ofCode (o.ci % 32)).getD .mx8e4
      let ft := (floatTy o.ty).getD .f32
      let it := (intTy o.ty).getD .i8
      let w := it.width
      let m := (s.core.readM o.lm).toNat
      (let src := (Fmt.ofCode (o.sb % 32)).getD .f32
       let dst := (Fmt.ofCode (o.sb / 32 % 32)).getD .f32
       let n := 512 / max src.width dst.width
       let p := o.ci % 8
       let s0 := if src.width < dst.width then p * n else 0
       let d0 := if dst.width < src.width then p * n else 0
       let on (j : Nat) : Bool := bit m (if n ≤ 64 then j else j * 64 / n)
       let all := (List.range n).all on && dst.width * n == 512
       s.mergeReady o all →
         let old := s.old o all
         let rs := (List.range n).map fun j =>
           if on j then convertElem src dst (roundOf o) (s.word o j) (elemAt src.width v (j + s0)) else (elemAt dst.width old (j + d0), 0)
         exec (.vcvt o) s = (s.drawn o).valueOut o 8 (spliceElems dst.width d0 old (rs.map Prod.fst)) (orAll (rs.map Prod.snd))) ∧
      ((o.ty = 0 → s.vReady o.sb) →
        let x (i : Nat) : Val := decodeFloat ft
          (if o.ty = 0 then (if i < 16 then elemAt 32 v i else elemAt 32 (s.vSrc o.sb).toNat (i - 16)) else elemAt 16 v i)
        let q := mxBlock f ((List.range 32).map x)
        exec (.vqmx o) s = s.valueOut o 9 q.1 q.2) ∧
      (s.mergeReady o (s.allLanes o ft.width) →
        exec (.vdqmx o) s = (s.drawn o).lanesOut o 8 ft.width fun j =>
          toFloat ft (roundOf o) (s.word o j) (mxVal f (bits v 504 8) (elemAt f.width v (j + if bit o.ci 5 then 16 else 0)))) ∧
      (s.vReady o.sb → s.mergeReady o (s.allLanes o (w / 2)) →
        let lo : Int := if it.isSigned then -(2 ^ (w / 2 - 1)) else 0
        let hi : Int := if it.isSigned then 2 ^ (w / 2 - 1) - 1 else 2 ^ (w / 2) - 1
        exec (.vpack o) s = s.lanesOut o 8 (w / 2) fun i =>
          (wrap (w / 2) (clampInt lo hi (decodeInt it
            (if i < 512 / w then elemAt w v i else elemAt w (s.vSrc o.sb).toNat (i - 512 / w)))), 0)) ∧
      (s.mergeReady o (s.allLanes o (2 * w)) →
        exec (.vunpack o) s = s.lanesOut o 8 (2 * w) fun i =>
          (wrap (2 * w) (decodeInt it (elemAt w v (i + o.ci % 2 * (512 / w / 2)))), 0))) ∧
  (∀ (o : Long) (s : State), s.on o.g → s.vReady o.sa →
      let v := (s.vSrc o.sa).toNat
      let m := (s.core.readM o.lm).toNat
      let it := (intTy o.ty).getD .i8
      let ft := (floatTy o.ty).getD .f32
      let sel (w : Nat) : List Nat := ((List.range (512 / w)).filter (bit m)).map (elemAt w v)
      let ints := (sel it.width).map (decodeInt it)
      exec (.vradd o) s = s.valueOut o 10 (wrap 64 (ints.foldl (· + ·) 0)) 0 ∧
      exec (.vrmax o) s = s.valueOut o 10 (wrap 64 (ints.foldl max it.minInt)) 0 ∧
      exec (.vrmin o) s = s.valueOut o 10 (wrap 64 (ints.foldl min it.maxInt)) 0 ∧
      exec (.vrfmax o) s = s.valueOut o 10 (maxLanes ft (sel ft.width)).1 (maxLanes ft (sel ft.width)).2 ∧
      (let conv := (List.range (512 / ft.width)).map fun i =>
         if bit m i then some (toFloat .f32 .rne 0 (decodeFloat ft (elemAt ft.width v i))) else none
       let r := sumTree (roundOf o) (s.word o) 6 0 (conv.map fun x => x.map Prod.fst)
       exec (.vrfadd o) s = (s.drawn o).valueOut o 10 r.1
         (orF r.2 (orAll (conv.map fun x => x.elim 0 Prod.snd)))))

/-- R199: the permutations. R202: VRNG delivers one Philox block for each 128-bit group, its counter the group of A plus
CI, its key B. -/
def Obligations.PermutationAndRandomResults : Prop :=
  (∀ (o : Long) (s : State), s.on o.g →
      let w := ((intTy o.ty).getD .i8).width
      let n := 512 / w
      let m := (s.core.readM o.lm).toNat
      let a (i : Nat) : Nat := elemAt w (s.vSrc o.sa).toNat i
      let b (i : Nat) : Nat := elemAt w (s.vSrc o.sb).toNat i
      let ab (i : Nat) : Nat := if i < n then a i else b (i - n)
      let sel := (List.range n).filter (bit m)
      let merge := s.mergeReady o (s.allLanes o w)
      (s.vReady o.sa → s.vReady o.sb → s.vReady o.sc → exec (.vperm o) s = s.vectorOut o 11 w fun i =>
        (ab (elemAt w (s.vSrc o.sc).toNat i % (2 * n)), 0)) ∧
      (bit o.ci 6 = true → s.xReady o.sa → merge →
        exec (.vbcast o) s = s.lanesOut o 11 w fun _ => ((s.xSrc o.sa).toNat % 2 ^ w, 0)) ∧
      (bit o.ci 6 = false → s.vReady o.sa → merge →
        exec (.vbcast o) s = s.lanesOut o 11 w fun _ => (a (o.ci % 64), 0)) ∧
      (s.vReady o.sa → (bit o.ci 6 = true → s.xReady o.sb) → merge →
        let k := if bit o.ci 6 then (s.xSrc o.sb).toNat % n else o.ci % 64
        exec (.vlrot o) s = s.lanesOut o 11 w fun i => (a ((i + (n - k)) % n), 0)) ∧
      (s.vReady o.sa → s.vReady o.sb → merge →
        (o.ci = 0 → exec (.vshuf o) s = s.lanesOut o 11 w fun i => (if i % 2 = 0 then a (i / 2) else b ((i - 1) / 2), 0)) ∧
        (o.ci = 1 → exec (.vshuf o) s = s.lanesOut o 11 w fun i =>
          (if i % 2 = 0 then a (n / 2 + i / 2) else b (n / 2 + (i - 1) / 2), 0)) ∧
        (o.ci = 2 → exec (.vshuf o) s = s.lanesOut o 11 w fun i => (ab (2 * i), 0)) ∧
        (o.ci = 3 → exec (.vshuf o) s = s.lanesOut o 11 w fun i => (ab (2 * i + 1), 0))) ∧
      (s.vReady o.sa → exec (.vcmpr o) s = s.vectorOut o 11 w fun i => ((sel[i]?).elim 0 a, 0)) ∧
      (s.vReady o.sa → exec (.vexpd o) s = s.vectorOut o 11 w fun i => (if bit m i then a (popCount m i) else 0, 0)) ∧
      exec (.viota o) s = s.vectorOut o 11 w (fun i => (popCount m i, 0))) ∧
  (∀ (o : Long) (s : State), s.on o.g → s.vReady o.sa → s.xReady o.sb → s.mergeReady o (s.allLanes o 128) →
      exec (.vrng o) s = s.lanesOut o 12 128 fun g =>
        (philox (s.xSrc o.sb).toNat ((elemAt 128 (s.vSrc o.sa).toNat g + o.ci) % 2 ^ 128), 0))

/-! ## The M slot -/

/-- R212 to R214: MLDB and MTFETCH start the one pending fill of the staging plane, to land D cycles on. R214, R215, R221:
MSHIFT copies or exchanges the planes once no fill is pending, a premature one raises cause 0x06; and MPUSH splices
its elements into the staging plane. The model's choice: TRAPADDR 0 of cause 0x06 at MSHIFT and MTFETCH (log 43). The
elements of a popped entry past source bit 511 are a free value (log 98), of which nothing is said. -/
def Obligations.PlaneFillsShiftAndPush : Prop :=
  ((∀ (o : Long) (s : State) (x : Nat), s.on o.g →
      let n := imageBytes (shapeOf o.ty) (fmtB o.ty o.md).isMx
      let units := (List.range (ceilDiv n 64)).map (x + 64 * ·)
      (s.core.readA o.sa).reach 0 n 64 x → s.core.pad.clash .swz units = none → s.core.pendingRow units = none →
      s.core.rowMark units = none → s.core.mat.fill = none →
      ∃ (t : State) (f : Fill), exec (.mldb o) s = .next t ∧ t.core.mat = { s.core.mat with fill := some f } ∧
        f.src = .pad x ∧ f.land = s.core.now + o.sb ∧ f.ty = o.ty ∧ f.md = o.md ∧ f.got = 0 ∧
        t.core.regs = s.core.regs ∧ t.core.fly = s.core.fly ∧ t.core.pad.mem = s.core.pad.mem) ∧
    (∀ (o : Long) (s : State) (r : Rec), s.on o.g → s.xReady o.sa → s.xReady o.sb →
      let h := (s.xSrc o.sa).toNat
      let md := o.sc / 256 % 8
      let fb := fmtB o.ty md
      let depth := (shapeOf o.ty).depth
      let n0 := signed 32 (s.xSrc o.sb).toNat
      let k0 := signed 32 ((s.xSrc o.sb).toNat / 2 ^ 32)
      let d : Nat := o.sc % 256 * 4
      let span : Int := if r.raw then depth * fb.width / 8 else depth
      s.tensorReady h r → (r.raw && fb.isMx) = false → r.ext.length = 2 → 0 ≤ n0 → 0 ≤ k0 →
      n0 + 128 ≤ r.ext.headD 0 → k0 + span ≤ r.ext.getD 1 0 → ((r.isMx || fb.isMx) = true → k0 % 32 = 0) →
      (s.fixed && d < r.worst + 64) = false → s.core.mat.fill = none →
      ∃ (t : State) (f : Fill), exec (.mtfetch o) s = .next t ∧ t.core.mat = { s.core.mat with fill := some f } ∧
        f.src = .tile r.handle n0.toNat k0.toNat o.md ∧ f.land = s.core.now + d ∧ f.ty = o.ty ∧ f.md = md ∧ f.got = 0 ∧
        t.core.regs = s.core.regs ∧ t.core.fly = s.core.fly ∧ t.core.pad.mem = s.core.pad.mem)) ∧
  ((∀ (o : Long) (s : State), s.on o.g →
      let m := s.core.mat
      (m.fill = none → m.smark = none → exec (.mshift o) s = .next (s.mapCore fun c =>
        { c with mat := { c.mat with w := m.s, s := if bit o.sc 0 then m.w else m.s } }).setViews) ∧
      (∀ f, m.fill = some f → s.core.due f.hand f.land = false →
        exec (.mshift o) s = .next (s.takeTrap ⟨0x06, 0, []⟩ 6 false s.core.seq 1 s.core.seq.pc))) ∧
    (∀ (o : Long) (s : State) (e : Nat), s.on o.g →
      let fb := fmtB o.ty o.md
      let depth := (shapeOf o.ty).depth
      let n := o.sa % 8
      let fl := s.core.flueOf n
      let cnt := if fb.isMx then 32 else if fb.width = 6 then 64
        else if bit o.sc 4 then flueCount ((Fmt.ofCode fl.source).getD .f32) ((Fmt.ofCode fl.sink).getD .f32)
        else 512 / fb.width
      let put (p : Plane) (v : Nat) : Plane :=
        let p1 := p.setRow (shapeOf o.ty).rowBytes (e / depth)
          (spliceBits (p.row (shapeOf o.ty).rowBytes (e / depth)) (e % depth * fb.width) (cnt * fb.width) v)
        if fb.isMx then { p1 with scale := p1.scale.write (e / depth * (depth / 32) + e % depth / 32) (BitVec.ofNat 8 (bits v 504 8)) }
        else p1
      (s.core.readA o.sb).int = e → e + cnt ≤ 128 * depth → e % depth + cnt ≤ depth → (fb.isMx = true → e % 32 = 0) →
      (∀ f, s.core.mat.fill = some f → s.core.due f.hand f.land = false) →
      (bit o.sc 4 = false → s.vReady o.sa →
        ∃ t : State, exec (.mpush o) s = .next t ∧ t.core.mat = { s.core.mat with s := put s.core.mat.s (s.vSrc o.sa).toNat } ∧
          t.core.regs = s.core.regs ∧ t.core.fly = s.core.fly ∧ t.core.pad.mem = s.core.pad.mem) ∧
      (∀ (x : Elem) (l : List Elem) (v : V512), bit o.sc 4 = true → fl.q = x :: l → x.landed = true → x.data = some v →
        x.mark = none →
        ∃ (t : State) (y : Nat), exec (.mpush o) s = .next t ∧ t.core.mat.s = put s.core.mat.s y ∧
          y % 2 ^ 512 = (flueConvert fl.source fl.sink v.toNat).1 % 2 ^ 512 ∧
          t.core.flue = Store.set Flue.init s.core.flue n { fl with q := l } ∧
          t.core.regs = s.core.regs ∧ t.core.pad.mem = s.core.pad.mem)))

/-- R165, R216: MACC and MTERN perform one beat on row m over their A units, from registers or from the elements of a
stream register that have landed. R150, R216: a beat writes row m of its accumulator's live cells, each from its old
value and the column's products, and no other cell of it. -/
def Obligations.BeatsComplete : Prop :=
  (∀ (o : Long) (s : State) (m : Nat), s.on o.g →
      let n := o.sc / 512 % 4
      let cnt := (shapeOf o.ty).units + if (fmtA o.ty o.md).isMx then 1 else 0
      (s.core.readA o.sb).int = m → m < (shapeOf o.ty).rows →
      (bit o.sc 4 = false → (∀ i < cnt, s.vReady (o.sa + i)) →
        let us := (List.range cnt).map fun i => s.vSrc (o.sa + i)
        exec (.macc o) s = .next (beat o n m us s).setViews ∧ exec (.mtern o) s = .next (beat o n m us s).setViews) ∧
      (bit o.sc 4 = true → cnt ≤ (s.core.qOf o.sa).length →
        (∀ e ∈ (s.core.qOf o.sa).take cnt, e.landed = true ∧ e.data.isSome = true ∧ e.mark = none) →
        let us := ((s.core.qOf o.sa).take cnt).map fun e => e.data.getD 0
        ∃ z : State, z.core.qOf o.sa = (s.core.qOf o.sa).drop cnt ∧ z.core.mat.live = s.core.mat.live ∧
          z.core.mat.w = s.core.mat.w ∧
          exec (.macc o) s = .next (beat o n m us z).setViews ∧ exec (.mtern o) s = .next (beat o n m us z).setViews)) ∧
  (∀ (o : Long) (n m : Nat) (us : List V512) (s : State) (k : Nat),
      let sh := shapeOf o.ty
      let au := packList 512 ((us.take sh.units).map BitVec.toNat)
      let sc := ((us[sh.units]?).getD 0).toNat
      let a (k : Nat) : Val := rowVal (fmtA o.ty o.md) au (elemAt 8 sc) k
      let t := beat o n m us s
      let old := Store.get 0 s.core.mat.live k
      let col := k % 128
      Store.get 0 t.core.mat.live k =
        if k / 128 = n * 128 + m then
          BitVec.ofNat 32 (beatCell (if bit o.sc 3 then none else some old)
            (columnTerms o.ty o.md a (s.core.mat.w.row sh.rowBytes col) (s.core.mat.w.scaleOf (sh.depth / 32) col))).1
        else old)

/-- R217 to R219: MZERO clears the live cells of its accumulator and counts as a beat; MSWAP copies live to shadow, sets
the count to 0 and retires the group. R220: MDRAIN delivers cells of the live accumulator, converted, to vD and b6 or
to a flue with room, and clears them where it is asked to. -/
def Obligations.AccumulatorGroupsAndDrains : Prop :=
  (∀ (o : Long) (s : State), s.on o.g →
      let n := o.sc / 512 % 4
      (∃ t : State, exec (.mzero o) s = .next t ∧ t.core.mat.live = accCopy n [] s.core.mat.live ∧
        t.core.mat.shadow = s.core.mat.shadow ∧
        t.core.mat.count = Store.set 0 s.core.mat.count n (min (Store.get 0 s.core.mat.count n + 1) 65535) ∧
        t.core.regs = s.core.regs ∧ t.core.fly = s.core.fly ∧ t.core.pad.mem = s.core.pad.mem) ∧
      (∃ t : State, exec (.mswap o) s = .next t ∧ t.core.mat.shadow = accCopy n s.core.mat.live s.core.mat.shadow ∧
        t.core.mat.live = s.core.mat.live ∧ Store.get 0 t.core.mat.count n = 0 ∧
        (∀ g ∈ t.core.mat.groups, g.1 ≠ n) ∧
        t.core.regs = s.core.regs ∧ t.core.fly = s.core.fly ∧ t.core.pad.mem = s.core.pad.mem)) ∧
  (∀ (o : Long) (s : State) (e : Nat), s.on o.g →
      let f := drainFmt o.md
      let c := 512 / f.width
      let n := o.sc / 512 % 4
      let keys := (List.range c).map fun i => n * 16384 + (e + i)
      let cell (k : Nat) : Nat := (Store.get 0 s.core.mat.live k).toNat
      let rs := keys.map fun k => if o.md = 0 then (cell k, 0) else convertElem .f32 f .rne 0 (cell k)
      let v := BitVec.ofNat 512 (packList f.width (rs.map Prod.fst))
      let flags := orAll (rs.map Prod.snd)
      (s.core.readA o.sb).int = e → e % c = 0 → e / 128 < (shapeOf o.ty).rows →
      (bit o.sc 4 = false → bit o.sc 3 = false → exec (.mdrain o) s = .next
        (s.result .m 13 (if o.wbs then [] else [.v (physV s.core.loops.rot o.dst) v]) (some v) flags).setViews) ∧
      (bit o.sc 4 = false → bit o.sc 3 = true →
        ∃ t : State, exec (.mdrain o) s = .next t ∧
          t.core.fly = (s.result .m 13 (if o.wbs then [] else [.v (physV s.core.loops.rot o.dst) v]) (some v) flags).core.fly ∧
          (∀ k, Store.get 0 t.core.mat.live k = if k ∈ keys then 0 else Store.get 0 s.core.mat.live k)) ∧
      (bit o.sc 4 = true → s.core.flueRoom (o.sc % 8) 1 = true →
        ∃ (t : State) (x : Elem), exec (.mdrain o) s = .next t ∧ x ∈ (t.core.flueOf (o.sc % 8)).q ∧
          x.data = some ((s.core.flueOf (o.sc % 8)).entry v) ∧ x.land = s.core.now + s.core.latency 13 ∧
          (∀ k, Store.get 0 t.core.mat.live k =
            if bit o.sc 3 = true ∧ k ∈ keys then 0 else Store.get 0 s.core.mat.live k)))

/-! ## The C slot -/

namespace Sys2Proof.Machine

/-- The bundle after the one at PC. -/
def Core.after (c : Core) : Nat := c.code.nextBundle c.seq.pc

/-- The state after a bundle at whose end control goes on to the next one with a transfer pending (R70); a configuration that
FLCFG left takes effect (R175). -/
def State.transferred (s : State) (target : Nat) : State :=
  { s with core := { s.core.applyCfg with
    ctl := none
    seq := ⟨s.core.after, 0, some ⟨target, 2, s.core.seq.pc⟩, s.core.seq.pc, false, false⟩ } }

/-- The state after a bundle without a transfer. -/
def State.wentOn (s : State) : State :=
  { s with core := { s.core.applyCfg with ctl := none, seq := ⟨s.core.after, 0, none, s.core.seq.pc, false, false⟩ } }

/-- The PC-relative target of an immediate in syllables (R94). -/
def Core.target (c : Core) (i : Int) : Nat := (((c.seq.pc : Int) + 4 * i) % 2 ^ 64).toNat

end Sys2Proof.Machine

/-- R94 to R98: a taken branch, call or return goes on with the next bundle and has its transfer pending over two delay
bundles; a call puts the PC after the second delay bundle in flight to x31. R70: the second delay bundle's end makes
the pending transfer, and a bundle without a transfer leads to the next. -/
def Obligations.BranchesTransfer : Prop :=
  (∀ s : State, s.core.seq.pend = none →
      let c := s.core
      (∀ o : SI, s.on o.g → exec (.br o) s = .next (s.transferred (c.target o.simm))) ∧
      (∀ o : SPI, s.on o.g → c.readP o.p1 = false → exec (.brp o) s = .next (s.transferred (c.target o.simm))) ∧
      (∀ o : SPI, s.on o.g → c.readP o.p1 = true → s.core.ctl = none → exec (.brp o) s = .next s.wentOn) ∧
      (∀ o : S3, s.on o.g →
        exec (.bri o) s = .next (s.transferred (o.src2 c + o.src3 c).toNat) ∧
        exec (.ret o) s = .next (s.transferred (o.src2 c).toNat)) ∧
      (∀ o : SI, s.on o.g →
        let link := c.code.nextBundle (c.code.nextBundle c.after)
        exec (.call o) s = .next ((s.result .c 0 [.x (physX c.loops.rot 31) (BitVec.ofNat 64 link)] none 0).transferred
          (c.target o.simm)))) ∧
  (∀ (s : State), s.core.ctl = none →
      (s.core.seq.pend = none → exec .cNop s = .next s.wentOn) ∧
      (∀ p, s.core.seq.pend = some p → 2 ≤ p.left → exec .cNop s = .next { s with core := { s.core.applyCfg with
        seq := ⟨s.core.after, 0, some ⟨p.target, p.left - 1, p.src⟩, s.core.seq.pc, false, false⟩ } }) ∧
      (∀ p, s.core.seq.pend = some p → p.left ≤ 1 → exec .cNop s = .next { s with core := { s.core.applyCfg with
        seq := ⟨p.target, 0, none, p.src, true, false⟩ } }))

/-- R101: LOOP and SLOOP push an entry when their checks pass, and skip the body for a count of 0; SLOOP sets trip, exe,
stg and rot, and its stage predicates. R35, R36, R102 to R104: NEXT goes back to START while iterations remain and
else pops its entry, LEXIT pops the innermost entry, LIX delivers an INDEX; NEXT and LEXIT with no loop raise cause
0x08. The model's choice (log 81): NEXT compares the count plus 1 unwrapped, also at 2^34 - 1. -/
def Obligations.LoopsOpenAdvanceEnd : Prop :=
  (∀ s : State, s.core.seq.pend = none →
      let c := s.core
      let start := c.after
      (∀ o : S1I, s.on o.g →
        let n := (o.src1 c).toNat
        let stop := c.seq.pc + 4 * o.imm
        c.code.bundleStart stop = true → start ≤ stop →
        (∀ e r, c.loops.stack = e :: r → e.start ≤ start ∧ stop < e.stop) →
        (n = 0 → exec (.loop o) s = .next
          { s with core := { c.applyCfg with ctl := none, seq := ⟨c.code.nextBundle stop, 0, none, c.seq.pc, true, false⟩ } }) ∧
        (0 < n → n < 2 ^ 32 → c.loops.stack.length < 6 → exec (.loop o) s = .next
          { s.wentOn with core := { s.wentOn.core with
              loops := { c.loops with stack := ⟨false, start, stop, n, 0⟩ :: c.loops.stack } } })) ∧
      (∀ o : S2I, s.on o.g →
        let n := (o.src1 c).toNat
        let stop := c.seq.pc + 4 * o.imm
        c.code.bundleStart stop = true → start ≤ stop →
        (∀ e r, c.loops.stack = e :: r → e.start ≤ start ∧ stop < e.stop) → c.loops.stack.any (·.piped) = false →
        (n = 0 → exec (.sloop o) s = .next
          { s with core := { c.applyCfg with ctl := none, seq := ⟨c.code.nextBundle stop, 0, none, c.seq.pc, true, false⟩ } }) ∧
        (0 < n → n ≤ 2 ^ 32 → c.loops.stack.length < 6 → exec (.sloop o) s = .next
          { s.wentOn with core := { s.wentOn.core with
              loops := ⟨⟨true, start, stop, 0, 0⟩ :: c.loops.stack, n, 0, o.f2, 0⟩, regs := c.regs.stagePreds } }))) ∧
  (∀ s : State,
      let c := s.core
      (∀ o : S0, s.on o.g → c.loops.stack = [] →
        exec (.next o) s = .next (s.takeTrap ⟨0x08, 0, []⟩ 0 false c.seq 1 c.seq.pc) ∧
        exec (.lexit o) s = .next (s.takeTrap ⟨0x08, 0, []⟩ 0 false c.seq 1 c.seq.pc)) ∧
      (∀ (o : S0) (e : LoopEntry) (r : List LoopEntry), s.on o.g → c.loops.stack = e :: r → e.stop = c.seq.pc →
        ∃ t : State, exec (.next o) s = .next t ∧ t.core.ctl = none ∧
          (e.piped = false →
            (1 < e.remain → t.core.seq.pc = e.start ∧
              t.core.loops.stack = { e with remain := e.remain - 1, index := (e.index + 1) % 2 ^ 32 } :: r) ∧
            (e.remain ≤ 1 → t.core.seq.pc = c.code.nextBundle e.stop ∧ t.core.loops.stack = r) ∧
            t.core.loops.rot = c.loops.rot) ∧
          (e.piped = true → t.core.loops.exe = (c.loops.exe + 1) % 2 ^ 34 ∧ t.core.loops.rot = (c.loops.rot + 1) % 512 ∧
            (c.loops.exe + 1 < c.loops.trip + c.loops.stg - 1 → t.core.seq.pc = e.start) ∧
            (c.loops.trip + c.loops.stg - 1 ≤ c.loops.exe + 1 →
              t.core.seq.pc = c.code.nextBundle e.stop ∧ t.core.loops.stack = r))) ∧
      (∀ (o : S0) (e : LoopEntry) (r : List LoopEntry), s.on o.g → c.loops.stack = e :: r →
        exec (.lexit o) s = .next { s with core := { c.applyCfg with
          ctl := none
          loops := { c.loops with stack := r }
          seq := ⟨c.code.nextBundle e.stop, 0, c.seq.pend, c.seq.pc, true, false⟩ } }) ∧
      (∀ o : S1I, s.on o.g → c.ctl = none → c.seq.pend = none → exec (.lix o) s = .next
        (s.result .c 0 [.x (physX c.loops.rot o.f1)
          (BitVec.ofNat 64 ((c.loops.stack[o.imm]?).elim 0 fun e => e.index))] none 0).wentOn))

/-- R105 to R107, R255: HALT and ERET let the bundle end and wait for the results in flight; ERET outside privileged mode
raises cause 0x04 whatever its guard; TRAP raises cause 0x28 with its code after its bundle. -/
def Obligations.HaltTrapAndReturn : Prop :=
  ∀ s : State, s.core.seq.pend = none →
    let c := s.core
    (∀ o : S0, s.on o.g → c.raceDue 0x1F = none → s.unchecked 0x1F = false → exec (.halt o) s = .next
      { s.wentOn with core := { s.wentOn.core with race := { c.race with epoch := c.race.epoch + 1 }, wait := .halting } }) ∧
    (∀ o : S0, s.on o.g → c.priv = true → exec (.eret o) s = .next
      { s.wentOn with core := { s.wentOn.core with wait := .ereting } }) ∧
    (∀ o : S0, c.priv = false → exec (.eret o) s = .next (s.takeTrap ⟨0x04, 0, []⟩ 0 false c.seq 1 c.seq.pc)) ∧
    (∀ o : SI, s.on o.g → exec (.trap o) s = .next
      (s.wentOn.takeTrap ⟨0x28, o.imm, []⟩ 0 false s.wentOn.core.seq 0 c.after))

/-- R265 to R267, R275 to R277: in a launch with FUSEREQ, FUSE and REJOIN let the bundle end and arrive on the street's
line, SBAR and SQBAR let it end and wait for their ordering before they arrive, DECOUPLE leaves the fused street;
where MODE, or the modes of the square group's streets, do not allow them, and in a launch without FUSEREQ, they raise
cause 0x03. R279, R342: PAIR on with its partner in a square of the same mode waits for the partner's on the pair
line; PAIR off without open groups ends the pairing of both; otherwise PAIR raises cause 0x03. R62: a NOP of a slot
leaves the slot's record idle and changes nothing else. -/
def Obligations.StreetsPairsAndNops : Prop :=
  (∀ s : State, s.core.seq.pend = none →
      let c := s.core
      let st := s.myStreet
      let n := streetOf s.coreId
      let place := s.coreId % 8
      let arrive (k : Ctl) : State :=
        { s.wentOn with
          streets := Store.set Street.init s.streets n { st with arrived := st.arrived ++ [(place, c.seq.pc, k, s.lineTime)] }
          core := { s.wentOn.core with wait := .line k } }
      let trap : Host.Outcome State Fault Refusal := .next (s.takeTrap ⟨0x03, c.seq.pc, []⟩ 0 false c.seq 1 c.seq.pc)
      let ts := s.squareGroups
      let even := (ts.all (fun t => t.mode == 1 || t.mode == 2) || ts.all (fun t => t.mode == 0)) = true
      (c.task.fuse = false → ∀ (o : S1I) (q : S0), s.on o.g → s.on q.g →
        exec (.fuse o) s = trap ∧ exec (.rejoin q) s = trap ∧ exec (.decouple q) s = trap ∧ exec (.sbar q) s = trap ∧
        exec (.sqbar q) s = trap ∧ exec (.pair o) s = trap) ∧
      (c.task.fuse = true →
      (∀ o : S1I, s.on o.g →
        (st.mode = 0 → exec (.fuse o) s = .next (arrive (.fuse o.imm))) ∧
        (st.mode ≠ 0 → exec (.fuse o) s = trap)) ∧
      (∀ o : S0, s.on o.g →
        (st.mode = 2 → exec (.rejoin o) s = .next (arrive .rejoin)) ∧
        (st.mode ≠ 2 → exec (.rejoin o) s = trap) ∧
        (c.link.fused = true → ∃ t : State, exec (.decouple o) s = .next t ∧ t.core.link.fused = false ∧
          t.core.seq.pc = c.after ∧ t.core.sticky = Sticky.idle ∧ t.core.link.rank = c.link.rank ∧
          (t.streetAt n).mode = if st.leader = place then 2 else st.mode) ∧
        (c.link.fused = false → exec (.decouple o) s = trap) ∧
        (st.mode ≠ 1 → st.mode ≠ 2 → exec (.sbar o) s = trap) ∧ (¬even → exec (.sqbar o) s = trap) ∧
        (st.mode = 1 ∨ st.mode = 2 → c.raceDue 0x1F = none → s.unchecked 0x1F = false →
          ∃ t : State, exec (.sbar o) s = .next t ∧ t.core.seq.pc = c.after ∧
            t.core.wait = s.wentOn.fenceWait 0x1F s.releaseReqs 0 false false none (some .sbar) ∧
            t.core.race.epoch = c.race.epoch + 1 ∧ t.core.regs = c.regs) ∧
        (even → c.raceDue 0x1F = none → s.unchecked 0x1F = false →
          ∃ t : State, exec (.sqbar o) s = .next t ∧ t.core.seq.pc = c.after ∧
            t.core.wait = s.wentOn.fenceWait 0x1F s.releaseReqs 0 false false none (some .sqbar) ∧
            t.core.race.epoch = c.race.epoch + 1 ∧ t.core.regs = c.regs)))) ∧
  (∀ (o : S1I) (s : State), s.on o.g → s.core.seq.pend = none → s.core.task.fuse = true →
      let g := partnerOf s.coreId
      let trap : Host.Outcome State Fault Refusal := .next (s.takeTrap ⟨0x03, s.core.seq.pc, []⟩ 0 false s.core.seq 1 s.core.seq.pc)
      let same := s.squareFixed (squareOf s.coreId) = s.squareFixed (Nat.xor (squareOf s.coreId) 1)
      (o.imm = 1 → s.partnerRuns = true → same →
        exec (.pair o) s = .next { s.wentOn with core := { s.wentOn.core with wait := .pairLine s.lineTime } }) ∧
      (o.imm = 1 → s.partnerRuns = false ∨ ¬same → exec (.pair o) s = trap) ∧
      (o.imm = 0 → s.core.link.paired = false ∨ s.core.mat.grp ≠ 0 → exec (.pair o) s = trap) ∧
      (o.imm = 0 → s.core.link.paired = true → s.core.mat.grp = 0 →
        ∃ t : State, exec (.pair o) s = .next t ∧ t.core.link.paired = false ∧ (t.coreAt g).link.paired = false ∧
          t.core.seq.pc = s.core.after ∧ t.core.regs = s.core.regs)) ∧
  (∀ s : State,
      exec .sNop s = .next { s with core := { s.core with sticky := { s.core.sticky with s := none } } } ∧
      exec .aNop s = .next { s with core := { s.core with sticky := { s.core.sticky with a := none } } } ∧
      exec .fNop s = .next { s with core := { s.core with sticky := { s.core.sticky with f := none } } } ∧
      exec .xNop s = .next { s with core := { s.core with sticky := { s.core.sticky with x := none } } } ∧
      exec .vNop s = .next { s with core := { s.core with sticky := { s.core.sticky with v0 := none } } } ∧
      exec .mNop s = .next { s with core := { s.core with sticky := { s.core.sticky with m := none } } })

/-! ## Events of a hearth -/

namespace Sys2Proof.Machine

/-- The state with the hearth that `unit` names in focus: where an event of a hearth happens. -/
def State.there (s : State) : State := s.focus s.unit

end Sys2Proof.Machine

/-- R16: x0, p0, m0, a0 and b0 read as their constants, whatever the rotation; writes of the first four are discarded, and
the latch of the slot that produced such a result still receives it. -/
def Obligations.FixedRegisters : Prop :=
  (∀ c : Core, c.readX 0 = 0 ∧ c.readP 0 = true ∧ c.readM 0 = BitVec.allOnes 64 ∧ c.readA 0 = ⟨0, 0, 0, 0⟩ ∧
    c.readLatch 0 = ⟨0, true⟩) ∧
  (∀ rot, physX rot 0 = 0 ∧ physP rot 0 = 0) ∧
  (∀ (s : State) (f : Flight),
    (∀ e ∈ f.effs, (∃ v, e = .x 0 v) ∨ (∃ b, e = .p 0 b) ∨ (∃ v, e = .m 0 v) ∨ (∃ v, e = .aval 0 v) ∨ (∃ v, e = .astep 0 v) ∨
      ∃ b l, e = .aring 0 b l) →
    let t := s.writeBack f
    t.core.regs.x = s.core.regs.x ∧ t.core.regs.p = s.core.regs.p ∧ t.core.regs.m = s.core.regs.m ∧
    t.core.regs.a = s.core.regs.a ∧ t.core.regs.v = s.core.regs.v ∧ t.core.regs.k = s.core.regs.k ∧
    (∀ j v ok, f.latch = some (j, v, ok) → j ≠ 0 → Store.get Latch.init t.core.regs.latch j = ⟨v, ok⟩))

/-- R25, R37, R66, R68: a result written back changes its own destination, its latch and FLAGS, which it only ORs; a write
of x0, p0, m0 or b0 is discarded. R66, R67: RESULT_WRITEBACK takes a due result out of flight, the one of the lowest
place in the order of writes, and writes it back; with no result due it changes nothing. -/
def Obligations.ResultsAreWrittenBack : Prop :=
  (∀ (s : State) (f : Flight), (∀ n v, Eff.sys n v ∉ f.effs) →
      let t := s.writeBack f
      t.core.st.flags = s.core.st.flags ||| f.flags ∧ t.core.regs.k = s.core.regs.k ∧ t.core.pad.mem = s.core.pad.mem ∧
      t.core.loops = s.core.loops ∧ t.core.seq = s.core.seq ∧ t.core.trap = s.core.trap ∧ t.core.mat = s.core.mat ∧
      (∀ j, (∀ v ok, f.latch ≠ some (j, v, ok)) →
        Store.get Latch.init t.core.regs.latch j = Store.get Latch.init s.core.regs.latch j) ∧
      (∀ j v ok, f.latch = some (j, v, ok) → j ≠ 0 → Store.get Latch.init t.core.regs.latch j = ⟨v, ok⟩) ∧
      (∀ n v, f.effs = [.x n v] →
        (∀ j, Store.get 0 t.core.regs.x j = if j = n ∧ n ≠ 0 then v else Store.get 0 s.core.regs.x j) ∧
        t.core.regs.p = s.core.regs.p ∧ t.core.regs.m = s.core.regs.m ∧ t.core.regs.a = s.core.regs.a ∧
        t.core.regs.v = s.core.regs.v) ∧
      (∀ n v, f.effs = [.p n v] →
        (∀ j, Store.get false t.core.regs.p j = if j = n ∧ n ≠ 0 then v else Store.get false s.core.regs.p j) ∧
        t.core.regs.x = s.core.regs.x ∧ t.core.regs.m = s.core.regs.m ∧ t.core.regs.a = s.core.regs.a ∧
        t.core.regs.v = s.core.regs.v) ∧
      (∀ n v, f.effs = [.m n v] →
        (∀ j, Store.get 0 t.core.regs.m j = if j = n ∧ n ≠ 0 then v else Store.get 0 s.core.regs.m j) ∧
        t.core.regs.x = s.core.regs.x ∧ t.core.regs.p = s.core.regs.p ∧ t.core.regs.a = s.core.regs.a ∧
        t.core.regs.v = s.core.regs.v) ∧
      (∀ n v, f.effs = [.v n v] →
        (∀ j, Store.get 0 t.core.regs.v j = if j = n then v else Store.get 0 s.core.regs.v j) ∧
        t.core.regs.x = s.core.regs.x ∧ t.core.regs.p = s.core.regs.p ∧ t.core.regs.m = s.core.regs.m ∧
        t.core.regs.a = s.core.regs.a) ∧
      (∀ n v, f.effs = [.aval n v] →
        (∀ j, Store.get AReg.zero t.core.regs.a j =
          if j = n ∧ n ≠ 0 then { Store.get AReg.zero s.core.regs.a n with val := v } else Store.get AReg.zero s.core.regs.a j) ∧
        t.core.regs.x = s.core.regs.x ∧ t.core.regs.p = s.core.regs.p ∧ t.core.regs.m = s.core.regs.m ∧
        t.core.regs.v = s.core.regs.v)) ∧
  (∀ s : State, s.hearthOk s.unit = true →
      let z := s.there
      (∀ f rest, firstDue z.core.fly = some (f, rest) →
        f.left = 0 ∧ (∀ g ∈ rest, g.left = 0 → f.place ≤ g.place) ∧
        exec .resultWriteback s = .next ((z.mapCore fun c => { c with fly := rest }).writeBack f)) ∧
      ((∀ f ∈ z.core.fly, f.left ≠ 0) → exec .resultWriteback s = .next z))

/-- R163, R164: LANDING makes exactly the elements whose landing cycle has come readable; R214: a due fill with all its
rows lands in the staging plane; R245: a due window row is written into its slot, but for the bytes that a later
operation of its queue has written (R232). R163, R165, R213: DATA_ARRIVAL gives an item on its way, once the packets
that bring it have been answered, to the record that awaits it, or the next row to the pending fill, and a freeze that
waited for it ends. -/
def Obligations.LandingsAndArrivals : Prop :=
  (∀ s : State, s.hearthOk s.unit = true →
      let z := s.there
      let c := z.core
      let land (e : Elem) : Elem := if c.due e.hand e.land then { e with landed := true } else e
      (∃ t : State, exec .landing s = .next t ∧ (∀ n, t.core.qOf n = (c.qOf n).map land) ∧
        (∀ n, (t.core.flueOf n).q = (c.flueOf n).q.map land ∧ (t.core.flueOf n).source = (c.flueOf n).source) ∧
        t.core.regs = c.regs ∧ t.core.mat = c.mat ∧ t.core.pad = c.pad ∧ t.core.st = c.st) ∧
      (∀ f, c.mat.fill = some f → c.due f.hand f.land = true → 128 ≤ f.got →
        let rb := (shapeOf f.ty).rowBytes
        ∃ t : State, exec .planeFillLanding s = .next t ∧ t.core.mat.fill = none ∧ t.core.mat.smark = f.mark ∧
          t.core.mat.s.bytes = ((List.range 128).foldl (fun p n => p.setRow rb n (f.img.row rb n)) c.mat.s).bytes ∧
          t.core.mat.w = c.mat.w ∧ t.core.mat.live = c.mat.live ∧ t.core.st.flags = orF c.st.flags f.flags ∧
          t.core.regs = c.regs ∧ t.core.pad.mem = c.pad.mem) ∧
      (∀ n w f, c.dueRow = some (n, w, f) →
        ∃ t : State, exec .windowRowLanding s = .next t ∧
          (let own := ((List.range w.size).map (w.slotBase f.row + ·)).zip (f.data.getD [])
           let free := own.filter fun e => !(f.later.any fun p => p.1 ≤ e.1 && e.1 < p.1 + p.2)
           t.core.pad.mem = free.foldl (fun m e => m.write e.1 e.2) c.pad.mem) ∧
          (∀ x ∈ (Store.get Win.closed t.core.win n).fills, ¬(x.row = f.row ∧ x.req = f.req)) ∧
          t.core.st.flags = c.st.flags ||| f.flags ∧ t.core.regs = c.regs ∧ t.core.mat = c.mat)) ∧
  (∀ (n : Nat) (s : State), s.hearthOk s.unit = true →
      let z := s.there
      let l := z.core.eng.transit
      (∀ x, l[n]? = some x → z.portClear x.port = true →
        ∃ t : State, exec (.dataArrival n) s = .next t ∧ t.core.eng.transit = l.take n ++ l.drop (n + 1) ∧
          t.core.link.frozen = false ∧ t.core.regs = z.core.regs ∧ t.core.pad.mem = z.core.pad.mem ∧
          (∀ q req j, x.dest = .q q req j → ∀ e ∈ t.core.qOf q, e.req = req → e.j = j →
            e.data = some (BitVec.ofNat 512 (ofBytes x.data)) ∧ e.mark = x.mark) ∧
          (∀ q req j, x.dest = .flue q req j → ∀ e ∈ (t.core.flueOf q).q, e.req = req → e.j = j →
            e.data = some ((z.core.flueOf q).entry (BitVec.ofNat 512 (ofBytes x.data))) ∧ e.mark = x.mark) ∧
          (∀ w req row, x.dest = .win w req row → ∀ f ∈ (Store.get Win.closed t.core.win w).fills, f.req = req → f.row = row →
            f.data = some x.data ∧ f.flags = x.flags ∧ f.mark = x.mark)) ∧
      (∀ f a, n = l.length → z.core.mat.fill = some f → f.src = .pad a → f.got < 128 → z.portClear f.port = true →
        ∃ (t : State) (g : Fill), exec (.dataArrival n) s = .next t ∧ t.core.mat.fill = some g ∧ g.got = f.got + 1 ∧
          t.core.link.frozen = false ∧ t.core.mat.s = z.core.mat.s ∧ t.core.regs = z.core.regs) ∧
      (n = l.length → z.fillReady = true →
        exec (.dataArrival n) s = .next (z.fillRow.mapCore fun c => { c with link := { c.link with frozen := false } })))

/-- R232, R236: COPY_PERFORM performs the next operation of its queue that may run; COPY_COMPLETE takes a complete one out
of the queues, and delivers a TCOPY's signal: SIGKIND 1 lowers the counter of the defined named task SIGID by 1,
SIGKIND 2 posts the completion message to the bound mailbox SIGID while it has room, where the counter and the mailbox
hold no uncorrectable error (R302). R232, R294: once the queue that froze a hearth has room, the hearth unfreezes. -/
def Obligations.CopyEngineRuns : Prop :=
  (∀ (coll : Bool) (s : State), s.hearthOk s.unit = true →
      let z := s.there
      let q := if coll then z.core.eng.cl else z.core.eng.cp
      (∀ o, nextOp q = some o → z.opReady o = true →
        ∃ t : State, exec (.copyPerform coll) s = .next t ∧ t = z.performOp o ∧
          ∀ x ∈ t.core.eng.cp ++ t.core.eng.cl, x.id = o.id → x.performed = true) ∧
      (∀ o, q.find? (fun o => o.complete z.core) = some o →
        ∃ t : State, exec (.copyComplete coll) s = .next t ∧ (∀ x ∈ t.core.eng.cp ++ t.core.eng.cl, x.id ≠ o.id) ∧
          t.core.regs = z.core.regs ∧ t.core.pad.mem = z.core.pad.mem ∧
          (∀ c, o.kind = .copy c →
            (c.sigKind = 1 → (z.namedAt z.die c.sigId).defn ≠ none → ((z.dieAt z.die).flawAt (3, c.sigId, 0)).kind ≠ 1 →
              (t.namedAt z.die c.sigId).count = (z.namedAt z.die c.sigId).count - 1) ∧
            (c.sigKind = 2 → (z.boxAt z.die c.sigId).bound ≠ none → (z.boxAt z.die c.sigId).queue.length < 16 →
              (z.boxAt z.die c.sigId).waiting = [] → ((z.dieAt z.die).flawAt (2, c.sigId, 0)).kind ≠ 1 →
              (t.boxAt z.die c.sigId).queue.map Prod.fst =
                (z.boxAt z.die c.sigId).queue.map Prod.fst ++ [copyMessage c o.ord o.status])))) ∧
  (∀ s : State, s.hearthOk s.unit = true →
      let z := s.there
      let free (c : Core) : Core := { c with stuck := .no, link := { c.link with frozen := false } }
      (z.core.stuck = .cp → z.core.eng.cp.length < 32 → exec .copyQueueAccept s = .next (z.mapCore free)) ∧
      (z.core.stuck = .cl → z.core.eng.cl.length < 32 → exec .copyQueueAccept s = .next (z.mapCore free)) ∧
      (z.core.stuck = .sync → (z.reqs.filter fun r => r.hearth == z.coreId).length < 32 →
        exec .syncRequestAccept s = .next (z.mapCore free)))

/-- R240, R242, R243, R277, R294: FENCE_WAIT_END, at a hearth whose wait is over and whose bundle holds no C-slot outcome
back: the wait's write-back or invalidation of the square's lines is done and its banks are clean; then the hearth
goes on, or the request held behind the wait is sent, or the member arrives on its barrier's line. R296:
WAITA_TIMEOUT, where T cycles have passed without a reply: the wait asks for the cancellation of its monitor.
MONITOR_CANCEL_ACK: a reply that came first ends the wait with its own truth; otherwise the monitor is freed and the
wait ends with pD false. -/
def Obligations.WaitsEndAndCancel : Prop :=
  (∀ s : State, s.hearthOk s.unit = true → s.there.waitOver = true → s.there.core.ctl = none →
      let z := s.there
      let q := squareOf z.coreId
      let done (x : State) : State := x.mapCore fun c => { c with wait := .none, link := { c.link with frozen := false } }
      (∀ ops reqs fills padded wb inv banks, z.core.wait = .fence ops reqs fills padded wb inv banks none none →
        exec .fenceWaitEnd s = .next (((done (z.squareFence q wb inv)).writeRows banks).mapCore fun c => c.cleanBanks banks)) ∧
      (∀ ops reqs fills padded wb inv banks id r, z.core.wait = .fence ops reqs fills padded wb inv banks (some id) none →
        let y := ((done (z.squareFence q wb inv)).writeRows banks).mapCore fun c => c.cleanBanks banks
        y.reqs.find? (fun r => r.id == id) = some r →
        exec .fenceWaitEnd s = .next ((y.mapReq id fun r => { r with sent := true }).mapCore fun c =>
          { c with wait := r.waitAfter (c.mode == .preempting) })) ∧
      (∀ ops reqs fills padded wb inv banks k, z.core.wait = .fence ops reqs fills padded wb inv banks none (some k) →
        let y := ((done (z.squareFence q wb inv)).writeRows banks).mapCore fun c => c.cleanBanks banks
        exec .fenceWaitEnd s = .next (y.arrive (y.lineTime - 1) y.core.seq.from_ k)) ∧
      (∀ req padded inv, z.core.wait = .acquire req padded inv →
        exec .fenceWaitEnd s = .next (done (z.squareFence q false inv)))) ∧
  (∀ s : State, s.hearthOk s.unit = true →
      let z := s.there
      (∀ req pd issued t inv, z.core.wait = .waita req pd issued t inv false → t ≠ 0 → t ≤ z.core.now - issued →
        (z.reqs.any fun r => r.id == req && r.done) = false →
        exec .waitaTimeout s = .next (z.mapCore fun c => { c with wait := .waita req pd issued t inv true })) ∧
      (∀ req pd issued t inv r, z.core.wait = .waita req pd issued t inv true →
        z.reqs.find? (fun r => r.id == req) = some r →
        (r.done = true → exec .monitorCancelAck s = .next (z.endWaita r (r.val != 0) r.got inv)) ∧
        (r.done = false → z.armed r = true → z.core.ctl = none →
          ∃ u : State, exec .monitorCancelAck s = .next u ∧ u.core.wait = .none ∧
            u.core.regs = z.core.regs.setP r.pd false ∧ u.core.pad.mem = z.core.pad.mem)))

/-- R267, R275, R277, R279, R105: once a line reads high, the members that arrived with one FUSE, with one REJOIN or at
SBAR or SQBAR go on, fused in the first two cases; partners at PAIR on become paired; a halted task without results in
flight leaves its hearth free and counts as ended in its launch. -/
def Obligations.LinesMeetAndTasksEnd : Prop :=
  ∀ s : State, s.hearthOk s.unit = true →
    let z := s.there
    let h := z.coreId
    let st := z.streetAt (streetOf h)
    let hs := z.members (streetOf h)
    (∀ k pc, h ∈ hs → z.lineOver (streetOf h) = true →
      (∀ g ∈ hs, ∃ c, st.arrived.find? (fun a => a.1 == g % 8) = some (g % 8, pc, k, c)) →
      (∀ skew, k = .fuse skew →
        ∃ t : State, exec (.chimneyLineHigh false) s = .next t ∧ (t.streetAt (streetOf h)).mode = 1 ∧
          (t.streetAt (streetOf h)).skew = skew ∧ t.coreId = h ∧ t.core.link.fused = true ∧ t.core.link.rank = some (h % 8) ∧
          t.core.wait = .none) ∧
      (k = .rejoin →
        ∃ t : State, exec (.chimneyLineHigh false) s = .next t ∧ (t.streetAt (streetOf h)).mode = 1 ∧
          (t.streetAt (streetOf h)).skew = st.skew ∧ t.coreId = h ∧ t.core.link.fused = true ∧
          t.core.link.rank = some (h % 8) ∧ t.core.wait = .none) ∧
      (k = .sbar →
        ∃ t : State, exec (.chimneyLineHigh false) s = .next t ∧ (t.streetAt (streetOf h)).mode = st.mode ∧ t.coreId = h ∧
          t.core.wait = .none)) ∧
    (h ∈ z.squareStreets.flatMap z.members → z.squareOver = true →
      ∃ t : State, exec (.chimneyLineHigh true) s = .next t ∧ t.coreId = h ∧ t.core.wait = .none) ∧
    (z.pairOver = true →
      ∃ t : State, exec .pairLineMeet s = .next t ∧ t.core.link.paired = true ∧ t.core.wait = .none ∧
        (t.coreAt (partnerOf h)).link.paired = true ∧ (t.coreAt (partnerOf h)).wait = .none) ∧
    (z.core.wait = .halting → z.core.fly = [] → z.core.priv = false →
      ∃ t : State, exec .haltComplete s = .next t ∧ t.coreId = h ∧ t.core.mode = .free ∧ t.core.wait = .none ∧
        t.core.q = [] ∧ t.core.win = [] ∧
        (∀ l ∈ z.launches, l.id = z.core.task.launch → { l with ended := l.ended + 1 } ∈ t.launches))

/-- R288, R292: an atomic on a word that holds no uncorrectable error is one step of the word's order: the word takes the
operation's new value, and the request its old one. R297: DQPUSH fills a deque's bottom unless 256 entries stand in
it, DQPOP takes the bottom and DQSTEAL the top, and an empty deque answers with status 1, where the deque's words hold
no uncorrectable error (R302). R288, R294, R296: a request that may be performed is performed by its engine; its reply
gives its element to the stream register that awaits it, or ends the WAITA that made it. The model's choices: a flaw
of kind 1 is how the model holds an uncorrectable error of a word or an entry (log 109), and the answers to operations
on such words are log 47's. -/
def Obligations.RequestsPerformAndReturn : Prop :=
  (∀ (s : State) (r : SyncReq),
      let x := s.wordAt (syncDie r.addr) (syncIndex r.addr)
      let w := x.val
      let b := r.b
      let t := s.performWord r
      x.flaw.kind ≠ 1 →
      (∀ q ∈ t.reqs, q.id = r.id → q.done = true ∧ q.val = w ∧ q.status = 0) ∧
      (let v := (t.wordAt (syncDie r.addr) (syncIndex r.addr)).val
       (r.op = 0x20 → v = w + b) ∧
       (r.op = 0x21 → v = if r.uns then (if b < w then b else w) else if b.slt w then b else w) ∧
       (r.op = 0x22 → v = if r.uns then (if w < b then b else w) else if w.slt b then b else w) ∧
       (r.op = 0x23 → v = w &&& b) ∧ (r.op = 0x24 → v = w ||| b) ∧ (r.op = 0x25 → v = w ^^^ b) ∧ (r.op = 0x26 → v = b) ∧
       (r.op = 0x27 → v = if w = b then r.b1 else w) ∧ (r.op = 0x28 → v = w) ∧ (r.op = 0x29 → v = b))) ∧
  (∀ (s : State) (r : SyncReq),
      let d := syncDie r.addr
      let i := syncIndex r.addr
      let q := s.dequeAt d i
      let n := (q.bottom - q.top).toNat
      let t := s.performDeque r
      let q' := t.dequeAt d i
      let answers (v : W64) (st : Nat) : Prop := ∀ x ∈ t.reqs, x.id = r.id → x.done = true ∧ x.val = v ∧ x.status = st
      let good (k : Nat) : Prop := ((s.dieAt d).flawAt (1, i, k)).kind ≠ 1
      good 0 →
      (r.op = 0x2D → n = 256 → answers 0 2 ∧ q' = q) ∧
      (r.op = 0x2D → n ≠ 256 → answers 0 0 ∧ q'.bottom = q.bottom + 1 ∧ q'.top = q.top ∧
        (Store.get (0, []) q'.entries (q.bottom.toNat % 256)).1 = r.b) ∧
      (r.op = 0x2E → n = 0 → answers 0 1 ∧ q' = q) ∧
      (r.op = 0x2E → n ≠ 0 → good ((q.bottom - 1).toNat % 256 + 1) → answers (Store.get (0, []) q.entries ((q.bottom - 1).toNat % 256)).1 0 ∧
        q'.bottom = q.bottom - 1 ∧ q'.top = q.top) ∧
      (r.op = 0x2F → n = 0 → answers 0 1 ∧ q' = q) ∧
      (r.op = 0x2F → n ≠ 0 → good (q.top.toNat % 256 + 1) → answers (Store.get (0, []) q.entries (q.top.toNat % 256)).1 0 ∧
        q'.top = q.top + 1 ∧ q'.bottom = q.bottom)) ∧
  (∀ (n : Nat) (s : State) (r : SyncReq),
      (s.diePresent s.unit = true → s.reqs.find? (fun r => r.id == n && syncDie r.addr == s.unit) = some r →
        s.canPerform r = true → exec (.atomicPerform n) s = .next ((s.performSync r).tryAllNamed s.unit)) ∧
      (s.hearthOk s.unit = true →
        let z := s.there
        z.reqs.find? (fun r => r.id == n && r.hearth == z.coreId && r.done) = some r → z.ownReq r = true →
        ((∀ pd issued t inv k, z.core.wait ≠ .waita n pd issued t inv k) → isAcquire r.order = false →
          ∃ t : State, exec (.atomicAck n) s = .next t ∧ (∀ x ∈ t.reqs, x.id ≠ n) ∧ t.core.regs = z.core.regs ∧
            (∀ q, r.ret = some q → ∀ e ∈ t.core.qOf q, e.req = n → e.j = 0 →
              e.data = some r.element ∧ e.mark = r.elemMark)) ∧
        (∀ pd issued t inv, z.core.wait = .waita n pd issued t inv false →
          exec (.atomicAck n) s = .next (z.endWaita r (r.val != 0) r.got inv))))

/-! ## Dispatch, phases and residency -/

/-- R329, R330, R15, R31, R88: TASK_PLACE starts the best ready task on the first free hearth of its partition, with the
start values of a task, and nowhere else; without a free shape it requests pre-emption. TASK_RESUME puts an image
back. PRIORITY_AGING raises what waits by one. The model's choice (log 50): of the free hearths the first one that
fits is taken. -/
def Obligations.TasksArePlaced : Prop :=
  (∀ (s : State) (l : Launch) (h : Nat), s.diePresent s.unit = true →
    s.nextCand s.unit = some (.fresh l, l, 0) → l.code.fuseReq = false → s.shapeFor l 0 [] = some [h] →
    ∃ t : State, exec .taskPlace s = .next t ∧ (∀ g, g ≠ h → t.coreAt g = s.coreAt g) ∧
      t.launches = s.launches.map (fun x => if x.id = l.id then { x with next := x.next + 1, asked := false } else x) ∧
      t.nextId = s.nextId + 1 ∧ t.streets = s.streets ∧ t.recs = s.recs ∧
      (t.coreAt h).mode = .running ∧ (t.coreAt h).task.launch = l.id ∧ (t.coreAt h).task.ord = l.next ∧
      (t.coreAt h).task.wid = BitVec.ofNat 64 (widOf l.widths l.extents l.next) ∧ (t.coreAt h).code = l.code ∧
      (t.coreAt h).seq.pc = l.code.entry ∧ (t.coreAt h).fly = [] ∧ (t.coreAt h).wait = .none ∧
      (∀ n, n < 64 → (t.coreAt h).readX n = 0) ∧ (∀ n, n < 32 → (t.coreAt h).readX (64 + n) = (l.kvals[n]?).getD 0) ∧
      (∀ n, (t.coreAt h).readP n = (n == 0)) ∧
      (t.coreAt h).pad.mem = (s.coreAt h).pad.mem ∧ (t.coreAt h).st.srkey = l.seed) ∧
  (∀ (s : State) (l : Launch) (n : Nat) (base : List Nat), s.diePresent s.unit = true →
    s.nextCand s.unit = some (.fresh l, l, n) →
    (s.shapeFor l n [] = some base → exec .taskPlace s = .next (s.placeFresh l base)) ∧
    (s.shapeFor l n [] = none → l.asked = true → exec .taskPlace s = .next s) ∧
    (s.shapeFor l n [] = none → exec .taskPlace s = .next (s.askFor (.fresh l) l n))) ∧
  (∀ (s : State) (r : Ready) (l : Launch) (n : Nat) (base : List Nat), s.diePresent s.unit = true →
    s.nextCand s.unit = some (.back r, l, n) → s.shapeOf l (.back r) n [] = some base →
    exec .taskResume s = .next (s.placeImages l (s.groupImages l r) base) ∧
    (∀ h, n = 0 → base = [h] → l.code.fuseReq = false → s.groupImages l r = [r] →
      ∃ t : State, exec .taskResume s = .next t ∧ (∃ clk, t.coreAt h = (s.coreAt h).resumeImage r.image s.nextId clk) ∧
        (∀ g, g ≠ h → t.coreAt g = s.coreAt g) ∧ t.ready = s.ready.filter (fun x => !decide (x = r)))) ∧
  (∀ (n : Nat) (s : State), ∃ t : State, exec (.priorityAging n) s = .next t ∧ t.core = s.core ∧ t.others = s.others ∧
    (s.unit = 0 → t.ready = s.ready ∧
      t.launches = s.launches.map fun l => if l.id = n ∧ l.next < l.total then { l with cur := l.cur - 1 } else l) ∧
    (s.unit ≠ 0 → t.launches = s.launches ∧
      t.ready = s.ready.map fun r =>
        if r.image.task.launch = n ∧ r.image.task.ord + 1 = s.unit then { r with cur := r.cur - 1 } else r))

/-- R260, R262, R263, R264, R332: a request marks the task's whole group; a task that may land does, or sends its fused
street on to a later boundary; the landed hearth writes the image and is free; and a partition is swapped once every
image has been written, the images going into their hearths' empty slots. The model's choices: a swap that exchanges
images with empty slots of the shadow region and frees the hearth (log 94), the landing of a fused street that goes on
while a group is open (logs 59, 60), and the queue's entries that leave with an image (log 102). -/
def Obligations.PreemptionSavesAndSwaps : Prop :=
  (∀ s : State, s.hearthOk s.unit = true →
    let z := s.there
    ∃ t : State, exec .preemptRequest s = .next t ∧
      ∀ g, (g ∈ z.withGroup z.coreId → (z.coreAt g).mode = .running →
            (t.coreAt g).mode = .preempting ∧ (t.coreAt g).regs = (z.coreAt g).regs ∧ (t.coreAt g).pad = (z.coreAt g).pad) ∧
        (g ∉ z.withGroup z.coreId → t.coreAt g = z.coreAt g)) ∧
  (∀ s : State, s.hearthOk s.unit = true →
    let z := s.there
    (z.canLand = true → z.core.mat.grp = 0 → exec .preemptLand s = .next (z.mapCore fun c => { c with mode := .landed })) ∧
    (z.canLand = true → z.core.mat.grp ≠ 0 →
      let leader := streetOf z.coreId * 8 + (z.streetAt (streetOf z.coreId)).leader
      ∃ t : State, exec .preemptLand s = .next t ∧ t.core = z.core ∧
        (∀ g ∈ z.fusedWith z.coreId, (z.coreAt g).mode = .landed →
          (t.coreAt g).mode = .preempting ∧ (t.coreAt g).regs = (z.coreAt g).regs ∧
          (g = leader → (t.coreAt g).seq.edge = false)) ∧
        (∀ g, (g ∉ z.fusedWith z.coreId ∨ (z.coreAt g).mode ≠ .landed) → t.coreAt g = z.coreAt g)) ∧
    (z.canLand = false → exec .preemptLand s = .next z)) ∧
  (∀ s : State, s.hearthOk s.unit = true →
    let z := s.there
    z.core.mode = .landed → z.core.delivered = true → z.allLanded = true →
    let swap := match z.myCtx with | some c => (Store.get none c.newMask z.die).isSome | none => false
    (swap = true → exec .contextImageWrite s = .next (z.mapCore fun c => { c with mode := .saved })) ∧
    (swap = false →
      ∃ (t : State) (r : Ready) (w : W64), exec .contextImageWrite s = .next t ∧ t.core.mode = .free ∧ t.core.pad = z.core.pad ∧
        t.core.eng = z.core.engineLeft ∧ t.ready.getLast? = some r ∧
        t.ready.map (·.image.task) = z.ready.map (·.image.task) ++ [z.core.task] ∧ r.cur = z.core.task.pri ∧
        r.image = { z.core.image with mat := { z.core.mat with fill := z.core.mat.fill.map fun f => { f with pins := [] } },
                                      st := { z.core.st with einj := w } } ∧
        (∀ g, g ≠ z.coreId → (t.coreAt g).regs = (z.coreAt g).regs ∧ (t.coreAt g).pad = (z.coreAt g).pad ∧
          (t.coreAt g).mode = (z.coreAt g).mode))) ∧
  (∀ (id : Nat) (s : State) (c : Context) (m : Nat), s.diePresent s.unit = true → s.ctx? id = some c →
    Store.get none c.newMask s.unit = some m → s.allSaved id s.unit = true →
    ∃ (t : State) (c' : Context), exec (.partitionSwap id) s = .next t ∧ t.ctx? id = some c' ∧
      Store.get 0 c'.masks s.unit = m ∧ Store.get none c'.newMask s.unit = none ∧
      (∀ d, d ≠ s.unit → Store.get 0 c'.masks d = Store.get 0 c.masks d) ∧
      (s.shadow = [] → ∀ h, h / 64 = s.unit → (bit (Store.get 0 c.masks s.unit) (h % 64) || bit m (h % 64)) = true →
        (s.coreAt h).mode = .saved → (s.coreAt h).task.ctx = id →
        (t.coreAt h).mode = .free ∧ ∃ r, Store.get none t.shadow h = some r ∧ r.image.regs = (s.coreAt h).image.regs ∧
          r.image.task = (s.coreAt h).task))

/-- R298, R323, R327, R328, R379: a launch that has ended writes its slot and signals; a waiting post enters a mailbox
with room; a message of an idle bound mailbox launches its handler with the message in k0 and the mailbox in k1. The
model's choice (log 54): a recipe's records are issued one after another, the next one when the launch before it
completes. -/
def Obligations.LaunchesAndMailboxes : Prop :=
  (∀ (s : State) (l : Launch), s.launch? s.unit = some l → s.launchDone l = true →
    let z := ({ s with launches := s.launches.filter fun x => x.id != l.id } : State).pruneSpec l.die
    (∀ st serial n x, l.dst = .slot st serial n → z.streamAt st = some x → x.serial = serial →
      (Store.get LaunchSlot.empty x.slots n).launch = l.id →
      exec .launchComplete s = .next
        (let w := z.setSlot st serial n ⟨if l.nfail = 0 then 0 else 0x10, l.cause, l.nfail, l.ford, 0⟩
         let w' := if l.nfail = 0 then w else w.keepFailure l.ctx st n 0x10
         (w'.signal noTask l.ctx l.die l.sigKind l.sigId (BitVec.ofNat 64 n) []).tryAllNamed l.die)) ∧
    (∀ m, l.dst = .handler m → l.nfail = 0 →
      ∃ t : State, exec .launchComplete s = .next t ∧ (t.boxAt l.die m) = { z.boxAt l.die m with busy := false }) ∧
    (∀ h r, l.dst = .recipe h → z.recAt l.ctx h = some r →
      exec .launchComplete s = .next
        ([0, 1, 2, 3].foldl State.tryAllNamed (if l.nfail = 0 then z.reissue r else z.endRebuild r false)))) ∧
  (∀ (m : Nat) (s : State) (req : Nat) (msg : W64) (known : List Tag) (rest : List (Nat × W64 × List Tag)),
    s.diePresent s.unit = true → (s.boxAt s.unit m).waiting = (req, msg, known) :: rest → (s.boxAt s.unit m).queue.length < 16 →
    ∃ t : State, exec (.mailboxPost m) s = .next t ∧
      (t.boxAt s.unit m).queue = (s.boxAt s.unit m).queue ++ [(msg, known)] ∧ (t.boxAt s.unit m).waiting = rest ∧
      (req ≠ 0 → ∀ r ∈ t.reqs, r.id = req → r.done = true ∧ r.status = 0)) ∧
  (∀ (m : Nat) (s : State) (pri kernel args ctx : Nat) (msg : W64) (known : List Tag) (rest : List (W64 × List Tag)),
    let d := s.unit
    let b := s.boxAt d m
    let z := s.putBox d m { b with queue := rest, busy := true }
    let a : Ask := ⟨ctx, d, kernel, args, pri, .handler m, 0, 0, some (msg.toNat, m), known⟩
    s.diePresent d = true → b.bound = some (pri, kernel, args, ctx) → b.busy = false → b.closing = false →
    b.queue = (msg, known) :: rest → s.awaits ctx kernel args = [] →
    (((z.readAsk a).checkAsk a).2.isSome = true →
      ∃ (t : State) (l : Launch), exec (.mailboxHandlerLaunch m) s = .next t ∧ l ∈ t.launches ∧ l.dst = .handler m ∧
        l.kvals[0]? = some (BitVec.ofNat 64 msg.toNat) ∧ l.kvals[1]? = some (BitVec.ofNat 64 m) ∧ l.total = 1 ∧ l.pri = pri ∧
        (t.boxAt d m).queue = rest ∧ (t.boxAt d m).busy = true))

/-- R312, R326, R382, R383: the commit of a phase begins the next one and lets every stream that stands at PHASE go on; a
rollback ends the context's tasks and then restores pages, records and sync state. Neither happens early. The model's
choices (log 61): which records a rollback clears, and that scans of the context hold it back. -/
def Obligations.PhasesCommitAndRollBack : Prop :=
  ∀ (s : State) (c : Context), s.ctx? s.unit = some c →
    (s.canCommit s.unit = false → exec .phaseCommit s = .next s) ∧
    (s.canCommit s.unit = true → s.heldReady s.unit = true →
      let a := (List.range 16).foldl (fun s q => s.commitSquare c.id q) (s.performHeld c.id)
      let b := a.mapCtx c.id Context.nextPhase
      let d := b.dropReserve fun r => r.ctx == c.id
      let ph := match d.ctx? c.id with | some c => c.phase | none => 0
      exec .phaseCommit s = .next
        ((((State.sweep c.id ph d.recs.length d).clearRecords c.id).releaseEgress c.id).passPhase c.id)) ∧
    (c.nextPhase.phase = c.phase + 1 ∧ c.nextPhase.satCnt = 0 ∧ c.nextPhase.rdrFull = false ∧ c.nextPhase.mapFull = false ∧
      c.nextPhase.masks = c.masks ∧ c.nextPhase.cstep = c.cstep) ∧
    (c.rollback = false → exec .rollback s = .next s) ∧
    (c.rollback = true →
      let z := s.endTasks c.id
      (z.ctxBusy c.id = true → exec .rollback s = .next z) ∧
      (z.ctxBusy c.id = false → z.scans.any (fun j => j.ctx == c.id) = false → c.lost = false → c.dirtyOut = [] →
        c.egressGone = [] →
        let x := ((((z.restorePages c.id).restoreRecs c.id c.phase).restoreSync c).restartStreams c).clearRecords c.id
        ∃ t : State, exec .rollback s = .next t ∧ t.recs = x.recs ∧ t.dies = x.dies ∧ t.core = x.core ∧
          (∀ c', t.ctx? c.id = some c' → c'.rollback = false ∧ c'.savedWords = [] ∧ c'.savedDeques = [] ∧ c'.savedNamed = [])))

/-- R379: MakeResident returns a spilled tensor to its placement tier where it finds room, starts the recipe of a dropped
one whose inputs, stream, kernels and argument blocks are resident, sets RFAIL where there is no room or no recipe,
and leaves a resident or failed tensor alone; then ready named tasks try their slots. The model's choices: which
tensors of a recipe are made resident, and in which order (log 93), and the references that a recipe keeps from the
time it is bound (log 54). -/
def Obligations.TensorsMadeResident : Prop :=
  ∀ (id h : Nat) (s : State),
    let leads (t : State) : Prop := exec (.makeResident id h) s = .next ([0, 1, 2, 3].foldl State.tryAllNamed t)
    (s.recAt id h = none → leads s) ∧
    (∀ r, s.recAt id h = some r →
      (r.away = false → leads s) ∧
      (r.away = true → r.rfail = true → leads s) ∧
      (r.away = true → r.rfail = false → r.rebuild = 0 → r.tier = .lpddr →
        let place := s.placeIn id h r.home (r.place == 0) r.footprint r.footprint
        (∀ pages, place.1 = some pages →
          leads ((place.2.dropLines r).relocate id h fun x => { x with tier := x.atPlace, pages := pages })) ∧
        (place.1 = none → leads (place.2.failResident id h))) ∧
      (r.away = true → r.rfail = false → r.rebuild = 0 → r.tier ≠ .lpddr → r.recipe = none → leads (s.failResident id h)) ∧
      (∀ p, r.away = true → r.rfail = false → r.rebuild = 0 → r.tier ≠ .lpddr → r.recipe = some p →
        (∀ i ∈ p.inputs ++ [p.stream] ++ s.recipeRefs id p, ∃ q, s.recAt id i = some q ∧ q.away = false) →
        let z := s.useRecs id (h :: s.recipeRefs id p)
        let place := z.placeIn id h r.home (r.place == 0) r.fullFootprint r.fullFootprint
        let x : Rec := { r with rebuild := 1, redo := some { p with refs := (s.recipeRefs id p).drop p.names.length } }
        let y := (place.2.untranslate id h).mapRec id h fun q =>
          { q with moving := true, rebuild := 1, redo := x.redo, pages := place.1.getD [] }
        leads (if place.1.isSome then (y.freePages x).reissue x else y.endRebuild x false)))

/-- R392, R393, R394: the head of a port takes a tag that is free in its pseudo-channel; a read that is performed answers
with the decrypted granule, its status and check value; a whole write of good data stores the granule with its check
value; a reply frees the tag. R397: SCAN_COMPLETE writes the header and the pairs of the first CAP elements that pass,
in ascending index, and the scan ends (an index past 32 bits stands by its low 32: log 112, the model's choice); a
scan waits whose result must first be made resident, or behind an earlier scan of one of its channels (R395). The
model's choices: a scan waits while its result must be made resident or a dropped tensor depends on it (log 72), and
pairs hold the low 32 bits of an index (log 112). -/
def Obligations.HbmPortAndScans : Prop :=
  (∀ s : State, s.diePresent (s.unit / 2) = true →
      let k := s.unit
      let x := s.stackAt k
      (∀ r, x.queue.find? (fun r => r.tag.isNone) = some r → x.freeTags r.pc ≠ [] →
        ∃ (t : State) (g : Nat), exec .hbmRequestSend s = .next t ∧ g ∈ x.freeTags r.pc ∧
          t.stackAt k = x.mapReq r.id (fun r => { r with tag := some g }) ∧ t.recs = s.recs ∧ t.core = s.core) ∧
      (∀ r, x.queue.find? (fun r => r.tag.isNone) = some r → x.freeTags r.pc = [] → exec .hbmRequestSend s = .next s) ∧
      (∀ n r, x.queue.find? (fun r => r.id == n) = some r → r.tag.isSome = true → r.reply = none →
        ((x.queue.takeWhile fun e => e.id != n).any fun e => e.gran == r.gran && e.reply.isNone) = false →
        (r.op = 0 →
          exec (.hbmRequestPerform n) s = .next ((s.correctCell k r.gran).setStack k
            (((s.correctCell k r.gran).stackAt k).mapReq n fun e => { e with reply := some (s.readCell k r.gran r.key) }))) ∧
        (r.op = 1 → r.flaw = Flaw.clean →
          ∃ t : State, exec (.hbmRequestPerform n) s = .next t ∧
            t.stackAt k = ((s.writeCell k r.gran r.key r.data Flaw.clean).stackAt k).mapReq n (fun e => { e with reply := some (0, 0, 0) }) ∧
            (∀ g, g ≠ r.gran → Store.get none (t.stackAt k).cells g = Store.get none x.cells g) ∧
            (∃ c, Store.get none (t.stackAt k).cells r.gran = some c ∧ c.flaw = Flaw.clean ∧
              c.check = checkValue (toBytes 64 r.data.toNat)))) ∧
      (∀ n r, x.queue.find? (fun r => r.id == n) = some r → r.reply.isSome = true →
        ∃ t : State, exec (.hbmReply n) s = .next t ∧
          t.stackAt k = { x with queue := x.queue.filter fun e => e.id != n } ∧ t.recs = s.recs)) ∧
  (∀ (s : State) (j : ScanJob) (r d : Rec), s.scans.find? (fun j => j.id == s.unit) = some j →
      s.recAt j.ctx j.o.src = some r → s.recAt j.ctx j.o.res = some d →
      ((s.scanBehind j = true ∨ d.moving = true ∨ (d.away = true ∧ d.rfail = false) ∨ (s.dependent j.ctx j.o.res).isSome = true) →
        exec .scanComplete s = .next s) ∧
      (s.scanBehind j = false → d.moving = false → (d.away = false ∨ d.rfail = true) → s.dependent j.ctx j.o.res = none →
        s.scanMarks j.o r = [] →
        let found := s.scanFound j.o r
        let kept := found.take j.o.cap
        let bytes := scanHeader 0 kept.length (min found.length (2 ^ 32 - 1)) ++ kept.flatMap fun e => toBytes 8 (e.1 % 2 ^ 32 + e.2 * 2 ^ 32)
        let z := (((s.sawScan j.o r).beforeWrite j.ctx j.o.res 0 bytes.length false).homeWrite j.ctx j.o.res 0 bytes).2
        exec .scanComplete s = .next
          ((({ z.unuseRecs j.ctx [j.o.src, j.o.res] with scans := z.scans.filter fun x => x.id != j.id } : State).signal
            noTask j.ctx j.die j.o.sigKind j.o.sigId 0x20 []).tryAllNamed j.die)))

/-! ## Operator-stream records -/

namespace Sys2Proof.Machine

/-- A stream takes the record at which it stands: it runs, in a context that is not being rolled back (R319). -/
abbrev State.takes (s : State) (st : StreamId) (x : Stream) (c : Context) : Prop :=
  s.streamAt st = some x ∧ s.ctx? x.ctx = some c ∧ x.canRun = true ∧ c.rollback = false

/-- A record has executed: its stream stands at the next one, or has ended (R318, R319). -/
def State.recordDone (t : State) (st : StreamId) : Host.Outcome State Fault Refusal := .next (t.mapStream st Stream.past)

/-- The wait of a stream at its record (R319). -/
def State.recordWaits (t : State) (st : StreamId) : Host.Outcome State Fault Refusal :=
  .next (t.mapStream st fun y => { y with run := .waiting })

/-- A stream faults at its record with a code (R321). -/
def State.recordFaults (t : State) (st : StreamId) (x : Stream) (code : Nat) : Host.Outcome State Fault Refusal :=
  .next (t.streamFault st x.ctx code)

end Sys2Proof.Machine

/-- R322 to R328, R341: what the launch, phase, named-task, mailbox and flush records do when their checks pass, with the
faults and waits that are stated. The model's choices: MBOXFREE answers the NOTIFYs that wait with status 3 (log 48),
a kernel or argument block that cannot be made resident is fault 0x07 (log 93), OPWAIT checks its result before it
waits (log 52), and how it waits for the result's residency (log 53). -/
def Obligations.LaunchRecordsExecute : Prop :=
  ∀ (s : State) (st : StreamId) (x : Stream) (c : Context), s.takes st x c →
    let z := s.taken st x
    (∀ o : OpLaunch, c.sigFault st.die o.sigKind o.sigId = none → z.slotBusy st x.serial o.slot = false →
      let near := z.reachAll x.ctx [o.kernel, o.args]
      (near.1 = .ok → exec (.oplaunch st o) s = State.recordDone (near.2.launchSlot
        ⟨x.ctx, st.die, o.kernel, o.args, o.pri, .slot st x.serial o.slot, o.sigKind, o.sigId, none, []⟩ st x.serial o.slot true)
          st) ∧
      (near.1 = .fail → exec (.oplaunch st o) s = near.2.recordFaults st x 0x07) ∧
      (near.1 = .pending → x.run = .running → exec (.oplaunch st o) s = near.2.recordWaits st)) ∧
    (∀ o : OpLaunch, c.sigFault st.die o.sigKind o.sigId = none → x.run = .running → z.slotBusy st x.serial o.slot = true →
      exec (.oplaunch st o) s = z.recordWaits st) ∧
    (∀ (o : OpLaunch) (n : Nat), c.sigFault st.die o.sigKind o.sigId = some n →
      exec (.oplaunch st o) s = z.recordFaults st x n) ∧
    (exec (.phase st) s = .next (z.mapStream st fun y => { y with run := .atPhase })) ∧
    (∀ o : TaskDef, exec (.taskdef st o) s =
      if c.allocated st.die 3 o.n then
        State.recordDone (z.putNamed st.die o.n
          { z.namedAt st.die o.n with defn := some ⟨x.ctx, st.slot, x.serial, o.slot, o.pri, o.kernel, o.args⟩ }) st
      else z.recordFaults st x 0x03) ∧
    (∀ n count : Nat, exec (.taskarm st n count) s =
      if c.allocated st.die 3 n = false then z.recordFaults st x 0x03
      else if (z.namedAt st.die n).defn = none then z.recordFaults st x 0x05
      else
        let y := z.namedAt st.die n
        State.recordDone ((z.setNamed x.ctx st.die n
          { y with count := count, armed := count != 0, ready := y.ready ++ if count = 0 then y.defn.toList else [] }).tryNamed st.die n) st) ∧
    (∀ (mask : Nat) (cont : Bool),
      let status (i : Nat) : Nat := (Store.get LaunchSlot.empty x.slots i).status
      (x.run = .running → (∃ i, i < 16 ∧ bit mask i = true ∧ (status i = 0xFE ∨ status i = 0xFF)) →
        exec (.opwait st mask cont 0) s = z.recordWaits st) ∧
      ((∀ i, i < 16 → bit mask i = true → status i ≠ 0xFE ∧ status i ≠ 0xFF) →
        ((cont = true ∨ ∀ i, i < 16 → bit mask i = true → status i = 0) →
          exec (.opwait st mask cont 0) s = z.recordDone st) ∧
        (cont = false → (∃ i, i < 16 ∧ bit mask i = true ∧ status i ≠ 0) →
          exec (.opwait st mask cont 0) s = z.recordFaults st x 0x06) ∧
        (∀ (h : Nat) (d : Rec), (∀ i, i < 16 → bit mask i = true → status i = 0) → h ≠ 0 → z.liveRec x.ctx h = some d →
          256 ≤ d.bytes → z.recAt x.ctx h = some d → d.away = false → z.dependent x.ctx h = none →
          let bytes := (List.range 16).flatMap fun i => (Store.get LaunchSlot.empty x.slots i).image
          exec (.opwait st mask cont h) s = State.recordDone
            ((z.beforeWrite x.ctx h 0 bytes.length false).homeWrite x.ctx h 0 bytes).2 st))) ∧
    (∀ o : MboxBind, exec (.mboxbind st o) s =
      if c.allocated st.die 2 o.m = false then z.recordFaults st x 0x03
      else if (z.boxAt st.die o.m).bound.isSome then z.recordFaults st x 0x05
      else State.recordDone
        (z.putBox st.die o.m { z.boxAt st.die o.m with bound := some (o.pri, o.kernel, o.args, x.ctx) }) st) ∧
    (∀ m : Nat, c.allocated st.die 2 m = true →
      let b := z.boxAt st.die m
      (b.bound = none → exec (.mboxfree st m) s = z.recordDone st) ∧
      (b.bound.isSome = true → b.busy = true → x.run = .running → exec (.mboxfree st m) s = z.recordWaits st) ∧
      (b.bound.isSome = true → b.busy = false →
        exec (.mboxfree st m) s = State.recordDone (b.waiting.foldl (fun s w => if w.1 = 0 then s else s.reply w.1 0 3 [] false)
          (z.putBox st.die m Mailbox.init)) st)) ∧
    (∀ (all : Bool) (h : Nat) (r : Rec), z.liveRec x.ctx h = some r → z.recAt x.ctx h = some r → r.away = false →
      exec (.specflush st all h) s = State.recordDone
        ((z.mapDie st.die fun y => { y with spec := y.spec.map fun e =>
          if e.ctx = x.ctx ∧ (all = true ∨ e.digest = r.digest) then { e with flushed := true } else e }).pruneSpec st.die) st) ∧
    (∀ h : Nat, z.liveRec x.ctx h = none → exec (.specflush st false h) s = z.recordFaults st x 0x08)

/-- R385 to R390: what the residency records do to the records they name when their checks pass, with the faults and waits
that are stated. The model's choice (log 32): TUSE with N = 0 is fault 0x02. -/
def Obligations.ResidencyRecordsExecute : Prop :=
  ∀ (s : State) (st : StreamId) (x : Stream) (c : Context), s.takes st x c →
    let z := s.taken st x
    let keyOk (n : Nat) : Bool := (Store.get KeySlot.empty z.keys n).valid &&
      (Store.get KeySlot.empty z.keys n).owner == x.ctx && n != 0
    (∀ o : TDecl,
      let r := TDecl_record o x.ctx c.phase
      (TDecl_bad o (z.diePresent o.die) = true → exec (.tdecl st o) s = z.recordFaults st x 0x02) ∧
      (TDecl_bad o (z.diePresent o.die) = false →
        (keyOk o.key = false → exec (.tdecl st o) s = z.recordFaults st x 0x03) ∧
        (keyOk o.key = true → (z.recAt x.ctx o.handle).isSome = true → exec (.tdecl st o) s = z.recordFaults st x 0x05) ∧
        (keyOk o.key = true → z.recAt x.ctx o.handle = none →
          let place := z.placeIn x.ctx o.handle o.die (o.place == 0) r.fullFootprint r.fullFootprint
          (place.1 = none → exec (.tdecl st o) s = place.2.recordFaults st x 0x07) ∧
          (∀ pages, place.1 = some pages → exec (.tdecl st o) s = State.recordDone
            (({ place.2 with recs := place.2.recs ++ [{ r with pages := pages }] } : State).storeCells x.ctx o.handle) st)))) ∧
    (∀ us : List (Nat × Nat), us ≠ [] → (∀ u ∈ us, u.1 ≠ 0) →
      ((∀ u ∈ us, (z.liveRec x.ctx u.1).isSome = true) → exec (.tuse st us) s = State.recordDone (us.foldl (fun s u =>
        s.mapRec x.ctx u.1 fun r => { r with nextUse := if u.2 = 4095 then costOff else (c.cstep + u.2) % 2 ^ 32 }) z) st) ∧
      ((∃ u ∈ us, z.liveRec x.ctx u.1 = none) → exec (.tuse st us) s = z.recordFaults st x 0x08)) ∧
    (∀ us : List (Nat × Nat), (us = [] ∨ ∃ u ∈ us, u.1 = 0) → exec (.tuse st us) s = z.recordFaults st x 0x02) ∧
    (∀ (o : TRecipe) (r : Rec),
      let inputs := [o.in0, o.in1, o.in2, o.in3].take o.nin
      o.nin ≤ 4 → o.off % 32 = 0 → o.off < 2 ^ 27 → o.target ≠ 0 → o.stream ≠ 0 → (∀ h ∈ inputs, h ≠ 0) →
      (z.liveRec x.ctx o.target).isSome = true → (∀ h ∈ inputs, (z.liveRec x.ctx h).isSome = true) →
      z.liveRec x.ctx o.stream = some r → z.recAt x.ctx o.stream = some r → r.away = false → o.off + 32 * (o.nrec + 1) ≤ r.bytes →
      let y := z.asRead r
      let z' := z.homeFetch x.ctx o.stream o.off (32 * (o.nrec + 1))
      let p : Recipe := ⟨o.stream, o.off, o.nrec + 1, o.work, inputs, []⟩
      (∀ i, i < o.nrec + 1 → ∃ l : OpLaunch,
        decodeRecord st ((List.range 8).map fun j => y.word (o.off + 32 * i + 4 * j) 4) = some (.oplaunch st l) ∧
        l.sigKind = 0 ∧ (z'.liveRec x.ctx l.kernel).isSome = true ∧ (z'.liveRec x.ctx l.args).isSome = true) →
      exec (.trecipe st o) s = State.recordDone (z'.mapRec x.ctx o.target fun t =>
        { t with recipe := some { p with refs := y.refsOf p }, rcp := true, rfail := false }) st) ∧
    (∀ (h : Nat) (r : Rec), h ≠ 0 → z.liveRec x.ctx h = some r →
      (r.pins ≠ 0 → exec (.trelease st h) s = z.recordFaults st x 0x05) ∧
      (r.pins = 0 → x.run = .running → (r.running = true ∨ r.moving = true) → exec (.trelease st h) s = z.recordWaits st) ∧
      (r.pins = 0 → r.running = false → r.moving = false →
        exec (.trelease st h) s = State.recordDone ((z.dropLines r).mapRec x.ctx h fun r =>
          { r with live := false, retained := true, releasedIn := some c.phase }) st) ∧
      (r.pins = 0 → exec (.tunpin st h) s = z.recordFaults st x 0x05) ∧
      (r.pins ≠ 0 → exec (.tunpin st h) s =
        State.recordDone (z.mapRec x.ctx h fun r => { r with pins := r.pins - 1 }) st) ∧
      (∀ tier, tier < 3 → r.pins < 255 → r.rfail = false → r.away = false → r.packed = 0 → z.recAt x.ctx h = some r →
        (if tier = 0 then r.place == 0 else tier == 1) = r.inPool → r.inPool = !r.inHbm →
        exec (.tpin st tier h) s = State.recordDone (z.mapRec x.ctx h fun r => { r with pins := r.pins + 1 }) st) ∧
      (∀ tier, tier < 3 → r.pins = 0 → r.rfail = false →
        let into := z.intoTier x.ctx h (if tier = 0 then r.place == 0 else tier == 1)
        (into.1 = .ok → exec (.tpin st tier h) s =
          State.recordDone (into.2.mapRec x.ctx h fun r => { r with pins := r.pins + 1 }) st) ∧
        (into.1 = .fail → exec (.tpin st tier h) s = into.2.recordFaults st x 0x07) ∧
        (into.1 = .pending → x.run = .running → exec (.tpin st tier h) s = into.2.recordWaits st)) ∧
      exec (.tpin st 3 h) s = z.recordFaults st x 0x02) ∧
    (∀ h, z.liveRec x.ctx h = none → exec (.trelease st h) s = z.recordFaults st x (if h = 0 then 0x02 else 0x08) ∧
      exec (.tunpin st h) s = z.recordFaults st x (if h = 0 then 0x02 else 0x08)) ∧
    (∀ (h q : Nat) (d : Rec), h ≠ 0 → q ≠ 0 → z.liveRec x.ctx q = some d → 64 ≤ d.bytes → z.recAt x.ctx q = some d →
      d.away = false → z.dependent x.ctx q = none →
      exec (.tquery st h q) s = State.recordDone
        ((z.beforeWrite x.ctx q 0 64 false).homeWrite x.ctx q 0
          (toBytes 64 (match z.recAt x.ctx h with | some r => r.recordImage (z.written r) | none => 0))).2 st)

/-- R318, R319: a record that has executed moves its stream on by 32 bytes, and the stream ends at the end of its range. A
fault stops it at the record with its code (R321). R396, R437, R438: a SCAN starts a scan of a tensor that lies
unpacked in HBM; TEXPORT opens a free window and pins its tensor; TREVOKE waits until its window has drained. The
model's choices: the layout of an event word (log 18), a SCAN of count 0 as fault 0x02 (log 52), and fault 0x02 of
TEXPORT for a tensor pinned in a tier other than its placement (log 113). -/
def Obligations.StreamsScansAndWindows : Prop :=
  ((∀ (t : State) (st : StreamId) (x : Stream), t.streamAt st = some x →
      ∃ (u : State) (y : Stream), t.recordDone st = .next u ∧ u.streamAt st = some y ∧ y.off = x.off + 32 ∧
        y.slots = x.slots ∧ y.handle = x.handle ∧ (y.run = .ended ↔ x.stop_ ≤ x.off + 32) ∧
        (x.off + 32 < x.stop_ → y.run = .running) ∧ u.recs = t.recs ∧ u.core = t.core ∧ u.launches = t.launches ∧
        ∀ st', st' ≠ st → u.streamAt st' = t.streamAt st') ∧
    (∀ (t : State) (st : StreamId) (x : Stream) (c : Context) (n : Nat), t.streamAt st = some x → t.ctx? x.ctx = some c →
      ∃ (u : State) (y : Stream) (d : Context), t.recordFaults st x n = .next u ∧ u.streamAt st = some y ∧
        y.run = .faulted n ∧ y.off = x.off ∧ u.recs = t.recs ∧ u.ctx? x.ctx = some d ∧
        d.events = c.events ++ [eventWord 1 st.die st.slot n])) ∧
  (∀ (s : State) (st : StreamId) (x : Stream) (c : Context), s.takes st x c →
      let z := s.taken st x
      (∀ o : Scan, Scan_bad o = true → exec (.scan st o) s = z.recordFaults st x 0x02) ∧
      (∀ (o : Scan) (r d : Rec), Scan_bad o = false → c.sigFault st.die o.sigKind o.sigId = none →
        z.liveRec x.ctx o.src = some r → z.liveRec x.ctx o.res = some d → r.fmt = o.fmt → r.raw = false →
        o.first + o.count ≤ r.elems → 64 + 8 * o.cap ≤ d.bytes → z.recAt x.ctx o.src = some r → r.tier = .hbm → r.packed = 0 →
        exec (.scan st o) s = State.recordDone
          { z.useRecs x.ctx [o.src, o.res] with nextId := z.nextId + 1, scans := z.scans ++ [⟨z.nextId, st.die, x.ctx, o⟩] } st) ∧
      (∀ (o : Scan) (r d : Rec), Scan_bad o = false → c.sigFault st.die o.sigKind o.sigId = none →
        z.liveRec x.ctx o.src = some r → z.liveRec x.ctx o.res = some d → r.fmt = o.fmt → r.raw = false →
        o.first + o.count ≤ r.elems → 64 + 8 * o.cap ≤ d.bytes → (r.pins = 0 ∨ r.inPool = false) →
        let into := z.intoTier x.ctx o.src false
        (into.1 = .ok → exec (.scan st o) s = State.recordDone
          { into.2.useRecs x.ctx [o.src, o.res] with
            nextId := into.2.nextId + 1, scans := into.2.scans ++ [⟨into.2.nextId, st.die, x.ctx, o⟩] } st) ∧
        (into.1 = .fail → exec (.scan st o) s = into.2.recordFaults st x 0x07) ∧
        (into.1 = .pending → x.run = .running → exec (.scan st o) s = into.2.recordWaits st)) ∧
      (∀ (o : TExport) (r : Rec), o.acc ≠ 0 → o.count ≠ 0 → o.handle ≠ 0 → z.liveRec x.ctx o.handle = some r →
        z.recAt x.ctx o.handle = some r → o.first + o.count ≤ ceilDiv r.bytes 64 → r.pins ≠ 255 →
        (c.owner = none → exec (.texport st o) s = z.recordFaults st x 0x03) ∧
        (c.owner.isSome = true → (z.windowAt o.w).state ≠ 0 → exec (.texport st o) s = z.recordFaults st x 0x05) ∧
        (c.owner.isSome = true → (z.windowAt o.w).state = 0 → r.pins ≠ 0 → (if r.place = 0 then r.inPool else r.inHbm) = false →
          exec (.texport st o) s = z.recordFaults st x 0x02) ∧
        (c.owner.isSome = true → (z.windowAt o.w).state = 0 → (r.pins = 0 ∨ (if r.place = 0 then r.inPool else r.inHbm) = true) →
          r.rfail = true → exec (.texport st o) s = z.recordFaults st x 0x07) ∧
        (c.owner.isSome = true → (z.windowAt o.w).state = 0 → r.rfail = false → r.packed = 0 → (r.place = 0 → r.tier = .pool) →
          (r.place ≠ 0 → r.tier = .hbm) →
          exec (.texport st o) s = State.recordDone
            ((z.mapRec x.ctx o.handle fun r => { r with pins := r.pins + 1 }).setWindow o.w
              ⟨1, o.acc, x.ctx, o.peer, o.first, o.count, o.handle, none⟩) st)) ∧
      (∀ w : Nat,
        let y := z.windowAt w
        (y.revoker = some st → y.state = 3 →
          exec (.trevoke st w) s = State.recordDone (z.setWindow w { y with revoker := none }) st) ∧
        (y.revoker = none → y.state = 1 → y.ctx = x.ctx → x.run = .running →
          exec (.trevoke st w) s = State.recordWaits (z.setWindow w { y with revoker := some st }) st) ∧
        (y.revoker = none → (y.state ≠ 1 ∨ y.ctx ≠ x.ctx) → exec (.trevoke st w) s = z.recordFaults st x 0x05)))

/-! ## The host and the firmware executive -/

namespace Sys2Proof.Machine

/-- A command packet that the executive performs: STATE 4, no earlier packet of its queue unfinished, its queue not stopped at it,
and an entry whose fields and buffers are in order (R403, R405, R409). -/
abbrev State.serves (s : State) (self : Instr) (k : Packet) : Prop :=
  s.host.state = 4 ∧ s.queueAhead self k = false ∧ s.stoppedAt k = false ∧ k.bad = false ∧ Packet_bufsOk k = true

/-- The state in which a command is performed: its buffers have been flushed as their modes say (R409). -/
def State.flushed (s : State) (k : Packet) : State := k.bufs.foldl State.flushBuffer s

/-- A command answers with a completion status (R409). -/
def State.answers (t : State) (self : Instr) (k : Packet) (status : Nat) : Host.Outcome State Fault Refusal :=
  .next (t.finish self k status)

end Sys2Proof.Machine

/-- R409: a completed packet has its index and status written to its completion address, with the context's event flag in
the place that the model gives it (log 18) where the packet is of the context's first queue; a packet whose entry is
ill-formed completes with status 0x01, one with buffers out of range with 0x02. The model's choices: status 0x02 for
buffers out of range (log 64), and the order of the checks of a packet (log 65). -/
def Obligations.CommandsComplete : Prop :=
  (∀ (t : State) (self : Instr) (k : Packet) (status : Nat),
    ∃ u : State, t.answers self k status = .next u ∧ (∀ i, i ∈ u.host.started → i ∈ t.host.started) ∧ u.core = t.core ∧
      u.recs = t.recs ∧ u.keys = t.keys ∧ u.dies = t.dies ∧
      ((k.queue ≠ 0 ∨ ∀ c ∈ t.contexts, c.slot ≠ k.slot) →
        u.host.mem = t.host.mem.writeN k.caddr (toBytes 8 (k.index * 256 + status)) ∧ u.contexts = t.contexts) ∧
      (∀ c, k.queue = 0 → t.contexts.find? (fun c => c.slot == k.slot) = some c →
        u.host.mem = t.host.mem.writeN k.caddr (toBytes 8 (k.index * 256 + status + if c.flag then 0x80 else 0)))) ∧
  (∀ (k : Packet) (id : Nat) (s : State), s.host.state = 4 → s.queueAhead (.contextCreate k id) k = false →
    (s.stoppedAt k = true → exec (.contextCreate k id) s = s.answers (.contextCreate k id) k 0x06) ∧
    (s.stoppedAt k = false → k.bad = true → exec (.contextCreate k id) s = s.answers (.contextCreate k id) k 0x01) ∧
    (s.stoppedAt k = false → k.bad = false → Packet_bufsOk k = false → exec (.contextCreate k id) s = s.answers (.contextCreate k id) k 0x02)) ∧
  (∀ (k : Packet) (id : Nat) (s : State), s.host.state ≠ 4 → exec (.contextCreate k id) s = .next s)

/-- R405 to R409, R263, R318: what the context, partition and stream commands do when their checks pass, with the refusals
that are stated. The model's choices: how a stream stops (log 26) and ends at start plus length (log 52), the headroom
that a partition needs (log 9), and the statuses that the spec does not give (log 64). -/
def Obligations.ContextCommandsPerform : Prop :=
  ∀ (k : Packet) (s : State),
    let z := s.flushed k
    (∀ id, s.serves (.contextCreate k id) k →
      (¬(1 ≤ id ∧ id < 4096) → exec (.contextCreate k id) s = z.answers (.contextCreate k id) k 0x02) ∧
      (1 ≤ id → id < 4096 → (z.ctx? id).isSome = true →
        exec (.contextCreate k id) s = z.answers (.contextCreate k id) k 0x05) ∧
      (1 ≤ id → id < 4096 → z.ctx? id = none → (∃ n, n < 256 ∧ ∀ c ∈ z.contexts, c.slot ≠ n) →
        ∃ n, n < 256 ∧ (∀ c ∈ z.contexts, c.slot ≠ n) ∧
          exec (.contextCreate k id) s =
            State.answers { z with contexts := z.contexts ++ [Context.new id n], free := z.free + 1 } (.contextCreate k id) k 0)) ∧
    (∀ (o : ContextSet) (c : Context), s.serves (.contextSet k o) k → z.ctx? o.id = some c →
      (z.streamsOf o.id ≠ [] → exec (.contextSet k o) s = z.answers (.contextSet k o) k 0x05) ∧
      (z.streamsOf o.id = [] → o.mode < 2 ^ 24 → Residency_ok o.res = true → (∀ n, o.owner = some n → n < 64) →
        (∀ p ∈ o.peers, p.1 < 64) →
        (∀ d, d < 4 → ∀ m ∈ Store.get 0 c.masks d :: (Store.get none c.newMask d).toList,
          (bit o.mode 0 = true → wholeSquares m = true) ∧ z.modeClear o.id d m (bit o.mode 0) = true) →
        exec (.contextSet k o) s = State.answers (z.mapCtx o.id fun c =>
          { c with fixed := bit o.mode 0, det := bit o.mode 1, adaptive := bit o.mode 2, raceEn := bit o.mode 3
                   handler := bits o.mode 4 20, res := o.res, owner := o.owner, peers := o.peers }) (.contextSet k o) k 0)) ∧
    (∀ (id : Nat) (c : Context), s.serves (.contextDestroy k id) k → z.ctx? id = some c →
      let y := ((z.streamsOf id).foldl (fun s e => s.setStream e.1 none) z).endTasks id
      exec (.contextDestroy k id) s =
        if y.ctxBusy id || y.scans.any (fun j => j.ctx == id) then .next (y.keepStarted (.contextDestroy k id))
        else (y.freeContext c).answers (.contextDestroy k id) k 0) ∧
    (∀ (id mask0 : Nat) (masks : List Nat) (c : Context), s.serves (.partition k id mask0 masks) k → z.ctx? id = some c →
      (∀ d, d < 4 → Store.get none c.newMask d = none) → masks.length = 3 →
      let m (d : Nat) : Nat := ((mask0 :: masks)[d]?).getD 0
      (∀ d, d < 4 → m d = 0 ∨ (z.diePresent d = true ∧ z.maskOk d (m d) = true)) →
      (∀ d, d < 4 → z.maskTaken id d (m d) = false ∧ (c.fixed = true → wholeSquares (m d) = true) ∧
        z.modeClear id d (m d) c.fixed = true) →
      (c.fixed = true → z.lpddr = true → Config.powerHeadroom (z.fixedSquares id m) = true) →
      let t := [0, 1, 2, 3].foldl (fun s d => s.setPartition id d (m d)) z
      ((∀ x, t.ctx? id = some x → ∀ d, d < 4 → Store.get none x.newMask d = none) →
        exec (.partition k id mask0 masks) s = t.answers (.partition k id mask0 masks) k 0) ∧
      (∀ x d, t.ctx? id = some x → d < 4 → (Store.get none x.newMask d).isSome = true →
        exec (.partition k id mask0 masks) s = .next (t.keepStarted (.partition k id mask0 masks)))) ∧
    (∀ (id die mask : Nat) (c : Context), z.ctx? id = some c → Store.get 0 c.masks die ≠ mask →
      let resident := (dieHearths die).filter fun h => (z.coreAt h).mode != .free && (z.coreAt h).task.ctx == id
      (resident = [] → z.setPartition id die mask = z.swapPartition id die mask ∧
        ∀ c', (z.swapPartition id die mask).ctx? id = some c' → Store.get 0 c'.masks die = mask) ∧
      (resident ≠ [] → z.setPartition id die mask =
        (resident.foldl (fun s h => s.mapCoreAt h Core.askPreempt) z).mapCtx id fun c =>
          { c with newMask := Store.set none c.newMask die (some mask) })) ∧
    (∀ (o : StreamAdmit) (c : Context) (r : Rec), s.serves (.streamAdmit k o) k → z.ctx? o.id = some c →
      z.diePresent o.die = true → z.liveRec o.id o.handle = some r → r.raw = true → o.start + o.len ≤ r.bytes → o.pri < 4 →
      (∀ n, n < 16 → z.streamAt ⟨o.die, n⟩ = none → (∀ m, m < n → (z.streamAt ⟨o.die, m⟩).isSome = true) →
        exec (.streamAdmit k o) s = State.answers (({ z with nextId := z.nextId + 1 } : State).setStream ⟨o.die, n⟩ (some
          { ctx := o.id, handle := o.handle, off := o.start, stop_ := o.start + o.len, pri := o.pri
            run := if o.len = 0 then .ended else .running, slots := [], stop := false, afterPhase := o.start
            phaseSlots := [], serial := z.nextId })) (.streamAdmit k o) k 0) ∧
      ((∀ n, n < 16 → (z.streamAt ⟨o.die, n⟩).isSome = true) →
        exec (.streamAdmit k o) s = z.answers (.streamAdmit k o) k 0x03)) ∧
    (∀ (st : StreamId) (x : Stream), s.serves (.streamStop k st) k → z.streamAt st = some x →
      (x.run ≠ .waiting → exec (.streamStop k st) s = State.answers (z.setStream st none) (.streamStop k st) k 0) ∧
      (x.run = .waiting → (∃ st' mask cont h, z.recordOf st x = some (.opwait st' mask cont h)) →
        exec (.streamStop k st) s = State.answers (z.setStream st none) (.streamStop k st) k 0) ∧
      (x.run = .waiting → (∀ st' mask cont h, z.recordOf st x ≠ some (.opwait st' mask cont h)) →
        exec (.streamStop k st) s = .next ((z.mapStream st fun y => { y with stop := true }).keepStarted (.streamStop k st))))

/-- R287, R370, R400, R404, R409, R431: what the key, owner, sync, pool, map and slot-table commands do. The model's
choices: a key load over a slot that records name is refused (log 27), statuses that the spec does not give (log 64),
owner keys of a port that is down stay isolated (log 68), and the room that an overflow area needs (log 17). -/
def Obligations.ResourceCommandsPerform : Prop :=
  ∀ (k : Packet) (s : State),
    let z := s.flushed k
    (∀ slot owner k1 k2, s.serves (.keyLoad k slot owner k1 k2) k → 1 ≤ slot → slot < 512 → owner < 4096 → k1 < 2 ^ 256 →
      k2 < 2 ^ 256 → exec (.keyLoad k slot owner k1 k2) s =
        if z.keyUsed slot then z.answers (.keyLoad k slot owner k1 k2) k 0x05
        else
          let x : KeySlot := ⟨true, owner, BitVec.ofNat 256 k1, BitVec.ofNat 256 k2⟩
          State.answers { z with keys := Store.set KeySlot.empty z.keys slot x } (.keyLoad k slot owner k1 k2) k 0) ∧
    (∀ slot, s.serves (.keyDestroy k slot) k → exec (.keyDestroy k slot) s =
      if ¬(1 ≤ slot ∧ slot < 512) then z.answers (.keyDestroy k slot) k 0x02
      else if z.keyUsed slot then z.answers (.keyDestroy k slot) k 0x05
      else State.answers { z with keys := Store.set KeySlot.empty z.keys slot KeySlot.empty } (.keyDestroy k slot) k 0) ∧
    (∀ (e owner key : Nat) (ps : List Nat), s.serves (.ownerKeyLoad k e owner key ps) k → e < 64 → owner < 2 ^ 16 →
      key < 2 ^ 256 → (∀ p ∈ ps, p < 64 ∧ z.hasPort p = true) →
      ∃ t : State, exec (.ownerKeyLoad k e owner key ps) s = t.answers (.ownerKeyLoad k e owner key ps) k 0 ∧
        (∀ p ∈ ps, t.portAt p = (z.portAt p).setEntry e
          ⟨if (z.portAt p).down then 2 else 1, owner, 0, BitVec.ofNat 256 key⟩) ∧
        (∀ p, p ∉ ps → t.portAt p = z.portAt p) ∧ t.keys = z.keys ∧ t.core = z.core) ∧
    (∀ (e : Nat) (ps : List Nat), s.serves (.ownerKeyDestroy k e ps) k → e < 64 →
      (∀ p ∈ ps, p < 64 ∧ z.hasPort p = true) →
      ∃ t : State, exec (.ownerKeyDestroy k e ps) s = t.answers (.ownerKeyDestroy k e ps) k 0 ∧
        (∀ p ∈ ps, (t.portAt p).entry e = OwnerEntry.empty ∧ ∀ o, o ≠ e → (t.portAt p).entry o = (z.portAt p).entry o) ∧
        (∀ p, p ∉ ps → t.portAt p = z.portAt p) ∧ t.keys = z.keys ∧ t.core = z.core) ∧
    (∀ (o : SyncAllocate) (c : Context), s.serves (.syncAllocate k o) k → z.ctx? o.id = some c → z.diePresent o.die = true →
      let ovf := o.ovf.getD (z.dieAt o.die).ovfWords
      o.lo ≤ o.hi →
      ((o.space = 0 ∧ o.hi < 2 ^ 20 + ovf) ∨ (o.space = 1 ∧ o.hi < 1024) ∨ (o.space = 2 ∧ o.hi < 256) ∨
        (o.space = 3 ∧ o.hi < 4096)) →
      ovf ≤ 2 ^ 26 →
      (∀ x ∈ z.contexts, ∀ r ∈ x.sync, ¬(r.1 = o.die ∧ r.2.1 = 0 ∧ 2 ^ 20 + ovf ≤ r.2.2.2)) →
      ((∃ x ∈ z.contexts, x.id ≠ o.id ∧ ∃ r ∈ x.sync, r.1 = o.die ∧ r.2.1 = o.space ∧ r.2.2.1 ≤ o.hi ∧ o.lo ≤ r.2.2.2) →
        exec (.syncAllocate k o) s = z.answers (.syncAllocate k o) k 0x05) ∧
      ((∀ x ∈ z.contexts, x.id ≠ o.id → ∀ r ∈ x.sync,
          ¬(r.1 = o.die ∧ r.2.1 = o.space ∧ r.2.2.1 ≤ o.hi ∧ o.lo ≤ r.2.2.2)) →
        let first := 2 ^ 25 - ceilDiv ovf 512
        (ovf ≤ (z.dieAt o.die).ovfWords ∨ ∀ r ∈ z.recs, r.home = o.die →
          (r.inTier false o.die = true → ∀ e ∈ r.pages, e.1 + e.2 ≤ first) ∧ ∀ e ∈ r.copies, e.2 < first) →
        ∃ t : State, exec (.syncAllocate k o) s = t.answers (.syncAllocate k o) k 0 ∧
          t.contexts = (z.mapCtx o.id fun c => { c with sync := c.sync ++ [(o.die, o.space, o.lo, o.hi)] }).contexts ∧
          (∀ d, d ≠ o.die → t.dieAt d = z.dieAt d) ∧
          t.dieAt o.die = { z.dieAt o.die with
            ovfWords := ovf
            deques := if o.space = 1 then (z.dieAt o.die).deques.filter (fun e => !(o.lo ≤ e.1 && e.1 ≤ o.hi))
                      else (z.dieAt o.die).deques
            flaws := (z.dieAt o.die).flaws.filter fun e =>
              !(o.space == 1 && e.1.1 == 1 && e.1.2.2 == 0 && o.lo ≤ e.1.2.1 && e.1.2.1 ≤ o.hi) })) ∧
    (∀ die ways, s.serves (.poolWays k die ways) k → z.diePresent die = true → (z.dieAt die).poolWays ≤ ways → ways ≤ 12 →
      exec (.poolWays k die ways) s =
        State.answers ((z.clearWays die ways).mapDie die fun x => { x with poolWays := ways }) (.poolWays k die ways) k 0) ∧
    (∀ die ways, s.serves (.poolWays k die ways) k → z.diePresent die = true → ways < (z.dieAt die).poolWays → ways ≤ 12 →
      let y := z.shrinkPool die (ways * wayPages)
      ((∃ r ∈ y.recs, r.beyond die (ways * wayPages) = true ∧ (r.running = true ∨ r.moving = true)) →
        exec (.poolWays k die ways) s = .next (y.keepStarted (.poolWays k die ways))) ∧
      ((∀ r ∈ y.recs, r.beyond die (ways * wayPages) = true → r.running = false ∧ r.moving = false) →
        (∀ u, y.lowerPages die (ways * wayPages) = some u → exec (.poolWays k die ways) s =
          State.answers (u.mapDie die fun x => { x with poolWays := ways }) (.poolWays k die ways) k 0) ∧
        (y.lowerPages die (ways * wayPages) = none →
          exec (.poolWays k die ways) s = y.answers (.poolWays k die ways) k 0x03))) ∧
    (∀ (id h base : Nat) (c : Context) (r : Rec), s.serves (.map k id h base) k → z.ctx? id = some c →
      z.liveRec id h = some r → r.inHbm = true → base % 4096 = 0 →
      (∀ c ∈ z.contexts, ∀ e ∈ c.maps, ∀ x, z.recAt c.id e.1 = some x → ¬(e.2 < base + r.bytes ∧ base < e.2 + x.bytes)) →
      exec (.map k id h base) s =
        State.answers (z.mapCtx id fun c => { c with maps := c.maps ++ [(h, base)] }) (.map k id h base) k 0) ∧
    (∀ (die : Nat) (es : List (Option (Nat × Nat))), s.serves (.slotTable k die es) k → z.diePresent die = true →
      es.length = 32 → (∀ p, some p ∈ es → p.1 < 256 ∧ p.2 < 64) →
      ∃ t : State, exec (.slotTable k die es) s = t.answers (.slotTable k die es) k 0 ∧
        (∀ i, i < 32 → Store.get none (t.dieAt die).slotTable i = (es[i]?).getD none) ∧
        (∀ d, d ≠ die → t.dieAt d = z.dieAt d) ∧ t.recs = z.recs ∧ t.core = z.core)

/-- R402, R409, R411: what the service commands do: a die's firmware is reloaded when it is idle, pages are repaired once
nothing lies in them, ports retrain one at a time, a free hearth gives way to a spare, and events are read. The
model's choices: host memory and maps (log 24), the pages of a repair (log 28), statuses that the spec does not give
(log 64), what an event read brings first (log 66), and retraining in two executions (log 68). -/
def Obligations.ServiceCommandsPerform : Prop :=
  ∀ (k : Packet) (s : State),
    let z := s.flushed k
    (∀ die addr, s.serves (.dieFirmwareReload k die addr) k → z.diePresent die = true →
      let idle := ((z.dieAt die).streams.all fun e => e.2.isNone) && (dieHearths die).all fun h => (z.coreAt h).mode == .free
      let ver := ofBytes (z.host.mem.readN (addr + 12) 4)
      exec (.dieFirmwareReload k die addr) s =
        if idle ∧ fwCheck z.host.mem addr = 0 ∧ ver = z.host.fwVer then
          State.answers (z.loadFw die (fwBytes z.host.mem addr)) (.dieFirmwareReload k die addr) k 0
        else z.answers (.dieFirmwareReload k die addr) k 0x04) ∧
    (∀ die first count, s.serves (.hbmRepair k die first count) k → z.diePresent die = true → 0 < count →
      first + count ≤ z.areaPages (.hbm die) → (∀ r ∈ z.recs, r.hits die first count = false) →
      ∃ t : State, exec (.hbmRepair k die first count) s = t.answers (.hbmRepair k die first count) k 0 ∧
        (t.stackAt (2 * die)).repaired = (z.stackAt (2 * die)).repaired ++ [(first, count)] ∧
        (t.stackAt (2 * die + 1)).repaired = (z.stackAt (2 * die + 1)).repaired ++ [(first, count)] ∧
        (∀ q, q ≠ 2 * die → q ≠ 2 * die + 1 → t.stackAt q = z.stackAt q) ∧ t.recs = z.recs) ∧
    (∀ port, s.serves (.portRetrain k port) k → z.hasPort port = true →
      let me := some (k.slot, k.queue, k.index)
      ((z.portAt port).retraining = me →
        exec (.portRetrain k port) s = State.answers (z.setPort port (z.portAt port).trained) (.portRetrain k port) k 0) ∧
      ((z.portAt port).retraining ≠ me → (∃ p, p < 68 ∧ (z.portAt p).retraining ≠ none) →
        exec (.portRetrain k port) s = .next (z.keepStarted (.portRetrain k port))) ∧
      ((∀ p, p < 68 → (z.portAt p).retraining = none) →
        exec (.portRetrain k port) s =
          .next ((z.setPort port { z.portAt port with retraining := me }).keepStarted (.portRetrain k port)))) ∧
    (∀ x : Port, x.trained.epoch = (x.epoch + 1) % 2 ^ 32 ∧ x.trained.seq = [] ∧ x.trained.down = false ∧
      x.trained.owners = x.owners) ∧
    (∀ h, s.serves (.hearthRetirement k h) k → z.hearthOk h = true →
      ((z.coreAt h).mode ≠ .free → exec (.hearthRetirement k h) s = z.answers (.hearthRetirement k h) k 0x05) ∧
      ((z.coreAt h).mode = .free → (z.dieAt (dieOf h)).spares ≠ 0 →
        ∃ t : State, exec (.hearthRetirement k h) s = t.answers (.hearthRetirement k h) k 0 ∧ t.coreAt h = Core.init ∧
          (t.dieAt (dieOf h)).spares = (z.dieAt (dieOf h)).spares - 1 ∧ (∀ g, g ≠ h → t.coreAt g = z.coreAt g)) ∧
      ((z.coreAt h).mode = .free → (z.dieAt (dieOf h)).spares = 0 →
        ∃ t : State, exec (.hearthRetirement k h) s = t.answers (.hearthRetirement k h) k 0 ∧
          h ∈ (t.dieAt (dieOf h)).retired ∧ (∀ g, t.coreAt g = z.coreAt g))) ∧
    (∀ (id : Nat) (c : Context) (b : Buffer) (bs : List Buffer), k.bufs = b :: bs → s.serves (.eventRead k id) k →
      z.ctx? id = some c →
      let logs := [0, 1, 2, 3].flatMap fun d => (z.dieAt d).errlog.filter fun w => bits w.toNat 52 12 == id
      let n := min c.events.length (b.len / 8)
      let near := z.hostReach b.addr
      (near.1 = .ok → exec (.eventRead k id) s = State.answers
        (((near.2.hostWrite b.addr (((c.events ++ logs).take (b.len / 8)).flatMap fun w => toBytes 8 w.toNat)).mapCtx id fun x =>
          { x with events := x.events.drop n }).setFlag id ((c.events.drop n).any flagged)) (.eventRead k id) k 0) ∧
      (near.1 = .fail → exec (.eventRead k id) s = near.2.answers (.eventRead k id) k 0x03) ∧
      (near.1 = .pending → exec (.eventRead k id) s = .next (near.2.keepStarted (.eventRead k id))))

/-- R406: a 4-byte write to a kick register is taken where the value written minus the register, modulo 2^32, is less than
2^31, and otherwise leaves the register; no other register changes. R401 to R404, R406: the host's registers act only
in their states: FWBASE takes a value in STATE 1, FWGO verifies the image, training takes the device from STATE 3 to
STATE 4, and a service slot serves its own queue or the best one. The model's choices: STATE 2 lasts only within the
step that verifies (log 31), ring sizes and priorities are free (log 21), and any die's executive serves any queue
(log 65). -/
def Obligations.HostRegistersAct : Prop :=
  (∀ (slot q v : Nat) (s : State), slot < 256 → q < 64 → s.powered = true →
      let old := Store.get 0 s.host.kick (slot * 64 + q)
      ∃ t : State, exec (.kick slot q 4 v) s = .next t ∧
        Store.get 0 t.host.kick (slot * 64 + q) =
          (if (v % 2 ^ 32 + 2 ^ 32 - old) % 2 ^ 32 < 2 ^ 31 then v % 2 ^ 32 else old) ∧
        (∀ j, j ≠ slot * 64 + q → Store.get 0 t.host.kick j = Store.get 0 s.host.kick j) ∧
        t.host.mem = s.host.mem ∧ t.core = s.core ∧ t.dies = s.dies) ∧
  ((∀ (off size v : Nat) (s : State), s.powered = true →
      (off = 0x8 → size = 8 → s.host.state = 1 →
        exec (.registerWrite off size v) s = .next { s with host := { s.host with fwbase := BitVec.ofNat 64 v } }) ∧
      (off = 0x8 → s.host.state ≠ 1 → exec (.registerWrite off size v) s = .next s) ∧
      (off = 0x10 → size = 4 → v = 1 → exec (.registerWrite off size v) s = exec .fwgo s) ∧
      (off = 0x18 → size = 4 → v = 0x52455354 → exec (.registerWrite off size v) s = exec .reset s) ∧
      (0x10000 ≤ off → off < 0x20000 → (off % 4 = 0 ∨ size ≠ 4) →
        exec (.registerWrite off size v) s = exec (.kick ((off - 0x10000) / 256) (off % 256 / 4) size v) s) ∧
      (0x10000 ≤ off → off < 0x20000 → off % 4 ≠ 0 → size = 4 → exec (.registerWrite off size v) s = .next s)) ∧
    (∀ s : State, s.bar0 0 = some (s.host.svn % 2 ^ 32 * 2 ^ 32 + s.host.fail * 2 ^ 16 + s.host.state) ∧
      s.bar0 8 = some s.host.fwbase.toNat ∧ s.bar0 0x10 = none ∧ s.bar0 0x18 = none ∧
      ∀ c q, c < 256 → q < 64 → s.bar0 (0x10000 + 256 * c + 4 * q) = some (Store.get 0 s.host.kick (c * 64 + q))) ∧
    (∀ s : State, s.powered = true →
      (s.host.state ≠ 1 → exec .fwgo s = .next s) ∧
      (s.host.state = 1 →
        let n := fwCheck s.host.mem s.host.fwbase.toNat
        ∃ t : State, exec .fwgo s = .next t ∧ t.core = s.core ∧ t.host.mem = s.host.mem ∧ t.recs = s.recs ∧
          (n = 0 → t.host.state = 3 ∧ t.host.fwVer = ofBytes (s.host.mem.readN (s.host.fwbase.toNat + 12) 4) ∧
            t.host.svn = ofBytes (s.host.mem.readN (s.host.fwbase.toNat + 8) 4) ∧
            ∀ d, d < 4 → s.diePresent d = true → (t.dieAt d).fwImage = fwBytes s.host.mem s.host.fwbase.toNat) ∧
          (n ≠ 0 → t.host.state = 5 ∧ t.host.fail = n ∧ (t.dieAt 0).fwImage = fwBytes s.host.mem s.host.fwbase.toNat ∧
            ∀ d, d ≠ 0 → t.dieAt d = s.dieAt d))) ∧
    (∀ s : State,
      (s.host.state ≠ 3 → exec .training s = .next s) ∧
      (s.host.state = 3 →
        ∃ t : State, exec .training s = .next t ∧ t.host.state = 4 ∧ (Store.get KeySlot.empty t.keys 0).valid = true ∧
          (Store.get KeySlot.empty t.keys 0).owner = 0 ∧ (∀ n, n ≠ 0 → Store.get KeySlot.empty t.keys n = Store.get KeySlot.empty s.keys n) ∧
          (∀ p, t.portAt p = if s.hasPort p then (s.portAt p).trained else s.portAt p) ∧ t.core = s.core ∧ t.host.mem = s.host.mem)) ∧
    (∀ s : State, s.diePresent s.unit = true →
      (s.host.state ≠ 4 → exec .serviceSlot s = .next s) ∧
      (s.host.state = 4 →
        let x := s.dieAt s.unit
        let z := s.setDie s.unit { x with serviceSlot := (x.serviceSlot + 1) % 32 }
        (∀ c q, Store.get none x.slotTable x.serviceSlot = some (c, q) → s.pending (queueKey c q) ≠ 0 →
          exec .serviceSlot s = .next (z.serve (queueKey c q))) ∧
        ((∀ c q, Store.get none x.slotTable x.serviceSlot = some (c, q) → s.pending (queueKey c q) = 0) → exec .serviceSlot s = .next
          (match s.bestQueue with | some q => z.serve q | none => z)))))

/-- R343, R401, R402, R410, R412: a warm reset abandons work and keeps HBM cells, host memory and link epochs; a device
without power keeps host memory alone; throttling lowers an elastic square's clock by 50 MHz and a droop stretches it.
The model's choices: what a warm reset keeps (log 22), throttling and shutdown on a module alone (log 70), and STATE 2
(log 31). -/
def Obligations.ResetsAndPower : Prop :=
  (∀ s : State, s.powered = true → ∀ i, i = Instr.reset ∨ i = Instr.cxlReset ∨ i = Instr.cxlLinkLoss →
    ∃ t : State, exec i s = .next t ∧ t.host.state = 1 ∧ t.host.mem = s.host.mem ∧ t.core = Core.init ∧ t.others = [] ∧
      t.contexts = [] ∧ t.recs = [] ∧ t.keys = [] ∧ t.launches = [] ∧ t.reqs = [] ∧ t.host.kick = [] ∧ t.host.started = [] ∧
      (∀ n, (t.stackAt n).cells = (s.stackAt n).cells ∧ (t.stackAt n).repaired = (s.stackAt n).repaired ∧
        (t.stackAt n).queue = []) ∧
      (∀ p, (t.portAt p).epoch = (s.portAt p).epoch ∧ (t.portAt p).owners = []) ∧
      (∀ d, (t.dieAt d).streams = [] ∧ (t.dieAt d).words = [] ∧ (t.dieAt d).errlog = [] ∧
        (t.dieAt d).retired = (s.dieAt d).retired)) ∧
  (∀ s : State,
    (s.powered = true → exec .powerUp s = .next s) ∧
    (s.powered = false → ∃ t : State, exec .powerUp s = .next t ∧ t.powered = true ∧ t.host.state = 1 ∧ t.host.mem = s.host.mem ∧
      t.hbmStacks = [] ∧ t.contexts = [] ∧ t.core = Core.init) ∧
    (s.form = .module_ → s.powered = true → ∃ t : State, exec .thermalShutdown s = .next t ∧ t.powered = false ∧
      t.host.state = 0 ∧ t.host.mem = s.host.mem ∧ t.hbmStacks = [] ∧ t.keys = []) ∧
    (s.form ≠ .module_ → exec .thermalShutdown s = .next s)) ∧
  (∀ s : State, s.diePresent (s.unit / 4) = true →
    let x := s.squareAt s.unit
    (s.form = .module_ → s.squareFixed s.unit = false → 1050 ≤ x.mhz →
      exec .powerLimitThrottle s = .next (s.setSquare s.unit { x with mhz := x.mhz - 50 })) ∧
    (s.squareFixed s.unit = true ∨ x.mhz < 1050 → exec .powerLimitThrottle s = .next s) ∧
    (∀ n, 1 ≤ n → n ≤ 8 → s.squareFixed s.unit = false →
      exec (.droopStretch n) s = .next (s.setSquare s.unit { x with stretch := n })) ∧
    (∀ n, s.squareFixed s.unit = true → exec (.droopStretch n) s = .next s))

/-- R303, R311, R409: a host access to mapped device memory reads or writes the tensor's bytes at its home; an access to a
tensor that is not mapped changes nothing but the list of started accesses. The model's choices: host accesses are
performed at the home and written through (log 24), and one to a tensor that is not mapped changes nothing. -/
def Obligations.HostAccessesReachTensors : Prop :=
  ∀ (a : HostAccess) (s : State) (c : Context) (r : Rec), s.ctx? a.ctx = some c → s.recAt a.ctx a.handle = some r →
    let gone (t : State) : State := { t with host := { t.host with started := t.host.started.erase (.hostMemAccess a) } }
    ((∀ e ∈ c.maps, e.1 ≠ a.handle) → exec (.hostMemAccess a) s = .next (gone s)) ∧
    ((∃ e ∈ c.maps, e.1 = a.handle) → r.away = false →
      (a.data = none → 0 < a.len → a.off + a.len ≤ r.bytes → s.homeMarks a.ctx a.handle a.off a.len = [] →
        ∃ t : State, exec (.hostMemAccess a) s = .next t ∧ t.host.replyBad = false ∧ t.core.regs = s.core.regs ∧
          t.host.reply = (s.homeFetch a.ctx a.handle a.off a.len).homeRead a.ctx a.handle a.off a.len) ∧
      (∀ bs, a.data = some bs → bs ≠ [] → a.off + bs.length ≤ r.bytes → s.dependent a.ctx a.handle = none →
        (∀ w ∈ s.fabric.windows, ¬(w.2.ctx = a.ctx ∧ w.2.handle = a.handle ∧ w.2.state ≠ 0)) →
        ∃ t : State, exec (.hostMemAccess a) s = .next t ∧
          t.recs = ((s.beforeWrite a.ctx a.handle a.off bs.length false).homeWrite a.ctx a.handle a.off bs).2.recs ∧
          t.host.mem = s.host.mem))

/-! ## The fabric -/

/-- R435, R436, R441: a peer's request that is not held is performed whole at the home die; a reply gives its request its
status; a request without a reply is sent again, and at last has status 4. The model's choices: the TAG that a request
waits for is log 62's, and a held write of a window that is free again stays revoked (log 62). -/
def Obligations.PeersAreServed : Prop :=
  (∀ (s : State) (r : RemoteIn), s.fabric.inn.find? (fun r => r.id == s.unit) = some r → r.pkt.op ≤ 1 →
    let w := s.windowAt r.pkt.win
    let z : State := { s with fabric := { s.fabric with inn := s.fabric.inn.filter fun x => x.id != r.id } }
    let st := s.requestStatus r w (s.recAt w.ctx w.handle)
    (r.held.isSome = true → exec .remoteRequest s = .next s) ∧
    (r.held = none → (r.pkt.op = 0 → s.dependent w.ctx w.handle = none) →
      exec .remoteRequest s = .next (s.performRemote r) ∧
      (st ≠ 0 → exec .remoteRequest s = .next (z.sendReply r st [])) ∧
      (r.gone = true ∨ w.state = 2 ∨ w.state = 3 → st = 3) ∧
      (r.gone = false → w.state = 0 → st = 4) ∧
      (r.gone = false → w.state = 1 → s.ownerOf r ≠ w.peer → st = 4) ∧
      (r.gone = false → w.state = 1 → bit w.acc (if r.pkt.op = 0 then 1 else 0) = false → st = 4))) ∧
  (∀ (s : State) (r : RemoteIn), s.fabric.inn.find? (fun r => r.id == s.unit && 1 < r.pkt.op) = some r →
    let z : State := { s with fabric := { s.fabric with inn := s.fabric.inn.filter fun x => x.id != r.id } }
    let isFor (x : RemoteOut) : Bool := x.pkt.tag == r.pkt.tag && x.pkt.dst == r.pkt.src && x.pkt.op + 2 == r.pkt.op &&
      x.status.isNone && x.tries != 0 && !x.held && x.eth == decide (scalePorts ≤ r.port)
    (z.fabric.out.find? isFor = none → exec .remoteReply s = .next z) ∧
    (∀ x, z.fabric.out.find? isFor = some x → (x.pkt.op = 0 ∨ 3 ≤ r.pkt.status) →
      exec .remoteReply s = .next (((z.focus x.hearth).focus s.coreId).packetDone x r.pkt.status))) ∧
  (∀ (s : State) (x : RemoteOut), s.fabric.out.find? (fun x => x.id == s.unit) = some x → x.held = false → x.status = none →
    (x.tries = 0 → exec .remoteTimeout s = .next s) ∧
    (2 ≤ x.tries → exec .remoteTimeout s = .next (s.packetDone x 4)) ∧
    (x.tries = 1 →
      let z := (s.dropOut x.id).sendOut x (if x.eth then none else some x.port)
      ∀ y, z.fabric.out.find? (fun y => y.id == x.id) = some y →
        exec .remoteTimeout s = .next (if y.status.isSome then z.packetDone y 4 else z)))

/-- R429, R431, R432: a flit is replayed until 8 replays have failed, and then the port goes down; DISCARDS begins again
each interval; a packet that passes its checks waits to be performed, one that does not counts as a discard, or on an
Ethernet port is dropped (R442). R438: a revocation takes effect at E, its tensor is unpinned once the window has
drained, and the entry is free after its quarantine; each changes only that window and, at the end of the drain, one
record's pins, and at the end of the quarantine, which awaits the requests to the window, the writes to it that are
still held: they stay revoked. The model's choices: the port goes down at the failure that follows eight replays (log
73), and a held write of a window that is free again stays revoked (log 62). -/
def Obligations.FabricPortsAndWindows : Prop :=
  ((∀ s : State, s.unit < 64 → s.hasPort s.unit = true →
      let x := s.portAt s.unit
      (x.down = true → exec .flitReplay s = .next s) ∧
      (x.down = false → x.replays < 8 → exec .flitReplay s = .next (s.setPort s.unit { x with replays := x.replays + 1 })) ∧
      (x.down = false → 8 ≤ x.replays →
        ∃ t : State, exec .flitReplay s = .next t ∧ (t.portAt s.unit).down = true ∧ (t.portAt s.unit).replays = 0 ∧
          ∀ o, o < 64 → ((t.portAt s.unit).entry o).state = if (x.entry o).state = 1 then 2 else (x.entry o).state)) ∧
    (∀ s : State, s.unit < 64 → s.hasPort s.unit = true →
      ∃ t : State, exec .discardInterval s = .next t ∧
        (∀ o, (t.portAt s.unit).entry o = { (s.portAt s.unit).entry o with discards := 0 }) ∧
        (∀ p, p ≠ s.unit → t.portAt p = s.portAt p) ∧ t.core = s.core) ∧
    (∀ (p : FabPacket) (s : State), s.hasPort s.unit = true → (s.unit < 64 → (s.portAt s.unit).down = false) →
      (s.packetOk s.unit p = true → p.op ≤ 3 →
        ∃ t : State, exec (.packetReceive p) s = .next t ∧ t.nextId = s.nextId + 1 ∧
          t.fabric.inn = s.fabric.inn ++
            [⟨s.nextId, s.unit, p, if p.op = 0 ∧ s.windowDet p.win = true then some (s.windowAt p.win).ctx else none, false⟩] ∧ t.recs = s.recs) ∧
      (64 ≤ s.unit → s.packetOk s.unit p = false → exec (.packetReceive p) s = .next s) ∧
      (s.unit < 64 → s.packetOk s.unit p = false →
        let e := (s.portAt s.unit).entry p.owner
        ∃ t : State, exec (.packetReceive p) s = .next t ∧ t.fabric.inn = s.fabric.inn ∧ t.recs = s.recs ∧
          ((t.portAt s.unit).entry p.owner).discards = min (e.discards + 1) 255 ∧
          ((t.portAt s.unit).entry p.owner).state = if e.discards + 1 = 16 ∧ e.state = 1 then 2 else e.state))) ∧
  (∀ s : State, s.unit < 1024 →
      let w := s.windowAt s.unit
      (w.state = 1 → w.revoker.isSome = true →
        exec .revokeEffect s = .next (s.setWindow s.unit { w with state := 2 })) ∧
      (w.state ≠ 1 ∨ w.revoker = none → exec .revokeEffect s = .next s) ∧
      (w.state = 2 → ∃ t : State, exec .revokeDrainDone s = .next t ∧ t.windowAt s.unit = { w with state := 3 } ∧
        (∀ n, n ≠ s.unit → t.windowAt n = s.windowAt n) ∧
        t.recs = s.recs.map (fun r => if r.ctx = w.ctx ∧ r.handle = w.handle then { r with pins := r.pins - 1 } else r)) ∧
      (w.state ≠ 2 → exec .revokeDrainDone s = .next s) ∧
      (w.state = 3 → s.revokerWaits w = false → s.windowQuiet s.unit = true →
        let off (r : RemoteIn) : RemoteIn := if r.pkt.op = 0 ∧ r.pkt.win = s.unit then { r with gone := true } else r
        exec .windowQuarantineEnd s =
          .next (({ s with fabric := { s.fabric with inn := s.fabric.inn.map off } } : State).setWindow s.unit Window.free)) ∧
      (w.state ≠ 3 ∨ s.revokerWaits w = true ∨ s.windowQuiet s.unit = false → exec .windowQuarantineEnd s = .next s))

/-! ## Decoding, one step, traps and reset -/

namespace Sys2Proof.Machine

/-- The opcodes that the opcode maps of a slot do not assign (R75). -/
def reservedOps (sl : Slot) : List Nat :=
  let from_ (a b : Nat) : List Nat := (List.range (b + 1 - a)).map (a + ·)
  match sl with
  | .c => from_ 0x0E 0x0F ++ from_ 0x16 0x7F
  | .s => from_ 0x1E 0x1F ++ from_ 0x2E 0x2F ++ from_ 0x32 0x37 ++ from_ 0x3A 0x7F
  | .a => from_ 0x08 0x7F
  | .f => from_ 0x05 0x7F
  | .x => from_ 0x0E 0x1F ++ from_ 0x31 0x7F
  | .v0 | .v1 => from_ 0x16 0x1F ++ from_ 0x35 0x37 ++ from_ 0x3D 0x3F ++ [0x47] ++ from_ 0x4C 0x4F ++ from_ 0x51 0x7F
  | .m => from_ 0x0A 0x7F

/-- The opcode field of an operation's syllables (R51, R55). -/
def opField (sl : Slot) (ws : List Nat) : Nat :=
  if sl.isLong then bits (ws.getD 0 0 + ws.getD 1 0 * 2 ^ 31) 50 7 else bits (ws.getD 0 0) 18 7

end Sys2Proof.Machine

namespace Sys2Proof

/-- The NOP of a slot. -/
def Slot.nop : Slot → Instr
  | .c => .cNop | .s => .sNop | .a => .aNop | .x => .xNop | .v0 | .v1 => .vNop | .m => .mNop | .f => .fNop

/-- The guard predicate of a slot operation (R60); p0, which is always true, for the NOPs and for every other step. -/
def Instr.guard : Instr → Nat
  | .br o | .call o | .trap o => o.g
  | .brp o => o.g
  | .bri o | .ret o | .add o | .sub o | .mul o | .mulhs o | .mulhn o | .divs o | .divn o | .rems o | .remn o | .and o
  | .or o | .xor o | .andn o | .shl o | .shrn o | .shrs o | .rotl o | .mins o | .maxs o | .minn o | .maxn o | .clz o
  | .ctz o | .popc o | .add128 o | .wid o | .rank o | .aset o | .astep o | .aring o | .wadv o | .wclose o => o.g
  | .loop o | .lix o | .fuse o | .pair o | .movi o | .mfs o | .mts o => o.g
  | .sloop o | .addi o | .alea o | .fill o => o.g
  | .next o | .lexit o | .halt o | .eret o | .decouple o | .rejoin o | .sbar o | .sqbar o => o.g
  | .bext o | .bins o | .sel o | .wopen o | .flcfg o | .flpush o | .flpop o => o.g
  | .cmpEq o | .cmpNe o | .cmpLts o | .cmpLes o | .cmpLtn o | .cmpLen o | .cmpAny o | .cmpNone o => o.g
  | .pand o | .por o | .pxor o | .pnot o | .pmov o => o.g
  | .lds o | .sts o | .vld o | .vst o | .vldx o | .vstx o | .tld o | .tst o | .tcopy o | .tpref o | .fence o
  | .qfence o | .vjoin o | .aadd o | .amin o | .amax o | .aand o | .aor o | .axor o | .axchg o | .acas o | .ald o
  | .ast o | .afadd o | .waita o | .notify o | .dqpush o | .dqpop o | .dqsteal o | .dcnt o | .vadd o | .vsub o
  | .vadds o | .vsubs o | .vmul o | .vmulh o | .vmad o | .vabs o | .vneg o | .vmin o | .vmax o | .vand o | .vor o
  | .vxor o | .vshl o | .vshr o | .vsar o | .vcmp o | .vsel o | .vclz o | .vpopc o | .vfadd o | .vfsub o | .vfmul o
  | .vfma o | .vfnma o | .vfmin o | .vfmax o | .vfabs o | .vfneg o | .vfcmp o | .vfclass o | .vfscale o | .vfrcp o
  | .vfrsq o | .vfexp2 o | .vflog2 o | .vcvt o | .vqmx o | .vdqmx o | .vpack o | .vunpack o | .vradd o | .vrfadd o
  | .vrmax o | .vrmin o | .vrfmax o | .vperm o | .vbcast o | .vlrot o | .vshuf o | .vcmpr o | .vexpd o | .viota o
  | .mand o | .mor o | .mnot o | .mpop o | .vrng o | .mldb o | .mpush o | .mshift o | .macc o | .mtern o | .mdrain o
  | .mzero o | .mswap o | .mtfetch o => o.g
  | _ => 0

/-- The stream that holds a record. -/
def Instr.stream : Instr → Option StreamId
  | .oplaunch st _ | .phase st | .taskdef st _ | .taskarm st _ _ | .opwait st _ _ _ | .mboxbind st _ | .mboxfree st _
  | .specflush st _ _ | .tdecl st _ | .tuse st _ | .trecipe st _ | .trelease st _ | .tpin st _ _ | .tunpin st _
  | .tquery st _ _ | .scan st _ | .texport st _ | .trevoke st _ => some st
  | _ => none

/-- A slot that an operation may stand in: its own, or V1 for an operation of the vector slots (R74). -/
def Instr.fits (i : Instr) (sl : Slot) : Prop := i.slot = some sl ∨ (i.slot = some .v0 ∧ sl = .v1)

end Sys2Proof

/-- R45 to R55, R58, R74: words written out from the encoding tables decode to the operations they stand for, one of each
slot and format. -/
def Obligations.DecodeWords : Prop :=
  decode .v0 [0x2F00000F, 0x0150800D] = some (.vfclass ⟨0, false, 1, 0, 3, 700, 0, 15⟩) ∧
  decode .v0 [0x03202028, 0x01190030] = some (.vfma ⟨0, false, 2, 0, 12, 12, 0x404, 0x028⟩) ∧
  decode .v1 [0x03602829, 0x01190034] = some (.vfma ⟨0, false, 2, 0, 13, 13, 0x405, 0x029⟩) ∧
  decode .s [0x40705168, 0x0000000F] = some (.addi ⟨false, 0, 5, 5, 40, some (⟨false, false, false⟩, 15)⟩) ∧
  decode .c [0x002C0000] = some (.halt ⟨false, 0⟩) ∧
  decode .c [0x00540001] = some (.pair ⟨false, 0, 0, 1, none⟩) ∧
  decode .s [0x00C01000] = some (.wid ⟨false, 0, 1, 0, 0, none⟩) ∧
  decode .f [0x400C2000, 0x00000402] = some (.flpush ⟨false, 0, 2, 0, 0, ⟨false, false, false⟩, 0x402⟩) ∧
  decode .f [0x40102000, 0x000002BC] = some (.flpop ⟨false, 0, 2, 0, 0, ⟨false, false, false⟩, 0x2BC⟩) ∧
  decode .x [0x02806032, 0x0038E008] = some (.tld ⟨0, false, 1, 6, 2, 10, 12, 0x032⟩) ∧
  decode .x [0x02806432, 0x0101A010] = some (.aadd ⟨0, false, 3, 2, 4, 10, 12, 0x432⟩) ∧
  decode .m [0x00C02A10, 0x00200000] = some (.macc ⟨0, false, 0, 0, 0, 0x003, 0x005, 0x210⟩) ∧
  Header.dec 0x84000000 = ⟨[.v0], 0, false, false, 0⟩ ∧ Header.dec 0x86000000 = ⟨[.v0, .v1], 0, false, false, 0⟩ ∧
  decodeRecord ⟨0, 0⟩ [0x02, 0, 0, 0, 0, 0, 0, 0] = some (.phase ⟨0, 0⟩) ∧
  decodeRecord ⟨0, 0⟩ [0x00FF, 0, 0, 0, 0, 0, 0, 0] = none

/-- R50 to R58, R74: decoding the encoding of a well-formed operation gives it back, with every operand at every value
that the encoding admits, in each slot in which it may stand; and what decodes is the encoding of what it decodes to. -/
def Obligations.SlotsRoundTrip : Prop :=
  (∀ (i : Instr) (sl : Slot), i.wf = true → i.fits sl → decode sl (encode i) = some i) ∧
  (∀ (sl : Slot) (ws : List Nat) (i : Instr), decode sl ws = some i → encode i = ws ∧ i.wf = true)

/-- R49, R320: decoding the eight words of a well-formed record gives the record back, and the fields of a header syllable
are those that it was made from. -/
def Obligations.RecordsAndHeadersRoundTrip : Prop :=
  (∀ (i : Instr) (st : StreamId), i.wf = true → i.stream = some st → decodeRecord st (encodeRecord i) = some i) ∧
  (∀ (st : StreamId) (ws : List Nat) (i : Instr), decodeRecord st ws = some i → encodeRecord i = ws ∧ i.stream = some st) ∧
  (∀ (slots : List Slot) (rep : Nat) (hold pad : Bool), rep < 64 →
    Header.dec (Header.enc slots rep hold pad) = ⟨Slot.all.filter (· ∈ slots), rep, hold, pad, 0⟩)

/-- R75, R49, R47, R254: an opcode that the maps do not assign does not decode whatever its other fields, a NOP decodes
from zeros alone, and a bundle that holds an encoding without a decoding, or a header with a bit of [14:0] set, raises
cause 0x01 at issue, an ill-formed bundle cause 0x03. The model's choice (log 34): TRAPADDR is the offending syllable,
of the two of a long operation the one without which it would decode. -/
def Obligations.ReservedEncodingsTrap : Prop :=
  (∀ (sl : Slot) (ws : List Nat), opField sl ws ∈ reservedOps sl → decode sl ws = none) ∧
  (∀ (sl : Slot) (ws : List Nat), opField sl ws = 0 → ws ≠ (if sl.isLong then [0, 0] else [0]) → decode sl ws = none) ∧
  (∀ sl : Slot, decode sl (if sl.isLong then [0, 0] else [0]) = some sl.nop) ∧
  (∀ (s : State) (b : Bundle), s.core.fetch = .bundle b → b.badDelay s.core = false → b.hdr.low ≠ 0 →
    s.execute none = .went (s.raised ⟨0x01, s.core.seq.pc, []⟩ 8 false (b.hdr.rep + 1 - s.core.seq.done) s.core.seq.pc)) ∧
  (∀ s : State, s.core.code.isHeader s.core.seq.pc = true → s.core.code.bundleAt s.core.seq.pc = none →
    s.core.seq.pc < s.core.code.stop →
    let rep := (s.core.code.syl s.core.seq.pc).elim 0 fun h => (Header.dec h).rep
    s.execute none = .went (s.raised ⟨0x03, s.core.seq.pc, []⟩ 8 false (rep + 1 - s.core.seq.done) s.core.seq.pc)) ∧
  (∀ (s : State) (b : Bundle) (pre post : List (Slot × Nat × List Nat)) (sl : Slot) (at_ : Nat) (ws : List Nat),
    s.core.fetch = .bundle b → b.badDelay s.core = false → b.hdr.low = 0 → b.ops = pre ++ (sl, at_, ws) :: post →
    decode sl ws = none → (∀ o ∈ pre, ∃ i, decode o.1 o.2.2 = some i ∧ mtsIllegal s.core.priv i = false) →
    s.execute none =
      .went (s.raised ⟨0x01, offender sl at_ ws, []⟩ sl.num false (b.hdr.rep + 1 - s.core.seq.done) s.core.seq.pc))

/-- R60, R66, R73, R175: a slot operation as a step of its own takes effect, traps with its slot's code, or freezes; an
FLCFG's configuration is then in force; one whose guard is false does nothing, but for the three that a mode check
precedes. R25, R56, R66: no operation of the scalar, address or vector slots but the three on windows writes a
register, a latch or a byte of the scratchpad at its issue; what it writes it puts in flight, and it changes nothing
else of the task: their frame. The model's choice (log 1): an operation as a step of its own. -/
def Obligations.SlotOperationsSettle : Prop :=
  (∀ (i : Instr) (sl : Slot) (s : State), i.slot = some sl → i ≠ sl.nop →
      (∀ t, runOp sl i s = .ok t → (∀ o, i ≠ .flcfg o) →
        exec i s = .next (if sl = .c then t.closeBundle t.lineTime else t.setViews)) ∧
      (∀ t o, runOp sl i s = .ok t → i = .flcfg o → exec i s = .next (t.mapCore Core.applyCfg).setViews) ∧
      (∀ t, runOp sl i s = .trap t → exec i s = .next (s.takeTrap t sl.num false s.core.seq 1 s.core.seq.pc)) ∧
      (∀ f, runOp sl i s = .freeze f → exec i s = .next (s.freezeBy f)) ∧
      (s.core.readP i.guard = false → (∀ o, i ≠ .mfs o) → (∀ o, i ≠ .mts o) → (∀ o, i ≠ .eret o) →
        runOp sl i s = .ok s)) ∧
  (∀ (i : Instr) (sl : Slot) (s t : State), i.slot = some sl → (sl = .s ∨ sl = .a ∨ sl = .v0) → runOp sl i s = .ok t →
      (∀ o, i ≠ .wopen o) → (∀ o, i ≠ .wadv o) → (∀ o, i ≠ .wclose o) →
      t.core.regs = s.core.regs ∧ t.core.pad = s.core.pad ∧ t.core.win = s.core.win ∧ t.core.loops = s.core.loops ∧
      t.core.seq = s.core.seq ∧ t.core.trap = s.core.trap ∧ t.core.st.flags = s.core.st.flags ∧ t.core.mode = s.core.mode ∧ t.core.priv = s.core.priv ∧
      t.core.q = s.core.q ∧ t.core.flue = s.core.flue ∧ t.core.mat = s.core.mat ∧ t.others = s.others ∧
      (∃ l, t.core.fly = s.core.fly ++ l))

/-- R62, R429, R443: once the stored bits whose time has come have flipped (log 108), the device takes, with nothing on
the agenda, the one turn that it has, and of several any one (log 1); an item of the agenda that is due is executed at
its unit, but a packet for a link whose buffer is full waits. When that turn is a hearth's issue and the bundle at the
program counter holds one operation that decodes to i, the step runs i: its effect is that of `exec i`, and the bundle
closes. The model's choices: which agent acts next (log 1, with the agenda and Config.choose), TRAPADDR of a cause
0x01 as the operation's first syllable (log 34), a frozen hearth while its handler is made resident (log 111), and
stored bits that flip as an input (log 108). -/
def Obligations.StepRunsDecoded : Prop :=
  (∀ s : State, s.upsets = [] → s.struck = s) ∧
  (∀ (s0 s : State) (u : Nat) (i : Instr), s0.struck = s → s.agenda = [] → s.turns = [.event u i] →
    step s0 = exec i { s with unit := u }) ∧
  (∀ s0 s : State, s0.struck = s → s.agenda = [] → s.turns = [] → step s0 = .next s) ∧
  (∀ s : State, s.hearthOk s.unit = true → exec .bundleIssue s = .next s.there.issueCycle) ∧
  (∀ (s0 s : State) (a b : Turn) (r : List Turn), s0.struck = s → s.agenda = [] → s.turns = a :: b :: r →
    ∃ t ∈ s.turns, step s0 = ({ s with free := s.free + 1 } : State).take t) ∧
  (∀ (s0 s : State) (u : Nat) (i : Instr) (rest : List (Nat × Nat × Instr)), s0.struck = s → s.agenda = (0, u, i) :: rest →
    (s.linkFull u i = false → outside i = true → s.powered = true → step s0 = exec i { s with agenda := rest, unit := u }) ∧
    (s.linkFull u i = true → ∀ v j, s.turns = [.event v j] → step s0 = exec j { s with unit := v })) ∧
  (∀ (s0 s : State) (b : Bundle) (sl : Slot) (at_ : Nat) (ws : List Nat) (i : Instr), s0.struck = s → s.agenda = [] →
    s.turns = [.event s.coreId .bundleIssue] → s.hearthOk s.coreId = true →
    s.canCycle = true → s.core.stuck = .no → s.core.owed = 0 → s.core.link.stopped = false →
    s.core.wait = .none → s.core.ctl = none → s.core.link.fused = false → s.core.link.paired = false → s.core.priv = false →
    s.core.fetch = .bundle b → b.hdr.rep = 0 → b.hdr.low = 0 → b.ops = [(sl, at_, ws)] → b.hdr.hold = true →
    s.core.seq.done = 0 → s.core.seq.pend = none → sl ≠ .c → sl ≠ .v1 → decode sl ws = some i → i ≠ sl.nop → mtsIllegal false i = false →
    (∀ o, i ≠ .mfs o) → (∀ o, i ≠ .mts o) → (∀ o, i ≠ .mswap o) → s.core.interlocked i = false →
    let z : State := { s with unit := s.coreId }
    let passes (u : State) : Host.Outcome State Fault Refusal :=
      .next (((z.fetchHandler u z.coreId).mapCoreAt z.coreId fun c => { c with clk := c.clk + 1 }).focus z.coreId)
    step s0 = exec .bundleIssue z ∧
    (∀ t, s.core.badSource i = none → runOp sl i z = .ok t →
      ((∀ o, i ≠ .flcfg o) → exec i z = .next t.setViews) ∧
      step s0 = passes (((((t.mapCore fun c => { c.matWrote i with regs := { c.regs with a := z.core.regs.a } }).scrub z.core
        (z.core.acts b true)).mapCore fun k =>
        { k with owed := k.owed + k.pad.conflicts }).setViews.mapCore fun k =>
          let k1 := (k.putSteps []).patchGroups z.core z.nextId
          { k1 with sticky := k1.sticky.arm [(sl, at_, i)], link := k1.link.executed none (!k1.mat.groups.isEmpty) }).endCycle
            true)) ∧
    (∀ t, (s.core.badSource i = some t ∨ (s.core.badSource i = none ∧ runOp sl i z = .trap t)) →
      let y := z.mapCore Core.pass
      let cause : Trap := if t.cause = 0x01 then { t with addr := at_ } else t
      step s0 = passes (((y.writeDue y.core.fly.length).takeTrap cause sl.num false z.core.seq 1 z.core.seq.pc).mapCore fun c =>
        { c with link := { c.link with frozen := false, atSwap := none } })))

/-- R106, R250, R251, R252, R253: a cause that a task raises puts its frame and trap registers in place and enters the
handler in privileged mode, with latches invalid and records idle and every register kept; without a handler the task
ends as failed with that cause and DOUBLE, and for cause 0x21 as failed without DOUBLE. The model's choice (log 107):
DOUBLE is clear where 0x21 ends a task outside the handler. -/
def Obligations.TrapsEnterTheHandler : Prop :=
  ∀ (s : State) (t : Trap) (slot : Nat) (re : Bool) (resume : Seq) (left pc : Nat), s.core.priv = false →
    s.core.link.paired = false → s.core.link.fused = false → s.core.code.origin = none → t.cause ≠ 0x18 → t.cause < 256 →
    slot < 16 → left < 128 →
    let u := s.takeTrap t slot re resume left pc
    (∀ code, s.handlerCode = some code → fatalCause t.cause = false →
      u.core.priv = true ∧ u.core.code = code ∧ u.core.seq.pc = code.entry ∧ u.core.seq.done = 0 ∧ u.core.seq.pend = none ∧
      u.core.fly = [] ∧ u.core.sticky = Sticky.idle ∧ (∀ j, (Store.get Latch.init u.core.regs.latch j).valid = false) ∧
      u.core.regs.x = s.core.regs.x ∧ u.core.regs.p = s.core.regs.p ∧ u.core.regs.m = s.core.regs.m ∧
      u.core.regs.a = s.core.regs.a ∧ u.core.regs.v = s.core.regs.v ∧ u.core.regs.k = s.core.regs.k ∧ u.core.q = s.core.q ∧
      u.core.flue = s.core.flue ∧ u.core.win = s.core.win ∧ u.core.pad = s.core.pad ∧ u.core.loops = s.core.loops ∧
      u.core.st = s.core.st ∧ u.core.cycle = s.core.cycle ∧ u.core.mode = s.core.mode ∧ u.core.mat.fill = s.core.mat.fill ∧
      (∃ f, u.core.frame = some f ∧ f.fly = s.core.fly ∧ f.latch = s.core.regs.latch ∧ f.sticky = s.core.sticky ∧
        f.seq = resume ∧ f.code = s.core.code) ∧
      bits u.core.trap.cause.toNat 0 8 = t.cause ∧ bits u.core.trap.cause.toNat 8 4 = slot ∧
      bit u.core.trap.cause.toNat 12 = re ∧ bit u.core.trap.cause.toNat 13 = resume.pend.isSome ∧
      bits u.core.trap.cause.toNat 14 7 = left ∧ bit u.core.trap.cause.toNat 26 = false ∧
      u.core.trap.pc = BitVec.ofNat 64 pc ∧ u.core.trap.addr = BitVec.ofNat 64 t.addr) ∧
    ((s.handlerCode = none ∨ t.cause = 0x21) → t.cause ≠ 0x20 → t.cause < 0x80 →
      u.core.mode = .free ∧ u.core.trap.addr = BitVec.ofNat 64 t.addr ∧
      ∀ l ∈ s.launches, l.id = s.core.task.launch → l.nfail = 0 → l.nfail < 2 ^ 32 - 1 →
        { l with ended := l.ended + 1, nfail := 1, ford := s.core.task.ord
                 cause := if t.cause = 0x21 then 0x21 else t.cause + 0x80 } ∈ u.launches)

/-- R16, R27, R105, R401, R402, R410, and log 2, log 3 (the model's choices where the spec gives no reset value): what the
machine holds right after reset. -/
def Obligations.ResetLeaves : Prop :=
  let s := State.reset
  s.powered = true ∧ s.host.state = 1 ∧ s.host.fwbase = 0 ∧ s.host.fail = 0 ∧ s.core.mode = .free ∧ s.core.priv = false ∧
  (∀ n, s.core.readX n = 0) ∧ s.core.readP 0 = true ∧ (∀ n, 1 ≤ n → s.core.readP n = false) ∧ (∀ n, s.core.readV n = 0) ∧
  s.core.st.flags = 0 ∧ s.core.pad.mem = [] ∧ s.contexts = [] ∧ s.recs = [] ∧ s.keys = [] ∧ s.launches = [] ∧
  s.core.pad.mem.wf = true ∧ (∀ a, s.core.pad.mem.read a = 0) ∧ (∀ n, (s.squareAt n).mhz = 1600) ∧
  (∀ n, (s.portAt n).down = false) ∧ s.turns = [] ∧ step s = .next s

/-- R151, R385 (the canonical form of log 3's memory): every operation that the machine stores with keeps a memory's form,
the bytes it stores read back, and no other byte changes. -/
def Obligations.MemoryKeepsItsForm : Prop :=
  (∀ (m : Memory) (a : Nat) (bs : List Byte), m.wf = true → (m.writeN a bs).wf = true ∧
    (m.writeN a bs).readN a bs.length = bs ∧ ∀ x, (x < a ∨ a + bs.length ≤ x) → (m.writeN a bs).read x = m.read x) ∧
  (∀ (m : Memory) (places : List Nat) (bs : List Byte), m.wf = true → (m.puts places bs).wf = true) ∧
  (∀ (s : State) (i : Instr) (sl : Slot) (t : State), s.core.pad.mem.wf = true → i.slot = some sl → runOp sl i s = .ok t →
    t.core.pad.mem.wf = true) ∧
  (∀ m m' : Memory, m.wf = true → m'.wf = true → (∀ a, m.read a = m'.read a) → m = m')

namespace Sys2Proof.Machine

/-- The device stands in a STATE that R402 gives it between steps, STATE 0 exactly when it has no power: STATE 2 lasts only
within the step that verifies an image (log 31). -/
abbrev State.legal (s : State) : Prop :=
  (s.host.state = 0 ∨ s.host.state = 1 ∨ s.host.state = 3 ∨ s.host.state = 4 ∨ s.host.state = 5) ∧
    (s.powered = false ↔ s.host.state = 0)

end Sys2Proof.Machine

/-- R401, R402, R403, R410, R412: every step keeps the device in a legal STATE, and its form (R1) never changes. -/
def Obligations.DeviceStateStaysLegal : Prop :=
  ∀ s t : State, s.legal → step s = .next t → t.legal ∧ t.form = s.form

/-- R402, R410: right after reset the device is in a legal STATE. -/
def Obligations.ResetIsLegal : Prop := State.reset.legal
end

