-- ==== Sys2Proof/Laws/Memory.lean ====
section
/-! SUPPORT. Sparse stores and memory: a read after a write, a write elsewhere, and the canonical form. -/
namespace Sys2Proof.Machine

/-! ## Reading after writing -/

theorem Store.get_put_self {α : Type} (d : α) (s : Store α) (k : Nat) (v : α) (h : ∀ e ∈ s, e.1 ≠ k) :
    Store.get d (Store.put s k v) k = v := by
  induction s with
  | nil => simp [Store.put, Store.get]
  | cons e r ih =>
    obtain ⟨j, w⟩ := e
    have hj : j ≠ k := h (j, w) (by simp)
    simp only [Store.put]
    split
    · simp [Store.get]
    · simp [Store.get, hj, ih fun e he => h e (by simp [he])]

theorem Store.get_put_ne {α : Type} (d : α) (s : Store α) {k j : Nat} (v : α) (h : j ≠ k) :
    Store.get d (Store.put s k v) j = Store.get d s j := by
  induction s with
  | nil => simp [Store.put, Store.get, h.symm]
  | cons e r ih =>
    obtain ⟨i, w⟩ := e
    simp only [Store.put]
    split
    · simp [Store.get, h.symm]
    · simp [Store.get, ih]

theorem Store.get_filter_self {α : Type} (d : α) (s : Store α) (k : Nat) :
    Store.get d (s.filter fun e => e.1 != k) k = d := by
  induction s with
  | nil => rfl
  | cons e r ih =>
    obtain ⟨j, w⟩ := e
    by_cases hj : j = k
    · simp [hj, ih]
    · simp [hj, Store.get, ih]

theorem Store.get_filter_ne {α : Type} (d : α) (s : Store α) {k j : Nat} (h : j ≠ k) :
    Store.get d (s.filter fun e => e.1 != k) j = Store.get d s j := by
  induction s with
  | nil => rfl
  | cons e r ih =>
    obtain ⟨i, w⟩ := e
    by_cases hi : i = k
    · subst hi; simp [Store.get, h.symm, ih]
    · simp [hi, Store.get, ih]

/-- A read of the key just written gives the value written. -/
@[simp] theorem Store.get_set_self {α : Type} [DecidableEq α] (d : α) (s : Store α) (k : Nat) (v : α) :
    Store.get d (Store.set d s k v) k = v := by
  simp only [Store.set]
  split
  · rename_i h; rw [Store.get_filter_self, h]
  · exact Store.get_put_self d _ k v (by simp)

/-- A write of one key leaves the others alone. -/
theorem Store.get_set_ne {α : Type} [DecidableEq α] (d : α) (s : Store α) {k j : Nat} (v : α) (h : j ≠ k) :
    Store.get d (Store.set d s k v) j = Store.get d s j := by
  simp only [Store.set]
  split
  · exact Store.get_filter_ne d s h
  · rw [Store.get_put_ne _ _ _ h, Store.get_filter_ne _ _ h]

theorem Store.get_set {α : Type} [DecidableEq α] (d : α) (s : Store α) (k j : Nat) (v : α) :
    Store.get d (Store.set d s k v) j = if j = k then v else Store.get d s j := by
  split
  · rename_i h; subst h; exact Store.get_set_self d s j v
  · rename_i h; exact Store.get_set_ne d s v h

/-! ## The canonical form -/

/-- Changing every value by a function that keeps the default is the function on each value read. -/
theorem Store.get_mapVals {α : Type} [DecidableEq α] (d : α) (f : α → α) (hf : f d = d) (s : Store α) (j : Nat) :
    Store.get d (Store.mapVals d f s) j = f (Store.get d s j) := by
  have fold : ∀ (ks : List Nat) (m : Store α), Store.get d (ks.foldl (fun m k => Store.set d m k (f (Store.get d s k))) m) j =
      if j ∈ ks then f (Store.get d s j) else Store.get d m j := by
    intro ks
    induction ks with
    | nil => simp
    | cons k r ih =>
      intro m
      simp only [List.foldl_cons, ih, Store.get_set, List.mem_cons]
      by_cases hk : j = k
      · subst hk; simp
      · simp [hk]
  have miss : ∀ l : Store α, (∀ e ∈ l, e.1 ≠ j) → Store.get d l j = d := by
    intro l h
    induction l with
    | nil => rfl
    | cons e r ih =>
      obtain ⟨i, w⟩ := e
      have hi : i ≠ j := h (i, w) (by simp)
      simp [Store.get, hi, ih fun e he => h e (by simp [he])]
  rw [Store.mapVals, fold]
  split
  · rfl
  · rename_i h
    rw [miss s fun e he hj => h (by simpa using ⟨e.2, hj ▸ he⟩), hf]; rfl

theorem Store.wfFrom_mono {α : Type} [DecidableEq α] (d : α) (s : Store α) {lo lo' : Nat} (h : lo' ≤ lo)
    (hs : Store.wfFrom d lo s = true) : Store.wfFrom d lo' s = true := by
  cases s with
  | nil => rfl
  | cons e r =>
    obtain ⟨k, v⟩ := e
    simp only [Store.wfFrom, Bool.and_eq_true, decide_eq_true_eq] at hs ⊢
    exact ⟨⟨by omega, hs.1.2⟩, hs.2⟩

theorem Store.wfFrom_filter {α : Type} [DecidableEq α] (d : α) (s : Store α) (lo k : Nat)
    (hs : Store.wfFrom d lo s = true) : Store.wfFrom d lo (s.filter fun e => e.1 != k) = true := by
  induction s generalizing lo with
  | nil => rfl
  | cons e r ih =>
    obtain ⟨j, v⟩ := e
    simp only [Store.wfFrom, Bool.and_eq_true, decide_eq_true_eq] at hs
    by_cases hj : j = k
    · simp only [hj, List.filter_cons, bne_self_eq_false]
      exact Store.wfFrom_mono d _ (by omega) (ih (j + 1) hs.2)
    · have : (j != k) = true := by simp [hj]
      simp only [List.filter_cons, this, if_true, Store.wfFrom, Bool.and_eq_true, decide_eq_true_eq]
      exact ⟨hs.1, ih (j + 1) hs.2⟩

theorem Store.wfFrom_put {α : Type} [DecidableEq α] (d : α) (s : Store α) (lo k : Nat) (v : α) (hk : lo ≤ k) (hv : v ≠ d)
    (hn : ∀ e ∈ s, e.1 ≠ k) (hs : Store.wfFrom d lo s = true) : Store.wfFrom d lo (Store.put s k v) = true := by
  induction s generalizing lo with
  | nil => simp [Store.put, Store.wfFrom, hk, hv]
  | cons e r ih =>
    obtain ⟨j, w⟩ := e
    simp only [Store.wfFrom, Bool.and_eq_true, decide_eq_true_eq] at hs
    have hj : j ≠ k := hn (j, w) (by simp)
    simp only [Store.put]
    split
    · simp only [Store.wfFrom, Bool.and_eq_true, decide_eq_true_eq]
      exact ⟨⟨hk, by simp [hv]⟩, ⟨by omega, hs.1.2⟩, hs.2⟩
    · simp only [Store.wfFrom, Bool.and_eq_true, decide_eq_true_eq]
      exact ⟨hs.1, ih (j + 1) (by omega) (fun e he => hn e (by simp [he])) hs.2⟩

/-- Writing a key keeps the canonical form. -/
theorem Store.wf_set {α : Type} [DecidableEq α] (d : α) (s : Store α) (k : Nat) (v : α) (h : Store.wf d s = true) :
    Store.wf d (Store.set d s k v) = true := by
  simp only [Store.set, Store.wf] at *
  split
  · exact Store.wfFrom_filter d s 0 k h
  · rename_i hv
    exact Store.wfFrom_put d _ 0 k v (Nat.zero_le k) hv (by simp) (Store.wfFrom_filter d s 0 k h)

/-! ## Memory -/

@[simp] theorem Memory.read_write_self (m : Memory) (a : Nat) (b : Byte) : (m.write a b).read a = b :=
  Store.get_set_self _ m a b

theorem Memory.read_write_ne (m : Memory) {a x : Nat} (b : Byte) (h : x ≠ a) : (m.write a b).read x = m.read x :=
  Store.get_set_ne _ m b h

theorem Memory.wf_write (m : Memory) (a : Nat) (b : Byte) (h : m.wf = true) : (m.write a b).wf = true :=
  Store.wf_set _ m a b h

theorem Memory.wf_writeN (m : Memory) (a : Nat) (bs : List Byte) (h : m.wf = true) : (m.writeN a bs).wf = true := by
  induction bs generalizing m a with
  | nil => exact h
  | cons b bs ih => exact ih _ _ (Memory.wf_write m a b h)

/-- Bytes written upwards from an address leave every other address alone. -/
theorem Memory.read_writeN_outside (m : Memory) (a : Nat) (bs : List Byte) (x : Nat) (h : x < a ∨ a + bs.length ≤ x) :
    (m.writeN a bs).read x = m.read x := by
  induction bs generalizing m a with
  | nil => rfl
  | cons b bs ih =>
    simp only [List.length_cons] at h
    simp only [Memory.writeN]
    rw [ih _ _ (by omega), Memory.read_write_ne m b (by omega)]

/-- Bytes written at some places leave every other place alone. -/
theorem Memory.read_puts_outside (l : List (Nat × Byte)) (m : Memory) (x : Nat) (h : ∀ e ∈ l, e.1 ≠ x) :
    (l.foldl (fun m e => Memory.write m e.1 e.2) m).read x = m.read x := by
  induction l generalizing m with
  | nil => rfl
  | cons e l ih =>
    simp only [List.foldl_cons]
    rw [ih _ fun f hf => h f (by simp [hf]), Memory.read_write_ne m e.2 (h e (by simp)).symm]

theorem Memory.wf_puts (l : List (Nat × Byte)) (m : Memory) (h : m.wf = true) :
    (l.foldl (fun m e => Memory.write m e.1 e.2) m).wf = true := by
  induction l generalizing m with
  | nil => exact h
  | cons e l ih => exact ih _ (Memory.wf_write m e.1 e.2 h)

end Sys2Proof.Machine
end

