-- ==== Sys2Proof/Laws/State.lean ====
section
/-! SUPPORT. One lemma for each field under each update of the state, so that no proof unfolds a record update. -/
namespace Sys2Proof.Machine


/-! State.mapCore -/

@[simp] theorem State.mapCore_form (s : State) (f : Core → Core) : (s.mapCore f).form = s.form := rfl
@[simp] theorem State.mapCore_powered (s : State) (f : Core → Core) : (s.mapCore f).powered = s.powered := rfl
@[simp] theorem State.mapCore_unit (s : State) (f : Core → Core) : (s.mapCore f).unit = s.unit := rfl
@[simp] theorem State.mapCore_agenda (s : State) (f : Core → Core) : (s.mapCore f).agenda = s.agenda := rfl
@[simp] theorem State.mapCore_free (s : State) (f : Core → Core) : (s.mapCore f).free = s.free := rfl
@[simp] theorem State.mapCore_nextId (s : State) (f : Core → Core) : (s.mapCore f).nextId = s.nextId := rfl
@[simp] theorem State.mapCore_coreId (s : State) (f : Core → Core) : (s.mapCore f).coreId = s.coreId := rfl
@[simp] theorem State.mapCore_core (s : State) (f : Core → Core) : (s.mapCore f).core = f s.core := rfl
@[simp] theorem State.mapCore_others (s : State) (f : Core → Core) : (s.mapCore f).others = s.others := rfl
@[simp] theorem State.mapCore_streets (s : State) (f : Core → Core) : (s.mapCore f).streets = s.streets := rfl
@[simp] theorem State.mapCore_squares (s : State) (f : Core → Core) : (s.mapCore f).squares = s.squares := rfl
@[simp] theorem State.mapCore_dies (s : State) (f : Core → Core) : (s.mapCore f).dies = s.dies := rfl
@[simp] theorem State.mapCore_reqs (s : State) (f : Core → Core) : (s.mapCore f).reqs = s.reqs := rfl
@[simp] theorem State.mapCore_launches (s : State) (f : Core → Core) : (s.mapCore f).launches = s.launches := rfl
@[simp] theorem State.mapCore_ready (s : State) (f : Core → Core) : (s.mapCore f).ready = s.ready := rfl
@[simp] theorem State.mapCore_shadow (s : State) (f : Core → Core) : (s.mapCore f).shadow = s.shadow := rfl
@[simp] theorem State.mapCore_recs (s : State) (f : Core → Core) : (s.mapCore f).recs = s.recs := rfl
@[simp] theorem State.mapCore_contexts (s : State) (f : Core → Core) : (s.mapCore f).contexts = s.contexts := rfl
@[simp] theorem State.mapCore_keys (s : State) (f : Core → Core) : (s.mapCore f).keys = s.keys := rfl
@[simp] theorem State.mapCore_hbmStacks (s : State) (f : Core → Core) : (s.mapCore f).hbmStacks = s.hbmStacks := rfl
@[simp] theorem State.mapCore_spill (s : State) (f : Core → Core) : (s.mapCore f).spill = s.spill := rfl
@[simp] theorem State.mapCore_spillLost (s : State) (f : Core → Core) : (s.mapCore f).spillLost = s.spillLost := rfl
@[simp] theorem State.mapCore_scans (s : State) (f : Core → Core) : (s.mapCore f).scans = s.scans := rfl
@[simp] theorem State.mapCore_fabric (s : State) (f : Core → Core) : (s.mapCore f).fabric = s.fabric := rfl
@[simp] theorem State.mapCore_host (s : State) (f : Core → Core) : (s.mapCore f).host = s.host := rfl
@[simp] theorem State.mapCore_upsets (s : State) (f : Core → Core) : (s.mapCore f).upsets = s.upsets := rfl

/-! State.setDie -/

@[simp] theorem State.setDie_form (s : State) (d : Nat) (x : Die) : (s.setDie d x).form = s.form := rfl
@[simp] theorem State.setDie_powered (s : State) (d : Nat) (x : Die) : (s.setDie d x).powered = s.powered := rfl
@[simp] theorem State.setDie_unit (s : State) (d : Nat) (x : Die) : (s.setDie d x).unit = s.unit := rfl
@[simp] theorem State.setDie_agenda (s : State) (d : Nat) (x : Die) : (s.setDie d x).agenda = s.agenda := rfl
@[simp] theorem State.setDie_free (s : State) (d : Nat) (x : Die) : (s.setDie d x).free = s.free := rfl
@[simp] theorem State.setDie_nextId (s : State) (d : Nat) (x : Die) : (s.setDie d x).nextId = s.nextId := rfl
@[simp] theorem State.setDie_coreId (s : State) (d : Nat) (x : Die) : (s.setDie d x).coreId = s.coreId := rfl
@[simp] theorem State.setDie_core (s : State) (d : Nat) (x : Die) : (s.setDie d x).core = s.core := rfl
@[simp] theorem State.setDie_others (s : State) (d : Nat) (x : Die) : (s.setDie d x).others = s.others := rfl
@[simp] theorem State.setDie_streets (s : State) (d : Nat) (x : Die) : (s.setDie d x).streets = s.streets := rfl
@[simp] theorem State.setDie_squares (s : State) (d : Nat) (x : Die) : (s.setDie d x).squares = s.squares := rfl
@[simp] theorem State.setDie_dies (s : State) (d : Nat) (x : Die) : (s.setDie d x).dies = Store.set Die.init s.dies d x := rfl
@[simp] theorem State.setDie_reqs (s : State) (d : Nat) (x : Die) : (s.setDie d x).reqs = s.reqs := rfl
@[simp] theorem State.setDie_launches (s : State) (d : Nat) (x : Die) : (s.setDie d x).launches = s.launches := rfl
@[simp] theorem State.setDie_ready (s : State) (d : Nat) (x : Die) : (s.setDie d x).ready = s.ready := rfl
@[simp] theorem State.setDie_shadow (s : State) (d : Nat) (x : Die) : (s.setDie d x).shadow = s.shadow := rfl
@[simp] theorem State.setDie_recs (s : State) (d : Nat) (x : Die) : (s.setDie d x).recs = s.recs := rfl
@[simp] theorem State.setDie_contexts (s : State) (d : Nat) (x : Die) : (s.setDie d x).contexts = s.contexts := rfl
@[simp] theorem State.setDie_keys (s : State) (d : Nat) (x : Die) : (s.setDie d x).keys = s.keys := rfl
@[simp] theorem State.setDie_hbmStacks (s : State) (d : Nat) (x : Die) : (s.setDie d x).hbmStacks = s.hbmStacks := rfl
@[simp] theorem State.setDie_spill (s : State) (d : Nat) (x : Die) : (s.setDie d x).spill = s.spill := rfl
@[simp] theorem State.setDie_spillLost (s : State) (d : Nat) (x : Die) : (s.setDie d x).spillLost = s.spillLost := rfl
@[simp] theorem State.setDie_scans (s : State) (d : Nat) (x : Die) : (s.setDie d x).scans = s.scans := rfl
@[simp] theorem State.setDie_fabric (s : State) (d : Nat) (x : Die) : (s.setDie d x).fabric = s.fabric := rfl
@[simp] theorem State.setDie_host (s : State) (d : Nat) (x : Die) : (s.setDie d x).host = s.host := rfl
@[simp] theorem State.setDie_upsets (s : State) (d : Nat) (x : Die) : (s.setDie d x).upsets = s.upsets := rfl

/-! State.mapDie -/

@[simp] theorem State.mapDie_form (s : State) (d : Nat) (f : Die → Die) : (s.mapDie d f).form = s.form := rfl
@[simp] theorem State.mapDie_powered (s : State) (d : Nat) (f : Die → Die) : (s.mapDie d f).powered = s.powered := rfl
@[simp] theorem State.mapDie_unit (s : State) (d : Nat) (f : Die → Die) : (s.mapDie d f).unit = s.unit := rfl
@[simp] theorem State.mapDie_agenda (s : State) (d : Nat) (f : Die → Die) : (s.mapDie d f).agenda = s.agenda := rfl
@[simp] theorem State.mapDie_free (s : State) (d : Nat) (f : Die → Die) : (s.mapDie d f).free = s.free := rfl
@[simp] theorem State.mapDie_nextId (s : State) (d : Nat) (f : Die → Die) : (s.mapDie d f).nextId = s.nextId := rfl
@[simp] theorem State.mapDie_coreId (s : State) (d : Nat) (f : Die → Die) : (s.mapDie d f).coreId = s.coreId := rfl
@[simp] theorem State.mapDie_core (s : State) (d : Nat) (f : Die → Die) : (s.mapDie d f).core = s.core := rfl
@[simp] theorem State.mapDie_others (s : State) (d : Nat) (f : Die → Die) : (s.mapDie d f).others = s.others := rfl
@[simp] theorem State.mapDie_streets (s : State) (d : Nat) (f : Die → Die) : (s.mapDie d f).streets = s.streets := rfl
@[simp] theorem State.mapDie_squares (s : State) (d : Nat) (f : Die → Die) : (s.mapDie d f).squares = s.squares := rfl
@[simp] theorem State.mapDie_dies (s : State) (d : Nat) (f : Die → Die) : (s.mapDie d f).dies = Store.set Die.init s.dies d (f (s.dieAt d)) := rfl
@[simp] theorem State.mapDie_reqs (s : State) (d : Nat) (f : Die → Die) : (s.mapDie d f).reqs = s.reqs := rfl
@[simp] theorem State.mapDie_launches (s : State) (d : Nat) (f : Die → Die) : (s.mapDie d f).launches = s.launches := rfl
@[simp] theorem State.mapDie_ready (s : State) (d : Nat) (f : Die → Die) : (s.mapDie d f).ready = s.ready := rfl
@[simp] theorem State.mapDie_shadow (s : State) (d : Nat) (f : Die → Die) : (s.mapDie d f).shadow = s.shadow := rfl
@[simp] theorem State.mapDie_recs (s : State) (d : Nat) (f : Die → Die) : (s.mapDie d f).recs = s.recs := rfl
@[simp] theorem State.mapDie_contexts (s : State) (d : Nat) (f : Die → Die) : (s.mapDie d f).contexts = s.contexts := rfl
@[simp] theorem State.mapDie_keys (s : State) (d : Nat) (f : Die → Die) : (s.mapDie d f).keys = s.keys := rfl
@[simp] theorem State.mapDie_hbmStacks (s : State) (d : Nat) (f : Die → Die) : (s.mapDie d f).hbmStacks = s.hbmStacks := rfl
@[simp] theorem State.mapDie_spill (s : State) (d : Nat) (f : Die → Die) : (s.mapDie d f).spill = s.spill := rfl
@[simp] theorem State.mapDie_spillLost (s : State) (d : Nat) (f : Die → Die) : (s.mapDie d f).spillLost = s.spillLost := rfl
@[simp] theorem State.mapDie_scans (s : State) (d : Nat) (f : Die → Die) : (s.mapDie d f).scans = s.scans := rfl
@[simp] theorem State.mapDie_fabric (s : State) (d : Nat) (f : Die → Die) : (s.mapDie d f).fabric = s.fabric := rfl
@[simp] theorem State.mapDie_host (s : State) (d : Nat) (f : Die → Die) : (s.mapDie d f).host = s.host := rfl
@[simp] theorem State.mapDie_upsets (s : State) (d : Nat) (f : Die → Die) : (s.mapDie d f).upsets = s.upsets := rfl

/-! State.setStreet -/

@[simp] theorem State.setStreet_form (s : State) (n : Nat) (x : Street) : (s.setStreet n x).form = s.form := rfl
@[simp] theorem State.setStreet_powered (s : State) (n : Nat) (x : Street) : (s.setStreet n x).powered = s.powered := rfl
@[simp] theorem State.setStreet_unit (s : State) (n : Nat) (x : Street) : (s.setStreet n x).unit = s.unit := rfl
@[simp] theorem State.setStreet_agenda (s : State) (n : Nat) (x : Street) : (s.setStreet n x).agenda = s.agenda := rfl
@[simp] theorem State.setStreet_free (s : State) (n : Nat) (x : Street) : (s.setStreet n x).free = s.free := rfl
@[simp] theorem State.setStreet_nextId (s : State) (n : Nat) (x : Street) : (s.setStreet n x).nextId = s.nextId := rfl
@[simp] theorem State.setStreet_coreId (s : State) (n : Nat) (x : Street) : (s.setStreet n x).coreId = s.coreId := rfl
@[simp] theorem State.setStreet_core (s : State) (n : Nat) (x : Street) : (s.setStreet n x).core = s.core := rfl
@[simp] theorem State.setStreet_others (s : State) (n : Nat) (x : Street) : (s.setStreet n x).others = s.others := rfl
@[simp] theorem State.setStreet_streets (s : State) (n : Nat) (x : Street) : (s.setStreet n x).streets = Store.set Street.init s.streets n x := rfl
@[simp] theorem State.setStreet_squares (s : State) (n : Nat) (x : Street) : (s.setStreet n x).squares = s.squares := rfl
@[simp] theorem State.setStreet_dies (s : State) (n : Nat) (x : Street) : (s.setStreet n x).dies = s.dies := rfl
@[simp] theorem State.setStreet_reqs (s : State) (n : Nat) (x : Street) : (s.setStreet n x).reqs = s.reqs := rfl
@[simp] theorem State.setStreet_launches (s : State) (n : Nat) (x : Street) : (s.setStreet n x).launches = s.launches := rfl
@[simp] theorem State.setStreet_ready (s : State) (n : Nat) (x : Street) : (s.setStreet n x).ready = s.ready := rfl
@[simp] theorem State.setStreet_shadow (s : State) (n : Nat) (x : Street) : (s.setStreet n x).shadow = s.shadow := rfl
@[simp] theorem State.setStreet_recs (s : State) (n : Nat) (x : Street) : (s.setStreet n x).recs = s.recs := rfl
@[simp] theorem State.setStreet_contexts (s : State) (n : Nat) (x : Street) : (s.setStreet n x).contexts = s.contexts := rfl
@[simp] theorem State.setStreet_keys (s : State) (n : Nat) (x : Street) : (s.setStreet n x).keys = s.keys := rfl
@[simp] theorem State.setStreet_hbmStacks (s : State) (n : Nat) (x : Street) : (s.setStreet n x).hbmStacks = s.hbmStacks := rfl
@[simp] theorem State.setStreet_spill (s : State) (n : Nat) (x : Street) : (s.setStreet n x).spill = s.spill := rfl
@[simp] theorem State.setStreet_spillLost (s : State) (n : Nat) (x : Street) : (s.setStreet n x).spillLost = s.spillLost := rfl
@[simp] theorem State.setStreet_scans (s : State) (n : Nat) (x : Street) : (s.setStreet n x).scans = s.scans := rfl
@[simp] theorem State.setStreet_fabric (s : State) (n : Nat) (x : Street) : (s.setStreet n x).fabric = s.fabric := rfl
@[simp] theorem State.setStreet_host (s : State) (n : Nat) (x : Street) : (s.setStreet n x).host = s.host := rfl
@[simp] theorem State.setStreet_upsets (s : State) (n : Nat) (x : Street) : (s.setStreet n x).upsets = s.upsets := rfl

/-! State.setSquare -/

@[simp] theorem State.setSquare_form (s : State) (n : Nat) (x : Square) : (s.setSquare n x).form = s.form := rfl
@[simp] theorem State.setSquare_powered (s : State) (n : Nat) (x : Square) : (s.setSquare n x).powered = s.powered := rfl
@[simp] theorem State.setSquare_unit (s : State) (n : Nat) (x : Square) : (s.setSquare n x).unit = s.unit := rfl
@[simp] theorem State.setSquare_agenda (s : State) (n : Nat) (x : Square) : (s.setSquare n x).agenda = s.agenda := rfl
@[simp] theorem State.setSquare_free (s : State) (n : Nat) (x : Square) : (s.setSquare n x).free = s.free := rfl
@[simp] theorem State.setSquare_nextId (s : State) (n : Nat) (x : Square) : (s.setSquare n x).nextId = s.nextId := rfl
@[simp] theorem State.setSquare_coreId (s : State) (n : Nat) (x : Square) : (s.setSquare n x).coreId = s.coreId := rfl
@[simp] theorem State.setSquare_core (s : State) (n : Nat) (x : Square) : (s.setSquare n x).core = s.core := rfl
@[simp] theorem State.setSquare_others (s : State) (n : Nat) (x : Square) : (s.setSquare n x).others = s.others := rfl
@[simp] theorem State.setSquare_streets (s : State) (n : Nat) (x : Square) : (s.setSquare n x).streets = s.streets := rfl
@[simp] theorem State.setSquare_squares (s : State) (n : Nat) (x : Square) : (s.setSquare n x).squares = Store.set Square.init s.squares n x := rfl
@[simp] theorem State.setSquare_dies (s : State) (n : Nat) (x : Square) : (s.setSquare n x).dies = s.dies := rfl
@[simp] theorem State.setSquare_reqs (s : State) (n : Nat) (x : Square) : (s.setSquare n x).reqs = s.reqs := rfl
@[simp] theorem State.setSquare_launches (s : State) (n : Nat) (x : Square) : (s.setSquare n x).launches = s.launches := rfl
@[simp] theorem State.setSquare_ready (s : State) (n : Nat) (x : Square) : (s.setSquare n x).ready = s.ready := rfl
@[simp] theorem State.setSquare_shadow (s : State) (n : Nat) (x : Square) : (s.setSquare n x).shadow = s.shadow := rfl
@[simp] theorem State.setSquare_recs (s : State) (n : Nat) (x : Square) : (s.setSquare n x).recs = s.recs := rfl
@[simp] theorem State.setSquare_contexts (s : State) (n : Nat) (x : Square) : (s.setSquare n x).contexts = s.contexts := rfl
@[simp] theorem State.setSquare_keys (s : State) (n : Nat) (x : Square) : (s.setSquare n x).keys = s.keys := rfl
@[simp] theorem State.setSquare_hbmStacks (s : State) (n : Nat) (x : Square) : (s.setSquare n x).hbmStacks = s.hbmStacks := rfl
@[simp] theorem State.setSquare_spill (s : State) (n : Nat) (x : Square) : (s.setSquare n x).spill = s.spill := rfl
@[simp] theorem State.setSquare_spillLost (s : State) (n : Nat) (x : Square) : (s.setSquare n x).spillLost = s.spillLost := rfl
@[simp] theorem State.setSquare_scans (s : State) (n : Nat) (x : Square) : (s.setSquare n x).scans = s.scans := rfl
@[simp] theorem State.setSquare_fabric (s : State) (n : Nat) (x : Square) : (s.setSquare n x).fabric = s.fabric := rfl
@[simp] theorem State.setSquare_host (s : State) (n : Nat) (x : Square) : (s.setSquare n x).host = s.host := rfl
@[simp] theorem State.setSquare_upsets (s : State) (n : Nat) (x : Square) : (s.setSquare n x).upsets = s.upsets := rfl

/-! State.setStack -/

@[simp] theorem State.setStack_form (s : State) (k : Nat) (x : Stack) : (s.setStack k x).form = s.form := rfl
@[simp] theorem State.setStack_powered (s : State) (k : Nat) (x : Stack) : (s.setStack k x).powered = s.powered := rfl
@[simp] theorem State.setStack_unit (s : State) (k : Nat) (x : Stack) : (s.setStack k x).unit = s.unit := rfl
@[simp] theorem State.setStack_agenda (s : State) (k : Nat) (x : Stack) : (s.setStack k x).agenda = s.agenda := rfl
@[simp] theorem State.setStack_free (s : State) (k : Nat) (x : Stack) : (s.setStack k x).free = s.free := rfl
@[simp] theorem State.setStack_nextId (s : State) (k : Nat) (x : Stack) : (s.setStack k x).nextId = s.nextId := rfl
@[simp] theorem State.setStack_coreId (s : State) (k : Nat) (x : Stack) : (s.setStack k x).coreId = s.coreId := rfl
@[simp] theorem State.setStack_core (s : State) (k : Nat) (x : Stack) : (s.setStack k x).core = s.core := rfl
@[simp] theorem State.setStack_others (s : State) (k : Nat) (x : Stack) : (s.setStack k x).others = s.others := rfl
@[simp] theorem State.setStack_streets (s : State) (k : Nat) (x : Stack) : (s.setStack k x).streets = s.streets := rfl
@[simp] theorem State.setStack_squares (s : State) (k : Nat) (x : Stack) : (s.setStack k x).squares = s.squares := rfl
@[simp] theorem State.setStack_dies (s : State) (k : Nat) (x : Stack) : (s.setStack k x).dies = s.dies := rfl
@[simp] theorem State.setStack_reqs (s : State) (k : Nat) (x : Stack) : (s.setStack k x).reqs = s.reqs := rfl
@[simp] theorem State.setStack_launches (s : State) (k : Nat) (x : Stack) : (s.setStack k x).launches = s.launches := rfl
@[simp] theorem State.setStack_ready (s : State) (k : Nat) (x : Stack) : (s.setStack k x).ready = s.ready := rfl
@[simp] theorem State.setStack_shadow (s : State) (k : Nat) (x : Stack) : (s.setStack k x).shadow = s.shadow := rfl
@[simp] theorem State.setStack_recs (s : State) (k : Nat) (x : Stack) : (s.setStack k x).recs = s.recs := rfl
@[simp] theorem State.setStack_contexts (s : State) (k : Nat) (x : Stack) : (s.setStack k x).contexts = s.contexts := rfl
@[simp] theorem State.setStack_keys (s : State) (k : Nat) (x : Stack) : (s.setStack k x).keys = s.keys := rfl
@[simp] theorem State.setStack_hbmStacks (s : State) (k : Nat) (x : Stack) : (s.setStack k x).hbmStacks = Store.set Stack.init s.hbmStacks k x := rfl
@[simp] theorem State.setStack_spill (s : State) (k : Nat) (x : Stack) : (s.setStack k x).spill = s.spill := rfl
@[simp] theorem State.setStack_spillLost (s : State) (k : Nat) (x : Stack) : (s.setStack k x).spillLost = s.spillLost := rfl
@[simp] theorem State.setStack_scans (s : State) (k : Nat) (x : Stack) : (s.setStack k x).scans = s.scans := rfl
@[simp] theorem State.setStack_fabric (s : State) (k : Nat) (x : Stack) : (s.setStack k x).fabric = s.fabric := rfl
@[simp] theorem State.setStack_host (s : State) (k : Nat) (x : Stack) : (s.setStack k x).host = s.host := rfl
@[simp] theorem State.setStack_upsets (s : State) (k : Nat) (x : Stack) : (s.setStack k x).upsets = s.upsets := rfl

/-! State.mapCtx -/

@[simp] theorem State.mapCtx_form (s : State) (i : Nat) (f : Context → Context) : (s.mapCtx i f).form = s.form := rfl
@[simp] theorem State.mapCtx_powered (s : State) (i : Nat) (f : Context → Context) : (s.mapCtx i f).powered = s.powered := rfl
@[simp] theorem State.mapCtx_unit (s : State) (i : Nat) (f : Context → Context) : (s.mapCtx i f).unit = s.unit := rfl
@[simp] theorem State.mapCtx_agenda (s : State) (i : Nat) (f : Context → Context) : (s.mapCtx i f).agenda = s.agenda := rfl
@[simp] theorem State.mapCtx_free (s : State) (i : Nat) (f : Context → Context) : (s.mapCtx i f).free = s.free := rfl
@[simp] theorem State.mapCtx_nextId (s : State) (i : Nat) (f : Context → Context) : (s.mapCtx i f).nextId = s.nextId := rfl
@[simp] theorem State.mapCtx_coreId (s : State) (i : Nat) (f : Context → Context) : (s.mapCtx i f).coreId = s.coreId := rfl
@[simp] theorem State.mapCtx_core (s : State) (i : Nat) (f : Context → Context) : (s.mapCtx i f).core = s.core := rfl
@[simp] theorem State.mapCtx_others (s : State) (i : Nat) (f : Context → Context) : (s.mapCtx i f).others = s.others := rfl
@[simp] theorem State.mapCtx_streets (s : State) (i : Nat) (f : Context → Context) : (s.mapCtx i f).streets = s.streets := rfl
@[simp] theorem State.mapCtx_squares (s : State) (i : Nat) (f : Context → Context) : (s.mapCtx i f).squares = s.squares := rfl
@[simp] theorem State.mapCtx_dies (s : State) (i : Nat) (f : Context → Context) : (s.mapCtx i f).dies = s.dies := rfl
@[simp] theorem State.mapCtx_reqs (s : State) (i : Nat) (f : Context → Context) : (s.mapCtx i f).reqs = s.reqs := rfl
@[simp] theorem State.mapCtx_launches (s : State) (i : Nat) (f : Context → Context) : (s.mapCtx i f).launches = s.launches := rfl
@[simp] theorem State.mapCtx_ready (s : State) (i : Nat) (f : Context → Context) : (s.mapCtx i f).ready = s.ready := rfl
@[simp] theorem State.mapCtx_shadow (s : State) (i : Nat) (f : Context → Context) : (s.mapCtx i f).shadow = s.shadow := rfl
@[simp] theorem State.mapCtx_recs (s : State) (i : Nat) (f : Context → Context) : (s.mapCtx i f).recs = s.recs := rfl
@[simp] theorem State.mapCtx_contexts (s : State) (i : Nat) (f : Context → Context) : (s.mapCtx i f).contexts = s.contexts.map fun c => if c.id = i then f c else c := rfl
@[simp] theorem State.mapCtx_keys (s : State) (i : Nat) (f : Context → Context) : (s.mapCtx i f).keys = s.keys := rfl
@[simp] theorem State.mapCtx_hbmStacks (s : State) (i : Nat) (f : Context → Context) : (s.mapCtx i f).hbmStacks = s.hbmStacks := rfl
@[simp] theorem State.mapCtx_spill (s : State) (i : Nat) (f : Context → Context) : (s.mapCtx i f).spill = s.spill := rfl
@[simp] theorem State.mapCtx_spillLost (s : State) (i : Nat) (f : Context → Context) : (s.mapCtx i f).spillLost = s.spillLost := rfl
@[simp] theorem State.mapCtx_scans (s : State) (i : Nat) (f : Context → Context) : (s.mapCtx i f).scans = s.scans := rfl
@[simp] theorem State.mapCtx_fabric (s : State) (i : Nat) (f : Context → Context) : (s.mapCtx i f).fabric = s.fabric := rfl
@[simp] theorem State.mapCtx_host (s : State) (i : Nat) (f : Context → Context) : (s.mapCtx i f).host = s.host := rfl
@[simp] theorem State.mapCtx_upsets (s : State) (i : Nat) (f : Context → Context) : (s.mapCtx i f).upsets = s.upsets := rfl

/-! State.useRecs -/

@[simp] theorem State.useRecs_form (s : State) (c : Nat) (h : List Nat) : (s.useRecs c h).form = s.form := rfl
@[simp] theorem State.useRecs_powered (s : State) (c : Nat) (h : List Nat) : (s.useRecs c h).powered = s.powered := rfl
@[simp] theorem State.useRecs_unit (s : State) (c : Nat) (h : List Nat) : (s.useRecs c h).unit = s.unit := rfl
@[simp] theorem State.useRecs_agenda (s : State) (c : Nat) (h : List Nat) : (s.useRecs c h).agenda = s.agenda := rfl
@[simp] theorem State.useRecs_free (s : State) (c : Nat) (h : List Nat) : (s.useRecs c h).free = s.free := rfl
@[simp] theorem State.useRecs_nextId (s : State) (c : Nat) (h : List Nat) : (s.useRecs c h).nextId = s.nextId := rfl
@[simp] theorem State.useRecs_coreId (s : State) (c : Nat) (h : List Nat) : (s.useRecs c h).coreId = s.coreId := rfl
@[simp] theorem State.useRecs_core (s : State) (c : Nat) (h : List Nat) : (s.useRecs c h).core = s.core := rfl
@[simp] theorem State.useRecs_others (s : State) (c : Nat) (h : List Nat) : (s.useRecs c h).others = s.others := rfl
@[simp] theorem State.useRecs_streets (s : State) (c : Nat) (h : List Nat) : (s.useRecs c h).streets = s.streets := rfl
@[simp] theorem State.useRecs_squares (s : State) (c : Nat) (h : List Nat) : (s.useRecs c h).squares = s.squares := rfl
@[simp] theorem State.useRecs_dies (s : State) (c : Nat) (h : List Nat) : (s.useRecs c h).dies = s.dies := rfl
@[simp] theorem State.useRecs_reqs (s : State) (c : Nat) (h : List Nat) : (s.useRecs c h).reqs = s.reqs := rfl
@[simp] theorem State.useRecs_launches (s : State) (c : Nat) (h : List Nat) : (s.useRecs c h).launches = s.launches := rfl
@[simp] theorem State.useRecs_ready (s : State) (c : Nat) (h : List Nat) : (s.useRecs c h).ready = s.ready := rfl
@[simp] theorem State.useRecs_shadow (s : State) (c : Nat) (h : List Nat) : (s.useRecs c h).shadow = s.shadow := rfl
@[simp] theorem State.useRecs_contexts (s : State) (c : Nat) (h : List Nat) : (s.useRecs c h).contexts = s.contexts := rfl
@[simp] theorem State.useRecs_keys (s : State) (c : Nat) (h : List Nat) : (s.useRecs c h).keys = s.keys := rfl
@[simp] theorem State.useRecs_hbmStacks (s : State) (c : Nat) (h : List Nat) : (s.useRecs c h).hbmStacks = s.hbmStacks := rfl
@[simp] theorem State.useRecs_spill (s : State) (c : Nat) (h : List Nat) : (s.useRecs c h).spill = s.spill := rfl
@[simp] theorem State.useRecs_spillLost (s : State) (c : Nat) (h : List Nat) : (s.useRecs c h).spillLost = s.spillLost := rfl
@[simp] theorem State.useRecs_scans (s : State) (c : Nat) (h : List Nat) : (s.useRecs c h).scans = s.scans := rfl
@[simp] theorem State.useRecs_fabric (s : State) (c : Nat) (h : List Nat) : (s.useRecs c h).fabric = s.fabric := rfl
@[simp] theorem State.useRecs_host (s : State) (c : Nat) (h : List Nat) : (s.useRecs c h).host = s.host := rfl
@[simp] theorem State.useRecs_upsets (s : State) (c : Nat) (h : List Nat) : (s.useRecs c h).upsets = s.upsets := rfl

/-! State.unuseRecs -/

@[simp] theorem State.unuseRecs_form (s : State) (c : Nat) (h : List Nat) : (s.unuseRecs c h).form = s.form := rfl
@[simp] theorem State.unuseRecs_powered (s : State) (c : Nat) (h : List Nat) : (s.unuseRecs c h).powered = s.powered := rfl
@[simp] theorem State.unuseRecs_unit (s : State) (c : Nat) (h : List Nat) : (s.unuseRecs c h).unit = s.unit := rfl
@[simp] theorem State.unuseRecs_agenda (s : State) (c : Nat) (h : List Nat) : (s.unuseRecs c h).agenda = s.agenda := rfl
@[simp] theorem State.unuseRecs_free (s : State) (c : Nat) (h : List Nat) : (s.unuseRecs c h).free = s.free := rfl
@[simp] theorem State.unuseRecs_nextId (s : State) (c : Nat) (h : List Nat) : (s.unuseRecs c h).nextId = s.nextId := rfl
@[simp] theorem State.unuseRecs_coreId (s : State) (c : Nat) (h : List Nat) : (s.unuseRecs c h).coreId = s.coreId := rfl
@[simp] theorem State.unuseRecs_core (s : State) (c : Nat) (h : List Nat) : (s.unuseRecs c h).core = s.core := rfl
@[simp] theorem State.unuseRecs_others (s : State) (c : Nat) (h : List Nat) : (s.unuseRecs c h).others = s.others := rfl
@[simp] theorem State.unuseRecs_streets (s : State) (c : Nat) (h : List Nat) : (s.unuseRecs c h).streets = s.streets := rfl
@[simp] theorem State.unuseRecs_squares (s : State) (c : Nat) (h : List Nat) : (s.unuseRecs c h).squares = s.squares := rfl
@[simp] theorem State.unuseRecs_dies (s : State) (c : Nat) (h : List Nat) : (s.unuseRecs c h).dies = s.dies := rfl
@[simp] theorem State.unuseRecs_reqs (s : State) (c : Nat) (h : List Nat) : (s.unuseRecs c h).reqs = s.reqs := rfl
@[simp] theorem State.unuseRecs_launches (s : State) (c : Nat) (h : List Nat) : (s.unuseRecs c h).launches = s.launches := rfl
@[simp] theorem State.unuseRecs_ready (s : State) (c : Nat) (h : List Nat) : (s.unuseRecs c h).ready = s.ready := rfl
@[simp] theorem State.unuseRecs_shadow (s : State) (c : Nat) (h : List Nat) : (s.unuseRecs c h).shadow = s.shadow := rfl
@[simp] theorem State.unuseRecs_contexts (s : State) (c : Nat) (h : List Nat) : (s.unuseRecs c h).contexts = s.contexts := rfl
@[simp] theorem State.unuseRecs_keys (s : State) (c : Nat) (h : List Nat) : (s.unuseRecs c h).keys = s.keys := rfl
@[simp] theorem State.unuseRecs_hbmStacks (s : State) (c : Nat) (h : List Nat) : (s.unuseRecs c h).hbmStacks = s.hbmStacks := rfl
@[simp] theorem State.unuseRecs_spill (s : State) (c : Nat) (h : List Nat) : (s.unuseRecs c h).spill = s.spill := rfl
@[simp] theorem State.unuseRecs_spillLost (s : State) (c : Nat) (h : List Nat) : (s.unuseRecs c h).spillLost = s.spillLost := rfl
@[simp] theorem State.unuseRecs_scans (s : State) (c : Nat) (h : List Nat) : (s.unuseRecs c h).scans = s.scans := rfl
@[simp] theorem State.unuseRecs_fabric (s : State) (c : Nat) (h : List Nat) : (s.unuseRecs c h).fabric = s.fabric := rfl
@[simp] theorem State.unuseRecs_host (s : State) (c : Nat) (h : List Nat) : (s.unuseRecs c h).host = s.host := rfl
@[simp] theorem State.unuseRecs_upsets (s : State) (c : Nat) (h : List Nat) : (s.unuseRecs c h).upsets = s.upsets := rfl

/-! State.atEnd -/

@[simp] theorem State.atEnd_form (s : State) (sl : Slot) (es : List Eff) (fl : Nat) : (s.atEnd sl es fl).form = s.form := rfl
@[simp] theorem State.atEnd_powered (s : State) (sl : Slot) (es : List Eff) (fl : Nat) : (s.atEnd sl es fl).powered = s.powered := rfl
@[simp] theorem State.atEnd_unit (s : State) (sl : Slot) (es : List Eff) (fl : Nat) : (s.atEnd sl es fl).unit = s.unit := rfl
@[simp] theorem State.atEnd_agenda (s : State) (sl : Slot) (es : List Eff) (fl : Nat) : (s.atEnd sl es fl).agenda = s.agenda := rfl
@[simp] theorem State.atEnd_free (s : State) (sl : Slot) (es : List Eff) (fl : Nat) : (s.atEnd sl es fl).free = s.free := rfl
@[simp] theorem State.atEnd_nextId (s : State) (sl : Slot) (es : List Eff) (fl : Nat) : (s.atEnd sl es fl).nextId = s.nextId := rfl
@[simp] theorem State.atEnd_coreId (s : State) (sl : Slot) (es : List Eff) (fl : Nat) : (s.atEnd sl es fl).coreId = s.coreId := rfl
@[simp] theorem State.atEnd_others (s : State) (sl : Slot) (es : List Eff) (fl : Nat) : (s.atEnd sl es fl).others = s.others := rfl
@[simp] theorem State.atEnd_streets (s : State) (sl : Slot) (es : List Eff) (fl : Nat) : (s.atEnd sl es fl).streets = s.streets := rfl
@[simp] theorem State.atEnd_squares (s : State) (sl : Slot) (es : List Eff) (fl : Nat) : (s.atEnd sl es fl).squares = s.squares := rfl
@[simp] theorem State.atEnd_dies (s : State) (sl : Slot) (es : List Eff) (fl : Nat) : (s.atEnd sl es fl).dies = s.dies := rfl
@[simp] theorem State.atEnd_reqs (s : State) (sl : Slot) (es : List Eff) (fl : Nat) : (s.atEnd sl es fl).reqs = s.reqs := rfl
@[simp] theorem State.atEnd_launches (s : State) (sl : Slot) (es : List Eff) (fl : Nat) : (s.atEnd sl es fl).launches = s.launches := rfl
@[simp] theorem State.atEnd_ready (s : State) (sl : Slot) (es : List Eff) (fl : Nat) : (s.atEnd sl es fl).ready = s.ready := rfl
@[simp] theorem State.atEnd_shadow (s : State) (sl : Slot) (es : List Eff) (fl : Nat) : (s.atEnd sl es fl).shadow = s.shadow := rfl
@[simp] theorem State.atEnd_recs (s : State) (sl : Slot) (es : List Eff) (fl : Nat) : (s.atEnd sl es fl).recs = s.recs := rfl
@[simp] theorem State.atEnd_contexts (s : State) (sl : Slot) (es : List Eff) (fl : Nat) : (s.atEnd sl es fl).contexts = s.contexts := rfl
@[simp] theorem State.atEnd_keys (s : State) (sl : Slot) (es : List Eff) (fl : Nat) : (s.atEnd sl es fl).keys = s.keys := rfl
@[simp] theorem State.atEnd_hbmStacks (s : State) (sl : Slot) (es : List Eff) (fl : Nat) : (s.atEnd sl es fl).hbmStacks = s.hbmStacks := rfl
@[simp] theorem State.atEnd_spill (s : State) (sl : Slot) (es : List Eff) (fl : Nat) : (s.atEnd sl es fl).spill = s.spill := rfl
@[simp] theorem State.atEnd_spillLost (s : State) (sl : Slot) (es : List Eff) (fl : Nat) : (s.atEnd sl es fl).spillLost = s.spillLost := rfl
@[simp] theorem State.atEnd_scans (s : State) (sl : Slot) (es : List Eff) (fl : Nat) : (s.atEnd sl es fl).scans = s.scans := rfl
@[simp] theorem State.atEnd_fabric (s : State) (sl : Slot) (es : List Eff) (fl : Nat) : (s.atEnd sl es fl).fabric = s.fabric := rfl
@[simp] theorem State.atEnd_host (s : State) (sl : Slot) (es : List Eff) (fl : Nat) : (s.atEnd sl es fl).host = s.host := rfl
@[simp] theorem State.atEnd_upsets (s : State) (sl : Slot) (es : List Eff) (fl : Nat) : (s.atEnd sl es fl).upsets = s.upsets := rfl

/-! State.result -/

@[simp] theorem State.result_form (s : State) (sl : Slot) (k : Nat) (es : List Eff) (l : Option V512) (fl : Nat) : (s.result sl k es l fl).form = s.form := rfl
@[simp] theorem State.result_powered (s : State) (sl : Slot) (k : Nat) (es : List Eff) (l : Option V512) (fl : Nat) : (s.result sl k es l fl).powered = s.powered := rfl
@[simp] theorem State.result_unit (s : State) (sl : Slot) (k : Nat) (es : List Eff) (l : Option V512) (fl : Nat) : (s.result sl k es l fl).unit = s.unit := rfl
@[simp] theorem State.result_agenda (s : State) (sl : Slot) (k : Nat) (es : List Eff) (l : Option V512) (fl : Nat) : (s.result sl k es l fl).agenda = s.agenda := rfl
@[simp] theorem State.result_free (s : State) (sl : Slot) (k : Nat) (es : List Eff) (l : Option V512) (fl : Nat) : (s.result sl k es l fl).free = s.free := rfl
@[simp] theorem State.result_nextId (s : State) (sl : Slot) (k : Nat) (es : List Eff) (l : Option V512) (fl : Nat) : (s.result sl k es l fl).nextId = s.nextId := rfl
@[simp] theorem State.result_coreId (s : State) (sl : Slot) (k : Nat) (es : List Eff) (l : Option V512) (fl : Nat) : (s.result sl k es l fl).coreId = s.coreId := rfl
@[simp] theorem State.result_others (s : State) (sl : Slot) (k : Nat) (es : List Eff) (l : Option V512) (fl : Nat) : (s.result sl k es l fl).others = s.others := rfl
@[simp] theorem State.result_streets (s : State) (sl : Slot) (k : Nat) (es : List Eff) (l : Option V512) (fl : Nat) : (s.result sl k es l fl).streets = s.streets := rfl
@[simp] theorem State.result_squares (s : State) (sl : Slot) (k : Nat) (es : List Eff) (l : Option V512) (fl : Nat) : (s.result sl k es l fl).squares = s.squares := rfl
@[simp] theorem State.result_dies (s : State) (sl : Slot) (k : Nat) (es : List Eff) (l : Option V512) (fl : Nat) : (s.result sl k es l fl).dies = s.dies := rfl
@[simp] theorem State.result_reqs (s : State) (sl : Slot) (k : Nat) (es : List Eff) (l : Option V512) (fl : Nat) : (s.result sl k es l fl).reqs = s.reqs := rfl
@[simp] theorem State.result_launches (s : State) (sl : Slot) (k : Nat) (es : List Eff) (l : Option V512) (fl : Nat) : (s.result sl k es l fl).launches = s.launches := rfl
@[simp] theorem State.result_ready (s : State) (sl : Slot) (k : Nat) (es : List Eff) (l : Option V512) (fl : Nat) : (s.result sl k es l fl).ready = s.ready := rfl
@[simp] theorem State.result_shadow (s : State) (sl : Slot) (k : Nat) (es : List Eff) (l : Option V512) (fl : Nat) : (s.result sl k es l fl).shadow = s.shadow := rfl
@[simp] theorem State.result_recs (s : State) (sl : Slot) (k : Nat) (es : List Eff) (l : Option V512) (fl : Nat) : (s.result sl k es l fl).recs = s.recs := rfl
@[simp] theorem State.result_contexts (s : State) (sl : Slot) (k : Nat) (es : List Eff) (l : Option V512) (fl : Nat) : (s.result sl k es l fl).contexts = s.contexts := rfl
@[simp] theorem State.result_keys (s : State) (sl : Slot) (k : Nat) (es : List Eff) (l : Option V512) (fl : Nat) : (s.result sl k es l fl).keys = s.keys := rfl
@[simp] theorem State.result_hbmStacks (s : State) (sl : Slot) (k : Nat) (es : List Eff) (l : Option V512) (fl : Nat) : (s.result sl k es l fl).hbmStacks = s.hbmStacks := rfl
@[simp] theorem State.result_spill (s : State) (sl : Slot) (k : Nat) (es : List Eff) (l : Option V512) (fl : Nat) : (s.result sl k es l fl).spill = s.spill := rfl
@[simp] theorem State.result_spillLost (s : State) (sl : Slot) (k : Nat) (es : List Eff) (l : Option V512) (fl : Nat) : (s.result sl k es l fl).spillLost = s.spillLost := rfl
@[simp] theorem State.result_scans (s : State) (sl : Slot) (k : Nat) (es : List Eff) (l : Option V512) (fl : Nat) : (s.result sl k es l fl).scans = s.scans := rfl
@[simp] theorem State.result_fabric (s : State) (sl : Slot) (k : Nat) (es : List Eff) (l : Option V512) (fl : Nat) : (s.result sl k es l fl).fabric = s.fabric := rfl
@[simp] theorem State.result_host (s : State) (sl : Slot) (k : Nat) (es : List Eff) (l : Option V512) (fl : Nat) : (s.result sl k es l fl).host = s.host := rfl
@[simp] theorem State.result_upsets (s : State) (sl : Slot) (k : Nat) (es : List Eff) (l : Option V512) (fl : Nat) : (s.result sl k es l fl).upsets = s.upsets := rfl

/-! State.setViews -/

@[simp] theorem State.setViews_form (s : State) : s.setViews.form = s.form := rfl
@[simp] theorem State.setViews_powered (s : State) : s.setViews.powered = s.powered := rfl
@[simp] theorem State.setViews_unit (s : State) : s.setViews.unit = s.unit := rfl
@[simp] theorem State.setViews_agenda (s : State) : s.setViews.agenda = s.agenda := rfl
@[simp] theorem State.setViews_free (s : State) : s.setViews.free = s.free := rfl
@[simp] theorem State.setViews_nextId (s : State) : s.setViews.nextId = s.nextId := rfl
@[simp] theorem State.setViews_coreId (s : State) : s.setViews.coreId = s.coreId := rfl
@[simp] theorem State.setViews_others (s : State) : s.setViews.others = s.others := rfl
@[simp] theorem State.setViews_streets (s : State) : s.setViews.streets = s.streets := rfl
@[simp] theorem State.setViews_squares (s : State) : s.setViews.squares = s.squares := rfl
@[simp] theorem State.setViews_dies (s : State) : s.setViews.dies = s.dies := rfl
@[simp] theorem State.setViews_reqs (s : State) : s.setViews.reqs = s.reqs := rfl
@[simp] theorem State.setViews_launches (s : State) : s.setViews.launches = s.launches := rfl
@[simp] theorem State.setViews_ready (s : State) : s.setViews.ready = s.ready := rfl
@[simp] theorem State.setViews_shadow (s : State) : s.setViews.shadow = s.shadow := rfl
@[simp] theorem State.setViews_recs (s : State) : s.setViews.recs = s.recs := rfl
@[simp] theorem State.setViews_contexts (s : State) : s.setViews.contexts = s.contexts := rfl
@[simp] theorem State.setViews_keys (s : State) : s.setViews.keys = s.keys := rfl
@[simp] theorem State.setViews_hbmStacks (s : State) : s.setViews.hbmStacks = s.hbmStacks := rfl
@[simp] theorem State.setViews_spill (s : State) : s.setViews.spill = s.spill := rfl
@[simp] theorem State.setViews_spillLost (s : State) : s.setViews.spillLost = s.spillLost := rfl
@[simp] theorem State.setViews_scans (s : State) : s.setViews.scans = s.scans := rfl
@[simp] theorem State.setViews_fabric (s : State) : s.setViews.fabric = s.fabric := rfl
@[simp] theorem State.setViews_host (s : State) : s.setViews.host = s.host := rfl
@[simp] theorem State.setViews_upsets (s : State) : s.setViews.upsets = s.upsets := rfl

/-! State.usePorts -/

@[simp] theorem State.usePorts_form (s : State) (w : Bool) (l : List Nat) : (s.usePorts w l).form = s.form := rfl
@[simp] theorem State.usePorts_powered (s : State) (w : Bool) (l : List Nat) : (s.usePorts w l).powered = s.powered := rfl
@[simp] theorem State.usePorts_unit (s : State) (w : Bool) (l : List Nat) : (s.usePorts w l).unit = s.unit := rfl
@[simp] theorem State.usePorts_agenda (s : State) (w : Bool) (l : List Nat) : (s.usePorts w l).agenda = s.agenda := rfl
@[simp] theorem State.usePorts_free (s : State) (w : Bool) (l : List Nat) : (s.usePorts w l).free = s.free := rfl
@[simp] theorem State.usePorts_nextId (s : State) (w : Bool) (l : List Nat) : (s.usePorts w l).nextId = s.nextId := rfl
@[simp] theorem State.usePorts_coreId (s : State) (w : Bool) (l : List Nat) : (s.usePorts w l).coreId = s.coreId := rfl
@[simp] theorem State.usePorts_others (s : State) (w : Bool) (l : List Nat) : (s.usePorts w l).others = s.others := rfl
@[simp] theorem State.usePorts_streets (s : State) (w : Bool) (l : List Nat) : (s.usePorts w l).streets = s.streets := rfl
@[simp] theorem State.usePorts_squares (s : State) (w : Bool) (l : List Nat) : (s.usePorts w l).squares = s.squares := rfl
@[simp] theorem State.usePorts_dies (s : State) (w : Bool) (l : List Nat) : (s.usePorts w l).dies = s.dies := rfl
@[simp] theorem State.usePorts_reqs (s : State) (w : Bool) (l : List Nat) : (s.usePorts w l).reqs = s.reqs := rfl
@[simp] theorem State.usePorts_launches (s : State) (w : Bool) (l : List Nat) : (s.usePorts w l).launches = s.launches := rfl
@[simp] theorem State.usePorts_ready (s : State) (w : Bool) (l : List Nat) : (s.usePorts w l).ready = s.ready := rfl
@[simp] theorem State.usePorts_shadow (s : State) (w : Bool) (l : List Nat) : (s.usePorts w l).shadow = s.shadow := rfl
@[simp] theorem State.usePorts_recs (s : State) (w : Bool) (l : List Nat) : (s.usePorts w l).recs = s.recs := rfl
@[simp] theorem State.usePorts_contexts (s : State) (w : Bool) (l : List Nat) : (s.usePorts w l).contexts = s.contexts := rfl
@[simp] theorem State.usePorts_keys (s : State) (w : Bool) (l : List Nat) : (s.usePorts w l).keys = s.keys := rfl
@[simp] theorem State.usePorts_hbmStacks (s : State) (w : Bool) (l : List Nat) : (s.usePorts w l).hbmStacks = s.hbmStacks := rfl
@[simp] theorem State.usePorts_spill (s : State) (w : Bool) (l : List Nat) : (s.usePorts w l).spill = s.spill := rfl
@[simp] theorem State.usePorts_spillLost (s : State) (w : Bool) (l : List Nat) : (s.usePorts w l).spillLost = s.spillLost := rfl
@[simp] theorem State.usePorts_scans (s : State) (w : Bool) (l : List Nat) : (s.usePorts w l).scans = s.scans := rfl
@[simp] theorem State.usePorts_fabric (s : State) (w : Bool) (l : List Nat) : (s.usePorts w l).fabric = s.fabric := rfl
@[simp] theorem State.usePorts_host (s : State) (w : Bool) (l : List Nat) : (s.usePorts w l).host = s.host := rfl
@[simp] theorem State.usePorts_upsets (s : State) (w : Bool) (l : List Nat) : (s.usePorts w l).upsets = s.upsets := rfl

/-! State.orFlags -/

@[simp] theorem State.orFlags_form (s : State) (fl : Nat) : (s.orFlags fl).form = s.form := rfl
@[simp] theorem State.orFlags_powered (s : State) (fl : Nat) : (s.orFlags fl).powered = s.powered := rfl
@[simp] theorem State.orFlags_unit (s : State) (fl : Nat) : (s.orFlags fl).unit = s.unit := rfl
@[simp] theorem State.orFlags_agenda (s : State) (fl : Nat) : (s.orFlags fl).agenda = s.agenda := rfl
@[simp] theorem State.orFlags_free (s : State) (fl : Nat) : (s.orFlags fl).free = s.free := rfl
@[simp] theorem State.orFlags_nextId (s : State) (fl : Nat) : (s.orFlags fl).nextId = s.nextId := rfl
@[simp] theorem State.orFlags_coreId (s : State) (fl : Nat) : (s.orFlags fl).coreId = s.coreId := rfl
@[simp] theorem State.orFlags_others (s : State) (fl : Nat) : (s.orFlags fl).others = s.others := rfl
@[simp] theorem State.orFlags_streets (s : State) (fl : Nat) : (s.orFlags fl).streets = s.streets := rfl
@[simp] theorem State.orFlags_squares (s : State) (fl : Nat) : (s.orFlags fl).squares = s.squares := rfl
@[simp] theorem State.orFlags_dies (s : State) (fl : Nat) : (s.orFlags fl).dies = s.dies := rfl
@[simp] theorem State.orFlags_reqs (s : State) (fl : Nat) : (s.orFlags fl).reqs = s.reqs := rfl
@[simp] theorem State.orFlags_launches (s : State) (fl : Nat) : (s.orFlags fl).launches = s.launches := rfl
@[simp] theorem State.orFlags_ready (s : State) (fl : Nat) : (s.orFlags fl).ready = s.ready := rfl
@[simp] theorem State.orFlags_shadow (s : State) (fl : Nat) : (s.orFlags fl).shadow = s.shadow := rfl
@[simp] theorem State.orFlags_recs (s : State) (fl : Nat) : (s.orFlags fl).recs = s.recs := rfl
@[simp] theorem State.orFlags_contexts (s : State) (fl : Nat) : (s.orFlags fl).contexts = s.contexts := rfl
@[simp] theorem State.orFlags_keys (s : State) (fl : Nat) : (s.orFlags fl).keys = s.keys := rfl
@[simp] theorem State.orFlags_hbmStacks (s : State) (fl : Nat) : (s.orFlags fl).hbmStacks = s.hbmStacks := rfl
@[simp] theorem State.orFlags_spill (s : State) (fl : Nat) : (s.orFlags fl).spill = s.spill := rfl
@[simp] theorem State.orFlags_spillLost (s : State) (fl : Nat) : (s.orFlags fl).spillLost = s.spillLost := rfl
@[simp] theorem State.orFlags_scans (s : State) (fl : Nat) : (s.orFlags fl).scans = s.scans := rfl
@[simp] theorem State.orFlags_fabric (s : State) (fl : Nat) : (s.orFlags fl).fabric = s.fabric := rfl
@[simp] theorem State.orFlags_host (s : State) (fl : Nat) : (s.orFlags fl).host = s.host := rfl
@[simp] theorem State.orFlags_upsets (s : State) (fl : Nat) : (s.orFlags fl).upsets = s.upsets := rfl

/-! What putting results in flight does to the hearth -/

@[simp] theorem State.result_core_mode (s : State) (sl : Slot) (k : Nat) (es : List Eff) (l : Option V512) (fl : Nat) : (s.result sl k es l fl).core.mode = s.core.mode := rfl
@[simp] theorem State.atEnd_core_mode (s : State) (sl : Slot) (es : List Eff) (fl : Nat) : (s.atEnd sl es fl).core.mode = s.core.mode := rfl
@[simp] theorem Core.putFlight_mode (c : Core) (x : Flight) : (c.putFlight x).mode = c.mode := rfl
@[simp] theorem State.usePorts_core_mode (s : State) (w : Bool) (l : List Nat) : (s.usePorts w l).core.mode = s.core.mode := rfl
@[simp] theorem State.setViews_core_mode (s : State) : s.setViews.core.mode = s.core.mode := rfl
@[simp] theorem Core.setQ_mode (c : Core) (n : Nat) (l : List Elem) : (c.setQ n l).mode = c.mode := rfl
@[simp] theorem Core.setFlue_mode (c : Core) (n : Nat) (x : Flue) : (c.setFlue n x).mode = c.mode := rfl
@[simp] theorem Core.took_mode (c : Core) : c.took.mode = c.mode := rfl
@[simp] theorem State.result_core_task (s : State) (sl : Slot) (k : Nat) (es : List Eff) (l : Option V512) (fl : Nat) : (s.result sl k es l fl).core.task = s.core.task := rfl
@[simp] theorem State.atEnd_core_task (s : State) (sl : Slot) (es : List Eff) (fl : Nat) : (s.atEnd sl es fl).core.task = s.core.task := rfl
@[simp] theorem Core.putFlight_task (c : Core) (x : Flight) : (c.putFlight x).task = c.task := rfl
@[simp] theorem State.usePorts_core_task (s : State) (w : Bool) (l : List Nat) : (s.usePorts w l).core.task = s.core.task := rfl
@[simp] theorem State.setViews_core_task (s : State) : s.setViews.core.task = s.core.task := rfl
@[simp] theorem Core.setQ_task (c : Core) (n : Nat) (l : List Elem) : (c.setQ n l).task = c.task := rfl
@[simp] theorem Core.setFlue_task (c : Core) (n : Nat) (x : Flue) : (c.setFlue n x).task = c.task := rfl
@[simp] theorem Core.took_task (c : Core) : c.took.task = c.task := rfl
@[simp] theorem State.result_core_code (s : State) (sl : Slot) (k : Nat) (es : List Eff) (l : Option V512) (fl : Nat) : (s.result sl k es l fl).core.code = s.core.code := rfl
@[simp] theorem State.atEnd_core_code (s : State) (sl : Slot) (es : List Eff) (fl : Nat) : (s.atEnd sl es fl).core.code = s.core.code := rfl
@[simp] theorem Core.putFlight_code (c : Core) (x : Flight) : (c.putFlight x).code = c.code := rfl
@[simp] theorem State.usePorts_core_code (s : State) (w : Bool) (l : List Nat) : (s.usePorts w l).core.code = s.core.code := rfl
@[simp] theorem State.setViews_core_code (s : State) : s.setViews.core.code = s.core.code := rfl
@[simp] theorem Core.setQ_code (c : Core) (n : Nat) (l : List Elem) : (c.setQ n l).code = c.code := rfl
@[simp] theorem Core.setFlue_code (c : Core) (n : Nat) (x : Flue) : (c.setFlue n x).code = c.code := rfl
@[simp] theorem Core.took_code (c : Core) : c.took.code = c.code := rfl
@[simp] theorem State.result_core_regs (s : State) (sl : Slot) (k : Nat) (es : List Eff) (l : Option V512) (fl : Nat) : (s.result sl k es l fl).core.regs = s.core.regs := rfl
@[simp] theorem State.atEnd_core_regs (s : State) (sl : Slot) (es : List Eff) (fl : Nat) : (s.atEnd sl es fl).core.regs = s.core.regs := rfl
@[simp] theorem Core.putFlight_regs (c : Core) (x : Flight) : (c.putFlight x).regs = c.regs := rfl
@[simp] theorem State.usePorts_core_regs (s : State) (w : Bool) (l : List Nat) : (s.usePorts w l).core.regs = s.core.regs := rfl
@[simp] theorem State.setViews_core_regs (s : State) : s.setViews.core.regs = s.core.regs := rfl
@[simp] theorem Core.setQ_regs (c : Core) (n : Nat) (l : List Elem) : (c.setQ n l).regs = c.regs := rfl
@[simp] theorem Core.setFlue_regs (c : Core) (n : Nat) (x : Flue) : (c.setFlue n x).regs = c.regs := rfl
@[simp] theorem Core.took_regs (c : Core) : c.took.regs = c.regs := rfl
@[simp] theorem State.result_core_loops (s : State) (sl : Slot) (k : Nat) (es : List Eff) (l : Option V512) (fl : Nat) : (s.result sl k es l fl).core.loops = s.core.loops := rfl
@[simp] theorem State.atEnd_core_loops (s : State) (sl : Slot) (es : List Eff) (fl : Nat) : (s.atEnd sl es fl).core.loops = s.core.loops := rfl
@[simp] theorem Core.putFlight_loops (c : Core) (x : Flight) : (c.putFlight x).loops = c.loops := rfl
@[simp] theorem State.usePorts_core_loops (s : State) (w : Bool) (l : List Nat) : (s.usePorts w l).core.loops = s.core.loops := rfl
@[simp] theorem State.setViews_core_loops (s : State) : s.setViews.core.loops = s.core.loops := rfl
@[simp] theorem Core.setQ_loops (c : Core) (n : Nat) (l : List Elem) : (c.setQ n l).loops = c.loops := rfl
@[simp] theorem Core.setFlue_loops (c : Core) (n : Nat) (x : Flue) : (c.setFlue n x).loops = c.loops := rfl
@[simp] theorem Core.took_loops (c : Core) : c.took.loops = c.loops := rfl
@[simp] theorem State.result_core_sticky (s : State) (sl : Slot) (k : Nat) (es : List Eff) (l : Option V512) (fl : Nat) : (s.result sl k es l fl).core.sticky = s.core.sticky := rfl
@[simp] theorem State.atEnd_core_sticky (s : State) (sl : Slot) (es : List Eff) (fl : Nat) : (s.atEnd sl es fl).core.sticky = s.core.sticky := rfl
@[simp] theorem Core.putFlight_sticky (c : Core) (x : Flight) : (c.putFlight x).sticky = c.sticky := rfl
@[simp] theorem State.usePorts_core_sticky (s : State) (w : Bool) (l : List Nat) : (s.usePorts w l).core.sticky = s.core.sticky := rfl
@[simp] theorem State.setViews_core_sticky (s : State) : s.setViews.core.sticky = s.core.sticky := rfl
@[simp] theorem Core.setQ_sticky (c : Core) (n : Nat) (l : List Elem) : (c.setQ n l).sticky = c.sticky := rfl
@[simp] theorem Core.setFlue_sticky (c : Core) (n : Nat) (x : Flue) : (c.setFlue n x).sticky = c.sticky := rfl
@[simp] theorem Core.took_sticky (c : Core) : c.took.sticky = c.sticky := rfl
@[simp] theorem State.result_core_seq (s : State) (sl : Slot) (k : Nat) (es : List Eff) (l : Option V512) (fl : Nat) : (s.result sl k es l fl).core.seq = s.core.seq := rfl
@[simp] theorem State.atEnd_core_seq (s : State) (sl : Slot) (es : List Eff) (fl : Nat) : (s.atEnd sl es fl).core.seq = s.core.seq := rfl
@[simp] theorem Core.putFlight_seq (c : Core) (x : Flight) : (c.putFlight x).seq = c.seq := rfl
@[simp] theorem State.usePorts_core_seq (s : State) (w : Bool) (l : List Nat) : (s.usePorts w l).core.seq = s.core.seq := rfl
@[simp] theorem State.setViews_core_seq (s : State) : s.setViews.core.seq = s.core.seq := rfl
@[simp] theorem Core.setQ_seq (c : Core) (n : Nat) (l : List Elem) : (c.setQ n l).seq = c.seq := rfl
@[simp] theorem Core.setFlue_seq (c : Core) (n : Nat) (x : Flue) : (c.setFlue n x).seq = c.seq := rfl
@[simp] theorem Core.took_seq (c : Core) : c.took.seq = c.seq := rfl
@[simp] theorem State.usePorts_core_fly (s : State) (w : Bool) (l : List Nat) : (s.usePorts w l).core.fly = s.core.fly := rfl
@[simp] theorem State.setViews_core_fly (s : State) : s.setViews.core.fly = s.core.fly := rfl
@[simp] theorem Core.setQ_fly (c : Core) (n : Nat) (l : List Elem) : (c.setQ n l).fly = c.fly := rfl
@[simp] theorem Core.setFlue_fly (c : Core) (n : Nat) (x : Flue) : (c.setFlue n x).fly = c.fly := rfl
@[simp] theorem Core.took_fly (c : Core) : c.took.fly = c.fly := rfl
@[simp] theorem State.result_core_ctl (s : State) (sl : Slot) (k : Nat) (es : List Eff) (l : Option V512) (fl : Nat) : (s.result sl k es l fl).core.ctl = s.core.ctl := rfl
@[simp] theorem State.atEnd_core_ctl (s : State) (sl : Slot) (es : List Eff) (fl : Nat) : (s.atEnd sl es fl).core.ctl = s.core.ctl := rfl
@[simp] theorem Core.putFlight_ctl (c : Core) (x : Flight) : (c.putFlight x).ctl = c.ctl := rfl
@[simp] theorem State.usePorts_core_ctl (s : State) (w : Bool) (l : List Nat) : (s.usePorts w l).core.ctl = s.core.ctl := rfl
@[simp] theorem State.setViews_core_ctl (s : State) : s.setViews.core.ctl = s.core.ctl := rfl
@[simp] theorem Core.setQ_ctl (c : Core) (n : Nat) (l : List Elem) : (c.setQ n l).ctl = c.ctl := rfl
@[simp] theorem Core.setFlue_ctl (c : Core) (n : Nat) (x : Flue) : (c.setFlue n x).ctl = c.ctl := rfl
@[simp] theorem Core.took_ctl (c : Core) : c.took.ctl = c.ctl := rfl
@[simp] theorem State.result_core_q (s : State) (sl : Slot) (k : Nat) (es : List Eff) (l : Option V512) (fl : Nat) : (s.result sl k es l fl).core.q = s.core.q := rfl
@[simp] theorem State.atEnd_core_q (s : State) (sl : Slot) (es : List Eff) (fl : Nat) : (s.atEnd sl es fl).core.q = s.core.q := rfl
@[simp] theorem Core.putFlight_q (c : Core) (x : Flight) : (c.putFlight x).q = c.q := rfl
@[simp] theorem State.usePorts_core_q (s : State) (w : Bool) (l : List Nat) : (s.usePorts w l).core.q = s.core.q := rfl
@[simp] theorem State.setViews_core_q (s : State) : s.setViews.core.q = s.core.q := rfl
@[simp] theorem Core.setFlue_q (c : Core) (n : Nat) (x : Flue) : (c.setFlue n x).q = c.q := rfl
@[simp] theorem Core.took_q (c : Core) : c.took.q = c.q := rfl
@[simp] theorem State.result_core_flue (s : State) (sl : Slot) (k : Nat) (es : List Eff) (l : Option V512) (fl : Nat) : (s.result sl k es l fl).core.flue = s.core.flue := rfl
@[simp] theorem State.atEnd_core_flue (s : State) (sl : Slot) (es : List Eff) (fl : Nat) : (s.atEnd sl es fl).core.flue = s.core.flue := rfl
@[simp] theorem Core.putFlight_flue (c : Core) (x : Flight) : (c.putFlight x).flue = c.flue := rfl
@[simp] theorem State.usePorts_core_flue (s : State) (w : Bool) (l : List Nat) : (s.usePorts w l).core.flue = s.core.flue := rfl
@[simp] theorem State.setViews_core_flue (s : State) : s.setViews.core.flue = s.core.flue := rfl
@[simp] theorem Core.setQ_flue (c : Core) (n : Nat) (l : List Elem) : (c.setQ n l).flue = c.flue := rfl
@[simp] theorem Core.took_flue (c : Core) : c.took.flue = c.flue := rfl
@[simp] theorem State.result_core_mat (s : State) (sl : Slot) (k : Nat) (es : List Eff) (l : Option V512) (fl : Nat) : (s.result sl k es l fl).core.mat = s.core.mat := rfl
@[simp] theorem State.atEnd_core_mat (s : State) (sl : Slot) (es : List Eff) (fl : Nat) : (s.atEnd sl es fl).core.mat = s.core.mat := rfl
@[simp] theorem Core.putFlight_mat (c : Core) (x : Flight) : (c.putFlight x).mat = c.mat := rfl
@[simp] theorem State.usePorts_core_mat (s : State) (w : Bool) (l : List Nat) : (s.usePorts w l).core.mat = s.core.mat := rfl
@[simp] theorem State.setViews_core_mat (s : State) : s.setViews.core.mat = s.core.mat := rfl
@[simp] theorem Core.setQ_mat (c : Core) (n : Nat) (l : List Elem) : (c.setQ n l).mat = c.mat := rfl
@[simp] theorem Core.setFlue_mat (c : Core) (n : Nat) (x : Flue) : (c.setFlue n x).mat = c.mat := rfl
@[simp] theorem State.result_core_pad (s : State) (sl : Slot) (k : Nat) (es : List Eff) (l : Option V512) (fl : Nat) : (s.result sl k es l fl).core.pad = s.core.pad := rfl
@[simp] theorem State.atEnd_core_pad (s : State) (sl : Slot) (es : List Eff) (fl : Nat) : (s.atEnd sl es fl).core.pad = s.core.pad := rfl
@[simp] theorem Core.putFlight_pad (c : Core) (x : Flight) : (c.putFlight x).pad = c.pad := rfl
@[simp] theorem Core.setQ_pad (c : Core) (n : Nat) (l : List Elem) : (c.setQ n l).pad = c.pad := rfl
@[simp] theorem Core.setFlue_pad (c : Core) (n : Nat) (x : Flue) : (c.setFlue n x).pad = c.pad := rfl
@[simp] theorem Core.took_pad (c : Core) : c.took.pad = c.pad := rfl
@[simp] theorem State.result_core_win (s : State) (sl : Slot) (k : Nat) (es : List Eff) (l : Option V512) (fl : Nat) : (s.result sl k es l fl).core.win = s.core.win := rfl
@[simp] theorem State.atEnd_core_win (s : State) (sl : Slot) (es : List Eff) (fl : Nat) : (s.atEnd sl es fl).core.win = s.core.win := rfl
@[simp] theorem Core.putFlight_win (c : Core) (x : Flight) : (c.putFlight x).win = c.win := rfl
@[simp] theorem State.usePorts_core_win (s : State) (w : Bool) (l : List Nat) : (s.usePorts w l).core.win = s.core.win := rfl
@[simp] theorem State.setViews_core_win (s : State) : s.setViews.core.win = s.core.win := rfl
@[simp] theorem Core.setQ_win (c : Core) (n : Nat) (l : List Elem) : (c.setQ n l).win = c.win := rfl
@[simp] theorem Core.setFlue_win (c : Core) (n : Nat) (x : Flue) : (c.setFlue n x).win = c.win := rfl
@[simp] theorem Core.took_win (c : Core) : c.took.win = c.win := rfl
@[simp] theorem State.result_core_st (s : State) (sl : Slot) (k : Nat) (es : List Eff) (l : Option V512) (fl : Nat) : (s.result sl k es l fl).core.st = s.core.st := rfl
@[simp] theorem State.atEnd_core_st (s : State) (sl : Slot) (es : List Eff) (fl : Nat) : (s.atEnd sl es fl).core.st = s.core.st := rfl
@[simp] theorem Core.putFlight_st (c : Core) (x : Flight) : (c.putFlight x).st = c.st := rfl
@[simp] theorem State.usePorts_core_st (s : State) (w : Bool) (l : List Nat) : (s.usePorts w l).core.st = s.core.st := rfl
@[simp] theorem State.setViews_core_st (s : State) : s.setViews.core.st = s.core.st := rfl
@[simp] theorem Core.setQ_st (c : Core) (n : Nat) (l : List Elem) : (c.setQ n l).st = c.st := rfl
@[simp] theorem Core.setFlue_st (c : Core) (n : Nat) (x : Flue) : (c.setFlue n x).st = c.st := rfl
@[simp] theorem Core.took_st (c : Core) : c.took.st = c.st := rfl
@[simp] theorem State.result_core_cycle (s : State) (sl : Slot) (k : Nat) (es : List Eff) (l : Option V512) (fl : Nat) : (s.result sl k es l fl).core.cycle = s.core.cycle := rfl
@[simp] theorem State.atEnd_core_cycle (s : State) (sl : Slot) (es : List Eff) (fl : Nat) : (s.atEnd sl es fl).core.cycle = s.core.cycle := rfl
@[simp] theorem Core.putFlight_cycle (c : Core) (x : Flight) : (c.putFlight x).cycle = c.cycle := rfl
@[simp] theorem State.usePorts_core_cycle (s : State) (w : Bool) (l : List Nat) : (s.usePorts w l).core.cycle = s.core.cycle := rfl
@[simp] theorem State.setViews_core_cycle (s : State) : s.setViews.core.cycle = s.core.cycle := rfl
@[simp] theorem Core.setQ_cycle (c : Core) (n : Nat) (l : List Elem) : (c.setQ n l).cycle = c.cycle := rfl
@[simp] theorem Core.setFlue_cycle (c : Core) (n : Nat) (x : Flue) : (c.setFlue n x).cycle = c.cycle := rfl
@[simp] theorem Core.took_cycle (c : Core) : c.took.cycle = c.cycle := rfl
@[simp] theorem State.result_core_clk (s : State) (sl : Slot) (k : Nat) (es : List Eff) (l : Option V512) (fl : Nat) : (s.result sl k es l fl).core.clk = s.core.clk := rfl
@[simp] theorem State.atEnd_core_clk (s : State) (sl : Slot) (es : List Eff) (fl : Nat) : (s.atEnd sl es fl).core.clk = s.core.clk := rfl
@[simp] theorem Core.putFlight_clk (c : Core) (x : Flight) : (c.putFlight x).clk = c.clk := rfl
@[simp] theorem State.usePorts_core_clk (s : State) (w : Bool) (l : List Nat) : (s.usePorts w l).core.clk = s.core.clk := rfl
@[simp] theorem State.setViews_core_clk (s : State) : s.setViews.core.clk = s.core.clk := rfl
@[simp] theorem Core.setQ_clk (c : Core) (n : Nat) (l : List Elem) : (c.setQ n l).clk = c.clk := rfl
@[simp] theorem Core.setFlue_clk (c : Core) (n : Nat) (x : Flue) : (c.setFlue n x).clk = c.clk := rfl
@[simp] theorem Core.took_clk (c : Core) : c.took.clk = c.clk := rfl
@[simp] theorem State.result_core_vt (s : State) (sl : Slot) (k : Nat) (es : List Eff) (l : Option V512) (fl : Nat) : (s.result sl k es l fl).core.vt = s.core.vt := rfl
@[simp] theorem State.atEnd_core_vt (s : State) (sl : Slot) (es : List Eff) (fl : Nat) : (s.atEnd sl es fl).core.vt = s.core.vt := rfl
@[simp] theorem Core.putFlight_vt (c : Core) (x : Flight) : (c.putFlight x).vt = c.vt := rfl
@[simp] theorem State.usePorts_core_vt (s : State) (w : Bool) (l : List Nat) : (s.usePorts w l).core.vt = s.core.vt := rfl
@[simp] theorem State.setViews_core_vt (s : State) : s.setViews.core.vt = s.core.vt := rfl
@[simp] theorem Core.setQ_vt (c : Core) (n : Nat) (l : List Elem) : (c.setQ n l).vt = c.vt := rfl
@[simp] theorem Core.setFlue_vt (c : Core) (n : Nat) (x : Flue) : (c.setFlue n x).vt = c.vt := rfl
@[simp] theorem Core.took_vt (c : Core) : c.took.vt = c.vt := rfl
@[simp] theorem State.result_core_owed (s : State) (sl : Slot) (k : Nat) (es : List Eff) (l : Option V512) (fl : Nat) : (s.result sl k es l fl).core.owed = s.core.owed := rfl
@[simp] theorem State.atEnd_core_owed (s : State) (sl : Slot) (es : List Eff) (fl : Nat) : (s.atEnd sl es fl).core.owed = s.core.owed := rfl
@[simp] theorem Core.putFlight_owed (c : Core) (x : Flight) : (c.putFlight x).owed = c.owed := rfl
@[simp] theorem State.usePorts_core_owed (s : State) (w : Bool) (l : List Nat) : (s.usePorts w l).core.owed = s.core.owed := rfl
@[simp] theorem State.setViews_core_owed (s : State) : s.setViews.core.owed = s.core.owed := rfl
@[simp] theorem Core.setQ_owed (c : Core) (n : Nat) (l : List Elem) : (c.setQ n l).owed = c.owed := rfl
@[simp] theorem Core.setFlue_owed (c : Core) (n : Nat) (x : Flue) : (c.setFlue n x).owed = c.owed := rfl
@[simp] theorem Core.took_owed (c : Core) : c.took.owed = c.owed := rfl
@[simp] theorem State.result_core_cfg (s : State) (sl : Slot) (k : Nat) (es : List Eff) (l : Option V512) (fl : Nat) : (s.result sl k es l fl).core.cfg = s.core.cfg := rfl
@[simp] theorem State.atEnd_core_cfg (s : State) (sl : Slot) (es : List Eff) (fl : Nat) : (s.atEnd sl es fl).core.cfg = s.core.cfg := rfl
@[simp] theorem Core.putFlight_cfg (c : Core) (x : Flight) : (c.putFlight x).cfg = c.cfg := rfl
@[simp] theorem State.usePorts_core_cfg (s : State) (w : Bool) (l : List Nat) : (s.usePorts w l).core.cfg = s.core.cfg := rfl
@[simp] theorem State.setViews_core_cfg (s : State) : s.setViews.core.cfg = s.core.cfg := rfl
@[simp] theorem Core.setQ_cfg (c : Core) (n : Nat) (l : List Elem) : (c.setQ n l).cfg = c.cfg := rfl
@[simp] theorem Core.setFlue_cfg (c : Core) (n : Nat) (x : Flue) : (c.setFlue n x).cfg = c.cfg := rfl
@[simp] theorem Core.took_cfg (c : Core) : c.took.cfg = c.cfg := rfl
@[simp] theorem State.result_core_priv (s : State) (sl : Slot) (k : Nat) (es : List Eff) (l : Option V512) (fl : Nat) : (s.result sl k es l fl).core.priv = s.core.priv := rfl
@[simp] theorem State.atEnd_core_priv (s : State) (sl : Slot) (es : List Eff) (fl : Nat) : (s.atEnd sl es fl).core.priv = s.core.priv := rfl
@[simp] theorem Core.putFlight_priv (c : Core) (x : Flight) : (c.putFlight x).priv = c.priv := rfl
@[simp] theorem State.usePorts_core_priv (s : State) (w : Bool) (l : List Nat) : (s.usePorts w l).core.priv = s.core.priv := rfl
@[simp] theorem State.setViews_core_priv (s : State) : s.setViews.core.priv = s.core.priv := rfl
@[simp] theorem Core.setQ_priv (c : Core) (n : Nat) (l : List Elem) : (c.setQ n l).priv = c.priv := rfl
@[simp] theorem Core.setFlue_priv (c : Core) (n : Nat) (x : Flue) : (c.setFlue n x).priv = c.priv := rfl
@[simp] theorem Core.took_priv (c : Core) : c.took.priv = c.priv := rfl
@[simp] theorem State.result_core_hclk (s : State) (sl : Slot) (k : Nat) (es : List Eff) (l : Option V512) (fl : Nat) : (s.result sl k es l fl).core.hclk = s.core.hclk := rfl
@[simp] theorem State.atEnd_core_hclk (s : State) (sl : Slot) (es : List Eff) (fl : Nat) : (s.atEnd sl es fl).core.hclk = s.core.hclk := rfl
@[simp] theorem Core.putFlight_hclk (c : Core) (x : Flight) : (c.putFlight x).hclk = c.hclk := rfl
@[simp] theorem State.usePorts_core_hclk (s : State) (w : Bool) (l : List Nat) : (s.usePorts w l).core.hclk = s.core.hclk := rfl
@[simp] theorem State.setViews_core_hclk (s : State) : s.setViews.core.hclk = s.core.hclk := rfl
@[simp] theorem Core.setQ_hclk (c : Core) (n : Nat) (l : List Elem) : (c.setQ n l).hclk = c.hclk := rfl
@[simp] theorem Core.setFlue_hclk (c : Core) (n : Nat) (x : Flue) : (c.setFlue n x).hclk = c.hclk := rfl
@[simp] theorem Core.took_hclk (c : Core) : c.took.hclk = c.hclk := rfl
@[simp] theorem State.result_core_trap (s : State) (sl : Slot) (k : Nat) (es : List Eff) (l : Option V512) (fl : Nat) : (s.result sl k es l fl).core.trap = s.core.trap := rfl
@[simp] theorem State.atEnd_core_trap (s : State) (sl : Slot) (es : List Eff) (fl : Nat) : (s.atEnd sl es fl).core.trap = s.core.trap := rfl
@[simp] theorem Core.putFlight_trap (c : Core) (x : Flight) : (c.putFlight x).trap = c.trap := rfl
@[simp] theorem State.usePorts_core_trap (s : State) (w : Bool) (l : List Nat) : (s.usePorts w l).core.trap = s.core.trap := rfl
@[simp] theorem State.setViews_core_trap (s : State) : s.setViews.core.trap = s.core.trap := rfl
@[simp] theorem Core.setQ_trap (c : Core) (n : Nat) (l : List Elem) : (c.setQ n l).trap = c.trap := rfl
@[simp] theorem Core.setFlue_trap (c : Core) (n : Nat) (x : Flue) : (c.setFlue n x).trap = c.trap := rfl
@[simp] theorem Core.took_trap (c : Core) : c.took.trap = c.trap := rfl
@[simp] theorem State.result_core_frame (s : State) (sl : Slot) (k : Nat) (es : List Eff) (l : Option V512) (fl : Nat) : (s.result sl k es l fl).core.frame = s.core.frame := rfl
@[simp] theorem State.atEnd_core_frame (s : State) (sl : Slot) (es : List Eff) (fl : Nat) : (s.atEnd sl es fl).core.frame = s.core.frame := rfl
@[simp] theorem Core.putFlight_frame (c : Core) (x : Flight) : (c.putFlight x).frame = c.frame := rfl
@[simp] theorem State.usePorts_core_frame (s : State) (w : Bool) (l : List Nat) : (s.usePorts w l).core.frame = s.core.frame := rfl
@[simp] theorem State.setViews_core_frame (s : State) : s.setViews.core.frame = s.core.frame := rfl
@[simp] theorem Core.setQ_frame (c : Core) (n : Nat) (l : List Elem) : (c.setQ n l).frame = c.frame := rfl
@[simp] theorem Core.setFlue_frame (c : Core) (n : Nat) (x : Flue) : (c.setFlue n x).frame = c.frame := rfl
@[simp] theorem Core.took_frame (c : Core) : c.took.frame = c.frame := rfl
@[simp] theorem State.result_core_eng (s : State) (sl : Slot) (k : Nat) (es : List Eff) (l : Option V512) (fl : Nat) : (s.result sl k es l fl).core.eng = s.core.eng := rfl
@[simp] theorem State.atEnd_core_eng (s : State) (sl : Slot) (es : List Eff) (fl : Nat) : (s.atEnd sl es fl).core.eng = s.core.eng := rfl
@[simp] theorem Core.putFlight_eng (c : Core) (x : Flight) : (c.putFlight x).eng = c.eng := rfl
@[simp] theorem State.usePorts_core_eng (s : State) (w : Bool) (l : List Nat) : (s.usePorts w l).core.eng = s.core.eng := rfl
@[simp] theorem State.setViews_core_eng (s : State) : s.setViews.core.eng = s.core.eng := rfl
@[simp] theorem Core.setQ_eng (c : Core) (n : Nat) (l : List Elem) : (c.setQ n l).eng = c.eng := rfl
@[simp] theorem Core.setFlue_eng (c : Core) (n : Nat) (x : Flue) : (c.setFlue n x).eng = c.eng := rfl
@[simp] theorem Core.took_eng (c : Core) : c.took.eng = c.eng := rfl
@[simp] theorem State.result_core_past (s : State) (sl : Slot) (k : Nat) (es : List Eff) (l : Option V512) (fl : Nat) : (s.result sl k es l fl).core.past = s.core.past := rfl
@[simp] theorem State.atEnd_core_past (s : State) (sl : Slot) (es : List Eff) (fl : Nat) : (s.atEnd sl es fl).core.past = s.core.past := rfl
@[simp] theorem Core.putFlight_past (c : Core) (x : Flight) : (c.putFlight x).past = c.past := rfl
@[simp] theorem State.usePorts_core_past (s : State) (w : Bool) (l : List Nat) : (s.usePorts w l).core.past = s.core.past := rfl
@[simp] theorem State.setViews_core_past (s : State) : s.setViews.core.past = s.core.past := rfl
@[simp] theorem Core.setQ_past (c : Core) (n : Nat) (l : List Elem) : (c.setQ n l).past = c.past := rfl
@[simp] theorem Core.setFlue_past (c : Core) (n : Nat) (x : Flue) : (c.setFlue n x).past = c.past := rfl
@[simp] theorem Core.took_past (c : Core) : c.took.past = c.past := rfl
@[simp] theorem State.result_core_wait (s : State) (sl : Slot) (k : Nat) (es : List Eff) (l : Option V512) (fl : Nat) : (s.result sl k es l fl).core.wait = s.core.wait := rfl
@[simp] theorem State.atEnd_core_wait (s : State) (sl : Slot) (es : List Eff) (fl : Nat) : (s.atEnd sl es fl).core.wait = s.core.wait := rfl
@[simp] theorem Core.putFlight_wait (c : Core) (x : Flight) : (c.putFlight x).wait = c.wait := rfl
@[simp] theorem State.usePorts_core_wait (s : State) (w : Bool) (l : List Nat) : (s.usePorts w l).core.wait = s.core.wait := rfl
@[simp] theorem State.setViews_core_wait (s : State) : s.setViews.core.wait = s.core.wait := rfl
@[simp] theorem Core.setQ_wait (c : Core) (n : Nat) (l : List Elem) : (c.setQ n l).wait = c.wait := rfl
@[simp] theorem Core.setFlue_wait (c : Core) (n : Nat) (x : Flue) : (c.setFlue n x).wait = c.wait := rfl
@[simp] theorem Core.took_wait (c : Core) : c.took.wait = c.wait := rfl
@[simp] theorem State.result_core_stuck (s : State) (sl : Slot) (k : Nat) (es : List Eff) (l : Option V512) (fl : Nat) : (s.result sl k es l fl).core.stuck = s.core.stuck := rfl
@[simp] theorem State.atEnd_core_stuck (s : State) (sl : Slot) (es : List Eff) (fl : Nat) : (s.atEnd sl es fl).core.stuck = s.core.stuck := rfl
@[simp] theorem Core.putFlight_stuck (c : Core) (x : Flight) : (c.putFlight x).stuck = c.stuck := rfl
@[simp] theorem State.usePorts_core_stuck (s : State) (w : Bool) (l : List Nat) : (s.usePorts w l).core.stuck = s.core.stuck := rfl
@[simp] theorem State.setViews_core_stuck (s : State) : s.setViews.core.stuck = s.core.stuck := rfl
@[simp] theorem Core.setQ_stuck (c : Core) (n : Nat) (l : List Elem) : (c.setQ n l).stuck = c.stuck := rfl
@[simp] theorem Core.setFlue_stuck (c : Core) (n : Nat) (x : Flue) : (c.setFlue n x).stuck = c.stuck := rfl
@[simp] theorem Core.took_stuck (c : Core) : c.took.stuck = c.stuck := rfl
@[simp] theorem State.result_core_race (s : State) (sl : Slot) (k : Nat) (es : List Eff) (l : Option V512) (fl : Nat) : (s.result sl k es l fl).core.race = s.core.race := rfl
@[simp] theorem State.atEnd_core_race (s : State) (sl : Slot) (es : List Eff) (fl : Nat) : (s.atEnd sl es fl).core.race = s.core.race := rfl
@[simp] theorem Core.putFlight_race (c : Core) (x : Flight) : (c.putFlight x).race = c.race := rfl
@[simp] theorem State.usePorts_core_race (s : State) (w : Bool) (l : List Nat) : (s.usePorts w l).core.race = s.core.race := rfl
@[simp] theorem State.setViews_core_race (s : State) : s.setViews.core.race = s.core.race := rfl
@[simp] theorem Core.setQ_race (c : Core) (n : Nat) (l : List Elem) : (c.setQ n l).race = c.race := rfl
@[simp] theorem Core.setFlue_race (c : Core) (n : Nat) (x : Flue) : (c.setFlue n x).race = c.race := rfl
@[simp] theorem Core.took_race (c : Core) : c.took.race = c.race := rfl
@[simp] theorem State.result_core_link (s : State) (sl : Slot) (k : Nat) (es : List Eff) (l : Option V512) (fl : Nat) : (s.result sl k es l fl).core.link = s.core.link := rfl
@[simp] theorem State.atEnd_core_link (s : State) (sl : Slot) (es : List Eff) (fl : Nat) : (s.atEnd sl es fl).core.link = s.core.link := rfl
@[simp] theorem Core.putFlight_link (c : Core) (x : Flight) : (c.putFlight x).link = c.link := rfl
@[simp] theorem State.usePorts_core_link (s : State) (w : Bool) (l : List Nat) : (s.usePorts w l).core.link = s.core.link := rfl
@[simp] theorem State.setViews_core_link (s : State) : s.setViews.core.link = s.core.link := rfl
@[simp] theorem Core.setQ_link (c : Core) (n : Nat) (l : List Elem) : (c.setQ n l).link = c.link := rfl
@[simp] theorem Core.setFlue_link (c : Core) (n : Nat) (x : Flue) : (c.setFlue n x).link = c.link := rfl
@[simp] theorem Core.took_link (c : Core) : c.took.link = c.link := rfl
@[simp] theorem State.result_core_bad (s : State) (sl : Slot) (k : Nat) (es : List Eff) (l : Option V512) (fl : Nat) : (s.result sl k es l fl).core.bad = s.core.bad := rfl
@[simp] theorem State.atEnd_core_bad (s : State) (sl : Slot) (es : List Eff) (fl : Nat) : (s.atEnd sl es fl).core.bad = s.core.bad := rfl
@[simp] theorem Core.putFlight_bad (c : Core) (x : Flight) : (c.putFlight x).bad = c.bad := rfl
@[simp] theorem State.usePorts_core_bad (s : State) (w : Bool) (l : List Nat) : (s.usePorts w l).core.bad = s.core.bad := rfl
@[simp] theorem State.setViews_core_bad (s : State) : s.setViews.core.bad = s.core.bad := rfl
@[simp] theorem Core.setQ_bad (c : Core) (n : Nat) (l : List Elem) : (c.setQ n l).bad = c.bad := rfl
@[simp] theorem Core.setFlue_bad (c : Core) (n : Nat) (x : Flue) : (c.setFlue n x).bad = c.bad := rfl
@[simp] theorem Core.took_bad (c : Core) : c.took.bad = c.bad := rfl
@[simp] theorem State.result_core_fly (s : State) (sl : Slot) (k : Nat) (es : List Eff) (l : Option V512) (fl : Nat) :
    (s.result sl k es l fl).core.fly = s.core.fly ++
      [⟨sl, s.core.latency k, es, l.map fun v => (latchNo sl, v, true), fl, s.core.locks k⟩] := rfl
@[simp] theorem State.atEnd_core_fly (s : State) (sl : Slot) (es : List Eff) (fl : Nat) :
    (s.atEnd sl es fl).core.fly = s.core.fly ++ [⟨sl, 1, es, none, fl, false⟩] := rfl
@[simp] theorem Core.putFlight_fly (c : Core) (x : Flight) : (c.putFlight x).fly = c.fly ++ [x] := rfl
@[simp] theorem State.usePorts_core_pad_mem (s : State) (w : Bool) (l : List Nat) :
    (s.usePorts w l).core.pad.mem = s.core.pad.mem := rfl
@[simp] theorem State.usePorts_core_pad_bfmt (s : State) (w : Bool) (l : List Nat) :
    (s.usePorts w l).core.pad.bfmt = s.core.pad.bfmt := rfl
@[simp] theorem State.setViews_core_pad_mem (s : State) : s.setViews.core.pad.mem = s.core.pad.mem := rfl
@[simp] theorem State.setViews_core_pad_bfmt (s : State) : s.setViews.core.pad.bfmt = s.core.pad.bfmt := rfl
@[simp] theorem Core.setQ_q (c : Core) (n : Nat) (l : List Elem) : (c.setQ n l).q = Store.set [] c.q n l := rfl
@[simp] theorem Core.setFlue_flue (c : Core) (n : Nat) (x : Flue) : (c.setFlue n x).flue = Store.set Flue.init c.flue n x := rfl

end Sys2Proof.Machine
end

