-- ==== Sys2Proof/Laws/Ops.lean ====
section
/-! SUPPORT. One lemma for each shared operation: what it can answer, and what it leaves alone. -/
namespace Sys2Proof.Machine

/-! ## Guards and sources -/

/-- A guarded operation acts where its guard is true. -/
theorem guarded_true {s : State} {g : Nat} (k : Res) (h : s.core.readP g = true) : guarded g s k = k := by
  simp [guarded, h]

/-- A guarded operation does nothing where its guard is false. -/
theorem guarded_false {s : State} {g : Nat} (k : Res) (h : s.core.readP g = false) : guarded g s k = .ok s := by
  simp [guarded, h]

/-- What a vector source answers with. -/
theorem withV_ok {s t : State} {n : Nat} {k : V512 → Res} (h : withV s n k = .ok t) :
    ∃ v, k v = .ok t ∧ v = if n < 1024 then s.core.readV n else (s.core.readLatch (n - 1024)).val := by
  unfold withV at h
  split at h
  · rename_i hn
    split at h
    · cases h
    · exact ⟨_, h, by simp [hn]⟩
  · rename_i hn
    simp only at h
    split at h
    · exact ⟨_, h, by simp [hn]⟩
    · simp [raise] at h

/-- What a scalar source of a long operation answers with. -/
theorem withX_ok {s t : State} {n : Nat} {k : W64 → Res} (h : withX s n k = .ok t) :
    ∃ v, k v = .ok t ∧ v = if n < 1024 then s.core.readX n else (s.core.readLatch (n - 1024)).val.setWidth 64 := by
  unfold withX at h
  split at h
  · rename_i hn; exact ⟨_, h, by simp [hn]⟩
  · rename_i hn
    simp only at h
    split at h
    · exact ⟨_, h, by simp [hn]⟩
    · simp [raise] at h

/-! ## Scratchpad -/

/-- What a checked scratchpad offset answers with (R21, R154, R227). -/
theorem padAddr_ok {a : AReg} {disp : Int} {len align : Nat} {k : Nat → Res} {t : State}
    (h : padAddr a disp len align k = .ok t) :
    ∃ x : Nat, k x = .ok t ∧ a.int + disp = x ∧ x + len ≤ padBytes := by
  unfold padAddr at h
  simp only at h
  split at h
  · simp [raise] at h
  · rename_i hc
    refine ⟨(a.int + disp).toNat, h, ?_, ?_⟩ <;> omega

/-- What a read of some places answers with (R227). -/
theorem padRead_ok {s t : State} {v : View} {a : Nat} {places : List Nat} {k : Nat → State → Res}
    (h : padRead s v a places k = .ok t) :
    k (ofBytes (places.map fun p => s.core.pad.mem.read p)) (s.usePorts false places) = .ok t := by
  unfold padRead landed at h
  split at h
  · simp [raise] at h
  · split at h
    · split at h
      · simp [raise] at h
      · split at h
        · cases h
        · exact h
    · split at h
      · cases h
      · simp [raise] at h

theorem toBytes_length (n v : Nat) : (toBytes n v).length = n := by
  induction n generalizing v with
  | zero => rfl
  | succ n ih => simp [toBytes, ih]

theorem placesOf_length (a n : Nat) : (placesOf a n).length = n := by simp [placesOf]

/-- The number that some bytes make, as bytes again. -/
theorem toBytes_ofBytes (l : List Byte) : toBytes l.length (ofBytes l) = l := by
  induction l with
  | nil => rfl
  | cons b l ih =>
    have hb := b.isLt
    have h1 : (b.toNat + 256 * ofBytes l) / 256 = ofBytes l := by omega
    have h2 : BitVec.ofNat 8 (b.toNat + 256 * ofBytes l) = b := by
      apply BitVec.eq_of_toNat_eq
      simp only [BitVec.toNat_ofNat]
      omega
    simp only [List.length_cons, toBytes, ofBytes, h1, h2, ih]

theorem Memory.readN_eq (m : Memory) (a n : Nat) : m.readN a n = (List.range n).map fun i => m.read (a + i) := by
  induction n generalizing a with
  | zero => rfl
  | succ n ih =>
    rw [List.range_succ_eq_map, Memory.readN, ih, List.map_cons, List.map_map]
    simp [Function.comp_def, Nat.add_assoc, Nat.add_comm 1]

/-! ## Errors and injections -/

theorem Core.mapFlaw_bad (c : Core) (p : OwnUnit) (f : Flaw → Flaw) : ∃ bad, c.mapFlaw p f = { c with bad := bad } := ⟨_, rfl⟩

/-- Reading a unit of the hearth logs and corrects, and changes nothing else of the hearth (R348, R351). -/
theorem State.sawWords_core (s : State) (ctx : Nat) (p : OwnUnit) (ws : List Nat) :
    ∃ bad, (s.sawWords ctx p ws).core = { s.core with bad := bad } := by
  unfold State.sawWords
  simp only
  split
  · exact ⟨s.core.bad, rfl⟩
  · simp only [State.mapCore, State.logError, State.mapDie, State.setDie]
    split
    · exact Core.mapFlaw_bad _ _ _
    · exact ⟨s.core.bad, rfl⟩

theorem State.fireOwn_core (s : State) (p : OwnUnit) :
    ∃ bad einj, (s.fireOwn p).core = { s.core with bad := bad, st := { s.core.st with einj := einj } } := by
  unfold State.fireOwn
  simp only
  split
  · exact ⟨_, _, rfl⟩
  · exact ⟨s.core.bad, s.core.st.einj, rfl⟩

theorem State.sawWrote_core (s : State) (ctx : Nat) (p : OwnUnit) (ws : List Nat) (f : Flaw → Flaw) :
    ∃ bad einj, (((s.sawWords ctx p ws).mapCore fun c => c.mapFlaw p f).fireOwn p).core =
      { s.core with bad := bad, st := { s.core.st with einj := einj } } := by
  obtain ⟨b1, h1⟩ := s.sawWords_core ctx p ws
  obtain ⟨b2, e2, h2⟩ := ((s.sawWords ctx p ws).mapCore fun c => c.mapFlaw p f).fireOwn_core p
  exact ⟨b2, e2, by rw [h2]; simp only [State.mapCore, Core.mapFlaw, h1]⟩

theorem State.wroteUnit_core (s : State) (u : Nat) (places : List Nat) :
    ∃ bad einj, (s.wroteUnit u places).core = { s.core with bad := bad, st := { s.core.st with einj := einj } } := by
  unfold State.wroteUnit
  simp only
  split
  · exact s.fireOwn_core _
  · exact s.sawWrote_core _ _ _ _

/-- Marks and injections touch nothing but the marks and EINJ of the hearth. -/
theorem State.wroteUnits_core (l : List Nat) (s : State) (places : List Nat) :
    ∃ bad einj, (l.foldl (fun s u => s.wroteUnit u places) s).core =
      { s.core with bad := bad, st := { s.core.st with einj := einj } } := by
  induction l generalizing s with
  | nil => exact ⟨_, _, rfl⟩
  | cons u l ih =>
    obtain ⟨b1, e1, h1⟩ := s.wroteUnit_core u places
    obtain ⟨b2, e2, h2⟩ := ih (s.wroteUnit u places)
    exact ⟨b2, e2, by rw [List.foldl_cons, h2, h1]⟩

/-- A write of the scratchpad: its bytes, and nothing else of the hearth but marks and EINJ (R350). -/
theorem State.padPut_core (s : State) (places : List Nat) (bytes : List Byte) :
    ∃ bad einj, (s.padPut places bytes).core =
      { s.core with bad := bad, st := { s.core.st with einj := einj },
                    pad := { s.core.pad with mem := (places.zip bytes).foldl (fun m e => m.write e.1 e.2) s.core.pad.mem } } := by
  unfold State.padPut
  exact State.wroteUnits_core _ _ _

/-- A store that takes effect: its bytes are written and its banks take the view at the end (R160, R227). -/
theorem padWrite_ok {s t : State} {v : View} {places : List Nat} {x : Nat} (h : padWrite s v places x = .ok t) :
    t = ((s.padPut places (toBytes places.length x)).mapCore fun c =>
      { c with pad := c.pad.setView v places }).usePorts true places := by
  unfold padWrite at h
  split at h
  · simp [raise] at h
  · exact (Res.ok.inj h).symm

/-! ## Landing records -/

/-- What a stream read answers with (R165). -/
theorem readStream_ok {s t : State} {n : Nat} {k : V512 → State → Res} (h : readStream s n k = .ok t) :
    ∃ e r v, s.core.qOf n = e :: r ∧ e.landed = true ∧ e.data = some v ∧
      k v (s.mapCore fun c => (c.setQ n r).took) = .ok t := by
  unfold readStream takeElem at h
  cases hq : s.core.qOf n with
  | nil => simp [hq, raise] at h
  | cons e r =>
    rw [hq] at h
    simp only at h
    by_cases hl : e.landed = true
    · simp only [hl, Bool.not_true, Bool.false_eq_true, if_false] at h
      cases hd : e.data with
      | none => simp [hd] at h
      | some v =>
        simp only [hd] at h
        cases hm : e.mark with
        | none => simp only [hm, Option.getD_some] at h; exact ⟨e, r, v, rfl, hl, hd, h⟩
        | some m => obtain ⟨a, b⟩ := m; simp [hm, raise] at h
    · simp [hl, raise] at h

/-! ## How an operation ends -/

/-- A step of an operation outside the C slot never stops. -/
theorem settle_next (s : State) (sl : Slot) (r : Res) : ∃ t, settle s sl r = .next t := by
  cases r <;> exact ⟨_, rfl⟩

/-- A step of a C-slot operation never stops. -/
theorem settleC_next (s : State) (r : Res) : ∃ t, settleC s r = .next t := by
  cases r <;> exact ⟨_, rfl⟩

/-- An event of a hearth stops only where the device has no such hearth. -/
theorem atHearth_next {s : State} (k : State → State) (h : s.hearthOk s.unit = true) :
    atHearth s k = .next (k (s.focus s.unit)) := by
  simp [atHearth, h]

/-- An event of a die stops only where the device has no such die. -/
theorem atDie_next {s : State} (k : Nat → State → State) (h : s.diePresent s.unit = true) :
    atDie s k = .next (k s.unit s) := by
  simp [atDie, h]

/-- Bringing the hearth in focus into focus changes nothing. -/
@[simp] theorem State.focus_self (s : State) : s.focus s.coreId = s := by simp [State.focus]

end Sys2Proof.Machine
end

