-- ==== Sys2Proof/Laws/PerInstr.lean ====
section
/-! SUPPORT. Statements made for every instruction, one lemma for each constructor. -/

/-- How many syllables an instruction takes (spec/02_bundle_encoding.md R50): none unless it stands in a slot; two in the
slots of long operations; one or two in the others. -/
def Sys2Proof.Laws.Slotted.Statement (i : Sys2Proof.Instr) : Prop :=
  match i.slot with
  | none => Sys2Proof.encode i = []
  | some sl => (Sys2Proof.encode i).length = 2 ∨ (sl.isLong = false ∧ (Sys2Proof.encode i).length = 1)

namespace Sys2Proof

theorem S3.enc_length (n : Nat) (o : S3) : (S3.enc n o).length = 2 ∨ (S3.enc n o).length = 1 := by
  unfold S3.enc; dsimp only; split <;> simp
theorem S2I.enc_length (n : Nat) (o : S2I) : (S2I.enc n o).length = 2 ∨ (S2I.enc n o).length = 1 := by
  unfold S2I.enc; dsimp only; split <;> simp
theorem S1I.enc_length (n : Nat) (o : S1I) : (S1I.enc n o).length = 2 ∨ (S1I.enc n o).length = 1 := by
  unfold S1I.enc; dsimp only; split <;> simp
theorem SI.enc_length (n : Nat) (o : SI) : (SI.enc n o).length = 2 ∨ (SI.enc n o).length = 1 := by
  unfold SI.enc; split <;> simp
theorem SPI.enc_length (n : Nat) (o : SPI) : (SPI.enc n o).length = 2 ∨ (SPI.enc n o).length = 1 := by
  unfold SPI.enc; dsimp only; split <;> simp
theorem SC.enc_length (n : Nat) (o : SC) : (SC.enc n o).length = 2 ∨ (SC.enc n o).length = 1 := by
  unfold SC.enc; dsimp only; split <;> simp

/-- A slot of short operations takes one or two syllables. -/
theorem short_slotted {l : List Nat} {sl : Slot} (hs : sl.isLong = false) (h : l.length = 2 ∨ l.length = 1) :
    l.length = 2 ∨ (sl.isLong = false ∧ l.length = 1) := h.imp id fun h => ⟨hs, h⟩

end Sys2Proof

open Sys2Proof

theorem Sys2Proof.Laws.Slotted.kick (slot queue size v : Nat) :
    Sys2Proof.Laws.Slotted.Statement (.kick slot queue size v) := rfl
theorem Sys2Proof.Laws.Slotted.registerWrite (off size v : Nat) :
    Sys2Proof.Laws.Slotted.Statement (.registerWrite off size v) := rfl
theorem Sys2Proof.Laws.Slotted.contextCreate (k : Packet) (id : Nat) :
    Sys2Proof.Laws.Slotted.Statement (.contextCreate k id) := rfl
theorem Sys2Proof.Laws.Slotted.contextSet (k : Packet) (o : ContextSet) :
    Sys2Proof.Laws.Slotted.Statement (.contextSet k o) := rfl
theorem Sys2Proof.Laws.Slotted.contextDestroy (k : Packet) (id : Nat) :
    Sys2Proof.Laws.Slotted.Statement (.contextDestroy k id) := rfl
theorem Sys2Proof.Laws.Slotted.partition (k : Packet) (id mask0 : Nat) (masks : List Nat) :
    Sys2Proof.Laws.Slotted.Statement (.partition k id mask0 masks) := rfl
theorem Sys2Proof.Laws.Slotted.streamAdmit (k : Packet) (o : StreamAdmit) :
    Sys2Proof.Laws.Slotted.Statement (.streamAdmit k o) := rfl
theorem Sys2Proof.Laws.Slotted.streamStop (k : Packet) (st : StreamId) :
    Sys2Proof.Laws.Slotted.Statement (.streamStop k st) := rfl
theorem Sys2Proof.Laws.Slotted.keyLoad (k : Packet) (slot owner key1 key2 : Nat) :
    Sys2Proof.Laws.Slotted.Statement (.keyLoad k slot owner key1 key2) := rfl
theorem Sys2Proof.Laws.Slotted.keyDestroy (k : Packet) (slot : Nat) :
    Sys2Proof.Laws.Slotted.Statement (.keyDestroy k slot) := rfl
theorem Sys2Proof.Laws.Slotted.ownerKeyLoad (k : Packet) (entry owner key : Nat) (ports : List Nat) :
    Sys2Proof.Laws.Slotted.Statement (.ownerKeyLoad k entry owner key ports) := rfl
theorem Sys2Proof.Laws.Slotted.ownerKeyDestroy (k : Packet) (entry : Nat) (ports : List Nat) :
    Sys2Proof.Laws.Slotted.Statement (.ownerKeyDestroy k entry ports) := rfl
theorem Sys2Proof.Laws.Slotted.syncAllocate (k : Packet) (o : SyncAllocate) :
    Sys2Proof.Laws.Slotted.Statement (.syncAllocate k o) := rfl
theorem Sys2Proof.Laws.Slotted.poolWays (k : Packet) (die ways : Nat) :
    Sys2Proof.Laws.Slotted.Statement (.poolWays k die ways) := rfl
theorem Sys2Proof.Laws.Slotted.map (k : Packet) (id handle base : Nat) :
    Sys2Proof.Laws.Slotted.Statement (.map k id handle base) := rfl
theorem Sys2Proof.Laws.Slotted.slotTable (k : Packet) (die : Nat) (entries : List (Option (Nat × Nat))) :
    Sys2Proof.Laws.Slotted.Statement (.slotTable k die entries) := rfl
theorem Sys2Proof.Laws.Slotted.dieFirmwareReload (k : Packet) (die addr : Nat) :
    Sys2Proof.Laws.Slotted.Statement (.dieFirmwareReload k die addr) := rfl
theorem Sys2Proof.Laws.Slotted.hbmRepair (k : Packet) (die first count : Nat) :
    Sys2Proof.Laws.Slotted.Statement (.hbmRepair k die first count) := rfl
theorem Sys2Proof.Laws.Slotted.portRetrain (k : Packet) (port : Nat) :
    Sys2Proof.Laws.Slotted.Statement (.portRetrain k port) := rfl
theorem Sys2Proof.Laws.Slotted.hearthRetirement (k : Packet) (h : Nat) :
    Sys2Proof.Laws.Slotted.Statement (.hearthRetirement k h) := rfl
theorem Sys2Proof.Laws.Slotted.eventRead (k : Packet) (id : Nat) :
    Sys2Proof.Laws.Slotted.Statement (.eventRead k id) := rfl
theorem Sys2Proof.Laws.Slotted.dataArrival (n : Nat) :
    Sys2Proof.Laws.Slotted.Statement (.dataArrival n) := rfl
theorem Sys2Proof.Laws.Slotted.copyPerform (coll : Bool) :
    Sys2Proof.Laws.Slotted.Statement (.copyPerform coll) := rfl
theorem Sys2Proof.Laws.Slotted.copyComplete (coll : Bool) :
    Sys2Proof.Laws.Slotted.Statement (.copyComplete coll) := rfl
theorem Sys2Proof.Laws.Slotted.atomicPerform (n : Nat) :
    Sys2Proof.Laws.Slotted.Statement (.atomicPerform n) := rfl
theorem Sys2Proof.Laws.Slotted.atomicAck (n : Nat) :
    Sys2Proof.Laws.Slotted.Statement (.atomicAck n) := rfl
theorem Sys2Proof.Laws.Slotted.mailboxPost (m : Nat) :
    Sys2Proof.Laws.Slotted.Statement (.mailboxPost m) := rfl
theorem Sys2Proof.Laws.Slotted.mailboxHandlerLaunch (m : Nat) :
    Sys2Proof.Laws.Slotted.Statement (.mailboxHandlerLaunch m) := rfl
theorem Sys2Proof.Laws.Slotted.chimneyLineHigh (square : Bool) :
    Sys2Proof.Laws.Slotted.Statement (.chimneyLineHigh square) := rfl
theorem Sys2Proof.Laws.Slotted.partitionSwap (id : Nat) :
    Sys2Proof.Laws.Slotted.Statement (.partitionSwap id) := rfl
theorem Sys2Proof.Laws.Slotted.priorityAging (n : Nat) :
    Sys2Proof.Laws.Slotted.Statement (.priorityAging n) := rfl
theorem Sys2Proof.Laws.Slotted.makeResident (id handle : Nat) :
    Sys2Proof.Laws.Slotted.Statement (.makeResident id handle) := rfl
theorem Sys2Proof.Laws.Slotted.hbmRequestPerform (n : Nat) :
    Sys2Proof.Laws.Slotted.Statement (.hbmRequestPerform n) := rfl
theorem Sys2Proof.Laws.Slotted.hbmReply (n : Nat) :
    Sys2Proof.Laws.Slotted.Statement (.hbmReply n) := rfl
theorem Sys2Proof.Laws.Slotted.hostMemAccess (a : HostAccess) :
    Sys2Proof.Laws.Slotted.Statement (.hostMemAccess a) := rfl
theorem Sys2Proof.Laws.Slotted.packetReceive (p : FabPacket) :
    Sys2Proof.Laws.Slotted.Statement (.packetReceive p) := rfl
theorem Sys2Proof.Laws.Slotted.br (o : SI) :
    Sys2Proof.Laws.Slotted.Statement (.br o) := short_slotted rfl (SI.enc_length _ _)
theorem Sys2Proof.Laws.Slotted.brp (o : SPI) :
    Sys2Proof.Laws.Slotted.Statement (.brp o) := short_slotted rfl (SPI.enc_length _ _)
theorem Sys2Proof.Laws.Slotted.bri (o : S3) :
    Sys2Proof.Laws.Slotted.Statement (.bri o) := short_slotted rfl (S3.enc_length _ _)
theorem Sys2Proof.Laws.Slotted.call (o : SI) :
    Sys2Proof.Laws.Slotted.Statement (.call o) := short_slotted rfl (SI.enc_length _ _)
theorem Sys2Proof.Laws.Slotted.ret (o : S3) :
    Sys2Proof.Laws.Slotted.Statement (.ret o) := short_slotted rfl (S3.enc_length _ _)
theorem Sys2Proof.Laws.Slotted.loop (o : S1I) :
    Sys2Proof.Laws.Slotted.Statement (.loop o) := short_slotted rfl (S1I.enc_length _ _)
theorem Sys2Proof.Laws.Slotted.sloop (o : S2I) :
    Sys2Proof.Laws.Slotted.Statement (.sloop o) := short_slotted rfl (S2I.enc_length _ _)
theorem Sys2Proof.Laws.Slotted.next (o : S0) :
    Sys2Proof.Laws.Slotted.Statement (.next o) := Or.inr ⟨rfl, rfl⟩
theorem Sys2Proof.Laws.Slotted.lexit (o : S0) :
    Sys2Proof.Laws.Slotted.Statement (.lexit o) := Or.inr ⟨rfl, rfl⟩
theorem Sys2Proof.Laws.Slotted.lix (o : S1I) :
    Sys2Proof.Laws.Slotted.Statement (.lix o) := short_slotted rfl (S1I.enc_length _ _)
theorem Sys2Proof.Laws.Slotted.halt (o : S0) :
    Sys2Proof.Laws.Slotted.Statement (.halt o) := Or.inr ⟨rfl, rfl⟩
theorem Sys2Proof.Laws.Slotted.trap (o : SI) :
    Sys2Proof.Laws.Slotted.Statement (.trap o) := short_slotted rfl (SI.enc_length _ _)
theorem Sys2Proof.Laws.Slotted.eret (o : S0) :
    Sys2Proof.Laws.Slotted.Statement (.eret o) := Or.inr ⟨rfl, rfl⟩
theorem Sys2Proof.Laws.Slotted.fuse (o : S1I) :
    Sys2Proof.Laws.Slotted.Statement (.fuse o) := short_slotted rfl (S1I.enc_length _ _)
theorem Sys2Proof.Laws.Slotted.decouple (o : S0) :
    Sys2Proof.Laws.Slotted.Statement (.decouple o) := Or.inr ⟨rfl, rfl⟩
theorem Sys2Proof.Laws.Slotted.rejoin (o : S0) :
    Sys2Proof.Laws.Slotted.Statement (.rejoin o) := Or.inr ⟨rfl, rfl⟩
theorem Sys2Proof.Laws.Slotted.sbar (o : S0) :
    Sys2Proof.Laws.Slotted.Statement (.sbar o) := Or.inr ⟨rfl, rfl⟩
theorem Sys2Proof.Laws.Slotted.sqbar (o : S0) :
    Sys2Proof.Laws.Slotted.Statement (.sqbar o) := Or.inr ⟨rfl, rfl⟩
theorem Sys2Proof.Laws.Slotted.pair (o : S1I) :
    Sys2Proof.Laws.Slotted.Statement (.pair o) := short_slotted rfl (S1I.enc_length _ _)
theorem Sys2Proof.Laws.Slotted.add (o : S3) :
    Sys2Proof.Laws.Slotted.Statement (.add o) := short_slotted rfl (S3.enc_length _ _)
theorem Sys2Proof.Laws.Slotted.sub (o : S3) :
    Sys2Proof.Laws.Slotted.Statement (.sub o) := short_slotted rfl (S3.enc_length _ _)
theorem Sys2Proof.Laws.Slotted.mul (o : S3) :
    Sys2Proof.Laws.Slotted.Statement (.mul o) := short_slotted rfl (S3.enc_length _ _)
theorem Sys2Proof.Laws.Slotted.mulhs (o : S3) :
    Sys2Proof.Laws.Slotted.Statement (.mulhs o) := short_slotted rfl (S3.enc_length _ _)
theorem Sys2Proof.Laws.Slotted.mulhn (o : S3) :
    Sys2Proof.Laws.Slotted.Statement (.mulhn o) := short_slotted rfl (S3.enc_length _ _)
theorem Sys2Proof.Laws.Slotted.divs (o : S3) :
    Sys2Proof.Laws.Slotted.Statement (.divs o) := short_slotted rfl (S3.enc_length _ _)
theorem Sys2Proof.Laws.Slotted.divn (o : S3) :
    Sys2Proof.Laws.Slotted.Statement (.divn o) := short_slotted rfl (S3.enc_length _ _)
theorem Sys2Proof.Laws.Slotted.rems (o : S3) :
    Sys2Proof.Laws.Slotted.Statement (.rems o) := short_slotted rfl (S3.enc_length _ _)
theorem Sys2Proof.Laws.Slotted.remn (o : S3) :
    Sys2Proof.Laws.Slotted.Statement (.remn o) := short_slotted rfl (S3.enc_length _ _)
theorem Sys2Proof.Laws.Slotted.and (o : S3) :
    Sys2Proof.Laws.Slotted.Statement (.and o) := short_slotted rfl (S3.enc_length _ _)
theorem Sys2Proof.Laws.Slotted.or (o : S3) :
    Sys2Proof.Laws.Slotted.Statement (.or o) := short_slotted rfl (S3.enc_length _ _)
theorem Sys2Proof.Laws.Slotted.xor (o : S3) :
    Sys2Proof.Laws.Slotted.Statement (.xor o) := short_slotted rfl (S3.enc_length _ _)
theorem Sys2Proof.Laws.Slotted.andn (o : S3) :
    Sys2Proof.Laws.Slotted.Statement (.andn o) := short_slotted rfl (S3.enc_length _ _)
theorem Sys2Proof.Laws.Slotted.shl (o : S3) :
    Sys2Proof.Laws.Slotted.Statement (.shl o) := short_slotted rfl (S3.enc_length _ _)
theorem Sys2Proof.Laws.Slotted.shrn (o : S3) :
    Sys2Proof.Laws.Slotted.Statement (.shrn o) := short_slotted rfl (S3.enc_length _ _)
theorem Sys2Proof.Laws.Slotted.shrs (o : S3) :
    Sys2Proof.Laws.Slotted.Statement (.shrs o) := short_slotted rfl (S3.enc_length _ _)
theorem Sys2Proof.Laws.Slotted.rotl (o : S3) :
    Sys2Proof.Laws.Slotted.Statement (.rotl o) := short_slotted rfl (S3.enc_length _ _)
theorem Sys2Proof.Laws.Slotted.mins (o : S3) :
    Sys2Proof.Laws.Slotted.Statement (.mins o) := short_slotted rfl (S3.enc_length _ _)
theorem Sys2Proof.Laws.Slotted.maxs (o : S3) :
    Sys2Proof.Laws.Slotted.Statement (.maxs o) := short_slotted rfl (S3.enc_length _ _)
theorem Sys2Proof.Laws.Slotted.minn (o : S3) :
    Sys2Proof.Laws.Slotted.Statement (.minn o) := short_slotted rfl (S3.enc_length _ _)
theorem Sys2Proof.Laws.Slotted.maxn (o : S3) :
    Sys2Proof.Laws.Slotted.Statement (.maxn o) := short_slotted rfl (S3.enc_length _ _)
theorem Sys2Proof.Laws.Slotted.clz (o : S3) :
    Sys2Proof.Laws.Slotted.Statement (.clz o) := short_slotted rfl (S3.enc_length _ _)
theorem Sys2Proof.Laws.Slotted.ctz (o : S3) :
    Sys2Proof.Laws.Slotted.Statement (.ctz o) := short_slotted rfl (S3.enc_length _ _)
theorem Sys2Proof.Laws.Slotted.popc (o : S3) :
    Sys2Proof.Laws.Slotted.Statement (.popc o) := short_slotted rfl (S3.enc_length _ _)
theorem Sys2Proof.Laws.Slotted.bext (o : S3X) :
    Sys2Proof.Laws.Slotted.Statement (.bext o) := Or.inl rfl
theorem Sys2Proof.Laws.Slotted.bins (o : S3X) :
    Sys2Proof.Laws.Slotted.Statement (.bins o) := Or.inl rfl
theorem Sys2Proof.Laws.Slotted.add128 (o : S3) :
    Sys2Proof.Laws.Slotted.Statement (.add128 o) := short_slotted rfl (S3.enc_length _ _)
theorem Sys2Proof.Laws.Slotted.addi (o : S2I) :
    Sys2Proof.Laws.Slotted.Statement (.addi o) := short_slotted rfl (S2I.enc_length _ _)
theorem Sys2Proof.Laws.Slotted.movi (o : S1I) :
    Sys2Proof.Laws.Slotted.Statement (.movi o) := short_slotted rfl (S1I.enc_length _ _)
theorem Sys2Proof.Laws.Slotted.cmpEq (o : SC) :
    Sys2Proof.Laws.Slotted.Statement (.cmpEq o) := short_slotted rfl (SC.enc_length _ _)
theorem Sys2Proof.Laws.Slotted.cmpNe (o : SC) :
    Sys2Proof.Laws.Slotted.Statement (.cmpNe o) := short_slotted rfl (SC.enc_length _ _)
theorem Sys2Proof.Laws.Slotted.cmpLts (o : SC) :
    Sys2Proof.Laws.Slotted.Statement (.cmpLts o) := short_slotted rfl (SC.enc_length _ _)
theorem Sys2Proof.Laws.Slotted.cmpLes (o : SC) :
    Sys2Proof.Laws.Slotted.Statement (.cmpLes o) := short_slotted rfl (SC.enc_length _ _)
theorem Sys2Proof.Laws.Slotted.cmpLtn (o : SC) :
    Sys2Proof.Laws.Slotted.Statement (.cmpLtn o) := short_slotted rfl (SC.enc_length _ _)
theorem Sys2Proof.Laws.Slotted.cmpLen (o : SC) :
    Sys2Proof.Laws.Slotted.Statement (.cmpLen o) := short_slotted rfl (SC.enc_length _ _)
theorem Sys2Proof.Laws.Slotted.cmpAny (o : SC) :
    Sys2Proof.Laws.Slotted.Statement (.cmpAny o) := short_slotted rfl (SC.enc_length _ _)
theorem Sys2Proof.Laws.Slotted.cmpNone (o : SC) :
    Sys2Proof.Laws.Slotted.Statement (.cmpNone o) := short_slotted rfl (SC.enc_length _ _)
theorem Sys2Proof.Laws.Slotted.sel (o : S3X) :
    Sys2Proof.Laws.Slotted.Statement (.sel o) := Or.inl rfl
theorem Sys2Proof.Laws.Slotted.pand (o : SL) :
    Sys2Proof.Laws.Slotted.Statement (.pand o) := Or.inr ⟨rfl, rfl⟩
theorem Sys2Proof.Laws.Slotted.por (o : SL) :
    Sys2Proof.Laws.Slotted.Statement (.por o) := Or.inr ⟨rfl, rfl⟩
theorem Sys2Proof.Laws.Slotted.pxor (o : SL) :
    Sys2Proof.Laws.Slotted.Statement (.pxor o) := Or.inr ⟨rfl, rfl⟩
theorem Sys2Proof.Laws.Slotted.pnot (o : SL) :
    Sys2Proof.Laws.Slotted.Statement (.pnot o) := Or.inr ⟨rfl, rfl⟩
theorem Sys2Proof.Laws.Slotted.pmov (o : SL) :
    Sys2Proof.Laws.Slotted.Statement (.pmov o) := Or.inr ⟨rfl, rfl⟩
theorem Sys2Proof.Laws.Slotted.wid (o : S3) :
    Sys2Proof.Laws.Slotted.Statement (.wid o) := short_slotted rfl (S3.enc_length _ _)
theorem Sys2Proof.Laws.Slotted.rank (o : S3) :
    Sys2Proof.Laws.Slotted.Statement (.rank o) := short_slotted rfl (S3.enc_length _ _)
theorem Sys2Proof.Laws.Slotted.mfs (o : S1I) :
    Sys2Proof.Laws.Slotted.Statement (.mfs o) := short_slotted rfl (S1I.enc_length _ _)
theorem Sys2Proof.Laws.Slotted.mts (o : S1I) :
    Sys2Proof.Laws.Slotted.Statement (.mts o) := short_slotted rfl (S1I.enc_length _ _)
theorem Sys2Proof.Laws.Slotted.alea (o : S2I) :
    Sys2Proof.Laws.Slotted.Statement (.alea o) := short_slotted rfl (S2I.enc_length _ _)
theorem Sys2Proof.Laws.Slotted.aset (o : S3) :
    Sys2Proof.Laws.Slotted.Statement (.aset o) := short_slotted rfl (S3.enc_length _ _)
theorem Sys2Proof.Laws.Slotted.astep (o : S3) :
    Sys2Proof.Laws.Slotted.Statement (.astep o) := short_slotted rfl (S3.enc_length _ _)
theorem Sys2Proof.Laws.Slotted.aring (o : S3) :
    Sys2Proof.Laws.Slotted.Statement (.aring o) := short_slotted rfl (S3.enc_length _ _)
theorem Sys2Proof.Laws.Slotted.wopen (o : S3X) :
    Sys2Proof.Laws.Slotted.Statement (.wopen o) := Or.inl rfl
theorem Sys2Proof.Laws.Slotted.wadv (o : S3) :
    Sys2Proof.Laws.Slotted.Statement (.wadv o) := short_slotted rfl (S3.enc_length _ _)
theorem Sys2Proof.Laws.Slotted.wclose (o : S3) :
    Sys2Proof.Laws.Slotted.Statement (.wclose o) := short_slotted rfl (S3.enc_length _ _)
theorem Sys2Proof.Laws.Slotted.fill (o : S2I) :
    Sys2Proof.Laws.Slotted.Statement (.fill o) := short_slotted rfl (S2I.enc_length _ _)
theorem Sys2Proof.Laws.Slotted.flcfg (o : S3X) :
    Sys2Proof.Laws.Slotted.Statement (.flcfg o) := Or.inl rfl
theorem Sys2Proof.Laws.Slotted.flpush (o : S3X) :
    Sys2Proof.Laws.Slotted.Statement (.flpush o) := Or.inl rfl
theorem Sys2Proof.Laws.Slotted.flpop (o : S3X) :
    Sys2Proof.Laws.Slotted.Statement (.flpop o) := Or.inl rfl
theorem Sys2Proof.Laws.Slotted.lds (o : Long) :
    Sys2Proof.Laws.Slotted.Statement (.lds o) := Or.inl rfl
theorem Sys2Proof.Laws.Slotted.sts (o : Long) :
    Sys2Proof.Laws.Slotted.Statement (.sts o) := Or.inl rfl
theorem Sys2Proof.Laws.Slotted.vld (o : Long) :
    Sys2Proof.Laws.Slotted.Statement (.vld o) := Or.inl rfl
theorem Sys2Proof.Laws.Slotted.vst (o : Long) :
    Sys2Proof.Laws.Slotted.Statement (.vst o) := Or.inl rfl
theorem Sys2Proof.Laws.Slotted.vldx (o : Long) :
    Sys2Proof.Laws.Slotted.Statement (.vldx o) := Or.inl rfl
theorem Sys2Proof.Laws.Slotted.vstx (o : Long) :
    Sys2Proof.Laws.Slotted.Statement (.vstx o) := Or.inl rfl
theorem Sys2Proof.Laws.Slotted.tld (o : Long) :
    Sys2Proof.Laws.Slotted.Statement (.tld o) := Or.inl rfl
theorem Sys2Proof.Laws.Slotted.tst (o : Long) :
    Sys2Proof.Laws.Slotted.Statement (.tst o) := Or.inl rfl
theorem Sys2Proof.Laws.Slotted.tcopy (o : Long) :
    Sys2Proof.Laws.Slotted.Statement (.tcopy o) := Or.inl rfl
theorem Sys2Proof.Laws.Slotted.tpref (o : Long) :
    Sys2Proof.Laws.Slotted.Statement (.tpref o) := Or.inl rfl
theorem Sys2Proof.Laws.Slotted.fence (o : Long) :
    Sys2Proof.Laws.Slotted.Statement (.fence o) := Or.inl rfl
theorem Sys2Proof.Laws.Slotted.qfence (o : Long) :
    Sys2Proof.Laws.Slotted.Statement (.qfence o) := Or.inl rfl
theorem Sys2Proof.Laws.Slotted.vjoin (o : Long) :
    Sys2Proof.Laws.Slotted.Statement (.vjoin o) := Or.inl rfl
theorem Sys2Proof.Laws.Slotted.aadd (o : Long) :
    Sys2Proof.Laws.Slotted.Statement (.aadd o) := Or.inl rfl
theorem Sys2Proof.Laws.Slotted.amin (o : Long) :
    Sys2Proof.Laws.Slotted.Statement (.amin o) := Or.inl rfl
theorem Sys2Proof.Laws.Slotted.amax (o : Long) :
    Sys2Proof.Laws.Slotted.Statement (.amax o) := Or.inl rfl
theorem Sys2Proof.Laws.Slotted.aand (o : Long) :
    Sys2Proof.Laws.Slotted.Statement (.aand o) := Or.inl rfl
theorem Sys2Proof.Laws.Slotted.aor (o : Long) :
    Sys2Proof.Laws.Slotted.Statement (.aor o) := Or.inl rfl
theorem Sys2Proof.Laws.Slotted.axor (o : Long) :
    Sys2Proof.Laws.Slotted.Statement (.axor o) := Or.inl rfl
theorem Sys2Proof.Laws.Slotted.axchg (o : Long) :
    Sys2Proof.Laws.Slotted.Statement (.axchg o) := Or.inl rfl
theorem Sys2Proof.Laws.Slotted.acas (o : Long) :
    Sys2Proof.Laws.Slotted.Statement (.acas o) := Or.inl rfl
theorem Sys2Proof.Laws.Slotted.ald (o : Long) :
    Sys2Proof.Laws.Slotted.Statement (.ald o) := Or.inl rfl
theorem Sys2Proof.Laws.Slotted.ast (o : Long) :
    Sys2Proof.Laws.Slotted.Statement (.ast o) := Or.inl rfl
theorem Sys2Proof.Laws.Slotted.afadd (o : Long) :
    Sys2Proof.Laws.Slotted.Statement (.afadd o) := Or.inl rfl
theorem Sys2Proof.Laws.Slotted.waita (o : Long) :
    Sys2Proof.Laws.Slotted.Statement (.waita o) := Or.inl rfl
theorem Sys2Proof.Laws.Slotted.notify (o : Long) :
    Sys2Proof.Laws.Slotted.Statement (.notify o) := Or.inl rfl
theorem Sys2Proof.Laws.Slotted.dqpush (o : Long) :
    Sys2Proof.Laws.Slotted.Statement (.dqpush o) := Or.inl rfl
theorem Sys2Proof.Laws.Slotted.dqpop (o : Long) :
    Sys2Proof.Laws.Slotted.Statement (.dqpop o) := Or.inl rfl
theorem Sys2Proof.Laws.Slotted.dqsteal (o : Long) :
    Sys2Proof.Laws.Slotted.Statement (.dqsteal o) := Or.inl rfl
theorem Sys2Proof.Laws.Slotted.dcnt (o : Long) :
    Sys2Proof.Laws.Slotted.Statement (.dcnt o) := Or.inl rfl
theorem Sys2Proof.Laws.Slotted.vadd (o : Long) :
    Sys2Proof.Laws.Slotted.Statement (.vadd o) := Or.inl rfl
theorem Sys2Proof.Laws.Slotted.vsub (o : Long) :
    Sys2Proof.Laws.Slotted.Statement (.vsub o) := Or.inl rfl
theorem Sys2Proof.Laws.Slotted.vadds (o : Long) :
    Sys2Proof.Laws.Slotted.Statement (.vadds o) := Or.inl rfl
theorem Sys2Proof.Laws.Slotted.vsubs (o : Long) :
    Sys2Proof.Laws.Slotted.Statement (.vsubs o) := Or.inl rfl
theorem Sys2Proof.Laws.Slotted.vmul (o : Long) :
    Sys2Proof.Laws.Slotted.Statement (.vmul o) := Or.inl rfl
theorem Sys2Proof.Laws.Slotted.vmulh (o : Long) :
    Sys2Proof.Laws.Slotted.Statement (.vmulh o) := Or.inl rfl
theorem Sys2Proof.Laws.Slotted.vmad (o : Long) :
    Sys2Proof.Laws.Slotted.Statement (.vmad o) := Or.inl rfl
theorem Sys2Proof.Laws.Slotted.vabs (o : Long) :
    Sys2Proof.Laws.Slotted.Statement (.vabs o) := Or.inl rfl
theorem Sys2Proof.Laws.Slotted.vneg (o : Long) :
    Sys2Proof.Laws.Slotted.Statement (.vneg o) := Or.inl rfl
theorem Sys2Proof.Laws.Slotted.vmin (o : Long) :
    Sys2Proof.Laws.Slotted.Statement (.vmin o) := Or.inl rfl
theorem Sys2Proof.Laws.Slotted.vmax (o : Long) :
    Sys2Proof.Laws.Slotted.Statement (.vmax o) := Or.inl rfl
theorem Sys2Proof.Laws.Slotted.vand (o : Long) :
    Sys2Proof.Laws.Slotted.Statement (.vand o) := Or.inl rfl
theorem Sys2Proof.Laws.Slotted.vor (o : Long) :
    Sys2Proof.Laws.Slotted.Statement (.vor o) := Or.inl rfl
theorem Sys2Proof.Laws.Slotted.vxor (o : Long) :
    Sys2Proof.Laws.Slotted.Statement (.vxor o) := Or.inl rfl
theorem Sys2Proof.Laws.Slotted.vshl (o : Long) :
    Sys2Proof.Laws.Slotted.Statement (.vshl o) := Or.inl rfl
theorem Sys2Proof.Laws.Slotted.vshr (o : Long) :
    Sys2Proof.Laws.Slotted.Statement (.vshr o) := Or.inl rfl
theorem Sys2Proof.Laws.Slotted.vsar (o : Long) :
    Sys2Proof.Laws.Slotted.Statement (.vsar o) := Or.inl rfl
theorem Sys2Proof.Laws.Slotted.vcmp (o : Long) :
    Sys2Proof.Laws.Slotted.Statement (.vcmp o) := Or.inl rfl
theorem Sys2Proof.Laws.Slotted.vsel (o : Long) :
    Sys2Proof.Laws.Slotted.Statement (.vsel o) := Or.inl rfl
theorem Sys2Proof.Laws.Slotted.vclz (o : Long) :
    Sys2Proof.Laws.Slotted.Statement (.vclz o) := Or.inl rfl
theorem Sys2Proof.Laws.Slotted.vpopc (o : Long) :
    Sys2Proof.Laws.Slotted.Statement (.vpopc o) := Or.inl rfl
theorem Sys2Proof.Laws.Slotted.vfadd (o : Long) :
    Sys2Proof.Laws.Slotted.Statement (.vfadd o) := Or.inl rfl
theorem Sys2Proof.Laws.Slotted.vfsub (o : Long) :
    Sys2Proof.Laws.Slotted.Statement (.vfsub o) := Or.inl rfl
theorem Sys2Proof.Laws.Slotted.vfmul (o : Long) :
    Sys2Proof.Laws.Slotted.Statement (.vfmul o) := Or.inl rfl
theorem Sys2Proof.Laws.Slotted.vfma (o : Long) :
    Sys2Proof.Laws.Slotted.Statement (.vfma o) := Or.inl rfl
theorem Sys2Proof.Laws.Slotted.vfnma (o : Long) :
    Sys2Proof.Laws.Slotted.Statement (.vfnma o) := Or.inl rfl
theorem Sys2Proof.Laws.Slotted.vfmin (o : Long) :
    Sys2Proof.Laws.Slotted.Statement (.vfmin o) := Or.inl rfl
theorem Sys2Proof.Laws.Slotted.vfmax (o : Long) :
    Sys2Proof.Laws.Slotted.Statement (.vfmax o) := Or.inl rfl
theorem Sys2Proof.Laws.Slotted.vfabs (o : Long) :
    Sys2Proof.Laws.Slotted.Statement (.vfabs o) := Or.inl rfl
theorem Sys2Proof.Laws.Slotted.vfneg (o : Long) :
    Sys2Proof.Laws.Slotted.Statement (.vfneg o) := Or.inl rfl
theorem Sys2Proof.Laws.Slotted.vfcmp (o : Long) :
    Sys2Proof.Laws.Slotted.Statement (.vfcmp o) := Or.inl rfl
theorem Sys2Proof.Laws.Slotted.vfclass (o : Long) :
    Sys2Proof.Laws.Slotted.Statement (.vfclass o) := Or.inl rfl
theorem Sys2Proof.Laws.Slotted.vfscale (o : Long) :
    Sys2Proof.Laws.Slotted.Statement (.vfscale o) := Or.inl rfl
theorem Sys2Proof.Laws.Slotted.vfrcp (o : Long) :
    Sys2Proof.Laws.Slotted.Statement (.vfrcp o) := Or.inl rfl
theorem Sys2Proof.Laws.Slotted.vfrsq (o : Long) :
    Sys2Proof.Laws.Slotted.Statement (.vfrsq o) := Or.inl rfl
theorem Sys2Proof.Laws.Slotted.vfexp2 (o : Long) :
    Sys2Proof.Laws.Slotted.Statement (.vfexp2 o) := Or.inl rfl
theorem Sys2Proof.Laws.Slotted.vflog2 (o : Long) :
    Sys2Proof.Laws.Slotted.Statement (.vflog2 o) := Or.inl rfl
theorem Sys2Proof.Laws.Slotted.vcvt (o : Long) :
    Sys2Proof.Laws.Slotted.Statement (.vcvt o) := Or.inl rfl
theorem Sys2Proof.Laws.Slotted.vqmx (o : Long) :
    Sys2Proof.Laws.Slotted.Statement (.vqmx o) := Or.inl rfl
theorem Sys2Proof.Laws.Slotted.vdqmx (o : Long) :
    Sys2Proof.Laws.Slotted.Statement (.vdqmx o) := Or.inl rfl
theorem Sys2Proof.Laws.Slotted.vpack (o : Long) :
    Sys2Proof.Laws.Slotted.Statement (.vpack o) := Or.inl rfl
theorem Sys2Proof.Laws.Slotted.vunpack (o : Long) :
    Sys2Proof.Laws.Slotted.Statement (.vunpack o) := Or.inl rfl
theorem Sys2Proof.Laws.Slotted.vradd (o : Long) :
    Sys2Proof.Laws.Slotted.Statement (.vradd o) := Or.inl rfl
theorem Sys2Proof.Laws.Slotted.vrfadd (o : Long) :
    Sys2Proof.Laws.Slotted.Statement (.vrfadd o) := Or.inl rfl
theorem Sys2Proof.Laws.Slotted.vrmax (o : Long) :
    Sys2Proof.Laws.Slotted.Statement (.vrmax o) := Or.inl rfl
theorem Sys2Proof.Laws.Slotted.vrmin (o : Long) :
    Sys2Proof.Laws.Slotted.Statement (.vrmin o) := Or.inl rfl
theorem Sys2Proof.Laws.Slotted.vrfmax (o : Long) :
    Sys2Proof.Laws.Slotted.Statement (.vrfmax o) := Or.inl rfl
theorem Sys2Proof.Laws.Slotted.vperm (o : Long) :
    Sys2Proof.Laws.Slotted.Statement (.vperm o) := Or.inl rfl
theorem Sys2Proof.Laws.Slotted.vbcast (o : Long) :
    Sys2Proof.Laws.Slotted.Statement (.vbcast o) := Or.inl rfl
theorem Sys2Proof.Laws.Slotted.vlrot (o : Long) :
    Sys2Proof.Laws.Slotted.Statement (.vlrot o) := Or.inl rfl
theorem Sys2Proof.Laws.Slotted.vshuf (o : Long) :
    Sys2Proof.Laws.Slotted.Statement (.vshuf o) := Or.inl rfl
theorem Sys2Proof.Laws.Slotted.vcmpr (o : Long) :
    Sys2Proof.Laws.Slotted.Statement (.vcmpr o) := Or.inl rfl
theorem Sys2Proof.Laws.Slotted.vexpd (o : Long) :
    Sys2Proof.Laws.Slotted.Statement (.vexpd o) := Or.inl rfl
theorem Sys2Proof.Laws.Slotted.viota (o : Long) :
    Sys2Proof.Laws.Slotted.Statement (.viota o) := Or.inl rfl
theorem Sys2Proof.Laws.Slotted.mand (o : Long) :
    Sys2Proof.Laws.Slotted.Statement (.mand o) := Or.inl rfl
theorem Sys2Proof.Laws.Slotted.mor (o : Long) :
    Sys2Proof.Laws.Slotted.Statement (.mor o) := Or.inl rfl
theorem Sys2Proof.Laws.Slotted.mnot (o : Long) :
    Sys2Proof.Laws.Slotted.Statement (.mnot o) := Or.inl rfl
theorem Sys2Proof.Laws.Slotted.mpop (o : Long) :
    Sys2Proof.Laws.Slotted.Statement (.mpop o) := Or.inl rfl
theorem Sys2Proof.Laws.Slotted.vrng (o : Long) :
    Sys2Proof.Laws.Slotted.Statement (.vrng o) := Or.inl rfl
theorem Sys2Proof.Laws.Slotted.mldb (o : Long) :
    Sys2Proof.Laws.Slotted.Statement (.mldb o) := Or.inl rfl
theorem Sys2Proof.Laws.Slotted.mpush (o : Long) :
    Sys2Proof.Laws.Slotted.Statement (.mpush o) := Or.inl rfl
theorem Sys2Proof.Laws.Slotted.mshift (o : Long) :
    Sys2Proof.Laws.Slotted.Statement (.mshift o) := Or.inl rfl
theorem Sys2Proof.Laws.Slotted.macc (o : Long) :
    Sys2Proof.Laws.Slotted.Statement (.macc o) := Or.inl rfl
theorem Sys2Proof.Laws.Slotted.mtern (o : Long) :
    Sys2Proof.Laws.Slotted.Statement (.mtern o) := Or.inl rfl
theorem Sys2Proof.Laws.Slotted.mdrain (o : Long) :
    Sys2Proof.Laws.Slotted.Statement (.mdrain o) := Or.inl rfl
theorem Sys2Proof.Laws.Slotted.mzero (o : Long) :
    Sys2Proof.Laws.Slotted.Statement (.mzero o) := Or.inl rfl
theorem Sys2Proof.Laws.Slotted.mswap (o : Long) :
    Sys2Proof.Laws.Slotted.Statement (.mswap o) := Or.inl rfl
theorem Sys2Proof.Laws.Slotted.mtfetch (o : Long) :
    Sys2Proof.Laws.Slotted.Statement (.mtfetch o) := Or.inl rfl
theorem Sys2Proof.Laws.Slotted.oplaunch (st : StreamId) (o : OpLaunch) :
    Sys2Proof.Laws.Slotted.Statement (.oplaunch st o) := rfl
theorem Sys2Proof.Laws.Slotted.phase (st : StreamId) :
    Sys2Proof.Laws.Slotted.Statement (.phase st) := rfl
theorem Sys2Proof.Laws.Slotted.taskdef (st : StreamId) (o : TaskDef) :
    Sys2Proof.Laws.Slotted.Statement (.taskdef st o) := rfl
theorem Sys2Proof.Laws.Slotted.taskarm (st : StreamId) (n count : Nat) :
    Sys2Proof.Laws.Slotted.Statement (.taskarm st n count) := rfl
theorem Sys2Proof.Laws.Slotted.opwait (st : StreamId) (mask : Nat) (cont : Bool) (handle : Nat) :
    Sys2Proof.Laws.Slotted.Statement (.opwait st mask cont handle) := rfl
theorem Sys2Proof.Laws.Slotted.mboxbind (st : StreamId) (o : MboxBind) :
    Sys2Proof.Laws.Slotted.Statement (.mboxbind st o) := rfl
theorem Sys2Proof.Laws.Slotted.mboxfree (st : StreamId) (m : Nat) :
    Sys2Proof.Laws.Slotted.Statement (.mboxfree st m) := rfl
theorem Sys2Proof.Laws.Slotted.specflush (st : StreamId) (all : Bool) (handle : Nat) :
    Sys2Proof.Laws.Slotted.Statement (.specflush st all handle) := rfl
theorem Sys2Proof.Laws.Slotted.tdecl (st : StreamId) (o : TDecl) :
    Sys2Proof.Laws.Slotted.Statement (.tdecl st o) := rfl
theorem Sys2Proof.Laws.Slotted.tuse (st : StreamId) (uses : List (Nat × Nat)) :
    Sys2Proof.Laws.Slotted.Statement (.tuse st uses) := rfl
theorem Sys2Proof.Laws.Slotted.trecipe (st : StreamId) (o : TRecipe) :
    Sys2Proof.Laws.Slotted.Statement (.trecipe st o) := rfl
theorem Sys2Proof.Laws.Slotted.trelease (st : StreamId) (handle : Nat) :
    Sys2Proof.Laws.Slotted.Statement (.trelease st handle) := rfl
theorem Sys2Proof.Laws.Slotted.tpin (st : StreamId) (tier handle : Nat) :
    Sys2Proof.Laws.Slotted.Statement (.tpin st tier handle) := rfl
theorem Sys2Proof.Laws.Slotted.tunpin (st : StreamId) (handle : Nat) :
    Sys2Proof.Laws.Slotted.Statement (.tunpin st handle) := rfl
theorem Sys2Proof.Laws.Slotted.tquery (st : StreamId) (handle result : Nat) :
    Sys2Proof.Laws.Slotted.Statement (.tquery st handle result) := rfl
theorem Sys2Proof.Laws.Slotted.scan (st : StreamId) (o : Scan) :
    Sys2Proof.Laws.Slotted.Statement (.scan st o) := rfl
theorem Sys2Proof.Laws.Slotted.texport (st : StreamId) (o : TExport) :
    Sys2Proof.Laws.Slotted.Statement (.texport st o) := rfl
theorem Sys2Proof.Laws.Slotted.trevoke (st : StreamId) (w : Nat) :
    Sys2Proof.Laws.Slotted.Statement (.trevoke st w) := rfl
theorem Sys2Proof.Laws.Slotted.droopStretch (n : Nat) :
    Sys2Proof.Laws.Slotted.Statement (.droopStretch n) := rfl
theorem Sys2Proof.Laws.Slotted.powerUp :
    Sys2Proof.Laws.Slotted.Statement .powerUp := rfl
theorem Sys2Proof.Laws.Slotted.cxlReset :
    Sys2Proof.Laws.Slotted.Statement .cxlReset := rfl
theorem Sys2Proof.Laws.Slotted.cxlLinkLoss :
    Sys2Proof.Laws.Slotted.Statement .cxlLinkLoss := rfl
theorem Sys2Proof.Laws.Slotted.fwgo :
    Sys2Proof.Laws.Slotted.Statement .fwgo := rfl
theorem Sys2Proof.Laws.Slotted.reset :
    Sys2Proof.Laws.Slotted.Statement .reset := rfl
theorem Sys2Proof.Laws.Slotted.training :
    Sys2Proof.Laws.Slotted.Statement .training := rfl
theorem Sys2Proof.Laws.Slotted.thermalShutdown :
    Sys2Proof.Laws.Slotted.Statement .thermalShutdown := rfl
theorem Sys2Proof.Laws.Slotted.powerLimitThrottle :
    Sys2Proof.Laws.Slotted.Statement .powerLimitThrottle := rfl
theorem Sys2Proof.Laws.Slotted.serviceSlot :
    Sys2Proof.Laws.Slotted.Statement .serviceSlot := rfl
theorem Sys2Proof.Laws.Slotted.bundleIssue :
    Sys2Proof.Laws.Slotted.Statement .bundleIssue := rfl
theorem Sys2Proof.Laws.Slotted.resultWriteback :
    Sys2Proof.Laws.Slotted.Statement .resultWriteback := rfl
theorem Sys2Proof.Laws.Slotted.landing :
    Sys2Proof.Laws.Slotted.Statement .landing := rfl
theorem Sys2Proof.Laws.Slotted.planeFillLanding :
    Sys2Proof.Laws.Slotted.Statement .planeFillLanding := rfl
theorem Sys2Proof.Laws.Slotted.windowRowLanding :
    Sys2Proof.Laws.Slotted.Statement .windowRowLanding := rfl
theorem Sys2Proof.Laws.Slotted.copyQueueAccept :
    Sys2Proof.Laws.Slotted.Statement .copyQueueAccept := rfl
theorem Sys2Proof.Laws.Slotted.fenceWaitEnd :
    Sys2Proof.Laws.Slotted.Statement .fenceWaitEnd := rfl
theorem Sys2Proof.Laws.Slotted.syncRequestAccept :
    Sys2Proof.Laws.Slotted.Statement .syncRequestAccept := rfl
theorem Sys2Proof.Laws.Slotted.waitaTimeout :
    Sys2Proof.Laws.Slotted.Statement .waitaTimeout := rfl
theorem Sys2Proof.Laws.Slotted.monitorCancelAck :
    Sys2Proof.Laws.Slotted.Statement .monitorCancelAck := rfl
theorem Sys2Proof.Laws.Slotted.pairLineMeet :
    Sys2Proof.Laws.Slotted.Statement .pairLineMeet := rfl
theorem Sys2Proof.Laws.Slotted.haltComplete :
    Sys2Proof.Laws.Slotted.Statement .haltComplete := rfl
theorem Sys2Proof.Laws.Slotted.preemptRequest :
    Sys2Proof.Laws.Slotted.Statement .preemptRequest := rfl
theorem Sys2Proof.Laws.Slotted.preemptLand :
    Sys2Proof.Laws.Slotted.Statement .preemptLand := rfl
theorem Sys2Proof.Laws.Slotted.contextImageWrite :
    Sys2Proof.Laws.Slotted.Statement .contextImageWrite := rfl
theorem Sys2Proof.Laws.Slotted.taskResume :
    Sys2Proof.Laws.Slotted.Statement .taskResume := rfl
theorem Sys2Proof.Laws.Slotted.taskPlace :
    Sys2Proof.Laws.Slotted.Statement .taskPlace := rfl
theorem Sys2Proof.Laws.Slotted.launchComplete :
    Sys2Proof.Laws.Slotted.Statement .launchComplete := rfl
theorem Sys2Proof.Laws.Slotted.phaseCommit :
    Sys2Proof.Laws.Slotted.Statement .phaseCommit := rfl
theorem Sys2Proof.Laws.Slotted.rollback :
    Sys2Proof.Laws.Slotted.Statement .rollback := rfl
theorem Sys2Proof.Laws.Slotted.hbmRequestSend :
    Sys2Proof.Laws.Slotted.Statement .hbmRequestSend := rfl
theorem Sys2Proof.Laws.Slotted.scanComplete :
    Sys2Proof.Laws.Slotted.Statement .scanComplete := rfl
theorem Sys2Proof.Laws.Slotted.flitReplay :
    Sys2Proof.Laws.Slotted.Statement .flitReplay := rfl
theorem Sys2Proof.Laws.Slotted.discardInterval :
    Sys2Proof.Laws.Slotted.Statement .discardInterval := rfl
theorem Sys2Proof.Laws.Slotted.remoteRequest :
    Sys2Proof.Laws.Slotted.Statement .remoteRequest := rfl
theorem Sys2Proof.Laws.Slotted.remoteReply :
    Sys2Proof.Laws.Slotted.Statement .remoteReply := rfl
theorem Sys2Proof.Laws.Slotted.remoteTimeout :
    Sys2Proof.Laws.Slotted.Statement .remoteTimeout := rfl
theorem Sys2Proof.Laws.Slotted.revokeEffect :
    Sys2Proof.Laws.Slotted.Statement .revokeEffect := rfl
theorem Sys2Proof.Laws.Slotted.revokeDrainDone :
    Sys2Proof.Laws.Slotted.Statement .revokeDrainDone := rfl
theorem Sys2Proof.Laws.Slotted.windowQuarantineEnd :
    Sys2Proof.Laws.Slotted.Statement .windowQuarantineEnd := rfl
theorem Sys2Proof.Laws.Slotted.cNop :
    Sys2Proof.Laws.Slotted.Statement .cNop := Or.inr ⟨rfl, rfl⟩
theorem Sys2Proof.Laws.Slotted.sNop :
    Sys2Proof.Laws.Slotted.Statement .sNop := Or.inr ⟨rfl, rfl⟩
theorem Sys2Proof.Laws.Slotted.aNop :
    Sys2Proof.Laws.Slotted.Statement .aNop := Or.inr ⟨rfl, rfl⟩
theorem Sys2Proof.Laws.Slotted.fNop :
    Sys2Proof.Laws.Slotted.Statement .fNop := Or.inr ⟨rfl, rfl⟩
theorem Sys2Proof.Laws.Slotted.xNop :
    Sys2Proof.Laws.Slotted.Statement .xNop := Or.inl rfl
theorem Sys2Proof.Laws.Slotted.vNop :
    Sys2Proof.Laws.Slotted.Statement .vNop := Or.inl rfl
theorem Sys2Proof.Laws.Slotted.mNop :
    Sys2Proof.Laws.Slotted.Statement .mNop := Or.inl rfl
end

