-- ==== Sys2Proof/Tests/Slice0.lean ====
section
/-! SUPPORT. The model's own tests: words written out from the spec's encodings, ill-formed terms that the checks refuse,
states and operands that meet the hypotheses of the statements, and single steps worked by hand from their rules. -/
open Sys2Proof Sys2Proof.Machine

set_option Elab.async false

namespace Sys2Proof.Tests
open Sys2Proof.Machine

/-! ## Words of the encoding tables -/

/-- C slot: words written from R51 to R58 and the opcode map R74, each with the operation it stands for. -/
theorem test_decode_c : ∀ p ∈ ([
    ([0x00000000], .cNop),
    ([0x06040155], .br ⟨false, 3, 0x155, none⟩),
    ([0x60040155, 0x00000007], .br ⟨true, 0, 0x155, some 7⟩),
    ([0x000A5234], .brp ⟨false, 0, 9, 0x1234, none⟩),
    ([0x000C01E8], .bri ⟨false, 0, 0, 7, 40, none⟩),
    ([0x0013FFFE], .call ⟨false, 0, 0x3FFFE, none⟩),
    ([0x001407C0], .ret ⟨false, 0, 0, 31, 0, none⟩),
    ([0x00184011], .loop ⟨false, 0, 4, 17, none⟩),
    ([0x001C40D1], .sloop ⟨false, 0, 4, 3, 17, none⟩),
    ([0x00200000], .next ⟨false, 0⟩),
    ([0x24240000], .lexit ⟨true, 2⟩),
    ([0x00286005], .lix ⟨false, 0, 6, 5, none⟩),
    ([0x002C0000], .halt ⟨false, 0⟩),
    ([0x0032AAAA], .trap ⟨false, 0, 0x2AAAA, none⟩),
    ([0x00340000], .eret ⟨false, 0⟩),
    ([0x00400007], .fuse ⟨false, 0, 0, 7, none⟩),
    ([0x00440000], .decouple ⟨false, 0⟩),
    ([0x00480000], .rejoin ⟨false, 0⟩),
    ([0x004C0000], .sbar ⟨false, 0⟩),
    ([0x00500000], .sqbar ⟨false, 0⟩),
    ([0x00540001], .pair ⟨false, 0, 0, 1, none⟩)] : List (List Nat × Instr)),
    decode .c p.1 = some p.2 := by decide

/-- S slot: words written from R51 to R58 and the opcode map R74, each with the operation it stands for. -/
theorem test_decode_s_low : ∀ p ∈ ([
    ([0x00000000], .sNop),
    ([0x1E04527F], .add ⟨false, 15, 5, 9, 63, none⟩),
    ([0x1E08527F], .sub ⟨false, 15, 5, 9, 63, none⟩),
    ([0x1E0C527F], .mul ⟨false, 15, 5, 9, 63, none⟩),
    ([0x1E10527F], .mulhs ⟨false, 15, 5, 9, 63, none⟩),
    ([0x1E14527F], .mulhn ⟨false, 15, 5, 9, 63, none⟩),
    ([0x1E18527F], .divs ⟨false, 15, 5, 9, 63, none⟩),
    ([0x1E1C527F], .divn ⟨false, 15, 5, 9, 63, none⟩),
    ([0x1E20527F], .rems ⟨false, 15, 5, 9, 63, none⟩),
    ([0x1E24527F], .remn ⟨false, 15, 5, 9, 63, none⟩),
    ([0x1E28527F], .and ⟨false, 15, 5, 9, 63, none⟩),
    ([0x1E2C527F], .or ⟨false, 15, 5, 9, 63, none⟩),
    ([0x1E30527F], .xor ⟨false, 15, 5, 9, 63, none⟩),
    ([0x1E34527F], .andn ⟨false, 15, 5, 9, 63, none⟩),
    ([0x1E38527F], .shl ⟨false, 15, 5, 9, 63, none⟩),
    ([0x1E3C527F], .shrn ⟨false, 15, 5, 9, 63, none⟩),
    ([0x1E40527F], .shrs ⟨false, 15, 5, 9, 63, none⟩),
    ([0x1E44527F], .rotl ⟨false, 15, 5, 9, 63, none⟩),
    ([0x1E48527F], .mins ⟨false, 15, 5, 9, 63, none⟩),
    ([0x1E4C527F], .maxs ⟨false, 15, 5, 9, 63, none⟩),
    ([0x1E50527F], .minn ⟨false, 15, 5, 9, 63, none⟩),
    ([0x1E54527F], .maxn ⟨false, 15, 5, 9, 63, none⟩),
    ([0x00585240], .clz ⟨false, 0, 5, 9, 0, none⟩),
    ([0x005C5240], .ctz ⟨false, 0, 5, 9, 0, none⟩)] : List (List Nat × Instr)),
    decode .s p.1 = some p.2 := by decide

/-- S slot: words written from R51 to R58 and the opcode map R74, each with the operation it stands for. -/
theorem test_decode_s_high : ∀ p ∈ ([
    ([0x00605240], .popc ⟨false, 0, 5, 9, 0, none⟩),
    ([0x6004525F, 0x10000000], .add ⟨true, 0, 5, 9, 31, some ⟨false, false, true⟩⟩),
    ([0x40645240, 0x000011E8], .bext ⟨false, 0, 5, 9, 0, ⟨false, false, false⟩, 0x11E8⟩),
    ([0x4068524A, 0x200001E8], .bins ⟨false, 0, 5, 9, 10, ⟨false, true, false⟩, 0x1E8⟩),
    ([0x006C4188], .add128 ⟨false, 0, 4, 6, 8, none⟩),
    ([0x40705168, 0x0000000F], .addi ⟨false, 0, 5, 5, 40, some (⟨false, false, false⟩, 15)⟩),
    ([0x00745FFF], .movi ⟨false, 0, 5, 0xFFF, none⟩),
    ([0x0080C24A], .cmpEq ⟨false, 0, 3, 9, 10, none⟩),
    ([0x0084C24A], .cmpNe ⟨false, 0, 3, 9, 10, none⟩),
    ([0x0088C24A], .cmpLts ⟨false, 0, 3, 9, 10, none⟩),
    ([0x008CC24A], .cmpLes ⟨false, 0, 3, 9, 10, none⟩),
    ([0x0090C24A], .cmpLtn ⟨false, 0, 3, 9, 10, none⟩),
    ([0x0094C24A], .cmpLen ⟨false, 0, 3, 9, 10, none⟩),
    ([0x0098C24A], .cmpAny ⟨false, 0, 3, 9, 10, none⟩),
    ([0x009CC24A], .cmpNone ⟨false, 0, 3, 9, 10, none⟩),
    ([0x40A0524A, 0x0000000E], .sel ⟨false, 0, 5, 9, 10, ⟨false, false, false⟩, 14⟩),
    ([0x00A4E680], .pand ⟨false, 0, 3, 9, 10⟩),
    ([0x00A8E680], .por ⟨false, 0, 3, 9, 10⟩),
    ([0x00ACE680], .pxor ⟨false, 0, 3, 9, 10⟩),
    ([0x00B0E400], .pnot ⟨false, 0, 3, 9, 0⟩),
    ([0x00B4E400], .pmov ⟨false, 0, 3, 9, 0⟩),
    ([0x00C01000], .wid ⟨false, 0, 1, 0, 0, none⟩),
    ([0x00C41000], .rank ⟨false, 0, 1, 0, 0, none⟩),
    ([0x00E0702A], .mfs ⟨false, 0, 7, 0x02A, none⟩),
    ([0x00E47012], .mts ⟨false, 0, 7, 0x012, none⟩)] : List (List Nat × Instr)),
    decode .s p.1 = some p.2 := by decide

/-- A slot: words written from R51 to R58 and the opcode map R74, each with the operation it stands for. -/
theorem test_decode_a : ∀ p ∈ ([
    ([0x00000000], .aNop),
    ([0x00045261], .alea ⟨false, 0, 5, 9, 33, none⟩),
    ([0x0008524A], .aset ⟨false, 0, 5, 9, 10, none⟩),
    ([0x000C500A], .astep ⟨false, 0, 5, 0, 10, none⟩),
    ([0x00105240], .aring ⟨false, 0, 5, 9, 0, none⟩),
    ([0x4014524A, 0x00012193], .wopen ⟨false, 0, 5, 9, 10, ⟨false, false, false⟩, 0x12193⟩),
    ([0x00183240], .wadv ⟨false, 0, 3, 9, 0, none⟩),
    ([0x001C3000], .wclose ⟨false, 0, 3, 0, 0, none⟩)] : List (List Nat × Instr)),
    decode .a p.1 = some p.2 := by decide

/-- F slot: words written from R51 to R58 and the opcode map R74, each with the operation it stands for. -/
theorem test_decode_f : ∀ p ∈ ([
    ([0x00000000], .fNop),
    ([0x0004527F], .fill ⟨false, 0, 5, 9, 63, none⟩),
    ([0x400A0000, 0x00000080], .flcfg ⟨false, 0, 32, 0, 0, ⟨false, false, false⟩, 0x80⟩),
    ([0x400C2000, 0x00000402], .flpush ⟨false, 0, 2, 0, 0, ⟨false, false, false⟩, 0x402⟩),
    ([0x40102000, 0x000002BC], .flpop ⟨false, 0, 2, 0, 0, ⟨false, false, false⟩, 0x2BC⟩)] : List (List Nat × Instr)),
    decode .f p.1 = some p.2 := by decide

/-- X slot: words written from R51 to R58 and the opcode map R74, each with the operation it stands for. -/
theorem test_decode_x : ∀ p ∈ ([
    ([0x00000000, 0x00000000], .xNop),
    ([0x014003FF, 0x000B001C], .lds ⟨0, false, 6, 0, 7, 5, 0, 1023⟩),
    ([0x01601009, 0x00118000], .sts ⟨0, false, 3, 0, 0, 5, 1026, 9⟩),
    ([0x01400009, 0x08180AF0], .vld ⟨2, false, 0, 0, 700, 5, 0, 9⟩),
    ([0x0155E009, 0x00200000], .vst ⟨0, false, 0, 0, 0, 5, 700, 9⟩),
    ([0x01400009, 0x00288AF0], .vldx ⟨0, false, 1, 0, 700, 5, 0, 9⟩),
    ([0x0155E009, 0x00308000], .vstx ⟨0, false, 1, 0, 0, 5, 700, 9⟩),
    ([0x02806032, 0x0038A018], .tld ⟨0, false, 1, 2, 6, 10, 12, 50⟩),
    ([0x02821018, 0x0043F000], .tst ⟨0, false, 7, 7, 0, 10, 66, 24⟩),
    ([0x4B002005, 0x00481000], .tcopy ⟨0, false, 0, 1, 0, 300, 4, 5⟩),
    ([0x02806000, 0x0051C000], .tpref ⟨0, false, 3, 4, 0, 10, 12, 0⟩),
    ([0x00000003, 0x005A0000], .fence ⟨0, false, 4, 0, 0, 0, 0, 3⟩),
    ([0x0000001F, 0x00600000], .qfence ⟨0, false, 0, 0, 0, 0, 0, 31⟩),
    ([0x02400000, 0x00680000], .vjoin ⟨0, false, 0, 0, 0, 9, 0, 0⟩),
    ([0x02806432, 0x0101C008], .aadd ⟨0, false, 3, 4, 2, 10, 12, 1074⟩),
    ([0x02806532, 0x01081008], .amin ⟨0, false, 0, 1, 2, 10, 12, 1330⟩),
    ([0x02806532, 0x01101008], .amax ⟨0, false, 0, 1, 2, 10, 12, 1330⟩),
    ([0x02A02800, 0x0118B000], .aand ⟨0, false, 1, 3, 0, 10, 1029, 0⟩),
    ([0x02A02800, 0x0120B000], .aor ⟨0, false, 1, 3, 0, 10, 1029, 0⟩),
    ([0x02A02800, 0x0128B000], .axor ⟨0, false, 1, 3, 0, 10, 1029, 0⟩),
    ([0x02A02800, 0x0130B000], .axchg ⟨0, false, 1, 3, 0, 10, 1029, 0⟩),
    ([0x02806432, 0x01390008], .acas ⟨0, false, 2, 0, 2, 10, 12, 1074⟩),
    ([0x02800432, 0x01429008], .ald ⟨0, false, 5, 1, 2, 10, 0, 1074⟩),
    ([0x02806000, 0x01482000], .ast ⟨0, false, 0, 2, 0, 10, 12, 0⟩),
    ([0x02806000, 0x01500000], .afadd ⟨0, false, 0, 0, 0, 10, 12, 0⟩),
    ([0x02806000, 0x01584024], .waita ⟨0, false, 0, 4, 9, 10, 12, 0⟩),
    ([0x02806402, 0x01602008], .notify ⟨0, false, 0, 2, 2, 10, 12, 1026⟩),
    ([0x02806800, 0x01680000], .dqpush ⟨0, false, 0, 0, 0, 10, 13, 0⟩),
    ([0x028004FF, 0x0170003C], .dqpop ⟨0, false, 0, 0, 15, 10, 0, 1279⟩),
    ([0x02800432, 0x01798008], .dqsteal ⟨0, false, 3, 0, 2, 10, 0, 1074⟩),
    ([0x02806000, 0x01820000], .dcnt ⟨0, false, 4, 0, 0, 10, 12, 0⟩)] : List (List Nat × Instr)),
    decode .x p.1 = some p.2 := by decide

/-- V slots: words written from R51 to R58 and the opcode map R74, each with the operation it stands for. -/
theorem test_decode_v_low : ∀ p ∈ ([
    ([0x00000000, 0x00000000], .vNop),
    ([0x2F202180, 0x000B04B1], .vadd ⟨0, false, 6, 0, 300, 700, 1028, 384⟩),
    ([0x2F202180, 0x001304B1], .vsub ⟨0, false, 6, 0, 300, 700, 1028, 384⟩),
    ([0x2F202180, 0x001B04B1], .vadds ⟨0, false, 6, 0, 300, 700, 1028, 384⟩),
    ([0x2F202180, 0x002304B1], .vsubs ⟨0, false, 6, 0, 300, 700, 1028, 384⟩),
    ([0x2F202180, 0x002B04B1], .vmul ⟨0, false, 6, 0, 300, 700, 1028, 384⟩),
    ([0x2F202180, 0x003304B1], .vmulh ⟨0, false, 6, 0, 300, 700, 1028, 384⟩),
    ([0x2F202009, 0x003904B1], .vmad ⟨0, false, 2, 0, 300, 700, 1028, 9⟩),
    ([0x2F000180, 0x004084B1], .vabs ⟨0, false, 1, 0, 300, 700, 0, 384⟩),
    ([0x2F000180, 0x004884B1], .vneg ⟨0, false, 1, 0, 300, 700, 0, 384⟩),
    ([0x2F000180, 0x00A084B1], .vclz ⟨0, false, 1, 0, 300, 700, 0, 384⟩),
    ([0x2F000180, 0x00A884B1], .vpopc ⟨0, false, 1, 0, 300, 700, 0, 384⟩),
    ([0x2F004800, 0x005384B1], .vmin ⟨0, false, 7, 0, 300, 700, 9, 0⟩),
    ([0x2F004800, 0x005B84B1], .vmax ⟨0, false, 7, 0, 300, 700, 9, 0⟩),
    ([0x2F004800, 0x006384B1], .vand ⟨0, false, 7, 0, 300, 700, 9, 0⟩),
    ([0x2F004800, 0x006B84B1], .vor ⟨0, false, 7, 0, 300, 700, 9, 0⟩),
    ([0x2F004800, 0x007384B1], .vxor ⟨0, false, 7, 0, 300, 700, 9, 0⟩),
    ([0x2F0000DF, 0x007904B1], .vshl ⟨0, false, 2, 0, 300, 700, 0, 223⟩),
    ([0x2F004800, 0x008104B1], .vshr ⟨0, false, 2, 0, 300, 700, 9, 0⟩),
    ([0x2F004800, 0x008804B1], .vsar ⟨0, false, 0, 0, 300, 700, 9, 0⟩),
    ([0x2F004800, 0x0090503D], .vcmp ⟨0, false, 0, 5, 15, 700, 9, 0⟩),
    ([0x2F004807, 0x009804B1], .vsel ⟨0, false, 0, 0, 300, 700, 9, 7⟩),
    ([0x2F004900, 0x010144B1], .vfadd ⟨0, false, 2, 4, 300, 700, 9, 256⟩),
    ([0x2F004900, 0x010944B1], .vfsub ⟨0, false, 2, 4, 300, 700, 9, 256⟩),
    ([0x2F004900, 0x011144B1], .vfmul ⟨0, false, 2, 4, 300, 700, 9, 256⟩),
    ([0x2F004900, 0x015944B1], .vfscale ⟨0, false, 2, 4, 300, 700, 9, 256⟩),
    ([0x03202028, 0x01190030], .vfma ⟨0, false, 2, 0, 12, 12, 1028, 40⟩),
    ([0x03202028, 0x0124B000], .vfnma ⟨0, true, 1, 3, 0, 12, 1028, 40⟩),
    ([0x2F004800, 0x012804B1], .vfmin ⟨0, false, 0, 0, 300, 700, 9, 0⟩),
    ([0x2F004800, 0x013004B1], .vfmax ⟨0, false, 0, 0, 300, 700, 9, 0⟩)] : List (List Nat × Instr)),
    decode .v0 p.1 = some p.2 := by decide

/-- V slots: words written from R51 to R58 and the opcode map R74, each with the operation it stands for. -/
theorem test_decode_v_high : ∀ p ∈ ([
    ([0x2F000000, 0x013804B1], .vfabs ⟨0, false, 0, 0, 300, 700, 0, 0⟩),
    ([0x2F000000, 0x014004B1], .vfneg ⟨0, false, 0, 0, 300, 700, 0, 0⟩),
    ([0x2F004800, 0x01484011], .vfcmp ⟨0, false, 0, 4, 4, 700, 9, 0⟩),
    ([0x2F00000F, 0x0150800D], .vfclass ⟨0, false, 1, 0, 3, 700, 0, 15⟩),
    ([0x2F000000, 0x016014B1], .vfrcp ⟨0, false, 0, 1, 300, 700, 0, 0⟩),
    ([0x2F000000, 0x016814B1], .vfrsq ⟨0, false, 0, 1, 300, 700, 0, 0⟩),
    ([0x2F000000, 0x017014B1], .vfexp2 ⟨0, false, 0, 1, 300, 700, 0, 0⟩),
    ([0x2F000000, 0x017814B1], .vflog2 ⟨0, false, 0, 1, 300, 700, 0, 0⟩),
    ([0x2F0A4001, 0x018014B1], .vcvt ⟨0, false, 0, 1, 300, 700, 328, 1⟩),
    ([0x2F15E811, 0x018804B1], .vqmx ⟨0, false, 0, 0, 300, 700, 701, 17⟩),
    ([0x2F0000B2, 0x019004B1], .vdqmx ⟨0, false, 0, 0, 300, 700, 0, 178⟩),
    ([0x2F004800, 0x019904B1], .vpack ⟨0, false, 2, 0, 300, 700, 9, 0⟩),
    ([0x2F000001, 0x01A204B1], .vunpack ⟨0, false, 4, 0, 300, 700, 0, 1⟩),
    ([0x2F000280, 0x01C184B1], .vradd ⟨0, false, 3, 0, 300, 700, 0, 640⟩),
    ([0x2F000000, 0x01C924B1], .vrfadd ⟨0, false, 2, 2, 300, 700, 0, 0⟩),
    ([0x2F000000, 0x01D184B1], .vrmax ⟨0, false, 3, 0, 300, 700, 0, 0⟩),
    ([0x2F000000, 0x01DB84B1], .vrmin ⟨0, false, 7, 0, 300, 700, 0, 0⟩),
    ([0x2F000000, 0x01E084B1], .vrfmax ⟨0, false, 1, 0, 300, 700, 0, 0⟩),
    ([0x2F004C04, 0x020004B1], .vperm ⟨0, false, 0, 0, 300, 700, 9, 1028⟩),
    ([0x17C00040, 0x020904B0], .vbcast ⟨0, false, 2, 0, 300, 95, 0, 64⟩),
    ([0x2F00003F, 0x021004B1], .vlrot ⟨0, false, 0, 0, 300, 700, 0, 63⟩),
    ([0x2F004803, 0x021884B1], .vshuf ⟨0, false, 1, 0, 300, 700, 9, 3⟩),
    ([0x2F000100, 0x022184B1], .vcmpr ⟨0, false, 3, 0, 300, 700, 0, 256⟩),
    ([0x2F000100, 0x022984B1], .vexpd ⟨0, false, 3, 0, 300, 700, 0, 256⟩),
    ([0x00000100, 0x023184B0], .viota ⟨0, false, 3, 0, 300, 0, 0, 256⟩),
    ([0x03C04800, 0x0240000C], .mand ⟨0, false, 0, 0, 3, 15, 9, 0⟩),
    ([0x03C04800, 0x0248000C], .mor ⟨0, false, 0, 0, 3, 15, 9, 0⟩),
    ([0x03C00000, 0x0250000C], .mnot ⟨0, false, 0, 0, 3, 15, 0, 0⟩),
    ([0x03C00100, 0x025800FC], .mpop ⟨0, false, 0, 0, 63, 15, 0, 256⟩),
    ([0x2F00507F, 0x028004B1], .vrng ⟨0, false, 0, 0, 300, 700, 10, 127⟩)] : List (List Nat × Instr)),
    decode .v0 p.1 = some p.2 := by decide

/-- M slot: words written from R51 to R58 and the opcode map R74, each with the operation it stands for. -/
theorem test_decode_m : ∀ p ∈ ([
    ([0x00000000, 0x00000000], .mNop),
    ([0x01444000, 0x00080000], .mldb ⟨0, false, 0, 0, 0, 5, 136, 0⟩),
    ([0x2F002800, 0x00100001], .mpush ⟨0, false, 0, 0, 0, 700, 5, 0⟩),
    ([0x00000001, 0x00180000], .mshift ⟨0, false, 0, 0, 0, 0, 0, 1⟩),
    ([0x00C02A10, 0x00200000], .macc ⟨0, false, 0, 0, 0, 3, 5, 528⟩),
    ([0x10002E08, 0x002A0000], .mtern ⟨0, false, 4, 0, 0, 64, 5, 1544⟩),
    ([0x00002C08, 0x003004B0], .mdrain ⟨0, false, 0, 0, 300, 0, 5, 1032⟩),
    ([0x00000600, 0x00380000], .mzero ⟨0, false, 0, 0, 0, 0, 0, 1536⟩),
    ([0x00000400, 0x00400000], .mswap ⟨0, false, 0, 0, 0, 0, 0, 1024⟩),
    ([0x02405028, 0x00487000], .mtfetch ⟨0, false, 0, 7, 0, 9, 10, 40⟩)] : List (List Nat × Instr)),
    decode .m p.1 = some p.2 := by decide

/-- Records: words written from the layouts of R322 to R328, R384, R396 and R437. -/
theorem test_decode_records : ∀ p ∈ ([
    ([0x75201, 0x402, 0x411, 0, 0, 0, 0, 0], .oplaunch ⟨1, 2⟩ ⟨7, 1, 1, 2, 0x402, 0x411⟩),
    ([2, 0, 0, 0, 0, 0, 0, 0], .phase ⟨1, 2⟩),
    ([0xABC3503, 0x402, 0x411, 0, 0, 0, 0, 0], .taskdef ⟨1, 2⟩ ⟨0xABC, 3, 5, 0x402, 0x411⟩),
    ([0xABC0004, 0xFFFFFFFF, 0, 0, 0, 0, 0, 0], .taskarm ⟨1, 2⟩ 0xABC 0xFFFFFFFF),
    ([0x105, 0x8001, 0x422, 0, 0, 0, 0, 0], .opwait ⟨1, 2⟩ 0x8001 true 0x422),
    ([0xAB2006, 0x402, 0x411, 0, 0, 0, 0, 0], .mboxbind ⟨1, 2⟩ ⟨0xAB, 2, 0x402, 0x411⟩),
    ([0xAB0007, 0, 0, 0, 0, 0, 0, 0], .mboxfree ⟨1, 2⟩ 0xAB),
    ([8, 0x402, 0, 0, 0, 0, 0, 0], .specflush ⟨1, 2⟩ false 0x402),
    ([0x1C4910, 0x202, 0x480, 0x80, 0, 0, 0, 0], .tdecl ⟨1, 2⟩ ⟨9, false, 1, 0, 1, 3, 0x202, 0x480, 0x80, 0, 0⟩),
    ([0x211, 0x500202, 0xFFF00203, 0, 0, 0, 0, 0], .tuse ⟨1, 2⟩ [(0x202, 5), (0x203, 4095)]),
    ([0x205412, 0x200204, 0x300, 0xE0, 9, 0x201, 0x202, 0x203], .trecipe ⟨1, 2⟩ ⟨4, 0x204, 2, 0x300, 0xE0, 9, 0x201, 0x202, 0x203, 0x205⟩),
    ([0x13, 0xFFFFF, 0, 0, 0, 0, 0, 0], .trelease ⟨1, 2⟩ 0xFFFFF),
    ([0x214, 0x202, 0, 0, 0, 0, 0, 0], .tpin ⟨1, 2⟩ 2 0x202),
    ([0x15, 0x202, 0, 0, 0, 0, 0, 0], .tunpin ⟨1, 2⟩ 0x202),
    ([0x16, 0x202, 0x203, 0, 0, 0, 0, 0], .tquery ⟨1, 2⟩ 0x202 0x203),
    ([0x100C0920, 0x500, 0x501, 0x3C00, 1, 0x40, 0x10, 0], .scan ⟨1, 2⟩ ⟨1, 12, false, false, 9, 0x500, 0x501, 0x3C00, 1, 64, 16⟩),
    ([0x70228, 0x500, 3, 4, 0xBEEF, 0, 0, 0], .texport ⟨1, 2⟩ ⟨7, 2, 0x500, 3, 4, 0xBEEF⟩),
    ([0x3FF0029, 0, 0, 0, 0, 0, 0, 0], .trevoke ⟨1, 2⟩ 0x3FF)] : List (List Nat × Instr)),
    decodeRecord ⟨1, 2⟩ p.1 = some p.2 := by decide

/-! ## Ill-formed terms (R11, R53 to R61, R75) -/

/-- Short formats: a term that breaks each check of R53, R54, R60, R61 and of the scalar and control entries (R96 to R117). -/
theorem test_wf_short : ∀ i ∈ ([
    .next ⟨false, 16⟩, .halt ⟨true, 0⟩, .bri ⟨false, 0, 1, 2, 3, none⟩, .bri ⟨true, 0, 0, 2, 3, none⟩,
    .bri ⟨false, 0, 0, 64, 3, none⟩, .bri ⟨false, 0, 0, 2, 64, none⟩, .bri ⟨false, 0, 0, 32, 3, some ⟨false, true, false⟩⟩,
    .bri ⟨false, 0, 0, 2, 3, some ⟨true, false, false⟩⟩, .ret ⟨false, 0, 0, 2, 1, none⟩, .br ⟨false, 0, 2 ^ 18, none⟩,
    .br ⟨false, 0, 0, some (2 ^ 31)⟩, .brp ⟨false, 0, 16, 0, none⟩, .brp ⟨false, 0, 0, 2 ^ 14, none⟩,
    .loop ⟨false, 0, 64, 0, none⟩, .loop ⟨false, 0, 0, 4096, none⟩, .loop ⟨false, 0, 1, 0, some (⟨false, true, false⟩, 0)⟩,
    .loop ⟨false, 0, 1, 0, some (⟨false, false, false⟩, 2 ^ 28)⟩, .sloop ⟨false, 0, 1, 0, 4, none⟩,
    .sloop ⟨false, 0, 1, 9, 4, none⟩, .sloop ⟨false, 0, 1, 2, 64, none⟩, .lix ⟨false, 0, 1, 6, none⟩,
    .fuse ⟨false, 0, 1, 0, none⟩, .fuse ⟨false, 0, 0, 8, none⟩, .pair ⟨false, 0, 0, 2, none⟩,
    .add ⟨false, 0, 64, 1, 1, none⟩, .clz ⟨false, 0, 1, 1, 1, none⟩, .add128 ⟨false, 0, 1, 2, 4, none⟩,
    .add128 ⟨false, 0, 2, 3, 4, none⟩, .add128 ⟨false, 0, 2, 2, 5, none⟩,
    .bext ⟨false, 0, 1, 1, 1, ⟨false, false, false⟩, 0⟩, .bext ⟨false, 0, 1, 1, 0, ⟨false, false, false⟩, 2 ^ 13⟩,
    .bext ⟨false, 0, 1, 1, 0, ⟨false, false, false⟩, 63 * 64 + 1⟩, .bext ⟨false, 0, 1, 1, 0, ⟨false, false, true⟩, 0⟩,
    .bins ⟨false, 0, 1, 1, 1, ⟨false, false, false⟩, 2 ^ 12⟩, .sel ⟨false, 0, 1, 1, 1, ⟨false, false, false⟩, 16⟩,
    .addi ⟨false, 0, 1, 1, 0, some (⟨false, false, true⟩, 0)⟩, .movi ⟨false, 0, 1, 0, some (⟨true, false, false⟩, 0)⟩,
    .cmpEq ⟨false, 0, 16, 0, 0, none⟩, .cmpEq ⟨false, 0, 1, 0, 0, some ⟨true, false, false⟩⟩, .pand ⟨false, 0, 0, 16, 0⟩,
    .pnot ⟨false, 0, 0, 1, 1⟩, .wid ⟨false, 0, 1, 1, 0, none⟩, .wid ⟨true, 0, 1, 0, 0, none⟩, .mfs ⟨false, 0, 1, 0x007, none⟩,
    .mfs ⟨false, 0, 1, 0x02B, none⟩, .mts ⟨false, 0, 1, 0, some (⟨false, false, false⟩, 0)⟩] : List Instr),
    i.wf = false := by decide

/-- Address, window and flue operations: a term that breaks each check of R244 to R248 and R173 to R177. -/
theorem test_wf_address_flue : ∀ i ∈ ([
    .alea ⟨false, 0, 16, 0, 0, none⟩, .aset ⟨false, 0, 16, 0, 0, none⟩, .astep ⟨false, 0, 1, 1, 0, none⟩,
    .aring ⟨true, 0, 1, 1, 0, none⟩, .aring ⟨false, 0, 1, 1, 1, none⟩, .wopen ⟨false, 0, 1, 1, 1, ⟨false, false, false⟩, 7 * 2 ^ 13⟩,
    .wopen ⟨false, 0, 1, 1, 1, ⟨false, false, false⟩, 2 ^ 23 + 2 ^ 16⟩, .wadv ⟨false, 0, 4, 1, 0, none⟩,
    .wclose ⟨false, 0, 0, 1, 0, none⟩, .fill ⟨false, 0, 1, 1, 0, some (⟨false, false, false⟩, 1)⟩,
    .flcfg ⟨false, 0, 8, 0, 0, ⟨false, false, false⟩, 0x80⟩, .flcfg ⟨false, 0, 0, 0, 0, ⟨false, false, false⟩, 0x1F⟩,
    .flcfg ⟨false, 0, 32, 0, 0, ⟨false, false, false⟩, 0x180⟩, .flpush ⟨false, 0, 8, 0, 0, ⟨false, false, false⟩, 0⟩,
    .flpush ⟨false, 0, 0, 0, 0, ⟨false, false, false⟩, 0x410⟩, .flpop ⟨false, 0, 0, 0, 0, ⟨false, false, false⟩, 0x400⟩] :
    List Instr), i.wf = false := by decide

/-- Long formats: a term that breaks each check of R55 to R58 and of the X, V and M entries. -/
theorem test_wf_long : ∀ i ∈ ([
    .lds ⟨16, false, 0, 0, 1, 0, 0, 0⟩, .lds ⟨0, true, 0, 0, 1, 0, 0, 0⟩, .lds ⟨0, false, 0, 0, 64, 0, 0, 0⟩,
    .lds ⟨0, false, 0, 1, 0, 0, 0, 0⟩, .lds ⟨0, false, 0, 0, 0, 16, 0, 0⟩, .lds ⟨0, false, 0, 0, 0, 0, 0, 1024⟩,
    .sts ⟨0, true, 0, 0, 0, 0, 0, 0⟩, .sts ⟨0, false, 4, 0, 0, 0, 0, 0⟩, .sts ⟨0, false, 0, 0, 0, 0, 96, 0⟩,
    .vld ⟨0, false, 1, 0, 0, 0, 0, 0⟩, .vst ⟨0, false, 0, 0, 0, 0, 1032, 0⟩, .vldx ⟨0, false, 2, 0, 0, 0, 0, 0⟩,
    .tld ⟨0, false, 0, 0, 16, 0, 0, 2⟩, .tld ⟨0, false, 0, 0, 0, 0, 1, 2⟩, .tld ⟨0, false, 0, 0, 0, 0, 0, 1⟩,
    .tst ⟨0, false, 1, 0, 0, 0, 0, 1023⟩, .tcopy ⟨0, false, 1, 0, 0, 0, 0, 0⟩, .tcopy ⟨0, false, 0, 0, 0, 0, 0, 16⟩,
    .tpref ⟨0, false, 0, 0, 0, 0, 0, 1⟩, .fence ⟨0, false, 6, 0, 0, 0, 0, 1⟩, .fence ⟨0, false, 0, 0, 0, 0, 0, 0⟩,
    .qfence ⟨0, false, 0, 0, 0, 0, 0, 32⟩, .vjoin ⟨0, false, 0, 0, 0, 0, 0, 1⟩,
    .aadd ⟨0, false, 6, 0, 0, 0, 0, 0⟩, .aadd ⟨0, false, 0, 5, 0, 0, 0, 0⟩, .aadd ⟨0, false, 0, 0, 1, 0, 0, 0⟩,
    .aadd ⟨0, false, 0, 0, 0, 0, 0, 0x401⟩, .aadd ⟨0, false, 0, 0, 0, 0, 0, 0x100⟩, .aadd ⟨0, false, 0, 0, 0, 0, 0, 0x200⟩,
    .ald ⟨0, false, 0, 0, 0, 0, 0, 0⟩, .ald ⟨0, false, 0, 2, 0, 0, 0, 0x402⟩, .ast ⟨0, false, 0, 1, 0, 0, 0, 0⟩,
    .ast ⟨0, false, 0, 0, 0, 0, 0, 0x402⟩, .acas ⟨0, false, 0, 0, 0, 0, 1, 0⟩, .waita ⟨0, false, 0, 0, 16, 0, 0, 0⟩,
    .vadd ⟨0, false, 0, 1, 0, 0, 0, 0⟩, .vadd ⟨0, false, 0, 0, 0, 0, 0, 1⟩, .vabs ⟨0, false, 0, 0, 0, 0, 1, 0⟩,
    .vshl ⟨0, false, 0, 0, 0, 0, 0, 72⟩, .vshl ⟨0, false, 0, 0, 0, 0, 1, 64⟩, .vcmp ⟨0, false, 0, 6, 0, 0, 0, 0⟩,
    .vcmp ⟨0, false, 0, 0, 16, 0, 0, 0⟩, .vsel ⟨0, false, 0, 0, 0, 0, 0, 16⟩, .vfadd ⟨0, false, 3, 0, 0, 0, 0, 0⟩,
    .vfadd ⟨0, false, 0, 5, 0, 0, 0, 0⟩, .vfmin ⟨0, false, 0, 1, 0, 0, 0, 0⟩, .vfma ⟨0, false, 3, 0, 0, 0, 0, 0⟩,
    .vfcmp ⟨0, false, 0, 5, 0, 0, 0, 0⟩, .vfclass ⟨0, false, 0, 1, 0, 0, 0, 0⟩, .vcvt ⟨0, false, 1, 0, 0, 0, 0, 0⟩,
    .vcvt ⟨0, false, 0, 0, 0, 0, 0x11, 0⟩, .vcvt ⟨0, false, 0, 4, 0, 0, 0x210, 0⟩, .vqmx ⟨0, false, 0, 0, 0, 0, 0, 0x10⟩,
    .vqmx ⟨0, false, 0, 0, 0, 0, 0, 0x91⟩, .vdqmx ⟨0, false, 1, 0, 0, 0, 0, 0x31⟩, .vpack ⟨0, false, 0, 0, 0, 0, 0, 0⟩,
    .vunpack ⟨0, false, 3, 0, 0, 0, 0, 0⟩, .vunpack ⟨0, false, 0, 0, 0, 0, 0, 2⟩, .vradd ⟨0, false, 0, 1, 0, 0, 0, 0⟩,
    .vrfadd ⟨0, false, 3, 0, 0, 0, 0, 0⟩, .vbcast ⟨0, false, 0, 0, 0, 0, 0, 65⟩, .vbcast ⟨0, false, 3, 0, 0, 0, 0, 8⟩,
    .vlrot ⟨0, false, 0, 0, 0, 0, 1, 0⟩, .vshuf ⟨0, false, 0, 0, 0, 0, 0, 4⟩, .viota ⟨0, false, 0, 0, 0, 1, 0, 0⟩,
    .mand ⟨0, false, 0, 0, 0, 16, 0, 0⟩, .mnot ⟨0, false, 0, 0, 0, 0, 1, 0⟩, .mpop ⟨0, false, 0, 0, 64, 0, 0, 0⟩,
    .vrng ⟨0, false, 1, 0, 0, 0, 0, 0⟩, .mldb ⟨0, false, 0, 0, 0, 0, 135, 0⟩, .mldb ⟨0, false, 4, 0, 0, 0, 136, 0⟩,
    .mpush ⟨0, false, 0, 0, 0, 8, 0, 16⟩, .mpush ⟨0, false, 0, 0, 0, 0, 0, 1⟩, .mshift ⟨0, false, 0, 0, 0, 0, 0, 2⟩,
    .macc ⟨0, false, 4, 0, 0, 0, 0, 0⟩, .mtern ⟨0, false, 0, 0, 0, 0, 0, 0⟩, .macc ⟨0, false, 0, 0, 0, 16, 0, 16⟩,
    .macc ⟨0, false, 0, 0, 0, 0, 0, 1⟩, .mdrain ⟨0, false, 0, 7, 0, 0, 0, 0⟩, .mdrain ⟨0, false, 0, 0, 1, 0, 0, 16⟩,
    .mdrain ⟨0, false, 0, 0, 0, 0, 0, 1⟩, .mzero ⟨0, false, 0, 0, 0, 0, 0, 8⟩, .mswap ⟨0, false, 0, 1, 0, 0, 0, 0⟩,
    .mtfetch ⟨0, false, 0, 0, 0, 0, 0, 1⟩, .mtfetch ⟨0, false, 4, 0, 0, 0, 0, 2⟩] : List Instr), i.wf = false := by decide

/-- Records: a term with each field beyond its bits (R320, R322, R327, R328, R341, R384, R396, R437). -/
theorem test_wf_records : ∀ i ∈ ([
    .oplaunch ⟨0, 0⟩ ⟨4096, 0, 0, 0, 1, 1⟩, .oplaunch ⟨0, 0⟩ ⟨0, 4, 0, 0, 1, 1⟩, .oplaunch ⟨0, 0⟩ ⟨0, 0, 4, 0, 1, 1⟩,
    .oplaunch ⟨0, 0⟩ ⟨0, 0, 0, 16, 1, 1⟩, .oplaunch ⟨0, 0⟩ ⟨0, 0, 0, 0, 2 ^ 20, 1⟩, .taskdef ⟨0, 0⟩ ⟨4096, 0, 0, 1, 1⟩,
    .taskarm ⟨0, 0⟩ 4096 0, .taskarm ⟨0, 0⟩ 0 (2 ^ 32), .opwait ⟨0, 0⟩ (2 ^ 16) false 0, .mboxbind ⟨0, 0⟩ ⟨256, 0, 1, 1⟩,
    .mboxfree ⟨0, 0⟩ 256, .specflush ⟨0, 0⟩ true 1, .tdecl ⟨0, 0⟩ ⟨32, false, 0, 0, 0, 1, 1, 1, 0, 0, 0⟩,
    .tdecl ⟨0, 0⟩ ⟨8, false, 0, 0, 0, 512, 1, 1, 0, 0, 0⟩, .tuse ⟨0, 0⟩ [(1, 4096)], .tuse ⟨0, 0⟩ (List.replicate 8 (1, 1)),
    .trecipe ⟨0, 0⟩ ⟨8, 1, 0, 1, 0, 0, 0, 0, 0, 0⟩, .trelease ⟨0, 0⟩ (2 ^ 20), .tpin ⟨0, 0⟩ 4 1, .tunpin ⟨0, 0⟩ (2 ^ 20),
    .tquery ⟨0, 0⟩ 1 (2 ^ 20), .scan ⟨0, 0⟩ ⟨4, 0, false, false, 8, 1, 1, 0, 0, 1, 1⟩,
    .scan ⟨0, 0⟩ ⟨0, 0, false, false, 8, 1, 1, 2 ^ 32, 0, 1, 1⟩, .texport ⟨0, 0⟩ ⟨1024, 1, 1, 0, 1, 0⟩,
    .texport ⟨0, 0⟩ ⟨0, 4, 1, 0, 1, 0⟩, .trevoke ⟨0, 0⟩ 1024] : List Instr), i.wf = false := by decide

/-- Reserved encodings do not decode (R75): an unassigned opcode of each slot, a NOP with a bit set, and a reserved OPC. -/
theorem test_decode_reserved :
    decode .c [0x00380000] = none ∧ decode .s [0x00780000] = none ∧ decode .a [0x00200000] = none ∧
    decode .f [0x00140000] = none ∧ decode .x [0, 0x00700000] = none ∧ decode .v1 [0, 0x02380000] = none ∧
    decode .m [0, 0x00500000] = none ∧ decode .s [1] = none ∧ decode .x [1, 0] = none ∧
    decodeRecord ⟨0, 0⟩ [0x09, 0, 0, 0, 0, 0, 0, 0] = none ∧ decodeRecord ⟨0, 0⟩ [0x02, 1, 0, 0, 0, 0, 0, 0] = none := by
  decide

/-! ## Small states -/

/-- Tensors of context 1: f32 of 128 by 128 in HBM, a raw one of 4,096 bytes in the pool, a spilled one. -/
def recF : Rec := { TDecl_record ⟨8, false, 1, 0, 1, 3, 0x201, 128, 128, 0, 0⟩ 1 0 with pages := [(0, 16)] }
def recR : Rec := { TDecl_record ⟨0, true, 0, 0, 0, 3, 0x202, 4096, 0, 0, 0⟩ 1 0 with pages := [(0, 1)] }
def recS : Rec := { TDecl_record ⟨0, true, 0, 0, 0, 3, 0x203, 4096, 0, 0, 0⟩ 1 0 with tier := .lpddr, pages := [(0, 1)] }
def recD : Rec := { TDecl_record ⟨0, true, 0, 0, 0, 3, 0x204, 4096, 0, 0, 0⟩ 1 0 with tier := .dropped }

/-- A context with hearths 0 to 7 of die 0 and ranges of sync state on it. -/
def ctxA : Context :=
  { Context.new 1 0 with res := { Residency_init with poolq := List.replicate 4 (2 ^ 24), hbmq := List.replicate 4 (2 ^ 24) }, masks := [(0, 255)], sync := [(0, 0, 0, 63), (0, 1, 0, 3), (0, 2, 0, 3), (0, 3, 0, 3)] }

/-- The hearth 0 of a device in STATE 4 that runs a task of context 1 at offset 0x100 of some code. -/
def core0 (ws : List Nat) : Core :=
  { Core.init with
    mode := .running, task := ⟨7, 0, 0, 1, 1, 1, 0, false, 0⟩, code := { Code.empty with words := ws }, seq := { Seq.init with pc := 0x100 }
    regs := { Regs.init with x := [(1, 0x7FFFFFFFFFFFFFFF), (2, 0x8000000000000000), (3, 1), (4, 0x201), (5, 0x202)]
                             p := [(3, true)], k := [(0, 9)], m := [(1, 3)]
                             a := [(1, ⟨0, 0, 0, 0⟩), (2, ⟨4194240, 64, 0, 0⟩), (3, ⟨64, 0, 1, 2⟩), (4, ⟨127, 0, 0, 0⟩)]
                             latch := [(1, ⟨5, true⟩)] } }

/-- A stream of context 1 in slot 2 of die 0, at its first record. -/
def strm : Stream := ⟨1, 0x202, 0, 64, 1, .running, [], false, 0, [], 0⟩

def world (ws : List Nat) : State :=
  { State.reset with
    host := { HostSide.init with state := 4 }, core := core0 ws, contexts := [ctxA], recs := [recF, recR, recS, recD]
    keys := [(3, ⟨true, 1, 5, 6⟩)], dies := [(0, { Die.init with streams := [(2, some strm)], poolWays := 12 })], nextId := 50 }

/-- Registers, memory and the matrix array can be changed for one witness. -/
abbrev here : State := world []

/-! ## States and operands that meet the hypotheses of the statements -/

/-- ScalarArithmeticResults, DivisionNeverTraps, ScalarFieldAndPredicateResults: guards p0 and a true predicate. -/
theorem witness_scalar : here.on 0 ∧ here.on 3 ∧ here.core.readP 4 = false := by decide +kernel

/-- SystemRegistersReadAndWrite: an allowed read and write, an injection word that EINJ takes, and the trap registers' ends
outside privileged mode. -/
theorem witness_SystemRegistersReadAndWrite :
    here.on 3 ∧ sysCheck here.core.priv false 0x000 = none ∧ sysCheck here.core.priv true 0x008 = none ∧
    sysCheck true true 0x050 = none ∧ einjOk (2 ^ 50) = true ∧ einjOk 0 = false ∧ here.core.priv = false ∧
    (∀ i ∈ [0x000, 0x001, 0x008, 0x012, 0x020, 0x02A, 0x050, 0x051], sysRegOk i = true) ∧ here.core.st.fresh = 0 ∧
    here.core.st.kept = 0 ∧ here.core.st.flags < 2 ^ 64 := by decide +kernel

/-- AddressRegisterResults: sums at and beyond both ends of 64 bits, a register without a ring and one with. -/
theorem witness_AddressRegisterResults :
    let v (o : S2I) : Int := (o.src2 here.core).toInt + o.simm
    let lin (o : S3) : Int := (here.core.readA o.f1).val.toInt + (o.src3 here.core).toInt
    here.on 3 ∧ v ⟨false, 3, 5, 1, 0, none⟩ = 2 ^ 63 - 1 ∧ v ⟨false, 3, 5, 1, 1, none⟩ = 2 ^ 63 ∧
    v ⟨false, 3, 5, 2, 0, none⟩ = -(2 ^ 63) ∧ v ⟨false, 3, 5, 2, 63, none⟩ = -(2 ^ 63) - 1 ∧
    (here.core.readA 2).rlen = 0 ∧ lin ⟨false, 3, 2, 0, 3, none⟩ < 2 ^ 63 ∧ 2 ^ 63 ≤ lin ⟨false, 3, 2, 0, 1, none⟩ ∧
    (here.core.readA 1).rlen = 0 ∧ lin ⟨false, 3, 1, 0, 2, none⟩ = -(2 ^ 63) ∧ (here.core.readA 3).rlen ≠ 0 := by decide +kernel

/-- A window of two rows of `recF`, open in window 1. -/
def winA : Win := ⟨true, 0x201, 0, 2, 512, 0, 700, [], []⟩
def withWin : State := here.mapCore fun c => { c with win := [(1, winA)] }

/-- WindowsOpenAdvanceClose: an opening of one row that ends the scratchpad and of two at its start; an advance by 0 and by
all rows of an open window, and a closed one. -/
theorem witness_WindowsOpenAdvanceClose :
    let fits (base cnt : Nat) : Prop :=
      let code := bfmtOf here.core.pad.bfmt base
      let size := winSize recF code
      let w : Win := ⟨true, 0x201, 0, cnt, size, base, 8, [], []⟩
      let rows := (List.range cnt).map fun (i : Nat) => (0 : Int) + (i : Int)
      here.tensorReady 0x201 recF ∧ recF.ext.length = 2 ∧ base % 64 = 0 ∧ base + cnt * size ≤ padBytes ∧
      ((List.range cnt).any fun i => bankOf (base + i * size) != bankOf (base + i * size + size - 1)) = false ∧
      (recF.isMx && (List.range cnt).any fun i => bfmtOf here.core.pad.bfmt (base + i * size) == 0x80) = false ∧ (here.fixed && 8 < recF.worst) = false ∧
      here.core.pad.clashW .lin ((rows.map fun r => bankPlaces (w.slotBase r) w.size).flatten) = none ∧
      here.core.eng.cp.length < 32
    here.on 3 ∧ here.closeWin 0 = here ∧ fits 0 2 ∧ fits (4194304 - 512) 1 ∧ winSize recF 0x80 = 512 ∧
    (Store.get Win.closed here.core.win 1).opened = false ∧ (Store.get Win.closed withWin.core.win 1).opened = true ∧
    (withWin.core.readX 0).toNat = 0 ∧ 0 < 2 ∧ 2 ≤ winA.n ∧ withWin.tensorReady winA.handle recF ∧
    (withWin.fixed && winA.d < recF.worst) = false ∧
    withWin.core.pad.clashW .lin (([2, 3].map fun r => bankPlaces (winA.slotBase r) winA.size).flatten) = none := by
  decide +kernel

/-- An element that has landed. -/
def landedE (v : V512) : Elem := ⟨0, 1, 0, some v, true, none, false, false⟩
/-- Stream register 2 holds one element, flue 2 two entries. -/
def withQ : State := here.mapCore fun c => { c with q := [(2, [landedE 7])], flue := [(2, ⟨8, 8, [landedE 7, landedE 8]⟩)] }

/-- FlueOperations: a fill at the last byte of the scratchpad and one of a whole unit, both kinds of configuration, pushes
from a register, a latch of a full flue less one, and a stream register, and a pop. -/
theorem witness_FlueOperations :
    withQ.on 3 ∧ ((withQ.core.readA 2).reach 0 64 1 4194240 ∧ 4194240 / 64 = (4194240 + 64 - 1) / 64 ∧
      withQ.core.pad.clashW .lin (placesOf 4194240 64) = none) ∧ ((withQ.core.readA 0).reach 0 1 1 0) ∧
    7 < 8 ∧ 8 ≤ 32 ∧ withQ.core.flueRoom 2 1 = true ∧ bit 0x2BC 10 = false ∧ withQ.vReady (0x2BC % 1024) ∧
    bit 0x402 10 = true ∧ withQ.core.qOf (0x402 % 16) = [landedE 7] ∧ (landedE 7).landed = true ∧
    (landedE 7).data = some 7 ∧ (landedE 7).mark = none ∧ (withQ.core.flueOf 2).q = [landedE 7, landedE 8] := by
  decide +kernel

/-- ScratchpadStores, ScratchpadLoadsAndRanges: places at both ends of the scratchpad, sources in a register and a latch,
offsets outside and off their alignment. -/
theorem witness_scratchpad :
    let o (ty sa sb sc : Nat) : Long := ⟨3, false, ty, 0, 0, sa, sb, sc⟩
    here.on 3 ∧ here.xReady 2 ∧ here.xReady 1025 ∧ here.vReady 700 ∧ here.vReady 1025 ∧
    (here.core.readA 2).reach (signed 10 7 * (2 ^ 3)) (2 ^ 3) (2 ^ 3) 4194296 ∧ (here.core.readA 0).reach (signed 10 0 * 64) 64 64 0 ∧
    (here.core.readA 2).reach (signed 10 0 * 64) 64 64 4194240 ∧
    (here.core.readA 0).reach (signed 10 0 * (swzSpan (o 1 0 0 0)).2) (swzSpan (o 1 0 0 0)).1 (swzSpan (o 1 0 0 0)).2 0 ∧
    here.core.pad.clashW .lin (placesOf 4194240 64) = none ∧ here.core.pad.clashW .swz (swzPlaces (o 1 0 0 0) 0) = none ∧
    here.padReady .lin (placesOf 4194240 64) ∧ here.padReady .swz (swzPlaces (o 1 0 0 0) 0) ∧
    (here.core.readA 0).int + signed 10 1023 * 64 < 0 ∧ (padBytes : Int) < (here.core.readA 2).int + signed 10 1 * 64 + 64 ∧
    ((here.core.readA 4).int + signed 10 0 * 64) % 64 ≠ 0 := by
  decide +kernel

/-- Coordinates 0 in x6 and x7, a last row in x8 and x9, sync addresses in x10 to x13, other counts in x14 to x16. -/
def regs2 : State := here.mapCore fun c => { c with
  regs := { c.regs with x := c.regs.x ++ [(8, 127), (9, 0), (10, 0), (11, 0x40000003), (12, 0x80000003), (13, 0xC0000003), (14, 64)]
                        v := [(24, 1), (700, 2)] } }

/-- A descriptor of a row of `recF` into the scratchpad, of 8 units of it into flue 2, and of a scratchpad row to window 7 of
node 3. -/
def toPad : Nat := 128 * 2 ^ 32 + 2 ^ 64 + 512 * 2 ^ 96 + 0x201 * 2 ^ 192
def toFlue : Nat := 4 + 2 * 2 ^ 8 + 8 * 2 ^ 32 + 2 ^ 64 + 8 * 2 ^ 80 + 0x201 * 2 ^ 192
def toPeer : Nat := 1 + 64 * 2 ^ 32 + 2 ^ 64 + 64 * 2 ^ 96 + 7 * 2 ^ 224 + 3 * 2 ^ 246 + 2 ^ 255
/-- Port 0 is up with an active entry of the context's owner. -/
def withPort (s : State) : State :=
  { s.mapCtx 1 (fun c => { c with owner := some 0 }) with
    fabric := { s.fabric with ports := [(0, { Port.init with owners := [(0, ⟨1, 5, 0, 9⟩)] })] } }

/-- TensorTransfersQueue: 8 vectors at both ends of a tensor, and prefetches; the four ways in which a TPREF does nothing; a
copy to the scratchpad, to a flue and to a peer. -/
theorem witness_TensorTransfersQueue :
    let s := regs2
    let failed := s.mapRec 1 0x201 fun r => { r with rfail := true }
    let spilt := s.mapCtx 1 (fun c => { c with fixed := true }) |>.mapRec 1 0x201 fun r => { r with tier := .lpddr }
    let copy (s : State) (v : Nat) : CopyDesc := CopyDesc.of v 0 0 s.core.pad.bfmt
    s.on 3 ∧ s.xReady 4 ∧ s.tensorReady 0x201 recF ∧ s.core.eng.cp.length < 32 ∧
    recF.offsetOf (s.core.pairCoords 6) (512 * 8) = some 0 ∧ recF.offsetOf (s.core.pairCoords 8) (512 * 8) = some (65536 - 512) ∧
    (s.fixed && (2 : Nat) * 4 < recF.worst) = false ∧ s.core.qRoom 2 8 = true ∧ (∀ i < 8, s.vReady (24 + i)) ∧
    (65536 - 512) % 64 = 0 ∧ recF.offsetOf (s.core.pairCoords 8) 8 = some (65536 - 512) ∧
    s.recFor 7 1 (s.xSrc 3).toNat = none ∧ s.recFor 7 1 (s.xSrc 4).toNat = some recF ∧ s.rebuilding recF = false ∧ s.recReady recF ∧
    recF.offsetOf (s.core.pairCoords 2) 8 = none ∧
    failed.rebuilding { recF with rfail := true } = false ∧ spilt.rebuilding { recF with tier := .lpddr } = false ∧
    failed.recFor 7 1 0x201 = some { recF with rfail := true } ∧
    (spilt.fixed && ({ recF with tier := .lpddr } : Rec).away) = true ∧ spilt.recFor 7 1 0x201 = some { recF with tier := .lpddr } ∧
    (∀ v ∈ [toPad, toFlue],
      (copy s v).illegal v (some recF) none = false ∧ (copy s v).srcTensor = true ∧ (copy s v).dstTensor = false ∧
      (copy s v).remote = none ∧ s.recFor 7 1 (copy s v).shandle = some recF ∧ (s.fixed && (copy s v).d < recF.worst) = false ∧
      (List.range (copy s v).rows).findSome? ((copy s v).rowBad (some recF) none) = none ∧
      s.core.pad.clashW .lin ((copy s v).padPlaces (copy s v).doff fun r =>
        sideWidth ((copy s v).rowSides (some recF) none r).2 ((copy s v).rowSides (some recF) none r).1) = none) ∧
    ((copy s toPad).dstPad = true ∧ (copy s toFlue).kind = 4 ∧ s.core.flueRoom 2 8 = true ∧ (copy s toFlue).flue = 2 ∧
      (copy s toFlue).count = 8) ∧
    (let t := withPort s
     let c := copy t toPeer
     c.illegal toPeer none none = false ∧ c.srcPad = true ∧ c.dstRemote = true ∧ c.remote = some ⟨true, false, 3, 7⟩ ∧
       (List.range c.rows).findSome? (c.rowBad none none) = none ∧ t.fixed = false ∧ t.pathOk 1 ⟨true, false, 3, 7⟩ = true ∧
       (t.core.readA 0).ringOver = false ∧ t.core.eng.cl.length < 32 ∧
       t.core.pad.clash .lin (c.padPlaces c.soff fun r => sideWidth (c.rowSides none none r).1 (c.rowSides none none r).2) = none) := by
  decide +kernel

/-- FencesWait: no report is due; an empty mask and a full one; a scalar source of VJOIN. -/
theorem witness_FencesWait :
    here.on 3 ∧ here.core.raceDue 0x1F = none ∧ here.unchecked 0x1F = false ∧ (0 : Nat) = 0 ∧ (0x1F : Nat) ≠ 0 ∧ here.xReady 95 ∧ here.xReady 1025 := by
  decide +kernel

/-- AtomicsBecomeRequests: the last word, deque, mailbox and counter of the allocation, with and without a result; an
address outside it, and AFADD in a deterministic context. -/
theorem witness_AtomicsBecomeRequests :
    let s := regs2
    let o (sc md : Nat) : Long := ⟨3, false, 3, md, 2, 10, 12, sc⟩
    s.on 3 ∧ s.xReady 10 ∧ s.xReady 12 ∧ s.atomicReady (o 0 0) 0x20 0 (s.xSrc 10) ∧ s.atomicReady (o 0x402 4) 0x2A 0 63 ∧
    s.atomicReady (o 0 2) 0x2C 2 (s.xSrc 12) ∧ s.atomicReady (o 0 0) 0x2D 1 (s.xSrc 11) ∧ s.atomicReady (o 0 0) 0x30 3 (s.xSrc 13) ∧
    s.atomicReady (o 0x4FF 1) 0x28 0 (s.xSrc 10) := by (repeat' apply And.intro) <;> decide +kernel
theorem witness_atomics_trap :
    let s := regs2
    let d := s.mapCtx 1 fun c => { c with det := true }
    s.syncOk s.core.task.ctx 0 (s.xSrc 14) = false ∧ d.syncOk d.core.task.ctx 0 (d.xSrc 10) = true ∧ d.det = true := by
  decide +kernel

/-- The V slots: sources in registers and latches, a merge of some lanes, of all lanes and into a latch alone, and the rounding
modes; a stochastic one draws words. -/
theorem witness_vector :
    let s := regs2
    let o (md lm : Nat) (wbs : Bool) : Long := ⟨3, wbs, 0, md, 24, 700, 1025, lm * 128⟩
    s.on 3 ∧ s.vReady 700 ∧ s.vReady 1025 ∧ s.vReady 1023 ∧ s.xReady 1025 ∧ s.mergeReady (o 0 1 false) (s.allLanes (o 0 1 false) 32) ∧
    s.allLanes (o 0 1 false) 32 = false ∧ s.allLanes (o 4 0 true) 32 = true ∧ s.mergeReady (o 4 0 true) true ∧
    s.mergeReady (o 0 1 true) false ∧ (∀ md < 6, (o md 0 false).md = md) ∧ (o 0 0 false).ci = 0 ∧ bit 64 6 = true ∧ bit 63 6 = false := by
  decide +kernel

/-- A raw tensor of 128 rows of 128 bytes, for a tile fetch. -/
def recM : Rec := { TDecl_record ⟨0, true, 1, 0, 1, 3, 0x205, 128, 128, 0, 0⟩ 1 0 with pages := [(16, 4)] }
def mats : State := { here.mapCore (fun c => { c with
    regs := { c.regs with a := [(1, ⟨4194304 - 16384, 0, 0, 0⟩), (5, ⟨16320, 0, 0, 0⟩), (6, ⟨127, 0, 0, 0⟩), (7, ⟨16368, 0, 0, 0⟩)]
                          x := c.regs.x ++ [(6, 0x205)], v := [(24, 1), (25, 2)] }
    q := [(2, [landedE 1, landedE 2])], flue := [(3, ⟨8, 8, [landedE 1]⟩)] }) with recs := here.recs ++ [recM] }
/-- A fill whose landing cycle has not come, and one that is due with all its rows. -/
def fillA : Fill := ⟨500, 9, .pad 0, 0, 0, 0, Plane.init, 0, none, false, false, 0, [], false, [], 0, [], []⟩
def fillB : Fill := { fillA with land := 0, got := 128 }
def withFill (f : Fill) : State := mats.mapCore fun c => { c with mat := { c.mat with fill := some f } }

/-- PlaneFillsShiftAndPush: an image that ends the scratchpad, tiles of a float and of a raw tensor, planes without a fill and
with a premature one, pushes at both ends of a plane and from a flue. -/
theorem witness_PlaneFillsShiftAndPush :
    let s := mats
    let units := (List.range (ceilDiv (imageBytes (shapeOf 0) (fmtB 0 0).isMx) 64)).map ((4194304 - 16384) + 64 * ·)
    s.on 3 ∧ (s.core.readA 1).reach 0 (imageBytes (shapeOf 0) (fmtB 0 0).isMx) 64 (4194304 - 16384) ∧
    s.core.pad.clash .swz units = none ∧ s.core.pendingRow units = none ∧ s.core.rowMark units = none ∧ s.core.mat.fill = none ∧ s.core.mat.smark = none ∧
    s.xReady 4 ∧ s.xReady 6 ∧ s.tensorReady (s.xSrc 4).toNat recF ∧ s.tensorReady (s.xSrc 6).toNat recM ∧
    (recM.raw && (fmtB 0 0).isMx) = false ∧ recM.ext = [128, 128] ∧ recF.ext = [128, 128] ∧
    signed 32 (s.xSrc 0).toNat = 0 ∧ signed 32 ((s.xSrc 0).toNat / 2 ^ 32) = 0 ∧ (shapeOf 0).depth * (fmtB 0 0).width / 8 = 128 ∧
    (recF.isMx || (fmtB 0 0).isMx) = false ∧ (s.fixed && (8 : Nat) < recF.worst + 64) = false ∧
    (withFill fillA).core.mat.fill = some fillA ∧ (withFill fillA).core.due fillA.hand fillA.land = false ∧
    (s.core.readA 0).int = 0 ∧ (s.core.readA 5).int = 16320 ∧ 16320 + 512 / (fmtB 0 0).width ≤ 128 * (shapeOf 0).depth ∧
    16320 % (shapeOf 0).depth + 64 ≤ (shapeOf 0).depth ∧ s.vReady 24 ∧ (s.core.flueOf 3).q = [landedE 1] ∧
    flueCount ((Fmt.ofCode 8).getD .f32) ((Fmt.ofCode 8).getD .f32) = 16 ∧ (fmtB 0 0).isMx = false := by decide +kernel

/-- BeatsComplete, AccumulatorGroupsAndDrains: the first and the last row, units in registers and in a stream register, the
first and the last cells, a flue with room. -/
theorem witness_beats :
    let s := mats
    let cnt := (shapeOf 0).units + if (fmtA 0 0).isMx then 1 else 0
    s.on 3 ∧ (s.core.readA 0).int = 0 ∧ (s.core.readA 6).int = 127 ∧ 127 < (shapeOf 0).rows ∧ (∀ i < cnt, s.vReady (24 + i)) ∧
    cnt ≤ (s.core.qOf 2).length ∧
    (∀ e ∈ (s.core.qOf 2).take cnt, e.landed = true ∧ e.data.isSome = true ∧ e.mark = none) ∧
    (s.core.readA 7).int = 16368 ∧ 16368 % (512 / (drainFmt 0).width) = 0 ∧ 16368 / 128 < (shapeOf 0).rows ∧
    s.core.flueRoom 3 1 = true := by decide +kernel

/-- Code of eight idle bundles, with the hearth at the third. -/
def codes : State := (world (List.replicate 8 0x80010000)).mapCore fun c => { c with
  seq := { c.seq with pc := 0x108 }, regs := { c.regs with x := c.regs.x ++ [(17, 0xFFFFFFFF), (18, 0x100000000)] } }
def inLoop (piped : Bool) (remain : Nat) : State := codes.mapCore fun c => { c with
  loops := { c.loops with stack := [⟨piped, 0x104, 0x108, remain, 0⟩, ⟨false, 0x100, 0x10C, 1, 0⟩], trip := 1, stg := 1 } }

/-- BranchesTransfer, LoopsOpenAdvanceEnd: no transfer pending and one over its first and second delay bundle, a true and a
false predicate; counts at the ends of their ranges, an empty stack, and loops of both kinds in their last iteration and
before it. -/
theorem witness_control :
    let s := codes
    let pend (l : Nat) : State := s.mapCore fun c => { c with seq := { c.seq with pend := some ⟨0x100, l, 0x100⟩ } }
    s.on 3 ∧ s.core.seq.pend = none ∧ s.core.readP 4 = false ∧ s.core.readP 3 = true ∧ s.core.ctl = none ∧
    (pend 2).core.seq.pend = some ⟨0x100, 2, 0x100⟩ ∧ (pend 1).core.seq.pend = some ⟨0x100, 1, 0x100⟩ ∧
    s.core.code.bundleStart (s.core.seq.pc + 4 * 1) = true ∧ s.core.after ≤ s.core.seq.pc + 4 * 1 ∧ s.core.loops.stack = [] ∧
    (s.core.readX 0).toNat = 0 ∧ (s.core.readX 17).toNat = 2 ^ 32 - 1 ∧ (s.core.readX 18).toNat = 2 ^ 32 ∧
    s.core.loops.stack.length < 6 ∧ s.core.loops.stack.any (·.piped) = false ∧
    (∀ piped, ∀ r ∈ [1, 2], (inLoop piped r).core.loops.stack = [⟨piped, 0x104, 0x108, r, 0⟩, ⟨false, 0x100, 0x10C, 1, 0⟩] ∧
      (inLoop piped r).core.seq.pc = 0x108) ∧
    (let c := (inLoop true 1).core
     c.loops.trip + c.loops.stg - 1 ≤ c.loops.exe + 1 ∧ c.loops.exe + 1 < 2 + c.loops.stg) := by decide +kernel

/-- HaltTrapAndReturn: no report is due, in privileged mode and outside it. -/
theorem witness_HaltTrapAndReturn :
    let p := codes.mapCore fun c => { c with priv := true }
    codes.core.seq.pend = none ∧ codes.on 3 ∧ codes.core.raceDue 0x1F = none ∧ codes.unchecked 0x1F = false ∧ p.core.priv = true ∧ p.core.seq.pend = none ∧
    codes.core.priv = false := by decide +kernel

/-- A launch with FUSEREQ runs: the code of the hearth carries it. -/
def inStreet (mode : Nat) (fused : Bool) : State :=
  { codes.mapCore (fun c => { c with task := { c.task with fuse := true, w0 := 5 }, link := { c.link with fused := fused } }) with
    streets := [(0, { Street.init with mode := mode, memb := 255, launch := 7 }), (1, { Street.init with mode := mode, memb := 1, launch := 7, group := 1 })] }
def pairs : State :=
  { inStreet 0 false with
    others := [(partnerOf 0, { (inStreet 0 false).core with
      task := { (inStreet 0 false).core.task with wid := 16, ord := 16 }, link := { Link.init with paired := true } })] }
/-- A street that is fused stands beside one that never was. -/
def uneven : State := { inStreet 1 false with streets := [(0, { Street.init with mode := 1, memb := 255, launch := 7 }), (1, { Street.init with memb := 1, launch := 7, group := 1 })] }

/-- StreetsPairsAndNops: a street in each MODE, a fused member and one that is not, a square whose streets all allow SQBAR, a
partner that runs, and a pairing without open groups. -/
theorem witness_StreetsPairsAndNops :
    (∀ m ∈ [0, 1, 2], ∀ f, (inStreet m f).core.seq.pend = none ∧ (inStreet m f).core.task.fuse = true ∧ (inStreet m f).unchecked 0x1F = false ∧ (inStreet m f).on 3 ∧
      (inStreet m f).myStreet.mode = m ∧ (inStreet m f).core.link.fused = f ∧ (inStreet m f).core.raceDue 0x1F = none) ∧
    (∀ m ∈ [0, 1, 2], (inStreet m false).squareStreets = [0, 1] ∧
      (let ts := (inStreet m false).squareStreets.map (inStreet m false).streetAt
       (ts.all (fun t => t.mode == 1 || t.mode == 2) || ts.all (fun t => t.mode == 0)) = true)) ∧
    uneven.core.task.fuse = true ∧ (let ts := uneven.squareStreets.map uneven.streetAt
      (ts.all (fun t => t.mode == 1 || t.mode == 2) || ts.all (fun t => t.mode == 0)) = false) ∧
    codes.core.task.fuse = false ∧ (inStreet 0 false).partnerRuns = false ∧
    pairs.partnerRuns = true ∧ pairs.squareFixed (squareOf 0) = pairs.squareFixed (Nat.xor (squareOf 0) 1) ∧
    (let t := pairs.mapCore fun c => { c with link := { c.link with paired := true } }
     t.core.link.paired = true ∧ t.core.mat.grp = 0) := by decide +kernel

/-- Two results due in slots S and A, one that is not. -/
def flyS : Flight := ⟨.s, 0, [.x 5 7], some (1, 7, true), 1, true⟩
def flyA : Flight := ⟨.a, 0, [.aval 2 7], some (2, 7, true), 0, true⟩
def inFlight (l : List Flight) : State := here.mapCore fun c => { c with fly := l }

/-- ResultsAreWrittenBack: writes of each file, to register 0 too, a latch and b0, results due and not due. -/
theorem witness_ResultsAreWrittenBack :
    here.hearthOk here.unit = true ∧ firstDue (inFlight [flyA, flyS, { flyS with left := 3 }]).there.core.fly =
      some (flyS, [flyA, { flyS with left := 3 }]) ∧
    (∀ f ∈ (inFlight [{ flyS with left := 1 }]).there.core.fly, f.left ≠ 0) ∧
    (∀ e ∈ [Eff.x 0 1, .x 95 1, .p 0 true, .m 15 3, .v 1023 4, .aval 0 5], ∀ g ∈ [0, 1], Eff.sys g 0 ∉ [e]) := by decide +kernel

/-- FixedRegisters: a result that goes to register 0 of each file and to a latch. -/
theorem witness_FixedRegisters :
    let f : Flight := { flyS with effs := [.x 0 7, .p 0 false, .m 0 1, .aval 0 5, .astep 0 1, .aring 0 1 2] }
    (∀ e ∈ f.effs, (∃ v, e = .x 0 v) ∨ (∃ b, e = .p 0 b) ∨ (∃ v, e = .m 0 v) ∨ (∃ v, e = .aval 0 v) ∨ (∃ v, e = .astep 0 v) ∨
      ∃ b l, e = .aring 0 b l) ∧ f.latch = some (1, 7, true) := by simp [flyS]

theorem witness_no_sys : ∀ n v, Eff.sys n v ∉ flyS.effs := by simp [flyS]

/-- A window row that is due with its bytes, elements that are due, data on its way to a stream register, a flue and a window. -/
def rowA : WinFill := ⟨0, 0, 9, some [1, 2], 1, none, false, false, []⟩
def landing : State := { (withFill fillB).mapCore (fun c => { c with
    q := [(2, [{ landedE 1 with landed := false }, { landedE 1 with landed := false, land := 700 }])]
    win := [(1, { winA with fills := [rowA] })]
    eng := { c.eng with transit := [⟨.q 2 1 0, [5], 0, none, 0, []⟩, ⟨.flue 3 1 0, [6], 0, none, 0, []⟩, ⟨.win 1 9 0, [7], 2, none, 0, []⟩] } }) with
  unit := 0 }

/-- LandingsAndArrivals: a due fill with all its rows and a due row; data for each kind of record; the next row of a fill from
the scratchpad and of one from a tile. -/
theorem witness_LandingsAndArrivals :
    landing.hearthOk landing.unit = true ∧ landing.there.core.mat.fill = some fillB ∧
    landing.there.core.due fillB.hand fillB.land = true ∧ 128 ≤ fillB.got ∧
    landing.there.core.dueRow = some (1, { winA with fills := [rowA] }, rowA) ∧
    (landing.there.core.eng.transit.map (·.dest)) = [.q 2 1 0, .flue 3 1 0, .win 1 9 0] ∧
    (∀ x ∈ landing.there.core.eng.transit, landing.there.portClear x.port = true) ∧ (withFill fillA).there.portClear fillA.port = true ∧
    (withFill fillA).there.core.mat.fill = some fillA ∧ fillA.got < 128 ∧ (withFill fillA).there.core.eng.transit.length = 0 ∧
    (withFill { fillA with src := .tile 0x201 0 0 0, got := 127 }).there.fillReady = true := by decide +kernel

/-- A prefetch in the queue that has not been performed, and one that is complete. -/
def opA : CopyOp := ⟨60, 60, .tpref 0x201 0 64, 0, 0, 0, 0, 7, 0, 1, [], false, false, 0, 0, none⟩
def queued (o : CopyOp) (k : Stuck) : State := here.mapCore fun c => { c with stuck := k, eng := { c.eng with cp := [o], cl := [o] } }

/-- CopyEngineRuns: an operation that may be performed and one that is complete, in both queues; a hearth that stands for want
of room in each queue. -/
theorem witness_CopyEngineRuns :
    let s := queued opA .no
    let t := queued { opA with performed := true } .no
    s.hearthOk s.unit = true ∧ nextOp s.there.core.eng.cp = some opA ∧ nextOp s.there.core.eng.cl = some opA ∧
    s.there.opReady opA = true ∧ t.there.core.eng.cp.find? (fun o => o.complete t.there.core) = some { opA with performed := true } ∧
    t.there.core.eng.cl.find? (fun o => o.complete t.there.core) = some { opA with performed := true } ∧
    (∀ k ∈ [Stuck.cp, .cl, .sync], (queued opA k).there.core.stuck = k ∧ (queued opA k).there.core.eng.cp.length < 32 ∧
      (queued opA k).there.core.eng.cl.length < 32 ∧
      ((queued opA k).there.reqs.filter fun r => r.hearth == (queued opA k).there.coreId).length < 32) := by decide +kernel
/-- A performed TCOPY with a signal of each kind, where named task 3 is defined and mailbox 3 bound, with room. -/
def opS (kind : Nat) : CopyOp := { opA with kind := .copy { CopyDesc.of toPad 0 0 [] with sigKind := kind, sigId := 3 }, performed := true }
theorem witness_copy_signals :
    let s (k : Nat) : State := (queued (opS k) .no).mapDie 0 fun d =>
      { d with named := [(3, { Named.init with defn := some ⟨1, 2, 0, 5, 1, 0x300, 0x202⟩, count := 2 })]
               boxes := [(3, ⟨some (1, 0x300, 0x202, 1), List.replicate 15 (4, []), [], false, false⟩)] }
    ∀ k ∈ [1, 2], (s k).hearthOk (s k).unit = true ∧ (s k).there.core.eng.cp.find? (fun o => o.complete (s k).there.core) = some (opS k) ∧
      ((s k).there.namedAt 0 3).defn ≠ none ∧ ((s k).there.boxAt 0 3).bound ≠ none ∧ ((s k).there.boxAt 0 3).queue.length < 16 ∧
      ((s k).there.boxAt 0 3).waiting = [] ∧ (s k).there.die = 0 ∧ (((s k).there.dieAt 0).flawAt (3, 3, 0)).kind ≠ 1 ∧
      (((s k).there.dieAt 0).flawAt (2, 3, 0)).kind ≠ 1 := by decide +kernel

/-- A request of the task to word 3 of die 0. -/
def reqA (op : Nat) : SyncReq :=
  ⟨70, 0, op, 3, 5, 6, false, 0, 0, 0, some 2, 9, ⟨7, 0, 0, false, 0, 0⟩, 1, 0, [], true, false, 0, 0, [], false⟩
def asked (r : SyncReq) (w : Wait) : State := { here.mapCore (fun c => { c with wait := w, cycle := 90 }) with reqs := [r] }
def armedWait (r : SyncReq) (cancelling : Bool) : State :=
  (asked r (.waita 70 9 10 20 false cancelling)).mapDie 0 fun d => { d with monitors := [⟨70, 3, 6⟩] }

/-- WaitsEndAndCancel: each wait of a fence that is over, a timeout that has passed, a cancellation of a monitor that fired and
of one that did not. -/
theorem witness_WaitsEndAndCancel :
    let ended (w : Wait) : Prop := (asked (reqA 0x20) w).hearthOk 0 = true ∧ (asked (reqA 0x20) w).there.waitOver = true ∧
      (asked (reqA 0x20) w).there.core.wait = w ∧ (asked (reqA 0x20) w).there.core.ctl = none
    ended (.fence [] [] 0 0 true true 3 none none) ∧ ended (.fence [] [] 0 0 false true 0 (some 70) none) ∧
    ended (.fence [] [] 3 0 false false 0 none (some .sbar)) ∧ ended (.acquire 71 0 true) ∧
    ((asked (reqA 0x20) (.fence [] [] 0 0 false true 0 (some 70) none)).there.squareFence 0 false true).reqs.find?
      (fun r => r.id == 70) = some (reqA 0x20) ∧
    (let s := armedWait (reqA 0x2B) false
     s.hearthOk s.unit = true ∧ s.there.core.wait = .waita 70 9 10 20 false false ∧ 20 ≤ s.there.core.now - 10 ∧
       (s.there.reqs.any fun r => r.id == 70 && r.done) = false) ∧
    (let s := armedWait (reqA 0x2B) true
     s.there.core.wait = .waita 70 9 10 20 false true ∧ s.there.reqs.find? (fun r => r.id == 70) = some (reqA 0x2B) ∧
       (reqA 0x2B).done = false ∧ s.there.armed (reqA 0x2B) = true) ∧
    (asked (reqA 0x20) (.fence [] [] 0 0 false true 5 (some 70) none)).there.core.ctl = none ∧
    (let s := armedWait { reqA 0x2B with done := true } true
     s.there.reqs.find? (fun r => r.id == 70) = some { reqA 0x2B with done := true }) := by decide +kernel

/-- Hearths 0 and 1 are the members of street 0; they arrived at one operation in the cycles 3 and 4, and it is cycle 6. -/
def street2 (k : Ctl) : State :=
  let on (c : Core) : Core := { c with wait := .line k, clk := 6 }
  { (inStreet 2 false).mapCore on with
    others := [(1, on { (inStreet 2 false).core with task := { (inStreet 2 false).core.task with wid := 1, ord := 1 } })]
    streets := [(0, { Street.init with mode := 2, memb := 3, launch := 7, arrived := [(0, 0x108, k, 3), (1, 0x108, k, 4)] })]
    squares := [(0, { Square.init with sqbar := [(0, 3), (1, 4)] })] }
/-- Partners at PAIR on. -/
def atPair : State :=
  let on (c : Core) (n : Nat) : Core := { c with wait := .pairLine n, clk := 6 }
  { pairs.mapCore (fun c => on c 3) with others := pairs.others.map fun e => (e.1, on e.2 4) }
def launchA : Launch :=
  ⟨7, 1, 0, .slot ⟨0, 2⟩ 0 5, 0, 0, Code.empty, [1, 2], 0, [0], [1], 1, 1, 0, 2, 1, false, 0, 0, 0, 0, [], none, none⟩

/-- LinesMeetAndTasksEnd: two members at FUSE, at REJOIN and at SBAR, a square group at SQBAR, partners at PAIR on, a halted
task with its launch. -/
theorem witness_LinesMeetAndTasksEnd :
    let h := { here.mapCore (fun c => { c with wait := .halting }) with launches := [launchA] }
    (∀ k ∈ [Ctl.fuse 4, .rejoin, .sbar],
      let s := (street2 k).there
      (street2 k).hearthOk (street2 k).unit = true ∧ 0 ∈ s.members (streetOf s.coreId) ∧ s.lineOver (streetOf s.coreId) = true ∧
      ∀ g ∈ s.members (streetOf s.coreId),
        (s.streetAt (streetOf s.coreId)).arrived.find? (fun a => a.1 == g % 8) = some (g % 8, 0x108, k, 3 + g)) ∧
    (let s := (street2 .sqbar).there
     s.coreId ∈ s.squareStreets.flatMap s.members ∧ s.squareOver = true) ∧
    atPair.hearthOk atPair.unit = true ∧ atPair.there.pairOver = true ∧
    h.there.core.wait = .halting ∧ h.there.core.fly = [] ∧ h.there.core.priv = false ∧
    launchA ∈ h.there.launches ∧ launchA.id = h.there.core.task.launch := by decide +kernel

/-- A deque of die 0 with its bottom `n` entries above its top. -/
def withDeque (n : Nat) : State := here.mapDie 0 fun d => { d with deques := [(3, ⟨[(0, (8, []))], 0xFFFFFFFF, 0xFFFFFFFF + BitVec.ofNat 32 n⟩)] }

/-- RequestsPerformAndReturn: a word that is not poisoned, a deque that is empty, holds one entry and is full, a request that
may be performed and one whose answer is there, with and without a WAITA. -/
theorem witness_RequestsPerformAndReturn :
    (here.wordAt 0 3).flaw.kind ≠ 1 ∧
    (∀ n ∈ [0, 1, 256], (((withDeque n).dequeAt 0 3).bottom - ((withDeque n).dequeAt 0 3).top).toNat = n) ∧
    (∀ k < 257, (((withDeque 1).dieAt 0).flawAt (1, 3, k)).kind ≠ 1) ∧
    (let s := asked (reqA 0x20) .none
     s.diePresent s.unit = true ∧ s.reqs.find? (fun r => r.id == 70 && syncDie r.addr == s.unit) = some (reqA 0x20) ∧
       s.canPerform (reqA 0x20) = true) ∧
    (let r := { reqA 0x20 with done := true }
     let s := asked r .none
     s.hearthOk s.unit = true ∧ s.there.reqs.find? (fun r => r.id == 70 && r.hearth == s.there.coreId && r.done) = some r ∧
       s.there.ownReq r = true ∧ s.there.core.wait = .none ∧ isAcquire r.order = false) ∧
    (let r := { reqA 0x2B with done := true }
     let s := asked r (.waita 70 9 10 20 false false)
     s.there.reqs.find? (fun r => r.id == 70 && r.hearth == s.there.coreId && r.done) = some r ∧ s.there.ownReq r = true ∧
       s.there.core.wait = .waita 70 9 10 20 false false) := by decide +kernel

/-- A kernel image: the header of R86 with the native LATTAB and the SHA-256 of the whole, and a bundle of HALT with idle
ones after it. -/
def kernelBytes : List Byte :=
  toBytes 16 (0x4B4E4854 + 1 * 2 ^ 32 + 0x100 * 2 ^ 48 + 0x100 * 2 ^ 64 + 64 * 2 ^ 96) ++ toBytes 16 0x100 ++ toBytes 32 65536 ++
    [1, 3, 18, 1, 4, 2, 4, 8, 3, 6, 6, 3, 10, 8, 2, 0] ++ toBytes 32 0 ++
    (toBytes 32 0xa4a046b7f1be091c9a597c5edc25a7a015f0b8df066740cb1b4fd52cbc71f79f).reverse ++ toBytes 112 0 ++
    ((0xC0010000 :: 0x002C0000 :: List.replicate 14 0x80010000).flatMap (toBytes 4))
def recK : Rec :=
  { TDecl_record ⟨0, true, 0, 0, 0, 3, 0x300, 320, 0, 0, 0⟩ 1 0 with mem := Memory.writeN [] 0 kernelBytes, pages := [(2, 1)] }

/-- A launch with a ready task, and the image of a pre-empted task of the same launch. -/
def ready (s : State) : State := { s with launches := [launchA] }
def readyA : Ready := ⟨{ core0 [] with mode := .saved, task := ⟨7, 1, 0, 1, 1, 1, 0, false, 0⟩ }, Street.init, 0, 1, false⟩
/-- Only the busy hearth 0 lies in the partition. -/
def narrow (s : State) : State := s.mapCtx 1 fun c => { c with masks := [(0, 1)] }

/-- TasksArePlaced: a ready task with a free hearth, one without that has asked and one that has not, an image that returns. -/
theorem witness_TasksArePlaced :
    let s := ready here
    let n := narrow (ready here)
    let b : State := { here with launches := [{ launchA with next := 2 }], ready := [readyA] }
    let a : State := { n with launches := [{ launchA with asked := true }] }
    s.diePresent s.unit = true ∧ s.nextCand s.unit = some (.fresh launchA, launchA, 0) ∧ launchA.code.fuseReq = false ∧
    s.shapeFor launchA 0 [] = some [1] ∧ n.nextCand n.unit = some (.fresh launchA, launchA, 0) ∧ n.shapeFor launchA 0 [] = none ∧
    a.nextCand a.unit = some (.fresh { launchA with asked := true }, { launchA with asked := true }, 0) ∧
    a.shapeFor { launchA with asked := true } 0 [] = none ∧
    b.nextCand b.unit = some (.back readyA, { launchA with next := 2 }, 0) ∧ b.shapeOf { launchA with next := 2 } (.back readyA) 0 [] = some [1] ∧
    b.groupImages { launchA with next := 2 } readyA = [readyA] := by decide +kernel

/-- A hearth on its way out: at a boundary, or a follower with an open group whose leader has landed. -/
def leaving (m : Mode) : State := { here.mapCore (fun c => { c with mode := m, seq := { c.seq with edge := true }, regs := { c.regs with latch := [] } }) with launches := [launchA] }
def follower : State :=
  { (leaving .preempting).mapCore (fun c => { c with link := { c.link with fused := true }, mat := { c.mat with count := [(0, 3)] } }) with
    streets := [(0, { Street.init with mode := 1, memb := 3, leader := 1 })], others := [(1, { (leaving .landed).core with link := { Link.init with fused := true } })] }
def swapping (s : State) : State := s.mapCtx 1 fun c => { c with newMask := [(0, some 2)] }

/-- PreemptionSavesAndSwaps: a landing at a boundary, of a follower with an open group, and none; images written with and without
a swap under way, and a swap of a partition whose images are all written. -/
theorem witness_PreemptionSavesAndSwaps :
    (leaving .running).hearthOk 0 = true ∧ 0 ∈ (leaving .running).there.withGroup 0 ∧ 1 ∉ (leaving .running).there.withGroup 0 ∧
    ((leaving .running).there.coreAt 0).mode = .running ∧
    (leaving .preempting).there.canLand = true ∧ (leaving .preempting).there.core.mat.grp = 0 ∧
    follower.there.canLand = true ∧ follower.there.core.mat.grp ≠ 0 ∧ (leaving .running).there.canLand = false ∧
    (leaving .landed).there.core.mode = .landed ∧ (leaving .landed).there.core.delivered = true ∧ (leaving .landed).there.allLanded = true ∧
    0 ∈ follower.there.fusedWith follower.there.coreId ∧ (follower.there.coreAt 1).mode = .landed ∧ 1 ∈ follower.there.fusedWith 0 ∧
    (∀ s ∈ [leaving .landed, swapping (leaving .landed)], (s.there.myCtx.map fun c => (Store.get none c.newMask s.there.die).isSome) =
      some (decide (s = swapping (leaving .landed)))) ∧
    (let s := swapping (leaving .saved)
     s.diePresent s.unit = true ∧ ((s.ctx? 1).map fun c => Store.get none c.newMask s.unit) = some (some 2) ∧
       s.allSaved 1 s.unit = true ∧ s.shadow = [] ∧ 0 / 64 = s.unit ∧ (bit (Store.get 0 ctxA.masks s.unit) (0 % 64) || bit 2 (0 % 64)) = true ∧
       (s.coreAt 0).mode = .saved ∧ (s.coreAt 0).task.ctx = 1) := by decide +kernel

/-- A launch that has ended, at unit 7; a mailbox with a message and one that waits; a stream whose slot the launch holds. -/
def doneL (dst : Report) (nfail : Nat) : Launch := { launchA with dst := dst, next := 2, ended := 2, nfail := nfail }
def ended (l : Launch) : State :=
  { (here.mapDie 0 fun d => { d with streams := [(2, some { strm with slots := [(5, ⟨0xFF, 0, 0, 0, 7⟩)] })] }).mapCore
      (fun c => { c with mode := .free }) with launches := [l], unit := 7 }
def boxes (waiting : List (Nat × W64 × List Tag)) (queue : List (W64 × List Tag)) : State :=
  { here.mapDie 0 fun d => { d with boxes := [(3, ⟨some (1, 0x300, 0x202, 1), queue, waiting, false, false⟩)] } with recs := here.recs ++ [recK] }

/-- LaunchesAndMailboxes: ended launches of a stream, a handler and a recipe; a post that waits at a mailbox with room for one
more; a message for an idle bound mailbox. -/
theorem witness_LaunchesAndMailboxes :
    (∀ l ∈ [doneL (.slot ⟨0, 2⟩ 0 5) 0, doneL (.handler 3) 0, doneL (.recipe 0x201) 0, doneL (.recipe 0x201) 1],
      (ended l).launch? (ended l).unit = some l ∧ (ended l).launchDone l = true ∧
      ((ended l).streamAt ⟨0, 2⟩).map (fun x => (Store.get LaunchSlot.empty x.slots 5).launch) = some l.id ∧
      (ended l).recAt l.ctx 0x201 = some recF) := by decide +kernel
theorem witness_mailboxes :
    (let s := boxes [(70, 5, [])] (List.replicate 15 (4, []))
     s.diePresent s.unit = true ∧ (s.boxAt s.unit 3).waiting = [(70, 5, [])] ∧ (s.boxAt s.unit 3).queue.length < 16) ∧
    (let s := boxes [] [(4, [])]
     let z := s.putBox 0 3 { s.boxAt 0 3 with queue := [], busy := true }
     (s.boxAt s.unit 3).bound = some (1, 0x300, 0x202, 1) ∧ (s.boxAt s.unit 3).busy = false ∧ (s.boxAt s.unit 3).closing = false ∧ s.awaits 1 0x300 0x202 = [] ∧ (s.boxAt s.unit 3).queue = [(4, [])] ∧
       ((z.readAsk ⟨1, 0, 0x300, 0x202, 1, .handler 3, 0, 0, some ((4 : W64).toNat, 3), []⟩).checkAsk
         ⟨1, 0, 0x300, 0x202, 1, .handler 3, 0, 0, some ((4 : W64).toNat, 3), []⟩).2.isSome = true) := by
  (repeat' apply And.intro) <;> decide +kernel

/-- A stream at PHASE with nothing left to do; a phase that is to be rolled back. -/
def atPhase : State := { (here.mapDie 0 fun d => { d with streams := [(2, some { strm with run := .atPhase })] }) with unit := 1 }
def rolling : State := { here.mapCtx 1 (fun c => { c with rollback := true }) with unit := 1 }
def rollingBusy : State := { rolling with reqs := [reqA 0x20] }

/-- PhasesCommitAndRollBack: a context that may commit and one that may not; a rollback that is due, with requests of the
context still out and without. -/
theorem witness_PhasesCommitAndRollBack :
    let c : Context := { ctxA with rollback := true }
    atPhase.ctx? atPhase.unit = some ctxA ∧ atPhase.canCommit atPhase.unit = true ∧
    ({ here with unit := 1 } : State).canCommit 1 = false ∧ ctxA.rollback = false ∧
    rolling.ctx? rolling.unit = some c ∧ (rolling.endTasks 1).ctxBusy 1 = false ∧
    ((rolling.endTasks 1).scans.any fun j => j.ctx == 1) = false ∧ c.lost = false ∧ c.dirtyOut = [] ∧ c.egressGone = [] ∧ atPhase.heldReady atPhase.unit = true ∧
    rollingBusy.ctx? rollingBusy.unit = some c := by decide +kernel

/-- A stream tensor that holds one OPLAUNCH record. -/
def recO : Rec := { TDecl_record ⟨0, true, 0, 0, 0, 3, 0x206, 64, 0, 0, 0⟩ 1 0 with mem := Memory.writeN [] 0 (toBytes 12 (1 + 0x202 * 2 ^ 32 + 0x202 * 2 ^ 64)) }

/-- TensorsMadeResident: no record, a resident one, a failed one, a spilled one with and without room in its tier, dropped ones
without a recipe and with one. -/
theorem witness_TensorsMadeResident :
    let failed : Rec := { recS with rfail := true }
    let full : State := here.mapCtx 1 fun c => { c with res := { c.res with poolq := [0, 0, 0, 0], hbmq := [0, 0, 0, 0] } }
    let p : Recipe := ⟨0x206, 0, 1, 1, [0x201], [0x202, 0x202]⟩
    let d : Rec := { recD with recipe := some p, rcp := true }
    let s : State := { here with recs := recO :: here.recs.map fun r => if r.handle = 0x204 then d else r }
    here.recAt 1 0x299 = none ∧ here.recAt 1 0x201 = some recF ∧ recF.away = false ∧ recS.away = true ∧ failed.away = true ∧
    failed.rfail = true ∧ here.recAt 1 0x203 = some recS ∧ recS.rfail = false ∧ recS.rebuild = 0 ∧ recS.tier = .lpddr ∧
    (here.placeIn 1 0x203 recS.home (recS.place == 0) recS.footprint recS.footprint).1 = some [(1, 1)] ∧ full.recAt 1 0x203 = some recS ∧
    (full.placeIn 1 0x203 recS.home (recS.place == 0) recS.footprint recS.footprint).1 = none ∧
    here.recAt 1 0x204 = some recD ∧ recD.away = true ∧ recD.tier ≠ .lpddr ∧ recD.recipe = none ∧
    s.recAt 1 0x204 = some d ∧ d.away = true ∧ d.rfail = false ∧ d.rebuild = 0 ∧ d.recipe = some p ∧
    (∀ i ∈ p.inputs ++ [p.stream] ++ s.recipeRefs 1 p, (s.recAt 1 i).map (fun q => q.away) = some false) := by decide +kernel

/-- A read at the port of stack 0 that has no tag, one that has, one that is answered, and a write; every tag taken. -/
def hbmR (op : Nat) (tag : Option Nat) (reply : Option (Nat × V512 × BitVec 16)) : HbmReq := ⟨80, op, 0, 3, 4, 6, 0, Flaw.clean, tag, reply⟩
def atPort (l : List HbmReq) : State := { here with hbmStacks := [(0, { Stack.init with queue := l })] }

/-- HbmPortAndScans: a head with a free tag and one without, a read and a write to perform, an answer to return; a scan whose
result is resident and one whose result must be made so. -/
theorem witness_HbmPortAndScans :
    let o : Scan := ⟨0, 0, false, false, 8, 0x201, 0x202, 0, 0, 4, 4⟩
    let j (res : Nat) : ScanJob := ⟨90, 0, 1, { o with res := res }⟩
    let sc (res : Nat) : State := { here with scans := [j res], unit := 90 }
    let full := (List.range 300).map fun i => { hbmR 0 (some i) none with id := 1000 + i }
    (let s := atPort [hbmR 0 none none]
     s.diePresent (s.unit / 2) = true ∧ (s.stackAt 0).queue.find? (fun r => r.tag.isNone) = some (hbmR 0 none none) ∧
       (s.stackAt 0).freeTags 0 ≠ []) ∧
    (let s := atPort (full ++ [hbmR 0 none none])
     (s.stackAt 0).queue.find? (fun r => r.tag.isNone) = some (hbmR 0 none none) ∧ (s.stackAt 0).freeTags 0 = []) ∧
    (hbmR 1 (some 5) none).flaw = Flaw.clean ∧
    (∀ op ∈ [0, 1], let s := atPort [hbmR op (some 5) none]
      (s.stackAt 0).queue.find? (fun r => r.id == 80) = some (hbmR op (some 5) none) ∧
        (((s.stackAt 0).queue.takeWhile fun e => e.id != 80).any fun e => e.gran == 4 && e.reply.isNone) = false) ∧
    (let s := atPort [hbmR 0 (some 5) (some (0, 7, 9))]
     (s.stackAt 0).queue.find? (fun r => r.id == 80) = some (hbmR 0 (some 5) (some (0, 7, 9)))) ∧
    (∀ res ∈ [0x202, 0x203], (sc res).scans.find? (fun j => j.id == (sc res).unit) = some (j res) ∧
      (sc res).recAt 1 0x201 = some recF ∧ (sc res).dependent 1 res = none) ∧
    here.recAt 1 0x202 = some recR ∧ recR.moving = false ∧ recR.away = false ∧ here.recAt 1 0x203 = some recS ∧
    recS.away = true ∧ recS.rfail = false ∧ (sc 0x202).scanMarks (j 0x202).o recF = [] ∧ (sc 0x202).scanBehind (j 0x202) = false := by decide +kernel

/-! Records, commands, the host and the fabric -/

/-- The stream of the witnesses, and states with its fields, a named task and a mailbox changed. -/
def st : StreamId := ⟨0, 2⟩
def withStream (x : Stream) (s : State) : State := s.mapDie 0 fun d => { d with streams := [(2, some x)] }
def slotted (n status : Nat) : State := withStream { strm with slots := [(n, ⟨status, 0, 0, 0, 7⟩)] } here

/-- The tensor of a kernel that has failed, one that is spilled, and one that waits for its recipe's launch. -/
def reached (r : Rec) : Attempt := ((({ here with recs := here.recs.filter (·.handle != r.handle) ++ [r] } : State).taken st strm).reachAll 1 [r.handle, 0x202]).1
def lostA : Rec := { recD with rebuild := 1, moving := true, recipe := some ⟨0x206, 0, 1, 1, [], []⟩ }

/-- LaunchRecordsExecute: a stream that takes its record; each outcome of the signal check; slots that are busy, empty, complete
and failed; a result tensor; mailboxes unbound, busy and idle; handles with a live record and without. -/
theorem witness_LaunchRecordsExecute :
    here.takes st strm ctxA ∧ here.takes st { strm with run := .running } ctxA ∧ (withStream { strm with run := .waiting } here).takes st { strm with run := .waiting } ctxA ∧
    ctxA.sigFault 0 0 0 = none ∧ ctxA.sigFault 0 1 3 = none ∧ ctxA.sigFault 0 3 0 = some 0x02 ∧ ctxA.sigFault 0 2 4 = some 0x03 := by
  decide +kernel
theorem witness_launch_slots :
    (here.taken st strm).slotBusy st 0 5 = false ∧ ((slotted 5 0xFF).taken st { strm with slots := [(5, ⟨0xFF, 0, 0, 0, 7⟩)] }).slotBusy st 0 5 = true ∧ (slotted 5 0xFF).takes st
      { strm with slots := [(5, ⟨0xFF, 0, 0, 0, 7⟩)] } ctxA ∧
    ctxA.allocated 0 3 3 = true ∧ ctxA.allocated 0 3 4 = false ∧ bit 0x20 5 = true ∧
    (∀ i < 16, bit 0 i = false) ∧ (∀ i < 16, bit 0x20 i = true → i = 5) ∧ reached recS = .ok ∧
    reached { recD with rfail := true } = .fail ∧ reached lostA = .pending := by
  decide +kernel
theorem witness_launch_handles :
    (here.taken st strm).liveRec 1 0x202 = some recR ∧ 256 ≤ recR.bytes ∧ (here.taken st strm).recAt 1 0x202 = some recR ∧ recR.away = false ∧
    (here.taken st strm).dependent 1 0x202 = none ∧ ctxA.allocated 0 2 3 = true ∧
    ((here.taken st strm).boxAt 0 3).bound = none ∧ (((boxes [] []).taken st strm).boxAt 0 3).bound.isSome = true ∧
    (((boxes [] []).taken st strm).boxAt 0 3).busy = false ∧
    ((((boxes [] []).putBox 0 3 { (boxes [] []).boxAt 0 3 with busy := true }).taken st strm).boxAt 0 3).busy = true ∧
    (here.taken st strm).liveRec 1 0x299 = none := by decide +kernel

def withRec (r : Rec) : State := { here with recs := here.recs.filter (·.handle != r.handle) ++ [r] }
def pinned : Rec := { recF with pins := 1 }
/-- No page is free and no tensor of HBM can move. -/
def full : State := (withRec pinned).mapCtx 1 fun c => { c with res := Residency_init }

/-- ResidencyRecordsExecute: declarations that are bad, have no key, a handle in use, room and none; uses of live and of unknown
tensors; a recipe of one launch; releases and pins of tensors at rest, running and pinned, in their tier, without room and
while they are rebuilt; a query. -/
theorem witness_ResidencyRecordsExecute :
    let z := here.taken st strm
    let d (key h : Nat) : TDecl := ⟨8, false, 0, 0, 1, key, h, 16, 0, 0, 0⟩
    let keyOk (n : Nat) : Bool := (Store.get KeySlot.empty z.keys n).valid && (Store.get KeySlot.empty z.keys n).owner == 1 && n != 0
    TDecl_bad (d 3 0) true = true ∧ TDecl_bad (d 3 0x299) (z.diePresent 0) = false ∧ keyOk 4 = false ∧ keyOk 3 = true ∧
    (z.recAt 1 0x201).isSome = true ∧ z.recAt 1 0x299 = none ∧ (let n := (TDecl_record (d 3 0x299) 1 1).fullFootprint
     (z.placeIn 1 0x299 0 false n n).1 = some [(16, 1)] ∧ ((full.taken st strm).placeIn 1 0x299 0 false n n).1 = none) := by
  decide +kernel
theorem witness_uses_and_recipes :
    let z := here.taken st strm
    (∀ u ∈ [(0x201, 5), (0x203, 4095)], u.1 ≠ 0 ∧ (z.liveRec 1 u.1).isSome = true) ∧ z.liveRec 1 0x299 = none ∧
    (let y := (withRec recO).taken st strm
     y.liveRec 1 0x206 = some recO ∧ (y.liveRec 1 0x204).isSome = true ∧ 0 + 32 * (0 + 1) ≤ recO.bytes ∧
       decodeRecord st ((List.range 8).map fun j => recO.word (0 + 32 * 0 + 4 * j) 4) = some (.oplaunch st ⟨0, 0, 0, 0, 0x202, 0x202⟩) ∧
       (y.liveRec 1 0x202).isSome = true) := by decide +kernel
def used : Rec := { recF with users := 1 }
theorem witness_releases :
    let z := here.taken st strm
    z.liveRec 1 0x201 = some recF ∧ recF.pins = 0 ∧ recF.running = false ∧ recF.moving = false ∧ used.running = true ∧ used.pins = 0 ∧
    ((withRec used).taken st strm).liveRec 1 0x201 = some used ∧ ((withRec pinned).taken st strm).liveRec 1 0x201 = some pinned ∧ pinned.pins ≠ 0 ∧
    recF.rfail = false ∧ recF.away = false ∧ recF.packed = 0 ∧ ((2 : Nat) == 1) = recF.inPool ∧ recF.inPool = !recF.inHbm := by
  decide +kernel
theorem witness_pins_and_queries :
    let z := here.taken st strm
    let lost : Rec := { recD with rebuild := 1, moving := true, recipe := some ⟨0x206, 0, 1, 1, [], []⟩ }
    (z.intoTier 1 0x202 true).1 = .ok ∧ (z.intoTier 1 0x202 false).1 = .ok ∧ ((full.taken st strm).intoTier 1 0x202 false).1 = .fail ∧
    (((withRec lost).taken st strm).intoTier 1 0x204 true).1 = .pending ∧ lost.pins = 0 ∧ lost.rfail = false ∧
    z.liveRec 1 0x202 = some recR ∧ 64 ≤ recR.bytes ∧ z.dependent 1 0x202 = none := by decide +kernel

def withWindow (w : Window) (s : State) : State := { s with fabric := { s.fabric with windows := [(7, w)] } }
def winB (state : Nat) (rv : Option StreamId) : Window := ⟨state, 3, 1, 0, 0, 8, 0x201, rv⟩

/-- StreamsScansAndWindows: records at the end of a stream and before it; scans that are bad, of a tensor in HBM, one to be moved
there, one without room and one being rebuilt; exports with and without an owner, at a free and a taken window; revocations. -/
theorem witness_StreamsScansAndWindows :
    let z := here.taken st strm
    let o (src fmt : Nat) : Scan := ⟨0, 0, false, false, fmt, src, 0x202, 0, 0, 16, 4⟩
    let recP : Rec := { recF with place := 0, tier := .pool }
    let lost : Rec := { recF with tier := .dropped, rebuild := 1, moving := true }
    let c : Context := { ctxA with owner := some 0 }
    here.streamAt st = some strm ∧ strm.off + 32 < strm.stop_ ∧
    ((withStream { strm with off := 32 } here).streamAt st).map (fun x => x.stop_) = some 64 ∧ here.ctx? 1 = some ctxA ∧
    here.takes st strm ctxA ∧ Scan_bad (o 0 8) = true ∧ Scan_bad (o 0x201 8) = false ∧ ctxA.sigFault 0 0 0 = none ∧
    z.liveRec 1 0x201 = some recF ∧ z.liveRec 1 0x202 = some recR ∧ recF.fmt = 8 ∧ recF.raw = false ∧ 0 + 16 ≤ recF.elems ∧
    64 + 8 * 4 ≤ recR.bytes ∧ z.recAt 1 0x201 = some recF ∧ recF.tier = .hbm ∧ recF.packed = 0 ∧
    ((withRec recP).taken st strm).liveRec 1 0x201 = some recP ∧ recP.pins = 0 ∧ (((withRec recP).taken st strm).intoTier 1 0x201 false).1 = .ok ∧
    ((((withRec recP).mapCtx 1 fun c => { c with res := Residency_init }).taken st strm).intoTier 1 0x201 false).1 = .fail ∧
    (((withRec lost).taken st strm).intoTier 1 0x201 false).1 = .pending ∧ ((withRec lost).taken st strm).liveRec 1 0x201 = some lost ∧
    0 + 1024 ≤ ceilDiv recF.bytes 64 ∧ recF.pins ≠ 255 ∧ ctxA.owner = none ∧ recF.place ≠ 0 ∧
    (withPort here).takes st strm c ∧ c.owner.isSome = true ∧ (((withPort here).taken st strm).windowAt 7).state = 0 ∧
    ((withWindow (winB 1 none) (withPort here)).windowAt 7).state ≠ 0 ∧
    (∀ x ∈ [(3, some st), (1, none), (2, none)],
      (withWindow (winB x.1 x.2) here).takes st strm ctxA ∧ ((withWindow (winB x.1 x.2) here).windowAt 7) = winB x.1 x.2 ∧
        (winB x.1 x.2).ctx = 1) := by decide +kernel

def pkt : Packet := ⟨0, 0, 0, 0x1000, [], false⟩
def pktB : Packet := { pkt with bufs := [⟨0x2000, 4096, 3⟩] }
/-- No task is on the device. -/
def idle : State := { here.mapCore (fun _ => Core.init) with dies := [(0, { Die.init with poolWays := 12 })] }

/-- CommandsComplete, ContextCommandsPerform: packets in order and out of order; identifiers at the ends of their range, in use
and free, with slots left; a context with a stream and without; partitions with a resident task and without; streams to admit,
to stop at once and to stop at their record. -/
theorem witness_ContextCommandsPerform :
    let create : Instr := .contextCreate pkt 2
    let adm : StreamAdmit := ⟨1, 0, 0x202, 64, 4032, 3⟩
    let run16 : State := here.mapDie 0 fun d => { d with streams := (List.range 16).map fun i => (i, some strm) }
    here.serves create pkt ∧ here.stoppedAt pkt = false ∧
    ({ here with host := { here.host with stopped := [queueKey 0 0] } } : State).stoppedAt pkt = true ∧ here.queueAhead create pkt = false ∧ ({ pkt with bad := true } : Packet).bad = true ∧
    Packet_bufsOk { pkt with caddr := 4 } = false ∧ Packet_bufsOk pktB = true ∧ State.reset.host.state ≠ 4 ∧
    ¬(1 ≤ 0 ∧ 0 < 4096) ∧ ¬(1 ≤ 4096 ∧ 4096 < 4096) ∧ (1 ≤ 4095 ∧ 4095 < 4096) ∧ ((here.flushed pkt).ctx? 1).isSome = true ∧
    (here.flushed pkt).ctx? 2 = none ∧ (1 < 256 ∧ ∀ c ∈ (here.flushed pkt).contexts, c.slot ≠ 1) ∧
    (here.flushed pkt).ctx? 1 = some ctxA ∧ (here.flushed pkt).streamsOf 1 ≠ [] ∧ (idle.flushed pkt).streamsOf 1 = [] ∧
    Residency_ok ctxA.res = true ∧ (∀ m ∈ [0, 1], (idle.flushed pkt).modeClear 1 0 255 (bit m 0) = true) ∧
    wholeSquares 0xFFFF = true ∧ ctxA.newMask = [] ∧ Store.get 0 ctxA.masks 0 ≠ 15 ∧ here.diePresent 0 = true ∧
    here.maskOk 0 15 = true ∧ here.modeClear 1 0 15 false = true ∧ here.maskTaken 1 0 15 = false ∧ [0, 0, 0].length = 3 ∧
    ctxA.fixed = false ∧ ((here.setPartition 1 0 15).ctx? 1).map (fun x => (Store.get none x.newMask 0).isSome) = some true ∧
    ((idle.setPartition 1 0 15).ctx? 1).map (fun x => Store.get none x.newMask 0) = some none ∧
    ((dieHearths 0).filter fun h => (here.coreAt h).mode != .free && (here.coreAt h).task.ctx == 1) = [0] ∧
    ((dieHearths 0).filter fun h => (idle.coreAt h).mode != .free && (idle.coreAt h).task.ctx == 1) = [] ∧
    here.liveRec 1 adm.handle = some recR ∧ recR.raw = true ∧ adm.start + adm.len ≤ recR.bytes ∧ adm.pri < 4 ∧
    here.streamAt ⟨0, 0⟩ = none ∧ (∀ n < 16, (run16.streamAt ⟨0, n⟩).isSome = true) ∧
    here.streamAt st = some strm ∧ strm.run ≠ .waiting ∧
    (withStream { strm with run := .waiting } here).streamAt st = some { strm with run := .waiting } ∧
    (let w : State := withRec { recR with mem := Memory.writeN [] 0 (toBytes 12 (0x105 + 0x8001 * 2 ^ 32 + 0x422 * 2 ^ 64)) }
     w.recordOf st strm = some (.opwait st 0x8001 true 0x422)) ∧ here.recordOf st strm = none := by decide +kernel

/-- CommandsComplete: a packet of the first queue of a context's slot, of another queue, and of a slot without a context. -/
theorem witness_CommandsComplete :
    pkt.queue = 0 ∧ here.contexts.find? (fun c => c.slot == pkt.slot) = some ctxA ∧ ({ pkt with queue := 1 } : Packet).queue ≠ 0 ∧
    (∀ c ∈ here.contexts, c.slot ≠ ({ pkt with slot := 9 } : Packet).slot) := by decide +kernel

/-- A tensor of the pool in the fifth way, a pinned one that fills the first four, and the device once the pool is to have four. -/
def up : Rec := { recR with pages := [(98304, 1)] }
def stay : Rec := { recR with handle := 0x207, pages := [(0, 98304)], pins := 1 }
def low (l : List Rec) : State := ({ here with recs := l } : State).shrinkPool 0 (4 * wayPages)

/-- ResourceCommandsPerform: key slots that records name and that none names; owner entries; ranges of each space at its end,
free and taken; pools that grow and shrink; a map of a tensor in HBM; a slot table. -/
theorem witness_ResourceCommandsPerform :
    let two : State := { here with contexts := [ctxA, { Context.new 2 1 with sync := [(0, 0, 64, 99)] }] }
    here.serves (.keyLoad pkt 511 4095 1 2) pkt ∧ here.keyUsed 3 = true ∧ here.keyUsed 511 = false ∧ 511 < 512 ∧ 4095 < 4096 ∧
    here.serves (.ownerKeyLoad pkt 63 65535 7 [0, 63]) pkt ∧ (∀ p ∈ [0, 63], p < 64 ∧ here.hasPort p = true) ∧ 63 < 64 ∧ 65535 < 2 ^ 16 ∧
    (2 ^ 20 + 15 < 2 ^ 20 + 16 ∧ (1023 : Nat) < 1024 ∧ (255 : Nat) < 256 ∧ (4095 : Nat) < 4096 ∧ 16 ≤ 2 ^ 26) ∧
    two.ctx? 1 = some ctxA ∧ (∀ x ∈ two.contexts, ∀ r ∈ x.sync, ¬(r.1 = 0 ∧ r.2.1 = 0 ∧ 2 ^ 20 + 16 ≤ r.2.2.2)) ∧
    (∃ x ∈ two.contexts, x.id ≠ 1 ∧ ∃ r ∈ x.sync, r.1 = 0 ∧ r.2.1 = 0 ∧ r.2.2.1 ≤ 99 ∧ 99 ≤ r.2.2.2) ∧
    (∀ x ∈ two.contexts, x.id ≠ 1 → ∀ r ∈ x.sync, ¬(r.1 = 0 ∧ r.2.1 = 0 ∧ r.2.2.1 ≤ 200 ∧ 100 ≤ r.2.2.2)) ∧
    (here.dieAt 0).poolWays ≤ 12 ∧ 12 ≤ 12 ∧ 4 < (here.dieAt 0).poolWays ∧
    here.liveRec 1 0x201 = some recF ∧ recF.inHbm = true ∧ (0x10000 : Nat) % 4096 = 0 ∧ ctxA.maps = [] ∧
    (List.replicate 32 (some (255, 63))).length = 32 := by decide +kernel

theorem witness_overflow_room :
    ∀ r ∈ here.recs, (r.home = 0) ∧ (∀ e ∈ r.pages, e.1 + e.2 ≤ 2 ^ 25 - ceilDiv 16 512) ∧ r.copies = [] := by decide +kernel

theorem witness_pool_shrinks :
    (∃ r ∈ (low [{ up with users := 1 }]).recs, r.beyond 0 (4 * wayPages) = true ∧ (r.running = true ∨ r.moving = true)) ∧
    (∀ r ∈ (low [up]).recs ++ (low [{ up with pins := 1 }, stay]).recs, r.beyond 0 (4 * wayPages) = true → r.running = false ∧ r.moving = false) ∧
    ((low [up]).lowerPages 0 (4 * wayPages)).isSome = true ∧ ((low [{ up with pins := 1 }, stay]).lowerPages 0 (4 * wayPages)).isNone = true := by decide +kernel

/-- ServiceCommandsPerform: a die with streams and an idle one; a range that holds no tensor; a port that retrains and none that
does; hearths that are busy, free with a spare and free without; a read of events into a buffer. -/
theorem witness_ServiceCommandsPerform :
    let training : State := { here with fabric := { here.fabric with ports := [(67, { Port.init with retraining := some (0, 0, 0) })] } }
    let bare : State := here.mapDie 0 fun d => { d with spares := 0 }
    here.diePresent 0 = true ∧ 0 < 1 ∧ (2 ^ 25 - 1) + 1 ≤ here.areaPages (.hbm 0) ∧ (∀ r ∈ here.recs, r.hits 0 (2 ^ 25 - 1) 1 = false) ∧
    67 < 68 ∧ here.hasPort 67 = true ∧ (training.portAt 67).retraining = some (pkt.slot, pkt.queue, pkt.index) ∧ (training.portAt 66).retraining ≠ some (0, 0, 0) ∧
    (∀ p < 68, (here.portAt p).retraining = none) ∧
    here.hearthOk 0 = true ∧ (here.coreAt 0).mode ≠ .free ∧ here.hearthOk 63 = true ∧ (here.coreAt 63).mode = .free ∧
    (here.dieAt 0).spares ≠ 0 ∧ (bare.dieAt 0).spares = 0 ∧ pktB.bufs = [⟨0x2000, 4096, 3⟩] ∧ here.serves (.eventRead pktB 1) pktB ∧
    (here.flushed pktB).ctx? 1 = some ctxA ∧ (here.hostReach 0x2000).1 = .ok ∧
    (let at_ (r : Rec) : Attempt := (State.hostReach ((withRec r).mapCtx 1 fun c => { c with maps := [(r.handle, 0)] }) 0x100).1
     at_ { recD with rfail := true } = .fail ∧ at_ lostA = .pending) := by decide +kernel

def atState (n : Nat) : State := { here with host := { here.host with state := n } }

/-- HostRegistersAct: registers of each rule with values they take, in the states that allow them; service slots that are
assigned with a packet waiting, and idle. -/
theorem witness_HostRegistersAct :
    let busy : State := { here.mapDie 0 (fun d => { d with slotTable := [(0, some (0, 5))] }) with host := { here.host with kick := [(5, 1)] } }
    here.powered = true ∧ 255 < 256 ∧ 63 < 64 ∧ (atState 1).host.state = 1 ∧ (atState 3).host.state = 3 ∧ here.host.state ≠ 1 ∧
    (0x10000 + 256 * 255 + 4 * 63 : Nat) = 0x1FFFC ∧ (0x10001 : Nat) % 4 ≠ 0 ∧ here.diePresent here.unit = true ∧ here.host.state = 4 ∧
    Store.get none (busy.dieAt 0).slotTable (busy.dieAt 0).serviceSlot = some (0, 5) ∧ busy.pending (queueKey 0 5) ≠ 0 ∧
    Store.get none (here.dieAt 0).slotTable (here.dieAt 0).serviceSlot = none := by decide +kernel

/-- ResetsAndPower, HostAccessesReachTensors: a device with power and one without, a module and a package, an elastic square at
the least clock that can fall and one that cannot, a fixed square; accesses at the end of a mapped tensor, and to one that is
not mapped. -/
theorem witness_ResetsAndPower :
    let off : State := { here with powered := false }
    let pack : State := { here with form := .package }
    let slow (m : Nat) : State := { here with squares := [(0, { Square.init with mhz := m })] }
    let fixd : State := here.mapCtx 1 fun c => { c with fixed := true }
    let mapped : State := here.mapCtx 1 fun c => { c with maps := [(0x202, 0)] }
    here.powered = true ∧ off.powered = false ∧ here.form = .module_ ∧ pack.form ≠ .module_ ∧ here.diePresent (here.unit / 4) = true ∧
    here.squareFixed 0 = false ∧ fixd.squareFixed 0 = true ∧ 1050 ≤ ((slow 1050).squareAt 0).mhz ∧ ((slow 1049).squareAt 0).mhz < 1050 ∧
    (1 ≤ 8 ∧ 8 ≤ 8) ∧ here.ctx? 1 = some ctxA ∧ here.recAt 1 0x202 = some recR ∧ ctxA.maps = [] ∧
    (mapped.ctx? 1).map (fun c => c.maps.map (·.1)) = some [0x202] ∧ recR.away = false ∧ 0 < 64 ∧ 4032 + 64 ≤ recR.bytes ∧ mapped.homeMarks 1 0x202 4032 64 = [] ∧
    mapped.dependent 1 0x202 = none ∧ mapped.fabric.windows = [] := by decide +kernel

def fpkt (op : Nat) : FabPacket := ⟨0, 0, 0, 0, op, 5, 0, 7, 9, 1, 0, [3], 0, 0, 5, 0⟩
def inn (op : Nat) (held : Option Nat) (gone : Bool) : State :=
  { withWindow (winB 1 none) here with unit := 95, fabric := { (withWindow (winB 1 none) here).fabric with inn := [⟨95, 66, fpkt op, held, gone⟩] } }
def outA (tries : Nat) : RemoteOut := ⟨96, 0, 60, 1, true, 66, fpkt 0, 0, 0, 0, tries, none, false⟩

/-- PeersAreServed: requests that are held and not, at a window in each state; replies with and without a request that awaits
them; requests without a reply that are sent again and given up. -/
theorem witness_PeersAreServed :
    let reply (out : List RemoteOut) : State :=
      { here with unit := 95, fabric := { here.fabric with inn := [⟨95, 66, { fpkt 2 with src := 0, dst := 5, status := 4 }, none, false⟩], out := out } }
    let wait (n : Nat) : State := { here with unit := 96, fabric := { here.fabric with out := [outA n] } }
    (∀ op ∈ [0, 1], ∀ held ∈ [none, some 1], ∀ gone,
      (inn op held gone).fabric.inn.find? (fun r => r.id == (inn op held gone).unit) = some ⟨95, 66, fpkt op, held, gone⟩ ∧
      (inn op held gone).windowAt 7 = winB 1 none ∧ (inn op held gone).dependent 1 0x201 = none) ∧
    (∀ n ∈ [0, 2, 3], ((withWindow (winB n none) here).windowAt 7).state = n) ∧ bit (winB 1 none).acc 0 = true ∧
    (∀ out ∈ [[], [outA 1]], (reply out).fabric.inn.find? (fun r => r.id == (reply out).unit && 1 < r.pkt.op) =
      some ⟨95, 66, { fpkt 2 with src := 0, dst := 5, status := 4 }, none, false⟩) ∧
    (reply [outA 1]).fabric.out.find? (fun x => x.pkt.tag == 9 && x.pkt.dst == 0 && x.pkt.op + 2 == 2 && x.status.isNone &&
      x.tries != 0 && !x.held && x.eth == decide (scalePorts ≤ 66)) = some (outA 1) ∧
    (∀ n ∈ [0, 1, 2], (wait n).fabric.out.find? (fun x => x.id == (wait n).unit) = some (outA n) ∧ (outA n).held = false ∧
      (outA n).status = none ∧ (outA n).tries = n) := by decide +kernel

/-- FabricPortsAndWindows: ports that are up with few and with eight replays, and down; packets that pass and that do not; windows
in each state with and without a stream that revokes. -/
theorem witness_FabricPortsAndWindows :
    let port (p : Port) : State := { here with unit := 63, fabric := { here.fabric with ports := [(63, p)] } }
    let win (w : Window) : State := { withWindow w here with unit := 7 }
    (port { Port.init with down := true }).portAt 63 = { Port.init with down := true } ∧ (port { Port.init with replays := 7 }).unit < 64 ∧
    ((port { Port.init with replays := 8 }).portAt 63).replays = 8 ∧
    (port Port.init).packetOk 63 (fpkt 0) = false ∧ ((port Port.init).portAt 63).down = false ∧ (fpkt 0).op ≤ 3 ∧
    (∀ n ∈ [1, 2, 3], ((win (winB n (some st))).windowAt 7) = winB n (some st) ∧ (win (winB n (some st))).unit < 1024 ∧
      ((win (winB n none)).windowAt 7).revoker = none) ∧
    (win (winB 3 none)).windowQuiet 7 = true ∧ (inn 0 none false).windowQuiet 7 = false ∧
    (win (winB 3 none)).revokerWaits (winB 3 none) = false ∧ (win (winB 3 (some st))).revokerWaits (winB 3 (some st)) = true := by
  decide +kernel

/-- FabricPortsAndWindows, on an Ethernet port: a frame under the port's MACsec key and address, and one with another check value. -/
theorem witness_ethernet :
    let p : FabPacket := { fpkt 0 with dst := Config.etherAddr 67 }
    here.hasPort 67 = true ∧ here.packetOk 67 { p with mac := etherTag p } = true ∧
    here.packetOk 67 { p with mac := etherTag p + 1 } = false := by
  intro p
  have h (m : BitVec 128) : here.packetOk 67 { p with mac := m } = (m == etherTag p && Config.etherAddr 67 == Config.etherAddr 67) := rfl
  exact ⟨by decide +kernel, by simp [h], by simp [h]⟩

/-! Decoding, one step, traps -/

/-- A hearth alone: no other agent has a turn. -/
def alone (ws : List Nat) : State :=
  { world ws with host := { HostSide.init with state := 5 }, dies := [], launches := [{ launchA with next := 2 }] }
/-- A bundle of ADD x20, x4, x5 in slot S with HOLD, and an idle bundle. -/
def addRun : State := alone [0xA0010000, 0x00054105, 0x80010000]
def addOp : Instr := .add ⟨false, 0, 20, 4, 5, none⟩
/-- The same bundle with ALEA a2, x1, 1, which leaves 64 bits. -/
def trapRun : State := alone [0x90010000, 0x00042041, 0x80010000]

/-- SlotsRoundTrip, RecordsAndHeadersRoundTrip: operations in their slot and in V1, words that decode, a record and its stream,
the largest REP. -/
theorem witness_round_trips :
    addOp.wf = true ∧ addOp.slot = some .s ∧ (.vadd ⟨15, false, 7, 0, 1023, 1031, 0, 0x780⟩ : Instr).wf = true ∧
    (.vadd ⟨15, false, 7, 0, 1023, 1031, 0, 0x780⟩ : Instr).slot = some .v0 ∧ decode .s [0x00054105] = some addOp ∧
    (.tuse ⟨3, 15⟩ [(0xFFFFF, 4095)] : Instr).wf = true ∧ (.tuse ⟨3, 15⟩ [(0xFFFFF, 4095)] : Instr).stream = some ⟨3, 15⟩ ∧
    decodeRecord ⟨3, 15⟩ [0x111, 0xFFFFFFFF, 0, 0, 0, 0, 0, 0] = some (.tuse ⟨3, 15⟩ [(0xFFFFF, 4095)]) ∧ 63 < 64 := by decide +kernel

/-- ReservedEncodingsTrap: unassigned opcodes, a NOP with a bit set, a header with bit 0 set, a bundle that runs past the code, and
an illegal operation behind a legal one. -/
theorem witness_ReservedEncodingsTrap :
    let low := alone [0x80010001]
    let cut := alone [0xA0010000]
    let bad := alone [0xB0010000, 0x00054105, 0x00200000]
    opField .s [0x00780000] ∈ reservedOps .s ∧ opField .v1 [0, 0x02380000] ∈ reservedOps .v1 ∧ opField .c [1] = 0 ∧ [1] ≠ [0] ∧
    low.core.fetch = .bundle ⟨Header.dec 0x80010001, 1, []⟩ ∧ (⟨Header.dec 0x80010001, 1, []⟩ : Bundle).badDelay low.core = false ∧
    (Header.dec 0x80010001).low ≠ 0 ∧ cut.core.code.isHeader cut.core.seq.pc = true ∧ cut.core.code.bundleAt cut.core.seq.pc = none ∧
    bad.core.fetch = .bundle ⟨Header.dec 0xB0010000, 3, [(.s, 0x104, [0x00054105]), (.a, 0x108, [0x00200000])]⟩ ∧
    (Header.dec 0xB0010000).low = 0 ∧ decode .a [0x00200000] = none ∧ decode .s [0x00054105] = some addOp ∧
    mtsIllegal bad.core.priv addOp = false ∧
    (⟨Header.dec 0xB0010000, 3, [(.s, 0x104, [0x00054105]), (.a, 0x108, [0x00200000])]⟩ : Bundle).badDelay bad.core = false := by
  decide +kernel

/-- What running an operation comes to: 0 effect, 1 trap, 2 freeze. -/
def kindOf : Res → Nat | .ok _ => 0 | .trap _ => 1 | .freeze _ => 2

/-- SlotOperationsSettle: an operation with effect, one that traps, one that freezes, a false guard, and each slot of the frame. -/
theorem witness_SlotOperationsSettle :
    addOp.slot = some .s ∧ addOp ≠ Slot.s.nop ∧ kindOf (runOp .s addOp here) = 0 ∧
    kindOf (runOp .a (.alea ⟨false, 0, 2, 1, 1, none⟩) here) = 1 ∧
    kindOf (runOp .x (.fence ⟨0, false, 0, 0, 0, 0, 0, 3⟩) here) = 0 ∧
    kindOf (runOp .x (.tpref ⟨0, false, 0, 0, 0, 4, 6, 0⟩) { here with
      core := { here.core with eng := { here.core.eng with cp := List.replicate 32 opA } } }) = 2 ∧
    here.core.readP (Instr.br ⟨false, 5, 0, none⟩).guard = false ∧
    kindOf (runOp .v0 (.vadd ⟨0, false, 0, 0, 1, 2, 3, 0⟩) here) = 0 ∧
    kindOf (runOp .f (.flcfg ⟨false, 0, 32, 0, 0, ⟨false, false, false⟩, 0x80⟩) here) = 0 ∧ kindOf (runOp .a (.aset ⟨false, 0, 2, 1, 1, none⟩) here) = 0 := by
  decide +kernel

/-- StepRunsDecoded: the only turn is the hearth's issue, with one operation that takes effect and one that traps; nothing has a
turn; two turns; an item of the agenda that is due. -/
theorem witness_StepRunsDecoded :
    let ok (s : State) (h : Nat) (sl : Slot) (w : Nat) (i : Instr) : Prop :=
      s.agenda = [] ∧ s.turns = [.event s.coreId .bundleIssue] ∧ s.hearthOk s.coreId = true ∧ s.core.mode = .running ∧
      s.canCycle = true ∧ s.core.stuck = .no ∧ s.core.owed = 0 ∧ s.core.link.stopped = false ∧ s.core.wait = .none ∧ s.core.ctl = none ∧
      s.core.link.fused = false ∧ s.core.link.paired = false ∧ s.core.priv = false ∧
      s.core.fetch = .bundle ⟨Header.dec h, 2, [(sl, 0x104, [w])]⟩ ∧ (Header.dec h).rep = 0 ∧ (Header.dec h).low = 0 ∧
      (Header.dec h).hold = true ∧ s.core.seq.done = 0 ∧ s.core.seq.pend = none ∧ decode sl [w] = some i ∧ i ≠ sl.nop ∧
      mtsIllegal false i = false ∧ s.core.interlocked i = false ∧ s.struck = s ∧ s.core.badSource i = none
    ok addRun 0xA0010000 .s 0x00054105 addOp ∧ kindOf (runOp .s addOp { addRun with unit := addRun.coreId }) = 0 ∧
    ok trapRun 0x90010000 .a 0x00042041 (.alea ⟨false, 0, 2, 1, 1, none⟩) ∧
    kindOf (runOp .a (.alea ⟨false, 0, 2, 1, 1, none⟩) { trapRun with unit := trapRun.coreId }) = 1 := by
  (repeat' apply And.intro) <;> decide +kernel
theorem witness_turns :
    State.reset.agenda = [] ∧ State.reset.turns = [] ∧ State.reset.upsets = [] ∧ State.reset.struck = State.reset ∧ here.struck = here ∧
    here.linkFull 66 (.droopStretch 8) = false ∧ 2 ≤ here.turns.length ∧ here.agenda = [] ∧ outside (.droopStretch 8) = true ∧
    outside .powerUp = true ∧ here.powered = true ∧ here.hearthOk here.unit = true := by decide +kernel

/-- A packet waits at a link whose buffer is full; the one turn is the reply's in it. -/
theorem witness_full_link :
    let p : FabPacket := { fpkt 2 with payload := List.replicate 191 0 }
    let s : State := { State.reset with
      agenda := [(0, 5, .packetReceive p)], fabric := { State.reset.fabric with inn := [⟨95, 5, p, none, false⟩] } }
    s.struck = s ∧ s.linkFull 5 (.packetReceive p) = true ∧ s.turns = [.event 95 .remoteReply] := by
  (repeat' apply And.intro) <;> decide +kernel

/-- TrapsEnterTheHandler: a cause below 0x80 with a handler and without one, of a task whose launch has no failure yet. -/
theorem witness_TrapsEnterTheHandler :
    let h : State := { (alone []).mapCtx 1 (fun c => { c with handler := 0x300 }) with recs := [recK] }
    let n := alone []
    h.core.priv = false ∧ h.core.link.paired = false ∧ h.core.link.fused = false ∧ h.core.code.origin = none ∧
    h.handlerCode.isSome = true ∧ fatalCause 0x10 = false ∧ fatalCause 0x7F = false ∧ n.handlerCode = none ∧
    (∀ l ∈ n.launches, l.id = n.core.task.launch ∧ l.nfail = 0) ∧ n.launches ≠ [] := by decide +kernel

/-- MemoryKeepsItsForm: a canonical memory, an operation that stores and one that does not, and two memories that agree. -/
theorem witness_MemoryKeepsItsForm :
    let m : Memory := [⟨3, 5⟩, ⟨9, 1⟩]
    m.wf = true ∧ Memory.wf [] = true ∧ here.core.pad.mem.wf = true ∧
    kindOf (runOp .x (.sts ⟨0, false, 3, 0, 0, 1, 2, 0⟩) here) = 0 ∧ (Instr.sts ⟨0, false, 3, 0, 0, 1, 2, 0⟩).slot = some .x := by
  decide +kernel

/-- DeviceStateStaysLegal: legal states with and without power, each with a step to a next state. -/
def isNext : Host.Outcome State Fault Refusal → Bool | .next _ => true | _ => false
theorem witness_DeviceStateStaysLegal :
    let off : State := { State.reset with powered := false, host := { HostSide.init with state := 0 }, agenda := [(0, 0, .powerUp)] }
    State.reset.legal ∧ isNext (step State.reset) = true ∧ addRun.legal ∧ isNext (step addRun) = true ∧ off.legal ∧
    isNext (step off) = true := by decide +kernel

/-! One step of an instruction, with results worked by hand from its rule -/

/-- The hearth with other values in x1, x2 and in v1, v2, v3. -/
def vals (a b : W64) : State := here.mapCore fun c => { c with regs := { c.regs with x := [(1, a), (2, b)] } }
def vecs (a b c : V512) : State := here.mapCore fun k => { k with regs := { k.regs with v := [(1, a), (2, b), (3, c)] } }
def effsOf : Host.Outcome State Fault Refusal → List Eff
  | .next s => s.core.fly.flatMap (·.effs)
  | _ => []
def flagsOf : Host.Outcome State Fault Refusal → Nat
  | .next s => (s.core.fly.map (·.flags)).sum
  | _ => 0
/-- The value that goes to a register of the file, as a number. -/
def outOf (r : Host.Outcome State Fault Refusal) : List Nat :=
  (effsOf r).map fun e => match e with
    | .x _ v => v.toNat | .p _ b => if b then 1 else 0 | .m _ v => v.toNat | .v _ v => v.toNat | .aval _ v => v.toNat | _ => 0
def a3 : S3 := ⟨false, 0, 5, 1, 2, none⟩
def minus (n : Nat) : W64 := BitVec.ofInt 64 (-(n : Int))

/-- R109: -7 / 2, -7 rem 2, 7 / 0, the least number by -1. -/
theorem test_divide :
    outOf (exec (.divs a3) (vals (minus 7) 2)) = [(minus 3).toNat] ∧ outOf (exec (.rems a3) (vals (minus 7) 2)) = [(minus 1).toNat] ∧
    outOf (exec (.divn a3) (vals 7 0)) = [2 ^ 64 - 1] ∧ outOf (exec (.remn a3) (vals 7 0)) = [7] ∧
    outOf (exec (.divs a3) (vals 0x8000000000000000 (minus 1))) = [2 ^ 63] ∧
    outOf (exec (.rems a3) (vals 0x8000000000000000 (minus 1))) = [0] := by decide +kernel
/-- R108. -/
theorem test_multiply_high :
    outOf (exec (.mulhs a3) (vals (minus 1) (minus 1))) = [0] ∧ outOf (exec (.mulhn a3) (vals (minus 1) (minus 1))) = [2 ^ 64 - 2] := by
  decide +kernel
theorem test_shift_and_count :
    outOf (exec (.shl a3) (vals 3 65)) = [6] ∧ outOf (exec (.shrs a3) (vals (minus 8) 1)) = [(minus 4).toNat] ∧
    outOf (exec (.rotl a3) (vals 0x8000000000000001 1)) = [3] ∧ outOf (exec (.clz a3) (vals 0 0)) = [64] ∧
    outOf (exec (.ctz a3) (vals 8 0)) = [3] ∧ outOf (exec (.andn a3) (vals 15 5)) = [10] := by decide +kernel
theorem test_min_max :
    outOf (exec (.mins a3) (vals (minus 1) 1)) = [2 ^ 64 - 1] ∧ outOf (exec (.minn a3) (vals (minus 1) 1)) = [1] ∧
    outOf (exec (.maxs a3) (vals (minus 1) 1)) = [1] ∧ outOf (exec (.maxn a3) (vals (minus 1) 1)) = [2 ^ 64 - 1] := by decide +kernel
/-- R110 to R115. -/
theorem test_fields :
    outOf (exec (.bext ⟨false, 0, 5, 1, 0, ⟨false, false, false⟩, 4096 + 3 * 64 + 4⟩) (vals 0xF5 0)) = [2 ^ 64 - 1] ∧
    outOf (exec (.bins ⟨false, 0, 5, 1, 2, ⟨false, false, false⟩, 3 * 64 + 4⟩) (vals 0xA 0xFFF)) = [0xFAF] ∧
    outOf (exec (.addi ⟨false, 0, 5, 1, 63, none⟩) (vals 5 0)) = [4] ∧
    outOf (exec (.movi ⟨false, 0, 5, 0xFFF, none⟩) here) = [2 ^ 64 - 1] := by decide +kernel
theorem test_compare :
    outOf (exec (.cmpLts ⟨false, 0, 5, 1, 2, none⟩) (vals (minus 1) 1)) = [1] ∧
    outOf (exec (.cmpLtn ⟨false, 0, 5, 1, 2, none⟩) (vals (minus 1) 1)) = [0] ∧
    outOf (exec (.cmpAny ⟨false, 0, 5, 1, 2, none⟩) (vals 6 9)) = [0] := by decide +kernel
theorem test_add128_carries :
    outOf (exec (.add128 ⟨false, 0, 6, 2, 2, none⟩) (vals 0 0x8000000000000000)) = [0, 1] := by decide +kernel

/-- R60: a false guard leaves the state as it was but for the sticky record of its slot. -/
theorem test_false_guard : effsOf (exec (.add { a3 with g := 5 }) here) = [] := by decide +kernel
/-- R21: a step of -1 from the ring's first byte reaches its last. -/
theorem test_ring_wraps :
    outOf (exec (.astep ⟨false, 0, 3, 0, 1, none⟩) (here.mapCore fun c =>
      { c with regs := { c.regs with x := [(1, minus 1)], a := [(3, ⟨64, 0, 1, 2⟩)] } })) = [64 + 127] := by decide +kernel

/-- R227: bytes little-endian; a signed load extends its sign; R152: chunk 0 of row 1 lies at chunk position 1. -/
def memOf : Host.Outcome State Fault Refusal → Memory
  | .next s => s.core.pad.mem
  | _ => []
theorem test_store_bytes :
    memOf (exec (.sts ⟨0, false, 1, 0, 0, 0, 1, 2⟩) (vals 0x1234 0)) = [⟨4, 0x34⟩, ⟨5, 0x12⟩] := by decide +kernel
theorem test_load_signed :
    outOf (exec (.lds ⟨0, false, 0, 0, 5, 0, 0, 3⟩) (here.mapCore fun c => { c with pad := { c.pad with mem := [⟨3, 0x80⟩] } })) =
      [2 ^ 64 - 128] := by decide +kernel
theorem test_swizzle : swz 64 = 72 ∧ swz 73 = 65 ∧ swz 8 = 8 ∧ swz (7 * 64) = 7 * 64 + 56 := by decide

/-- R184, R185: saturation, the high product and an arithmetic shift of .i8 lanes. -/
theorem test_integer_lanes :
    outOf (exec (.vadds ⟨0, false, 0, 0, 9, 1, 2, 0⟩) (vecs 0x7F 0x01 0)) = [0x7F] ∧
    outOf (exec (.vmulh ⟨0, false, 4, 0, 9, 1, 2, 0⟩) (vecs 0xFF 0xFF 0)) = [0xFE] ∧
    outOf (exec (.vsar ⟨0, false, 0, 0, 9, 1, 0, 65⟩) (vecs 0x80 0 0)) = [0xC0] ∧
    outOf (exec (.vmad ⟨0, false, 1, 0, 9, 1, 2, 3⟩) (vecs 5 3 0xFFFF)) = [2] := by decide +kernel
/-- R180: a lane whose mask bit is 0 keeps the old value (m1 is 3). -/
theorem test_merge :
    outOf (exec (.vadd ⟨0, false, 0, 0, 3, 1, 2, 0x80⟩) (vecs 0x030201 0x010101 0x090909)) = [0x090302] := by decide +kernel
/-- R186: a compare makes one mask bit a lane. -/
theorem test_mask_of_compare :
    outOf (exec (.vcmp ⟨0, false, 0, 2, 5, 1, 2, 0x80⟩) (vecs 0x00FF01 0x000101 0)) = [2] := by decide +kernel
/-- R188: 1.5 + 2.0, 3.0 + 0.5 × 1.0, and the reciprocals of two 2.0. -/
theorem test_float_lanes :
    outOf (exec (.vfadd ⟨0, false, 0, 0, 9, 1, 2, 0x80⟩) (vecs 0x3FC00000 0x40000000 0)) = [0x40600000] ∧
    (outOf (exec (.vfma ⟨0, false, 1, 0, 9, 1, 2, 3⟩) (vecs 0x4200 0x3800 0x3C00))).map (· % 65536) = [0x4300] ∧
    outOf (exec (.vfrcp ⟨0, false, 0, 0, 9, 1, 0, 0x80⟩) (vecs 0x4000000040000000 0 0)) = [0x3F0000003F000000] := by decide +kernel
/-- R192: 2 to the 3rd power and the logarithm of 8. -/
theorem test_exp_log :
    (outOf (exec (.vfexp2 ⟨0, true, 0, 0, 0, 1, 0, 0x80⟩) (vecs 0x40400000 0 0))) = [] ∧
    (outOf (exec (.vfexp2 ⟨0, false, 0, 0, 9, 1, 0, 0x80⟩) (vecs 0x40400000 0 0))).map (· % 2 ^ 32) = [0x41000000] ∧
    (outOf (exec (.vflog2 ⟨0, false, 0, 0, 9, 1, 0, 0x80⟩) (vecs 0x41000000 0 0))).map (· % 2 ^ 32) = [0x40400000] := by decide +kernel
/-- R193: f32 1.0 and 2.0 as bf16 in the lower half; R196: .i16 300 packs to .i8 127. -/
theorem test_convert :
    outOf (exec (.vcvt ⟨0, false, 0, 0, 9, 1, 0x148, 0⟩) (vecs 0x400000003F800000 0 0)) = [0x40003F80] ∧
    outOf (exec (.vpack ⟨0, false, 1, 0, 9, 1, 2, 0⟩) (vecs 300 0 0)) = [127] := by decide +kernel
/-- R197: the sum of the selected lanes. -/
theorem test_reduce : outOf (exec (.vradd ⟨0, false, 0, 0, 9, 1, 0, 0x80⟩) (vecs 0x05FF03 0 0)) = [2] := by decide +kernel
/-- R199. -/
theorem test_permute :
    outOf (exec (.viota ⟨0, false, 2, 0, 9, 0, 0, 0x80⟩) here) = [packList 32 (0 :: 1 :: List.replicate 14 2)] ∧
    outOf (exec (.vcmpr ⟨0, false, 2, 0, 9, 1, 0, 0x80⟩) (vecs 0x000000070000000600000005 0 0)) = [0x0000000600000005] := by decide +kernel

/-- R150, R216: 128 products of 1.0 by 1.0 (.e4m3 0x38) on 0 make 128.0 in f32. -/
theorem test_beat_cell :
    let ones := packList 8 (List.replicate 128 0x38)
    (beatCell (some 0) (columnTerms 0 0 (rowVal (fmtA 0 0) ones fun _ => 0) ones fun _ => 0)).1 = 0x43000000 := by decide +kernel

/-- R96: a branch of -1 bundle word, with two delay bundles before it. -/
theorem test_branch :
    (match exec (.br ⟨false, 0, 0x3FFFF, none⟩) codes with | .next t => (t.core.seq.pc, t.core.seq.pend) | _ => (0, none)) =
      (0x10C, some ⟨0x104, 2, 0x108⟩) := by decide +kernel
/-- R101: LOOP with a count of 0 goes on after its END, here two bundles on. -/
theorem test_loop_of_zero :
    (match exec (.loop ⟨false, 0, 0, 2, none⟩) codes with | .next t => (t.core.seq.pc, t.core.loops.stack) | _ => (0, [])) = (0x114, []) := by
  decide +kernel

/-- R288, R292: AADD of 5 to a word of 0, which is answered with the old value. -/
theorem test_atomic_add :
    (match exec (.atomicPerform 70) (asked (reqA 0x20) .none) with
     | .next t => ((t.wordAt 0 3).val, t.reqs.map fun r => (r.done, r.val)) | _ => (0, [])) = (5, [(true, 0)]) := by decide +kernel
/-- R385: the extents 1152 by 128 of .f16 make 294,912 bytes and a footprint of 288 KiB. -/
theorem test_tdecl_example :
    let r := TDecl_record ⟨9, false, 1, 0, 1, 3, 0x202, 1152, 128, 0, 0⟩ 1 1
    r.bytes = 294912 ∧ r.fullFootprint = 288 * 1024 := by decide +kernel
/-- R406: a kick that is 2^31 ahead is discarded, one less is taken. -/
theorem test_kick :
    (match exec (.kick 0 5 4 (2 ^ 31)) here with | .next t => Store.get 0 t.host.kick 5 | _ => 9) = 0 ∧
    (match exec (.kick 0 5 4 (2 ^ 31 - 1)) here with | .next t => Store.get 0 t.host.kick 5 | _ => 9) = 2 ^ 31 - 1 := by decide +kernel

end Sys2Proof.Tests
end

/-! PROOFS. Task state (spec/01_task_state.md): the register files, results written back, and the state after reset. -/
section
namespace Sys2Proof.Machine

/-! ## The register files: what each write does (R15, R16) -/

theorem Regs.setX_eq (r : Regs) (n : Nat) (v : W64) :
    r.setX n v = { r with x := if n = 0 then r.x else Store.set 0 r.x n v } := by
  unfold Regs.setX; split <;> rfl

theorem Regs.setP_eq (r : Regs) (n : Nat) (b : Bool) :
    r.setP n b = { r with p := if n = 0 then r.p else Store.set false r.p n b } := by
  unfold Regs.setP; split <;> rfl

theorem Regs.setM_eq (r : Regs) (n : Nat) (v : W64) :
    r.setM n v = { r with m := if n = 0 then r.m else Store.set 0 r.m n v } := by
  unfold Regs.setM; split <;> rfl

theorem Regs.mapA_eq (r : Regs) (n : Nat) (f : AReg → AReg) :
    r.mapA n f = { r with a := if n = 0 then r.a else Store.set AReg.zero r.a n (f (Store.get AReg.zero r.a n)) } := by
  unfold Regs.mapA; split <;> rfl

theorem Regs.setLatch_eq (r : Regs) (n : Nat) (l : Latch) :
    r.setLatch n l = { r with latch := if n = 0 then r.latch else Store.set Latch.init r.latch n l } := by
  unfold Regs.setLatch; split <;> rfl

/-- A read after a write that register 0 discards. -/
theorem Store.get_set_unless_zero {α : Type} [DecidableEq α] (d : α) (s : Store α) (n j : Nat) (v : α) :
    Store.get d (if n = 0 then s else Store.set d s n v) j = if j = n ∧ n ≠ 0 then v else Store.get d s j := by
  by_cases hn : n = 0
  · simp [hn]
  · simp [hn, Store.get_set]

/-! ## What a result does to the register files (R66, R68) -/

/-- What a write of a result does to the register files. -/
def Eff.onRegs (e : Eff) (r : Regs) : Regs :=
  match e with
  | .x n w => r.setX n w
  | .p n b => r.setP n b
  | .m n w => r.setM n w
  | .v n w => r.setV n w
  | .aval n w => r.mapA n fun a => { a with val := w }
  | .astep n w => r.mapA n fun a => { a with step := w }
  | .aring n b l => r.mapA n fun a => { a with rbase := b, rlen := l }
  | .sys _ _ => r

/-- What the writes of a result do to the register files, in their order. -/
def Eff.allOnRegs (es : List Eff) (r : Regs) : Regs := es.foldl (fun r e => e.onRegs r) r

/-- What a result does to the latches. -/
def Flight.onLatches (f : Flight) (l : Store Latch) : Store Latch :=
  match f.latch with
  | some (n, v, ok) => if n = 0 then l else Store.set Latch.init l n ⟨v, ok⟩
  | none => l

/-- What a result does to the register files. -/
def Flight.onRegs (f : Flight) (r : Regs) : Regs :=
  { Eff.allOnRegs f.effs r with latch := f.onLatches r.latch }

/-- The writes of a result reach neither the kernel registers nor the latches. -/
theorem Eff.onRegs_k_latch (e : Eff) (r : Regs) : (e.onRegs r).k = r.k ∧ (e.onRegs r).latch = r.latch := by
  cases e <;> simp [Eff.onRegs, Regs.setX_eq, Regs.setP_eq, Regs.setM_eq, Regs.setV, Regs.mapA_eq]

theorem Eff.allOnRegs_k_latch (es : List Eff) (r : Regs) :
    (Eff.allOnRegs es r).k = r.k ∧ (Eff.allOnRegs es r).latch = r.latch := by
  induction es generalizing r with
  | nil => exact ⟨rfl, rfl⟩
  | cons e es ih =>
    obtain ⟨hk, hl⟩ := ih (e.onRegs r)
    obtain ⟨hk', hl'⟩ := e.onRegs_k_latch r
    exact ⟨hk.trans hk', hl.trans hl'⟩

@[simp] theorem Flight.onRegs_k (f : Flight) (r : Regs) : (f.onRegs r).k = r.k := (Eff.allOnRegs_k_latch f.effs r).1

@[simp] theorem Flight.onRegs_latch (f : Flight) (r : Regs) : (f.onRegs r).latch = f.onLatches r.latch := rfl

/-- The latch of a result receives it. -/
theorem Flight.get_onLatches_own {f : Flight} {j : Nat} {v : V512} {ok : Bool} (h : f.latch = some (j, v, ok)) (hj : j ≠ 0)
    (l : Store Latch) : Store.get Latch.init (f.onLatches l) j = ⟨v, ok⟩ := by
  simp [Flight.onLatches, h, hj]

/-- A result leaves every latch but its own. -/
theorem Flight.get_onLatches_other {f : Flight} {j : Nat} (h : ∀ v ok, f.latch ≠ some (j, v, ok)) (l : Store Latch) :
    Store.get Latch.init (f.onLatches l) j = Store.get Latch.init l j := by
  unfold Flight.onLatches
  split
  · rename_i n v ok hf
    have hj : j ≠ n := fun hj => h v ok (hj ▸ hf)
    simp [Store.get_set_unless_zero, hj]
  · rfl

/-! ## What a result leaves of the hearth (R66) -/

theorem Core.wholeWrite_eq (c : Core) (p : OwnUnit) : ∃ bad, c.wholeWrite p = { c with bad := bad } := by
  unfold Core.wholeWrite
  split
  · exact ⟨c.bad, rfl⟩
  · exact c.mapFlaw_bad p _

theorem Core.wordWrite_eq (c : Core) (p : OwnUnit) (w : Nat) : ∃ bad, c.wordWrite p w = { c with bad := bad } := by
  unfold Core.wordWrite
  split
  · exact ⟨c.bad, rfl⟩
  · exact c.mapFlaw_bad p _

/-- A write of a result that is none of a system register changes the register files, marks of errors and EINJ alone. -/
theorem State.writeEff_core (s : State) (e : Eff) (h : ∀ n v, Eff.sys n v ≠ e) : ∃ bad einj, (s.writeEff e).core =
    { s.core with regs := e.onRegs s.core.regs, bad := bad, st := { s.core.st with einj := einj } } := by
  have whole (r : Regs) (p : OwnUnit) : ∃ bad einj, Core.wholeWrite { s.core with regs := r } p =
      { s.core with regs := r, bad := bad, st := { s.core.st with einj := einj } } := by
    obtain ⟨bad, hb⟩ := Core.wholeWrite_eq { s.core with regs := r } p
    exact ⟨bad, s.core.st.einj, hb⟩
  cases e with
  | x n v => exact whole _ _
  | p n b => exact whole _ _
  | m n v => exact whole _ _
  | v n v =>
    obtain ⟨b1, e1, h1⟩ := whole (s.core.regs.setV n v) (.v n)
    obtain ⟨b2, e2, h2⟩ := (s.mapCore fun c => { c with regs := c.regs.setV n v }.wholeWrite (.v n)).fireOwn_core (.v n)
    refine ⟨b2, e2, h2.trans ?_⟩
    simp only [State.mapCore_core, h1, Eff.onRegs]
  | aval n v =>
    obtain ⟨bad, hb⟩ := Core.wordWrite_eq { s.core with regs := (Eff.aval n v).onRegs s.core.regs } (.a n) 0
    exact ⟨bad, s.core.st.einj, hb⟩
  | astep n v => exact ⟨s.core.bad, s.core.st.einj, rfl⟩
  | aring n b l => exact ⟨s.core.bad, s.core.st.einj, rfl⟩
  | sys n v => exact absurd rfl (h n v)

theorem State.writeEffs_core (es : List Eff) (s : State) (h : ∀ n v, Eff.sys n v ∉ es) :
    ∃ bad einj, (es.foldl State.writeEff s).core =
      { s.core with regs := Eff.allOnRegs es s.core.regs, bad := bad, st := { s.core.st with einj := einj } } := by
  induction es generalizing s with
  | nil => exact ⟨s.core.bad, s.core.st.einj, rfl⟩
  | cons e es ih =>
    obtain ⟨b1, e1, h1⟩ := s.writeEff_core e fun n v he => h n v (by simp [he])
    obtain ⟨b2, e2, h2⟩ := ih (s.writeEff e) fun n v hm => h n v (List.mem_cons_of_mem e hm)
    refine ⟨b2, e2, h2.trans ?_⟩
    rw [h1]
    rfl

/-- A result without a write of a system register changes the register files, FLAGS, which it only ORs, and the marks that
stand beside them. -/
theorem State.writeBack_core (s : State) (f : Flight) (h : ∀ n v, Eff.sys n v ∉ f.effs) :
    ∃ bad einj kept, (s.writeBack f).core =
      { s.core with regs := f.onRegs s.core.regs, bad := bad,
                    st := { s.core.st with flags := s.core.st.flags ||| f.flags, einj := einj, kept := kept } } := by
  obtain ⟨b1, e1, h1⟩ := State.writeEffs_core f.effs s h
  have hlatch : (Eff.allOnRegs f.effs s.core.regs).latch = s.core.regs.latch := (Eff.allOnRegs_k_latch _ _).2
  unfold State.writeBack Flight.onRegs Flight.onLatches
  cases hf : f.latch with
  | none =>
    refine ⟨b1, e1, s.core.st.kept ||| f.flags, ?_⟩
    simp only [State.orFlags, State.mapCore_core, Core.raiseFlags, h1, ← hlatch]
  | some l =>
    obtain ⟨n, v, ok⟩ := l
    obtain ⟨b2, h2⟩ := Core.wholeWrite_eq
      { (f.effs.foldl State.writeEff s).core with
        regs := (f.effs.foldl State.writeEff s).core.regs.setLatch n ⟨v, ok⟩ } (.latch n)
    refine ⟨b2, e1, s.core.st.kept ||| f.flags, ?_⟩
    simp only [State.orFlags, State.mapCore_core, Core.raiseFlags]
    rw [h2, h1]
    simp only [Regs.setLatch_eq, hlatch]

/-! ## The order of write-back (R66, R67) -/

theorem firstDue_eq_none {l : List Flight} : firstDue l = none ↔ ∀ f ∈ l, f.left ≠ 0 := by
  induction l with
  | nil => simp [firstDue]
  | cons f l ih =>
    cases hl : firstDue l with
    | none => simp [firstDue, hl, ← ih]
    | some p =>
      have hdue : ¬∀ g ∈ l, g.left ≠ 0 := fun h => by simp [ih.2 h] at hl
      simp only [firstDue, hl, List.forall_mem_cons, hdue, and_false, iff_false]
      split <;> simp

/-- The due result that is written next, and those that stay in flight. -/
theorem firstDue_some {l rest : List Flight} {f : Flight} (h : firstDue l = some (f, rest)) :
    f.left = 0 ∧ l.Perm (f :: rest) ∧ ∀ g ∈ l, g.left = 0 → f.place ≤ g.place := by
  induction l generalizing f rest with
  | nil => simp [firstDue] at h
  | cons e l ih =>
    cases hl : firstDue l with
    | none =>
      have hnone := firstDue_eq_none.1 hl
      simp only [firstDue, hl, Option.ite_none_right_eq_some, Option.some.injEq, Prod.mk.injEq] at h
      obtain ⟨hleft, rfl, rfl⟩ := h
      refine ⟨hleft, .refl _, fun g hg hdue => ?_⟩
      obtain rfl | hg := List.mem_cons.1 hg
      · exact le_rfl
      · exact absurd hdue (hnone g hg)
    | some p =>
      obtain ⟨d, r⟩ := p
      obtain ⟨hd, hperm, hmin⟩ := ih hl
      simp only [firstDue, hl] at h
      split at h
      · rename_i hc
        simp only [Option.some.injEq, Prod.mk.injEq] at h
        obtain ⟨rfl, rfl⟩ := h
        refine ⟨hc.1, .refl _, fun g hg hdue => ?_⟩
        obtain rfl | hg := List.mem_cons.1 hg
        · exact le_rfl
        · exact hc.2.trans (hmin g hg hdue)
      · rename_i hc
        simp only [Option.some.injEq, Prod.mk.injEq] at h
        obtain ⟨rfl, rfl⟩ := h
        refine ⟨hd, (hperm.cons e).trans (.swap d e r), fun g hg hdue => ?_⟩
        obtain rfl | hg := List.mem_cons.1 hg
        · have : ¬g.place ≤ d.place := fun hp => hc ⟨hdue, hp⟩
          omega
        · exact hmin g hg hdue

theorem exec_resultWriteback (s : State) : exec .resultWriteback s = execResultWriteback s := rfl

theorem exec_resultWriteback_due {s : State} (h : s.hearthOk s.unit = true) {f : Flight} {rest : List Flight}
    (hf : firstDue s.there.core.fly = some (f, rest)) :
    exec .resultWriteback s = .next ((s.there.mapCore fun c => { c with fly := rest }).writeBack f) := by
  unfold State.there at *
  rw [exec_resultWriteback, execResultWriteback, atHearth_next _ h, hf]

theorem exec_resultWriteback_none {s : State} (h : s.hearthOk s.unit = true) (hf : firstDue s.there.core.fly = none) :
    exec .resultWriteback s = .next s.there := by
  unfold State.there at *
  rw [exec_resultWriteback, execResultWriteback, atHearth_next _ h, hf]

/-- Settles O26: the frame of a write-back is that of the register files, and the due result that is written is the least. -/
theorem resultsAreWrittenBack : Obligations.ResultsAreWrittenBack := by
  refine ⟨fun s f hsys => ?_, fun s hok => ⟨fun f rest hf => ?_, fun hnone => ?_⟩⟩
  · obtain ⟨bad, einj, kept, hcore⟩ := s.writeBack_core f hsys
    intro t
    have ht : t.core = _ := hcore
    simp only [ht, Flight.onRegs_k, Flight.onRegs_latch, true_and]
    refine ⟨fun j hj => Flight.get_onLatches_other hj _, fun j v ok hj hz => Flight.get_onLatches_own hj hz _, ?_, ?_, ?_, ?_, ?_⟩
    all_goals
      intro n v he
      simp only [Flight.onRegs, he, Eff.allOnRegs, List.foldl_cons, List.foldl_nil, Eff.onRegs]
    · simp [Regs.setX_eq, Store.get_set_unless_zero]
    · simp [Regs.setP_eq, Store.get_set_unless_zero]
    · simp [Regs.setM_eq, Store.get_set_unless_zero]
    · simp only [Regs.setV, Store.get_set, implies_true, and_self]
    · simp [Regs.mapA_eq, Store.get_set_unless_zero]
  · obtain ⟨hdue, hperm, hmin⟩ := firstDue_some hf
    exact ⟨hdue, fun g hg => hmin g (hperm.mem_iff.2 (List.mem_cons_of_mem f hg)), exec_resultWriteback_due hok hf⟩
  · exact exec_resultWriteback_none hok (firstDue_eq_none.2 hnone)

/-! ## Registers that read as constants (R16) -/

/-- A write to register 0 of a file whose register 0 is constant. -/
def Eff.toZero : Eff → Prop
  | .x n _ | .p n _ | .m n _ | .aval n _ | .astep n _ | .aring n _ _ => n = 0
  | .v _ _ | .sys _ _ => False

/-- A write to register 0 is discarded. -/
theorem Eff.onRegs_of_toZero {e : Eff} (h : e.toZero) (r : Regs) : e.onRegs r = r := by
  cases e with
  | v n w => exact h.elim
  | sys n w => exact h.elim
  | _ =>
    cases h
    rfl

theorem Eff.allOnRegs_of_toZero (es : List Eff) (h : ∀ e ∈ es, e.toZero) (r : Regs) : Eff.allOnRegs es r = r := by
  induction es with
  | nil => rfl
  | cons e es ih =>
    rw [Eff.allOnRegs, List.foldl_cons, Eff.onRegs_of_toZero (h e (by simp))]
    exact ih fun e' he' => h e' (by simp [he'])

/-- Settles O25: writes to register 0 leave the register files, and the latch of the result stands apart from them. -/
theorem fixedRegisters : Obligations.FixedRegisters := by
  refine ⟨fun c => ⟨rfl, rfl, rfl, rfl, rfl⟩, fun rot => ⟨rfl, rfl⟩, fun s f hzero => ?_⟩
  have hz : ∀ e ∈ f.effs, e.toZero := fun e he => by
    obtain ⟨v, rfl⟩ | ⟨b, rfl⟩ | ⟨v, rfl⟩ | ⟨v, rfl⟩ | ⟨v, rfl⟩ | ⟨b, l, rfl⟩ := hzero e he <;> exact rfl
  obtain ⟨bad, einj, kept, hcore⟩ := s.writeBack_core f fun n v hm => hz _ hm
  intro t
  have ht : t.core = _ := hcore
  simp only [ht, Flight.onRegs, Eff.allOnRegs_of_toZero f.effs hz, true_and]
  exact fun j v ok hj hn => Flight.get_onLatches_own hj hn _

/-! ## The state after reset (R401, R402, R410) -/

/-- A device whose agents have nothing to do, and to which nothing comes from outside, stays as it is. -/
theorem step_of_idle {s : State} (hu : s.upsets = []) (ha : s.agenda = []) (ht : s.turns = []) : step s = .next s := by
  have hstruck : s.struck = s := by simp [State.struck, hu]
  simp [step, State.advance, hstruck, ha, State.autonomous, ht]

theorem turns_reset : State.reset.turns = [] := by decide +kernel

@[simp] theorem Store.get_nil {α : Type} (d : α) (k : Nat) : Store.get d ([] : Store α) k = d := rfl

/-- Every scalar register reads 0 before it is written. -/
theorem Core.readX_init (n : Nat) : Core.init.readX n = 0 := by
  simp [Core.readX, Core.init, Regs.init]

/-- Every predicate but p0 reads false before it is written. -/
theorem Core.readP_init {n : Nat} (h : 1 ≤ n) : Core.init.readP n = false := by
  have hn : n ≠ 0 := by omega
  simp [Core.readP, Core.init, Regs.init, hn]

/-- Settles O57: the fields are those of the reset state, and no agent has a turn in it. -/
theorem resetLeaves : Obligations.ResetLeaves :=
  ⟨rfl, rfl, rfl, rfl, rfl, rfl, Core.readX_init, rfl, fun _ => Core.readP_init, fun _ => rfl, rfl, rfl, rfl, rfl, rfl, rfl,
    rfl, fun _ => rfl, fun _ => rfl, fun _ => rfl, turns_reset, step_of_idle rfl rfl turns_reset⟩

end Sys2Proof.Machine
end

/-! PROOFS. Encoding (spec/02_bundle_encoding.md): every slot operation is read back from its syllables. -/
section
namespace Sys2Proof

/-! ## Fields at their places (R51 to R55) -/

theorem ofBool_lt_two (b : Bool) : ofBool b < 2 := by cases b <;> decide

/-- A bit that a flag was put at reads as the flag. -/
theorem bit_of_div_mod {w i : Nat} {b : Bool} (h : w / 2 ^ i % 2 = ofBool b) : bit w i = b := by
  unfold bit
  rw [h]
  cases b <;> rfl

theorem shortWord_bt (e bt : Bool) {g op fld : Nat} (hg : g < 16) (hop : op < 128) (hf : fld < 2 ^ 18) :
    bit (shortWord e bt g op fld) 29 = bt := by
  have hbt := ofBool_lt_two bt
  exact bit_of_div_mod (by simp only [shortWord]; omega)

theorem shortWord_guard (e bt : Bool) {g op fld : Nat} (hg : g < 16) (hop : op < 128) (hf : fld < 2 ^ 18) :
    bits (shortWord e bt g op fld) 25 4 = g := by
  have hbt := ofBool_lt_two bt
  simp only [bits, shortWord]
  omega

theorem shortWord_op (e bt : Bool) {g op fld : Nat} (hop : op < 128) (hf : fld < 2 ^ 18) :
    bits (shortWord e bt g op fld) 18 7 = op := by
  simp only [bits, shortWord]
  omega

/-- A field below the opcode is that of the eighteen bits of operands. -/
theorem bits_shortWord (e bt : Bool) (g op fld : Nat) {lo n : Nat} (h : lo + n ≤ 18) :
    bits (shortWord e bt g op fld) lo n = bits fld lo n := by
  obtain ⟨m, hm⟩ : 2 ^ (lo + n) ∣ 2 ^ 18 := pow_dvd_pow 2 h
  have hw : shortWord e bt g op fld = fld + 2 ^ lo * (2 ^ n * (m * (ofBool e * 2 ^ 12 + ofBool bt * 2 ^ 11 + g * 2 ^ 7 + op))) := by
    rw [← mul_assoc, ← pow_add, ← mul_assoc, ← hm]
    simp only [shortWord]
    ring
  simp [bits, hw, Nat.add_mul_div_left]

/-- An extension syllable carries its uniform-select bits and the field below them (R53). -/
theorem KSel.dec_enc_add (k : KSel) {h : Nat} (hh : h < 2 ^ 28) : KSel.dec (k.enc + h) = k ∧ bits (k.enc + h) 0 28 = h := by
  have h1 := ofBool_lt_two k.k1
  have h2 := ofBool_lt_two k.k2
  have h3 := ofBool_lt_two k.k3
  have hk : KSel.dec (k.enc + h) = ⟨k.k1, k.k2, k.k3⟩ := by
    rw [KSel.dec, bit_of_div_mod (b := k.k1) (by simp only [KSel.enc]; omega),
      bit_of_div_mod (b := k.k2) (by simp only [KSel.enc]; omega), bit_of_div_mod (b := k.k3) (by simp only [KSel.enc]; omega)]
  refine ⟨hk, ?_⟩
  simp only [bits, KSel.enc]
  omega

@[simp] theorem KSel.dec_enc (k : KSel) : KSel.dec k.enc = k := by
  obtain ⟨h, -⟩ := k.dec_enc_add (h := 0) (Nat.two_pow_pos 28)
  rwa [Nat.add_zero] at h

theorem bits_low {w n : Nat} (h : w < 2 ^ n) : bits w 0 n = w := by
  rw [bits, pow_zero, Nat.div_one, Nat.mod_eq_of_lt h]

/-! ## Short operations (R51 to R53) -/

/-- A syllable and its extension, where it has one. -/
def syllables (w : Nat) (x : Option Nat) : List Nat := w :: x.toList

/-- Some words are a syllable of opcode `op`, with or without an extension, from which `dec` reads the fields `o`. -/
def Carries {α : Type} (dec : Nat → Option Nat → α) (op : Nat) (o : α) (ws : List Nat) : Prop :=
  ∃ w x, ws = syllables w x ∧ bits w 18 7 = op ∧ dec w x = o

theorem gbOk_iff {g : Nat} {bt allowed : Bool} : gbOk g bt allowed = true ↔ g < 16 ∧ (bt = true → allowed = true) := by
  cases bt <;> cases allowed <;> simp [gbOk]

section
variable {op : Nat} (hop : op < 128)
include hop

theorem S0.carries {o : S0} {bt : Bool} (h : o.ok bt = true) : Carries (fun w _ => S0.dec w) op o (o.enc op) := by
  obtain ⟨hg, -⟩ := gbOk_iff.1 h
  refine ⟨_, none, rfl, shortWord_op _ _ hop (Nat.two_pow_pos 18), ?_⟩
  simp only [S0.dec, shortWord_bt _ _ hg hop (Nat.two_pow_pos 18), shortWord_guard _ _ hg hop (Nat.two_pow_pos 18)]

/-- The three fields of S3 and S3X. -/
theorem S3.dec_shortWord {g f1 f2 f3 : Nat} (e bt : Bool) (x : Option Nat) (hg : g < 16) (h1 : f1 < 64) (h2 : f2 < 64)
    (h3 : f3 < 64) :
    S3.dec (shortWord e bt g op (f1 * 2 ^ 12 + f2 * 2 ^ 6 + f3)) x = ⟨bt, g, f1, f2, f3, x.map KSel.dec⟩ := by
  have hf : f1 * 2 ^ 12 + f2 * 2 ^ 6 + f3 < 2 ^ 18 := by omega
  simp (disch := decide) only [S3.dec, shortWord_bt _ _ hg hop hf, shortWord_guard _ _ hg hop hf, bits_shortWord, S3.mk.injEq,
    true_and, and_true]
  simp only [bits]
  omega

theorem S3.carries {o : S3} {bt s1 s2 s3 : Bool} (h : o.ok bt s1 s2 s3 = true) : Carries S3.dec op o (o.enc op) := by
  obtain ⟨bt', g, f1, f2, f3, ext⟩ := o
  simp only [S3.ok, gbOk_iff, Bool.and_eq_true, decide_eq_true_eq, and_assoc] at h
  obtain ⟨hg, -, h1, h2, h3, -⟩ := h
  have hf : f1 * 2 ^ 12 + f2 * 2 ^ 6 + f3 < 2 ^ 18 := by omega
  cases ext with
  | none => exact ⟨_, none, rfl, shortWord_op _ _ hop hf, S3.dec_shortWord hop _ _ _ hg h1 h2 h3⟩
  | some k =>
    refine ⟨_, some k.enc, rfl, shortWord_op _ _ hop hf, (S3.dec_shortWord hop _ _ _ hg h1 h2 h3).trans ?_⟩
    rw [Option.map_some, KSel.dec_enc]

theorem S3X.carries {o : S3X} {bt s2 s3 : Bool} (h : o.ok bt s2 s3 = true) : Carries S3X.dec op o (o.enc op) := by
  obtain ⟨bt', g, f1, f2, f3, k, y⟩ := o
  simp only [S3X.ok, gbOk_iff, Bool.and_eq_true, decide_eq_true_eq, and_assoc] at h
  obtain ⟨hg, -, h1, h2, h3, hy, -⟩ := h
  have hf : f1 * 2 ^ 12 + f2 * 2 ^ 6 + f3 < 2 ^ 18 := by omega
  obtain ⟨hk, hx⟩ := k.dec_enc_add hy
  refine ⟨_, some (k.enc + y), rfl, shortWord_op _ _ hop hf, ?_⟩
  have hd := S3.dec_shortWord hop true bt' none hg h1 h2 h3
  simp only [S3.dec, S3.mk.injEq] at hd
  simp only [S3X.dec, Option.getD_some, hk, hx, hd]

theorem S2I.carries {o : S2I} {bt s1 s2 : Bool} (h : o.ok bt s1 s2 = true) : Carries S2I.dec op o (o.enc op) := by
  obtain ⟨bt', g, f1, f2, f3, ext⟩ := o
  simp only [S2I.ok, gbOk_iff, Bool.and_eq_true, decide_eq_true_eq, and_assoc] at h
  obtain ⟨hg, -, h1, h2, h3, hext⟩ := h
  have hf : f1 * 2 ^ 12 + f2 * 2 ^ 6 + f3 < 2 ^ 18 := by omega
  have hd (e : Bool) := S3.dec_shortWord hop e bt' none hg h1 h2 h3
  simp only [S3.dec, S3.mk.injEq] at hd
  cases ext with
  | none => exact ⟨_, none, rfl, shortWord_op _ _ hop hf, by simp only [S2I.dec, hd, Option.map_none]⟩
  | some e =>
    obtain ⟨k, y⟩ := e
    simp only [Bool.and_eq_true, decide_eq_true_eq, and_assoc] at hext
    obtain ⟨hk, hx⟩ := k.dec_enc_add hext.1
    exact ⟨_, some (k.enc + y), rfl, shortWord_op _ _ hop hf, by simp only [S2I.dec, hd, Option.map_some, hk, hx]⟩

theorem S1I.carries {o : S1I} {bt s1 : Bool} (h : o.ok bt s1 = true) : Carries S1I.dec op o (o.enc op) := by
  obtain ⟨bt', g, f1, i, ext⟩ := o
  simp only [S1I.ok, gbOk_iff, Bool.and_eq_true, decide_eq_true_eq, and_assoc] at h
  obtain ⟨hg, -, h1, hi, hext⟩ := h
  have hf : f1 * 2 ^ 12 + i < 2 ^ 18 := by omega
  have hd (e : Bool) (x : Option Nat) : S1I.dec (shortWord e bt' g op (f1 * 2 ^ 12 + i)) x =
      ⟨bt', g, f1, i, x.map fun y => (KSel.dec y, bits y 0 28)⟩ := by
    simp (disch := decide) only [S1I.dec, shortWord_bt _ _ hg hop hf, shortWord_guard _ _ hg hop hf, bits_shortWord, S1I.mk.injEq,
      true_and, and_true]
    simp only [bits]
    omega
  cases ext with
  | none => exact ⟨_, none, rfl, shortWord_op _ _ hop hf, hd _ _⟩
  | some e =>
    obtain ⟨k, y⟩ := e
    simp only [Bool.and_eq_true, decide_eq_true_eq, and_assoc] at hext
    obtain ⟨hk, hx⟩ := k.dec_enc_add hext.1
    refine ⟨_, some (k.enc + y), rfl, shortWord_op _ _ hop hf, (hd _ _).trans ?_⟩
    rw [Option.map_some, hk, hx]

theorem SI.carries {o : SI} {bt : Bool} (h : o.ok bt = true) : Carries SI.dec op o (o.enc op) := by
  obtain ⟨bt', g, i, ext⟩ := o
  simp only [SI.ok, gbOk_iff, Bool.and_eq_true, decide_eq_true_eq, and_assoc] at h
  obtain ⟨hg, -, hi, hext⟩ := h
  have hd (e : Bool) (x : Option Nat) : SI.dec (shortWord e bt' g op i) x = ⟨bt', g, i, x.map fun y => bits y 0 31⟩ := by
    simp (disch := decide) only [SI.dec, shortWord_bt _ _ hg hop hi, shortWord_guard _ _ hg hop hi, bits_shortWord, SI.mk.injEq,
      true_and, and_true]
    simp only [bits]
    omega
  cases ext with
  | none => exact ⟨_, none, rfl, shortWord_op _ _ hop hi, hd _ _⟩
  | some y =>
    refine ⟨_, some y, rfl, shortWord_op _ _ hop hi, (hd _ _).trans ?_⟩
    rw [Option.map_some, bits_low (of_decide_eq_true hext)]

theorem SPI.carries {o : SPI} {bt : Bool} (h : o.ok bt = true) : Carries SPI.dec op o (o.enc op) := by
  obtain ⟨bt', g, p1, i, ext⟩ := o
  simp only [SPI.ok, gbOk_iff, Bool.and_eq_true, decide_eq_true_eq, and_assoc] at h
  obtain ⟨hg, -, hp, hi, hext⟩ := h
  have hf : p1 * 2 ^ 14 + i < 2 ^ 18 := by omega
  have hd (e : Bool) (x : Option Nat) : SPI.dec (shortWord e bt' g op (p1 * 2 ^ 14 + i)) x =
      ⟨bt', g, p1, i, x.map fun y => bits y 0 31⟩ := by
    simp (disch := decide) only [SPI.dec, shortWord_bt _ _ hg hop hf, shortWord_guard _ _ hg hop hf, bits_shortWord, SPI.mk.injEq,
      true_and, and_true]
    simp only [bits]
    omega
  cases ext with
  | none => exact ⟨_, none, rfl, shortWord_op _ _ hop hf, hd _ _⟩
  | some y =>
    refine ⟨_, some y, rfl, shortWord_op _ _ hop hf, (hd _ _).trans ?_⟩
    rw [Option.map_some, bits_low (of_decide_eq_true hext)]

theorem SC.carries {o : SC} (h : o.ok = true) : Carries SC.dec op o (o.enc op) := by
  obtain ⟨bt', g, p1, f2, f3, ext⟩ := o
  simp only [SC.ok, gbOk_iff, Bool.and_eq_true, decide_eq_true_eq, and_assoc] at h
  obtain ⟨hg, -, hp, h2, h3, -⟩ := h
  have hf : p1 * 2 ^ 14 + f2 * 2 ^ 6 + f3 < 2 ^ 18 := by omega
  have hd (e : Bool) (x : Option Nat) : SC.dec (shortWord e bt' g op (p1 * 2 ^ 14 + f2 * 2 ^ 6 + f3)) x =
      ⟨bt', g, p1, f2, f3, x.map KSel.dec⟩ := by
    simp (disch := decide) only [SC.dec, shortWord_bt _ _ hg hop hf, shortWord_guard _ _ hg hop hf, bits_shortWord, SC.mk.injEq,
      true_and, and_true]
    simp only [bits]
    omega
  cases ext with
  | none => exact ⟨_, none, rfl, shortWord_op _ _ hop hf, hd _ _⟩
  | some k =>
    refine ⟨_, some k.enc, rfl, shortWord_op _ _ hop hf, (hd _ _).trans ?_⟩
    rw [Option.map_some, KSel.dec_enc]

theorem SL.carries {o : SL} (h : o.ok = true) : Carries (fun w _ => SL.dec w) op o (o.enc op) := by
  obtain ⟨bt', g, p1, p2, p3⟩ := o
  simp only [SL.ok, gbOk_iff, Bool.and_eq_true, decide_eq_true_eq, and_assoc] at h
  obtain ⟨hg, -, h1, h2, h3⟩ := h
  have hf : p1 * 2 ^ 14 + p2 * 2 ^ 10 + p3 * 2 ^ 6 < 2 ^ 18 := by omega
  refine ⟨_, none, rfl, shortWord_op _ _ hop hf, ?_⟩
  simp (disch := decide) only [SL.dec, shortWord_bt _ _ hg hop hf, shortWord_guard _ _ hg hop hf, bits_shortWord, SL.mk.injEq,
    true_and]
  simp only [bits]
  omega

/-! ## Long operations (R55) -/

/-- Some words hold a 62-bit body of opcode `op` whose fields are `o`. -/
def CarriesLong (op : Nat) (o : Long) (ws : List Nat) : Prop :=
  ∃ w y, ws = [w, y] ∧ bits (w + y * 2 ^ 31) 50 7 = op ∧ Long.dec (w + y * 2 ^ 31) = o

theorem Long.carries {o : Long} (h : o.inRange = true) : CarriesLong op o (o.enc op) := by
  refine ⟨_, _, rfl, ?_⟩
  rw [Nat.mod_add_div']
  obtain ⟨g, wbs, ty, md, dst, sa, sb, sc⟩ := o
  simp only [Long.inRange, Bool.and_eq_true, decide_eq_true_eq] at h
  have hw := ofBool_lt_two wbs
  have hbit : bit (Long.body op ⟨g, wbs, ty, md, dst, sa, sb, sc⟩) 49 = wbs :=
    bit_of_div_mod (by simp only [Long.body]; omega)
  constructor
  · simp only [Long.body, bits]
    omega
  · simp only [Long.dec, hbit, Long.mk.injEq, true_and]
    refine ⟨?_, ?_, ?_, ?_, ?_, ?_, ?_⟩ <;> simp only [Long.body, bits] <;> omega

end

theorem Long.inRange_of_atomOk {o : Long} {orders sbKind : Nat} {ret0 ret1 u : Bool}
    (h : o.atomOk orders sbKind ret0 ret1 u = true) : o.inRange = true := by
  have h' : (_ && _) = true := h
  simp only [Bool.and_eq_true, and_assoc] at h'
  exact h'.1

/-! ## The opcode maps (R74) -/

section
variable {w : Nat} {x : Option Nat}

theorem readOp_c_syllables : readOp .c (syllables w x) = readOpC w x := by cases x <;> rfl
theorem readOp_s_syllables : readOp .s (syllables w x) = readOpS w x := by cases x <;> rfl
theorem readOp_a_syllables : readOp .a (syllables w x) = readOpA w x := by cases x <;> rfl
theorem readOp_f_syllables : readOp .f (syllables w x) = readOpF w x := by cases x <;> rfl

end

/-- A short operation is read back where its slot's map names it under its opcode. -/
theorem readOp_of_carries {α : Type} {dec : Nat → Option Nat → α} {op : Nat} {o : α} {ws : List Nat} {sl : Slot} {c : α → Instr}
    (h : Carries dec op o ws) (hc : ∀ w x, bits w 18 7 = op → readOp sl (syllables w x) = some (c (dec w x))) :
    readOp sl ws = some (c o) := by
  obtain ⟨w, x, rfl, hop, rfl⟩ := h
  exact hc w x hop

/-- A long operation is read back where its slot's map names it under its opcode. -/
theorem readOp_of_carriesLong {op : Nat} {o : Long} {ws : List Nat} {sl : Slot} {c : Long → Instr} (h : CarriesLong op o ws)
    (hc : ∀ w y, bits (w + y * 2 ^ 31) 50 7 = op → readOp sl [w, y] = some (c (Long.dec (w + y * 2 ^ 31)))) :
    readOp sl ws = some (c o) := by
  obtain ⟨w, y, rfl, hop, rfl⟩ := h
  exact hc w y hop

/-- V0 stands for either vector slot. -/
theorem Instr.slot_ne_v1 (i : Instr) : i.slot ≠ some .v1 := by cases i <;> simp [Instr.slot]

section
variable {i : Instr} (hw : i.wf = true)
include hw

theorem readOp_encode_c (hs : i.slot = some .c) : readOp .c (encode i) = some i := by
  cases i with
  | cNop => rfl
  | br o | call o | trap o =>
    exact readOp_of_carries (SI.carries (by decide) hw) fun w x h => by rw [readOp_c_syllables, readOpC, h]; rfl
  | brp o =>
    exact readOp_of_carries (SPI.carries (by decide) hw) fun w x h => by rw [readOp_c_syllables, readOpC, h]; rfl
  | bri o | ret o =>
    simp only [Instr.wf, Bool.and_eq_true, and_assoc] at hw
    exact readOp_of_carries (S3.carries (by decide) hw.1) fun w x h => by rw [readOp_c_syllables, readOpC, h]; rfl
  | loop o =>
    exact readOp_of_carries (S1I.carries (by decide) hw) fun w x h => by rw [readOp_c_syllables, readOpC, h]; rfl
  | sloop o =>
    simp only [Instr.wf, Bool.and_eq_true, and_assoc] at hw
    exact readOp_of_carries (S2I.carries (by decide) hw.1) fun w x h => by rw [readOp_c_syllables, readOpC, h]; rfl
  | next o | lexit o | halt o | eret o | decouple o | rejoin o | sbar o | sqbar o =>
    exact readOp_of_carries (S0.carries (by decide) hw) fun w x h => by rw [readOp_c_syllables, readOpC, h]; rfl
  | lix o | fuse o | pair o =>
    simp only [Instr.wf, Bool.and_eq_true, and_assoc] at hw
    exact readOp_of_carries (S1I.carries (by decide) hw.1) fun w x h => by rw [readOp_c_syllables, readOpC, h]; rfl
  | _ => cases hs

theorem readOp_encode_s (hs : i.slot = some .s) : readOp .s (encode i) = some i := by
  cases i with
  | sNop => rfl
  | add o | sub o | mul o | mulhs o | mulhn o | divs o | divn o | rems o | remn o | and o | or o | xor o | andn o
  | shl o | shrn o | shrs o | rotl o | mins o | maxs o | minn o | maxn o =>
    exact readOp_of_carries (S3.carries (by decide) hw) fun w x h => by rw [readOp_s_syllables, readOpS, h]; rfl
  | clz o | ctz o | popc o | add128 o | wid o | rank o =>
    simp only [Instr.wf, Bool.and_eq_true, and_assoc, S3.alu1Ok] at hw
    exact readOp_of_carries (S3.carries (by decide) hw.1) fun w x h => by rw [readOp_s_syllables, readOpS, h]; rfl
  | bext o | bins o | sel o =>
    simp only [Instr.wf, Bool.and_eq_true, and_assoc] at hw
    exact readOp_of_carries (S3X.carries (by decide) hw.1) fun w x h => by rw [readOp_s_syllables, readOpS, h]; rfl
  | addi o =>
    exact readOp_of_carries (S2I.carries (by decide) hw) fun w x h => by rw [readOp_s_syllables, readOpS, h]; rfl
  | movi o =>
    exact readOp_of_carries (S1I.carries (by decide) hw) fun w x h => by rw [readOp_s_syllables, readOpS, h]; rfl
  | cmpEq o | cmpNe o | cmpLts o | cmpLes o | cmpLtn o | cmpLen o | cmpAny o | cmpNone o =>
    exact readOp_of_carries (SC.carries (by decide) hw) fun w x h => by rw [readOp_s_syllables, readOpS, h]; rfl
  | pand o | por o | pxor o =>
    exact readOp_of_carries (SL.carries (by decide) hw) fun w x h => by rw [readOp_s_syllables, readOpS, h]; rfl
  | pnot o | pmov o =>
    simp only [Instr.wf, Bool.and_eq_true] at hw
    exact readOp_of_carries (SL.carries (by decide) hw.1) fun w x h => by rw [readOp_s_syllables, readOpS, h]; rfl
  | mfs o | mts o =>
    simp only [Instr.wf, Bool.and_eq_true, and_assoc] at hw
    exact readOp_of_carries (S1I.carries (by decide) hw.1) fun w x h => by rw [readOp_s_syllables, readOpS, h]; rfl
  | _ => cases hs

theorem readOp_encode_a (hs : i.slot = some .a) : readOp .a (encode i) = some i := by
  cases i with
  | aNop => rfl
  | alea o =>
    simp only [Instr.wf, Bool.and_eq_true] at hw
    exact readOp_of_carries (S2I.carries (by decide) hw.1) fun w x h => by rw [readOp_a_syllables, readOpA, h]; rfl
  | aset o | astep o | aring o | wadv o | wclose o =>
    simp only [Instr.wf, Bool.and_eq_true, and_assoc] at hw
    exact readOp_of_carries (S3.carries (by decide) hw.1) fun w x h => by rw [readOp_a_syllables, readOpA, h]; rfl
  | wopen o =>
    simp only [Instr.wf, Bool.and_eq_true, and_assoc] at hw
    exact readOp_of_carries (S3X.carries (by decide) hw.1) fun w x h => by rw [readOp_a_syllables, readOpA, h]; rfl
  | _ => cases hs

theorem readOp_encode_f (hs : i.slot = some .f) : readOp .f (encode i) = some i := by
  cases i with
  | fNop => rfl
  | fill o =>
    simp only [Instr.wf, Bool.and_eq_true, and_assoc] at hw
    exact readOp_of_carries (S2I.carries (by decide) hw.1) fun w x h => by rw [readOp_f_syllables, readOpF, h]; rfl
  | flcfg o | flpush o | flpop o =>
    simp only [Instr.wf, Bool.and_eq_true, and_assoc] at hw
    exact readOp_of_carries (S3X.carries (by decide) hw.1) fun w x h => by rw [readOp_f_syllables, readOpF, h]; rfl
  | _ => cases hs

theorem readOp_encode_x (hs : i.slot = some .x) : readOp .x (encode i) = some i := by
  cases i with
  | xNop => rfl
  | lds o | sts o | vld o | vst o | vldx o | vstx o | tld o | tst o | tcopy o | tpref o | fence o | qfence o | vjoin o
  | waita o =>
    simp only [Instr.wf, Bool.and_eq_true, and_assoc] at hw
    exact readOp_of_carriesLong (Long.carries (by decide) hw.1) fun w y h => by rw [readOp, readOpX, h]; rfl
  | aadd o | amin o | amax o | aand o | aor o | axor o | axchg o | acas o | ald o | ast o | afadd o | notify o
  | dqpush o | dqpop o | dqsteal o | dcnt o =>
    simp only [Instr.wf] at hw
    exact readOp_of_carriesLong (Long.carries (by decide) (Long.inRange_of_atomOk hw)) fun w y h => by
      rw [readOp, readOpX, h]; rfl
  | _ => cases hs

theorem readOp_encode_v {sl : Slot} (hsl : sl = .v0 ∨ sl = .v1) (hs : i.slot = some .v0) : readOp sl (encode i) = some i := by
  have hv {w y : Nat} : readOp sl [w, y] = readOpV (w + y * 2 ^ 31) := by obtain rfl | rfl := hsl <;> rfl
  cases i with
  | vNop => exact hv
  | vadd o | vsub o | vadds o | vsubs o | vmul o | vmulh o | vmad o | vabs o | vneg o | vmin o | vmax o | vand o
  | vor o | vxor o | vshl o | vshr o | vsar o | vcmp o | vsel o | vclz o | vpopc o | vfadd o | vfsub o | vfmul o
  | vfma o | vfnma o | vfmin o | vfmax o | vfabs o | vfneg o | vfcmp o | vfclass o | vfscale o | vfrcp o | vfrsq o
  | vfexp2 o | vflog2 o | vcvt o | vqmx o | vdqmx o | vpack o | vunpack o | vradd o | vrfadd o | vrmax o | vrmin o
  | vrfmax o | vperm o | vbcast o | vlrot o | vshuf o | vcmpr o | vexpd o | viota o | mand o | mor o | mnot o | mpop o
  | vrng o =>
    simp only [Instr.wf, Long.viOk, Long.vshOk, Long.vfOk, Long.vcvtOk, Long.redOk, Bool.and_eq_true, and_assoc] at hw
    exact readOp_of_carriesLong (Long.carries (by decide) hw.1) fun w y h => by rw [hv, readOpV, h]; rfl
  | _ => cases hs

theorem readOp_encode_m (hs : i.slot = some .m) : readOp .m (encode i) = some i := by
  cases i with
  | mNop => rfl
  | mldb o | mpush o | mshift o | macc o | mtern o | mdrain o | mzero o | mswap o | mtfetch o =>
    simp only [Instr.wf, Long.beatOk, Bool.and_eq_true, and_assoc] at hw
    exact readOp_of_carriesLong (Long.carries (by decide) hw.1) fun w y h => by rw [readOp, readOpM, h]; rfl
  | _ => cases hs

/-- What a well-formed operation is encoded to reads as the operation in each slot in which it may stand. -/
theorem readOp_encode {sl : Slot} (hf : i.fits sl) : readOp sl (encode i) = some i := by
  obtain hs | ⟨hs, rfl⟩ := hf
  · cases sl with
    | c => exact readOp_encode_c hw hs
    | s => exact readOp_encode_s hw hs
    | a => exact readOp_encode_a hw hs
    | x => exact readOp_encode_x hw hs
    | v0 => exact readOp_encode_v hw (.inl rfl) hs
    | v1 => exact absurd hs i.slot_ne_v1
    | m => exact readOp_encode_m hw hs
    | f => exact readOp_encode_f hw hs
  · exact readOp_encode_v hw (.inr rfl) hs

end

theorem decode_eq_some {sl : Slot} {ws : List Nat} {i : Instr} :
    decode sl ws = some i ↔ readOp sl ws = some i ∧ i.wf = true ∧ encode i = ws := by
  simp only [decode, Option.bind_eq_some_iff, Option.ite_none_right_eq_some, Bool.and_eq_true, beq_iff_eq, Option.some.injEq]
  constructor
  · rintro ⟨j, hr, ⟨hw, he⟩, rfl⟩
    exact ⟨hr, hw, he⟩
  · rintro ⟨hr, hw, he⟩
    exact ⟨i, hr, ⟨hw, he⟩, rfl⟩

/-- Settles O51: an encoding reads back field by field, and the decoder accepts nothing else. -/
theorem slotsRoundTrip : Obligations.SlotsRoundTrip := by
  refine ⟨fun i sl hw hf => ?_, fun sl ws i h => ?_⟩
  · exact decode_eq_some.2 ⟨readOp_encode hw hf, hw, rfl⟩
  · obtain ⟨-, hw, he⟩ := decode_eq_some.1 h
    exact ⟨he, hw⟩

end Sys2Proof
end

/-! PROOFS. Encoding (spec/02_bundle_encoding.md, spec/14): records and bundle headers are read back from their words. -/
section
namespace Sys2Proof

/-- Settles O50: each word is evaluated. -/
theorem decodeWords : Obligations.DecodeWords := by
  unfold Obligations.DecodeWords
  decide +kernel

/-! ## Records (R320) -/

theorem decodeRecord_eq_some {st : StreamId} {ws : List Nat} {i : Instr} :
    decodeRecord st ws = some i ↔ readRecord st ws = some i ∧ i.wf = true ∧ encodeRecord i = ws := by
  simp only [decodeRecord, Option.bind_eq_some_iff, Option.ite_none_right_eq_some, Bool.and_eq_true, beq_iff_eq, Option.some.injEq]
  constructor
  · rintro ⟨j, hr, ⟨hw, he⟩, rfl⟩
    exact ⟨hr, hw, he⟩
  · rintro ⟨hr, hw, he⟩
    exact ⟨i, hr, ⟨hw, he⟩, rfl⟩

/-- What is read as a record of a stream stands in that stream. -/
theorem stream_of_readRecord {st : StreamId} {ws : List Nat} {i : Instr} (h : readRecord st ws = some i) :
    i.stream = some st := by
  unfold readRecord at h
  split at h
  · dsimp only at h
    split at h <;> first | cases h; rfl | cases h
  · cases h

/-- The words of a TUSE after its first hold one use each. -/
theorem readRecord_tuse {st : StreamId} {w0 : Nat} {l : List Nat} (hop : bits w0 0 8 = 0x11) (hl : l.length = 7) :
    readRecord st (w0 :: l) = some (.tuse st ((l.take (bits w0 8 3)).map fun u => (bits u 0 20, bits u 20 12))) := by
  match l, hl with
  | [w1, w2, w3, w4, w5, w6, w7], _ => simp only [readRecord, hop]

/-- A TUSE of at most seven uses is read back. -/
theorem readRecord_encode_tuse {st : StreamId} {uses : List (Nat × Nat)} (hn : uses.length ≤ 7)
    (hu : ∀ u ∈ uses, u.1 < 2 ^ 20 ∧ u.2 < 4096) :
    readRecord st (encodeRecord (.tuse st uses)) = some (.tuse st uses) := by
  have hop : bits (uses.length * 2 ^ 8 + 0x11) 0 8 = 0x11 := by simp only [bits]; omega
  have hlen : bits (uses.length * 2 ^ 8 + 0x11) 8 3 = uses.length := by simp only [bits]; omega
  have huse : ∀ u ∈ uses, (bits (u.2 * 2 ^ 20 + u.1) 0 20, bits (u.2 * 2 ^ 20 + u.1) 20 12) = u := fun u hm => by
    obtain ⟨h1, h2⟩ := hu u hm
    refine Prod.ext ?_ ?_ <;> simp only [bits] <;> omega
  rw [encodeRecord, readRecord_tuse hop (by simp; omega), hlen, List.take_left' (by simp), List.map_map]
  exact congrArg (fun l => some (Instr.tuse st l)) ((List.map_congr_left huse).trans uses.map_id')

/-- The fields of a well-formed record are read back from its words. -/
theorem readRecord_encodeRecord {i : Instr} {st : StreamId} (hw : i.wf = true) (hs : i.stream = some st) :
    readRecord st (encodeRecord i) = some i := by
  cases i with
  | phase st' => cases hs; rfl
  | oplaunch st' o =>
    cases hs
    obtain ⟨sigId, sigKind, pri, slot, kernel, args⟩ := o
    simp only [Instr.wf, handleOk, Bool.and_eq_true, decide_eq_true_eq] at hw
    have hop : bits (sigId * 2 ^ 16 + sigKind * 2 ^ 14 + pri * 2 ^ 12 + slot * 2 ^ 8 + 0x01) 0 8 = 0x01 := by
      simp only [bits]; omega
    rw [encodeRecord]
    simp only [readRecord, hop]
    simp only [Option.some.injEq, Instr.oplaunch.injEq, OpLaunch.mk.injEq, true_and, bits]
    omega
  | taskdef st' o =>
    cases hs
    obtain ⟨n, pri, slot, kernel, args⟩ := o
    simp only [Instr.wf, handleOk, Bool.and_eq_true, decide_eq_true_eq] at hw
    have hop : bits (n * 2 ^ 16 + pri * 2 ^ 12 + slot * 2 ^ 8 + 0x03) 0 8 = 0x03 := by simp only [bits]; omega
    rw [encodeRecord]
    simp only [readRecord, hop]
    simp only [Option.some.injEq, Instr.taskdef.injEq, TaskDef.mk.injEq, true_and, bits]
    omega
  | opwait st' mask cont handle =>
    cases hs
    simp only [Instr.wf, handleOk, Bool.and_eq_true, decide_eq_true_eq] at hw
    have hb := ofBool_lt_two cont
    have hop : bits (ofBool cont * 2 ^ 8 + 0x05) 0 8 = 0x05 := by simp only [bits]; omega
    have hc : bit (ofBool cont * 2 ^ 8 + 0x05) 8 = cont := bit_of_div_mod (by omega)
    rw [encodeRecord]
    simp only [readRecord, hop, hc]
    simp only [Option.some.injEq, Instr.opwait.injEq, true_and, bits]
    omega
  | tuse st' uses =>
    cases hs
    simp only [Instr.wf, handleOk, Bool.and_eq_true, decide_eq_true_eq, List.all_eq_true] at hw
    exact readRecord_encode_tuse hw.1 hw.2
  | taskarm st' n count =>
    cases hs
    simp only [Instr.wf, Bool.and_eq_true, decide_eq_true_eq] at hw
    have hop : bits (n * 2 ^ 16 + 0x04) 0 8 = 0x04 := by simp only [bits]; omega
    rw [encodeRecord]
    simp only [readRecord, hop]
    simp only [Option.some.injEq, Instr.taskarm.injEq, true_and, and_true, bits]
    omega
  | mboxbind st' o =>
    cases hs
    obtain ⟨m, pri, kernel, args⟩ := o
    simp only [Instr.wf, handleOk, Bool.and_eq_true, decide_eq_true_eq] at hw
    have hop : bits (m * 2 ^ 16 + pri * 2 ^ 12 + 0x06) 0 8 = 0x06 := by simp only [bits]; omega
    rw [encodeRecord]
    simp only [readRecord, hop]
    simp only [Option.some.injEq, Instr.mboxbind.injEq, MboxBind.mk.injEq, true_and, bits]
    omega
  | mboxfree st' m =>
    cases hs
    simp only [Instr.wf, decide_eq_true_eq] at hw
    have hop : bits (m * 2 ^ 16 + 0x07) 0 8 = 0x07 := by simp only [bits]; omega
    rw [encodeRecord]
    simp only [readRecord, hop]
    simp only [Option.some.injEq, Instr.mboxfree.injEq, true_and, bits]
    omega
  | specflush st' all handle =>
    cases hs
    simp only [Instr.wf, handleOk, Bool.and_eq_true, decide_eq_true_eq] at hw
    have hb := ofBool_lt_two all
    have hop : bits (ofBool all * 2 ^ 8 + 0x08) 0 8 = 0x08 := by simp only [bits]; omega
    have ha : bit (ofBool all * 2 ^ 8 + 0x08) 8 = all := bit_of_div_mod (by omega)
    rw [encodeRecord]
    simp only [readRecord, hop, ha, bits_low hw.1]
  | tdecl st' o =>
    cases hs
    obtain ⟨fmt, raw, rank, die, place, key, handle, e0, e1, e2, e3⟩ := o
    simp only [Instr.wf, TDecl.ok, handleOk, Bool.and_eq_true, decide_eq_true_eq] at hw
    have hb := ofBool_lt_two raw
    have hop : bits (key * 2 ^ 19 + place * 2 ^ 18 + die * 2 ^ 16 + rank * 2 ^ 14 + ofBool raw * 2 ^ 13 + fmt * 2 ^ 8 + 0x10) 0 8 =
        0x10 := by simp only [bits]; omega
    have hr : bit (key * 2 ^ 19 + place * 2 ^ 18 + die * 2 ^ 16 + rank * 2 ^ 14 + ofBool raw * 2 ^ 13 + fmt * 2 ^ 8 + 0x10) 13 =
        raw := bit_of_div_mod (by omega)
    rw [encodeRecord]
    simp only [readRecord, hop, hr]
    simp only [Option.some.injEq, Instr.tdecl.injEq, TDecl.mk.injEq, true_and, and_true, bits]
    omega
  | trecipe st' o =>
    cases hs
    obtain ⟨nin, target, nrec, stream, off, work, in0, in1, in2, in3⟩ := o
    simp only [Instr.wf, TRecipe.ok, handleOk, Bool.and_eq_true, decide_eq_true_eq] at hw
    have hop : bits (in3 * 2 ^ 12 + nin * 2 ^ 8 + 0x12) 0 8 = 0x12 := by simp only [bits]; omega
    rw [encodeRecord]
    simp only [readRecord, hop]
    simp only [Option.some.injEq, Instr.trecipe.injEq, TRecipe.mk.injEq, true_and, bits]
    omega
  | trelease st' h =>
    cases hs
    simp only [Instr.wf, handleOk, decide_eq_true_eq] at hw
    have hop : bits 0x13 0 8 = 0x13 := by decide
    rw [encodeRecord]
    simp only [readRecord, hop, bits_low hw]
  | tpin st' tier h =>
    cases hs
    simp only [Instr.wf, handleOk, Bool.and_eq_true, decide_eq_true_eq] at hw
    have hop : bits (tier * 2 ^ 8 + 0x14) 0 8 = 0x14 := by simp only [bits]; omega
    rw [encodeRecord]
    simp only [readRecord, hop]
    simp only [Option.some.injEq, Instr.tpin.injEq, true_and, bits]
    omega
  | tunpin st' h =>
    cases hs
    simp only [Instr.wf, handleOk, decide_eq_true_eq] at hw
    have hop : bits 0x15 0 8 = 0x15 := by decide
    rw [encodeRecord]
    simp only [readRecord, hop, bits_low hw]
  | tquery st' h r =>
    cases hs
    simp only [Instr.wf, handleOk, Bool.and_eq_true, decide_eq_true_eq] at hw
    have hop : bits 0x16 0 8 = 0x16 := by decide
    rw [encodeRecord]
    simp only [readRecord, hop, bits_low hw.1, bits_low hw.2]
  | scan st' o =>
    cases hs
    obtain ⟨sigKind, sigId, ge, abs, fmt, src, res, thr, first, count, cap⟩ := o
    simp only [Instr.wf, Scan.ok, handleOk, Bool.and_eq_true, decide_eq_true_eq] at hw
    have hg := ofBool_lt_two ge
    have ha := ofBool_lt_two abs
    have hop : bits (sigKind * 2 ^ 28 + sigId * 2 ^ 16 + ofBool ge * 2 ^ 14 + ofBool abs * 2 ^ 13 + fmt * 2 ^ 8 + 0x20) 0 8 =
        0x20 := by simp only [bits]; omega
    have hge : bit (sigKind * 2 ^ 28 + sigId * 2 ^ 16 + ofBool ge * 2 ^ 14 + ofBool abs * 2 ^ 13 + fmt * 2 ^ 8 + 0x20) 14 = ge :=
      bit_of_div_mod (by omega)
    have habs : bit (sigKind * 2 ^ 28 + sigId * 2 ^ 16 + ofBool ge * 2 ^ 14 + ofBool abs * 2 ^ 13 + fmt * 2 ^ 8 + 0x20) 13 = abs :=
      bit_of_div_mod (by omega)
    rw [encodeRecord]
    simp only [readRecord, hop, hge, habs]
    simp only [Option.some.injEq, Instr.scan.injEq, Scan.mk.injEq, true_and, and_true, bits]
    omega
  | texport st' o =>
    cases hs
    obtain ⟨w, acc, handle, first, count, peer⟩ := o
    simp only [Instr.wf, handleOk, Bool.and_eq_true, decide_eq_true_eq] at hw
    have hop : bits (w * 2 ^ 16 + acc * 2 ^ 8 + 0x28) 0 8 = 0x28 := by simp only [bits]; omega
    rw [encodeRecord]
    simp only [readRecord, hop]
    simp only [Option.some.injEq, Instr.texport.injEq, TExport.mk.injEq, true_and, bits]
    omega
  | trevoke st' w =>
    cases hs
    simp only [Instr.wf, decide_eq_true_eq] at hw
    have hop : bits (w * 2 ^ 16 + 0x29) 0 8 = 0x29 := by simp only [bits]; omega
    rw [encodeRecord]
    simp only [readRecord, hop]
    simp only [Option.some.injEq, Instr.trevoke.injEq, true_and, bits]
    omega
  | _ => cases hs

/-! ## The bundle header (R49, R50) -/

/-- The slots that a header names as a byte, slot 0 in its top bit. -/
def slotByte (named : Slot → Bool) : Nat :=
  ofBool (named .c) * 128 + ofBool (named .s) * 64 + ofBool (named .a) * 32 + ofBool (named .x) * 16 + ofBool (named .v0) * 8 +
    ofBool (named .v1) * 4 + ofBool (named .m) * 2 + ofBool (named .f)

theorem bit_slotByte (named : Slot → Bool) (k : Nat) (sl : Slot) : bit (256 * k + slotByte named) (7 - sl.num) = named sl := by
  have hs (sl : Slot) := ofBool_lt_two (named sl)
  have h0 := hs .c
  have h1 := hs .s
  have h2 := hs .a
  have h3 := hs .x
  have h4 := hs .v0
  have h5 := hs .v1
  have h6 := hs .m
  have h7 := hs .f
  apply bit_of_div_mod
  cases sl <;> simp only [slotByte, Slot.num, Nat.reduceSub, Nat.reducePow] <;> omega

/-- A sum over the slots. -/
theorem sum_slots (f : Slot → Nat) : (Slot.all.map f).sum = f .c + f .s + f .a + f .x + f .v0 + f .v1 + f .m + f .f := by
  simp only [Slot.all, List.map_cons, List.map_nil, List.sum_cons, List.sum_nil, add_assoc, add_zero]

/-- A header is its mark, the byte of its slots, and the fields below them. -/
theorem Header.enc_eq (slots : List Slot) (rep : Nat) (hold pad : Bool) : Header.enc slots rep hold pad =
    (rep * 2 ^ 17 + ofBool hold * 2 ^ 16 + ofBool pad * 2 ^ 15) + 2 ^ 23 * (256 * 1 + slotByte fun sl => decide (sl ∈ slots)) := by
  have flag (sl : Slot) (n : Nat) : (if sl ∈ slots then n else 0) = ofBool (decide (sl ∈ slots)) * n := by
    by_cases h : sl ∈ slots <;> simp [h, ofBool]
  rw [Header.enc, sum_slots, slotByte]
  simp only [flag, Slot.num]
  omega

section
variable (slots : List Slot) {rep : Nat} (hold pad : Bool) (hr : rep < 64)
include hr

/-- Bit `30 - n` of a header says whether the slot of number n is named. -/
theorem Header.bit_enc_slot (sl : Slot) : bit (Header.enc slots rep hold pad) (30 - sl.num) = decide (sl ∈ slots) := by
  have hh := ofBool_lt_two hold
  have hp := ofBool_lt_two pad
  have hn : 30 - sl.num = 23 + (7 - sl.num) := by cases sl <;> rfl
  have hlow : (rep * 2 ^ 17 + ofBool hold * 2 ^ 16 + ofBool pad * 2 ^ 15) / 2 ^ 23 = 0 := by omega
  rw [hn, Header.enc_eq, bit, pow_add, ← Nat.div_div_eq_div_mul, Nat.add_mul_div_left _ _ (Nat.two_pow_pos 23), hlow, Nat.zero_add]
  exact bit_slotByte (fun sl => decide (sl ∈ slots)) 1 sl

/-- The fields of a header below the slots. -/
theorem Header.enc_low : bits (Header.enc slots rep hold pad) 17 6 = rep ∧ bit (Header.enc slots rep hold pad) 16 = hold ∧
    bit (Header.enc slots rep hold pad) 15 = pad ∧ bits (Header.enc slots rep hold pad) 0 15 = 0 := by
  have hh := ofBool_lt_two hold
  have hp := ofBool_lt_two pad
  rw [Header.enc_eq, bits, bits]
  refine ⟨?_, bit_of_div_mod ?_, bit_of_div_mod ?_, ?_⟩ <;> omega

theorem Header.dec_enc : Header.dec (Header.enc slots rep hold pad) = ⟨Slot.all.filter (· ∈ slots), rep, hold, pad, 0⟩ := by
  obtain ⟨h1, h2, h3, h4⟩ := Header.enc_low slots hold pad hr
  simp only [Header.dec, Header.bit_enc_slot slots hold pad hr, h1, h2, h3, h4]

end

/-- Settles O52: the words of a record and the bits of a header read back field by field. -/
theorem recordsAndHeadersRoundTrip : Obligations.RecordsAndHeadersRoundTrip := by
  refine ⟨fun i st hw hs => ?_, fun st ws i h => ?_, fun slots rep hold pad hr => Header.dec_enc slots hold pad hr⟩
  · exact decodeRecord_eq_some.2 ⟨readRecord_encodeRecord hw hs, hw, rfl⟩
  · obtain ⟨hr, -, he⟩ := decodeRecord_eq_some.1 h
    exact ⟨he, stream_of_readRecord hr⟩

end Sys2Proof
end

/-! PROOFS. Encoding (spec/02_bundle_encoding.md): what no opcode map assigns does not decode and raises cause 0x01. -/
section
namespace Sys2Proof.Machine

/-! ## Opcodes that no map assigns (R75) -/

section
variable {w : Nat} {x : Option Nat} {i : Instr}

theorem readOpC_assigned (h : readOpC w x = some i) : bits w 18 7 ∉ reservedOps .c := by
  unfold readOpC at h
  split at h <;> rename_i hop
  any_goals (rw [hop]; decide)
  cases h

theorem readOpS_assigned (h : readOpS w x = some i) : bits w 18 7 ∉ reservedOps .s := by
  unfold readOpS at h
  split at h <;> rename_i hop
  any_goals (rw [hop]; decide)
  cases h

theorem readOpA_assigned (h : readOpA w x = some i) : bits w 18 7 ∉ reservedOps .a := by
  unfold readOpA at h
  split at h <;> rename_i hop
  any_goals (rw [hop]; decide)
  cases h

theorem readOpF_assigned (h : readOpF w x = some i) : bits w 18 7 ∉ reservedOps .f := by
  unfold readOpF at h
  split at h <;> rename_i hop
  any_goals (rw [hop]; decide)
  cases h

theorem readOpX_assigned (h : readOpX w = some i) : bits w 50 7 ∉ reservedOps .x := by
  unfold readOpX at h
  split at h <;> rename_i hop
  any_goals (rw [hop]; decide)
  cases h

theorem readOpV_assigned (h : readOpV w = some i) : bits w 50 7 ∉ reservedOps .v0 := by
  unfold readOpV at h
  split at h <;> rename_i hop
  any_goals (rw [hop]; decide)
  cases h

theorem readOpM_assigned (h : readOpM w = some i) : bits w 50 7 ∉ reservedOps .m := by
  unfold readOpM at h
  split at h <;> rename_i hop
  any_goals (rw [hop]; decide)
  cases h

end

/-- The opcode of a short operation stands in its first syllable (R51). -/
theorem opField_short {sl : Slot} (hs : sl.isLong = false) (w : Nat) (ws : List Nat) : opField sl (w :: ws) = bits w 18 7 := by
  rw [opField, hs]
  rfl

/-- The opcode of a long operation stands in its body (R55). -/
theorem opField_long {sl : Slot} (hs : sl.isLong = true) (w y : Nat) : opField sl [w, y] = bits (w + y * 2 ^ 31) 50 7 := by
  simp [opField, hs]

/-- What reads as an operation of a slot has an opcode that the slot's map assigns. -/
theorem readOp_assigned {sl : Slot} {ws : List Nat} {i : Instr} (h : readOp sl ws = some i) : opField sl ws ∉ reservedOps sl := by
  unfold readOp at h
  split at h
  any_goals rw [opField_short rfl]
  any_goals rw [opField_long rfl]
  · exact readOpC_assigned h
  · exact readOpC_assigned h
  · exact readOpS_assigned h
  · exact readOpS_assigned h
  · exact readOpA_assigned h
  · exact readOpA_assigned h
  · exact readOpF_assigned h
  · exact readOpF_assigned h
  · exact readOpX_assigned h
  · exact readOpV_assigned h
  · exact readOpV_assigned h
  · exact readOpM_assigned h
  · cases h

/-! ## NOPs (R74) -/

/-- Opcode 0 names the NOP of the slot. -/
theorem readOp_zero {sl : Slot} {ws : List Nat} {i : Instr} (h0 : opField sl ws = 0) (h : readOp sl ws = some i) : i = sl.nop := by
  unfold readOp at h
  split at h
  any_goals rw [opField_short rfl] at h0
  any_goals rw [opField_long rfl] at h0
  any_goals simp only [readOpC, readOpS, readOpA, readOpF, readOpX, readOpV, readOpM, h0, Option.some.injEq] at h
  any_goals exact h.symm
  cases h

theorem encode_nop (sl : Slot) : encode sl.nop = if sl.isLong then [0, 0] else [0] := by cases sl <;> rfl

theorem decode_nop (sl : Slot) : decode sl (if sl.isLong then [0, 0] else [0]) = some sl.nop := by cases sl <;> rfl

/-! ## Illegal bundles at issue (R47, R49, R73) -/

/-- An illegal encoding raises cause 0x01 before any operation of its bundle issues. -/
theorem State.execute_illegal {s : State} {b : Bundle} {slot off : Nat} (hf : s.core.fetch = .bundle b)
    (hd : b.badDelay s.core = false) (hi : b.illegal s.core.priv s.core.seq.pc = some (slot, off)) :
    s.execute none =
      .went (s.raised ⟨0x01, off, []⟩ slot false (b.hdr.rep + 1 - s.core.seq.done) s.core.seq.pc) := by
  simp only [State.execute, hf, hd, hi, Bool.false_eq_true, if_false]

theorem Bundle.illegal_header {b : Bundle} (priv : Bool) (pc : Nat) (h : b.hdr.low ≠ 0) : b.illegal priv pc = some (8, pc) := by
  rw [Bundle.illegal, if_pos h]

/-- The first operation without a decoding is the illegal one where every operation before it is legal. -/
theorem Bundle.illegal_operation {b : Bundle} {pre post : List (Slot × Nat × List Nat)} {sl : Slot} {at_ : Nat} {ws : List Nat}
    {priv : Bool} (pc : Nat) (hl : b.hdr.low = 0) (ho : b.ops = pre ++ (sl, at_, ws) :: post) (hn : decode sl ws = none)
    (hp : ∀ o ∈ pre, ∃ i, decode o.1 o.2.2 = some i ∧ mtsIllegal priv i = false) :
    b.illegal priv pc = some (sl.num, offender sl at_ ws) := by
  rw [Bundle.illegal, if_neg (not_not.2 hl), List.find?_eq_some_iff_append.2 ⟨?_, pre, post, ho, fun o hm => ?_⟩]
  · simp only [Option.map_some, hn, Option.isSome_none, Bool.false_eq_true, if_false]
  · simp only [hn]
  · obtain ⟨i, hi, hm⟩ := hp o hm
    simp only [hi, hm, Bool.not_false]

/-- An ill-formed bundle inside the region is cause 0x03 at its own offset. -/
theorem Core.fetch_illFormed {c : Core} (hh : c.code.isHeader c.seq.pc = true) (hb : c.code.bundleAt c.seq.pc = none)
    (hs : c.seq.pc < c.code.stop) :
    c.fetch = .bad ⟨0x03, c.seq.pc, []⟩ c.seq.pc ((c.code.syl c.seq.pc).elim 0 fun h => (Header.dec h).rep) := by
  simp [Core.fetch, hh, hb, Nat.not_le.2 hs]

/-- Settles O53: what reads at all has an assigned opcode, a NOP encodes to zeros alone, and the first illegal encoding of a
bundle is what raises cause 0x01. -/
theorem reservedEncodingsTrap : Obligations.ReservedEncodingsTrap := by
  refine ⟨fun sl ws hres => ?_, fun sl ws h0 hne => ?_, decode_nop, fun s b hf hd hl => ?_, fun s hh hb hs => ?_,
    fun s b pre post sl at_ ws hf hd hl ho hn hp => ?_⟩
  · rw [Option.eq_none_iff_forall_ne_some]
    intro i h
    exact readOp_assigned (decode_eq_some.1 h).1 hres
  · rw [Option.eq_none_iff_forall_ne_some]
    intro i h
    obtain ⟨hr, -, he⟩ := decode_eq_some.1 h
    rw [readOp_zero h0 hr, encode_nop] at he
    exact hne he.symm
  · exact State.execute_illegal hf hd (Bundle.illegal_header _ _ hl)
  · simp only [State.execute, Core.fetch_illFormed hh hb hs]
  · exact State.execute_illegal hf hd (Bundle.illegal_operation _ hl ho hn hp)

end Sys2Proof.Machine
end

/-! PROOFS. Slot operations as steps of their own (spec/02_bundle_encoding.md R60 to R68): what they answer and what they leave. -/
section
namespace Sys2Proof.Machine

/-! ## A slot operation as a step of its own (R60, R66, R73) -/

section
variable {i : Instr}

/-- A step of a C-slot operation other than NOP settles what running it comes to. -/
theorem exec_cSlot (hs : i.slot = some .c) (hn : i ≠ .cNop) (s : State) : exec i s = settleC s (runOp .c i s) := by
  cases i with
  | cNop => exact absurd rfl hn
  | _ => cases hs <;> rfl

/-- A step of an operation of another slot, but NOP and FLCFG, settles what running it comes to. -/
theorem exec_slot {sl : Slot} (hs : i.slot = some sl) (hn : i ≠ sl.nop) (hc : sl ≠ .c) (hf : ∀ o, i ≠ .flcfg o) (s : State) :
    exec i s = settle s sl (runOp sl i s) := by
  cases i with
  | cNop | sNop | aNop | fNop | xNop | vNop | mNop =>
    cases hs
    exact absurd rfl hn
  | flcfg o => exact absurd rfl (hf o)
  | br o | brp o | bri o | call o | ret o | loop o | sloop o | next o | lexit o | lix o | halt o | trap o | eret o | fuse o
  | decouple o | rejoin o | sbar o | sqbar o | pair o =>
    cases hs
    exact absurd rfl hc
  | _ => cases hs <;> rfl

end

/-- A step of FLCFG puts its configuration in force where it takes effect (R175). -/
theorem exec_flcfg (o : S3X) (s : State) :
    exec (.flcfg o) s = settle s .f ((runOp .f (.flcfg o) s).bind fun t => .ok (t.mapCore Core.applyCfg)) := rfl

/-- A slot operation that does not take effect settles alike in every slot. -/
theorem exec_of_not_ok {i : Instr} {sl : Slot} {s : State} (hs : i.slot = some sl) (hn : i ≠ sl.nop)
    (h : ∀ t, runOp sl i s ≠ .ok t) : exec i s = settle s sl (runOp sl i s) := by
  by_cases hc : sl = .c
  · subst hc
    rw [exec_cSlot hs hn]
    cases hr : runOp .c i s with
    | ok t => exact absurd hr (h t)
    | _ => rfl
  · by_cases hf : ∃ o, i = .flcfg o
    · obtain ⟨o, rfl⟩ := hf
      cases hs
      rw [exec_flcfg]
      cases hr : runOp .f (.flcfg o) s with
      | ok t => exact absurd hr (h t)
      | _ => rfl
    · exact exec_slot hs hn hc (not_exists.1 hf) s

/-- A slot operation that takes effect, but for FLCFG, closes its bundle or ends its execution. -/
theorem exec_of_ok {i : Instr} {sl : Slot} {s t : State} (hs : i.slot = some sl) (hn : i ≠ sl.nop) (hf : ∀ o, i ≠ .flcfg o)
    (h : runOp sl i s = .ok t) : exec i s = .next (if sl = .c then t.closeBundle t.lineTime else t.setViews) := by
  by_cases hc : sl = .c
  · subst hc
    rw [exec_cSlot hs hn, h, if_pos rfl]
    rfl
  · rw [exec_slot hs hn hc hf, h, if_neg hc]
    rfl

/-! ## Guards (R60) -/

/-- An operation that is guarded in each of two forms does nothing where its guard is false. -/
theorem guarded_false_ite {s : State} {g : Nat} {p : Prop} [Decidable p] {k l : Res} (h : s.core.readP g = false) :
    (if p then guarded g s k else guarded g s l) = .ok s := by
  split <;> exact guarded_false _ h

/-- An operation whose guard is false does nothing, but for the three that a mode check precedes. -/
theorem runOp_of_guard_false {i : Instr} {sl : Slot} {s : State} (hs : i.slot = some sl) (hg : s.core.readP i.guard = false)
    (hmfs : ∀ o, i ≠ .mfs o) (hmts : ∀ o, i ≠ .mts o) (heret : ∀ o, i ≠ .eret o) : runOp sl i s = .ok s := by
  cases i with
  | cNop | sNop | aNop | fNop | xNop | vNop | mNop => rfl
  | mfs o => exact absurd rfl (hmfs o)
  | mts o => exact absurd rfl (hmts o)
  | eret o => exact absurd rfl (heret o)
  | vshl o | vshr o | vsar o | vqmx o | vbcast o => exact guarded_false_ite hg
  | _ => cases hs <;> exact guarded_false _ hg

/-! ## What an operation of the S, A and V slots leaves at its issue (R25, R56, R66) -/

/-- The frame of an issue: what the task has stands, and results have joined those in flight. -/
def State.issues (s t : State) : Prop :=
  t.core.regs = s.core.regs ∧ t.core.pad = s.core.pad ∧ t.core.win = s.core.win ∧ t.core.loops = s.core.loops ∧
    t.core.seq = s.core.seq ∧ t.core.trap = s.core.trap ∧ t.core.st.flags = s.core.st.flags ∧ t.core.mode = s.core.mode ∧
    t.core.priv = s.core.priv ∧ t.core.q = s.core.q ∧ t.core.flue = s.core.flue ∧ t.core.mat = s.core.mat ∧
    t.others = s.others ∧ ∃ l, t.core.fly = s.core.fly ++ l

theorem State.issues_refl (s : State) : s.issues s :=
  ⟨rfl, rfl, rfl, rfl, rfl, rfl, rfl, rfl, rfl, rfl, rfl, rfl, rfl, [], (List.append_nil _).symm⟩

theorem State.issues_result (s : State) (sl : Slot) (cls : Nat) (es : List Eff) (l : Option V512) (fl : Nat) :
    s.issues (s.result sl cls es l fl) := ⟨rfl, rfl, rfl, rfl, rfl, rfl, rfl, rfl, rfl, rfl, rfl, rfl, rfl, _, rfl⟩

theorem State.issues_atEnd (s : State) (sl : Slot) (es : List Eff) (fl : Nat) : s.issues (s.atEnd sl es fl) :=
  ⟨rfl, rfl, rfl, rfl, rfl, rfl, rfl, rfl, rfl, rfl, rfl, rfl, rfl, _, rfl⟩

/-- An outcome has the frame of an issue from `s` where it takes effect. -/
def Res.issuesFrom (s : State) (r : Res) : Prop := ∀ t, r = .ok t → s.issues t

section
variable {s : State} {sl : Slot} {o : Long}

theorem issues_ok {t : State} (h : s.issues t) : (Res.ok t).issuesFrom s := fun _ ht => Res.ok.inj ht ▸ h

theorem issues_trap (t : Trap) : (Res.trap t).issuesFrom s := fun _ h => nomatch h

theorem issues_raise (cause addr : Nat) : (raise cause addr).issuesFrom s := issues_trap _

theorem issues_putResult (sl : Slot) (cls : Nat) (es : List Eff) (l : Option V512) (fl : Nat) :
    (Res.ok (s.result sl cls es l fl)).issuesFrom s := issues_ok (s.issues_result sl cls es l fl)

theorem issues_ite {p : Prop} [Decidable p] {k l : Res} (hk : k.issuesFrom s) (hl : l.issuesFrom s) :
    (if p then k else l).issuesFrom s := by
  split
  · exact hk
  · exact hl

theorem issues_guarded {g : Nat} {k : Res} (hk : k.issuesFrom s) : (guarded g s k).issuesFrom s :=
  issues_ite hk (issues_ok s.issues_refl)

/-! Sources -/

theorem issues_withV {n : Nat} {k : V512 → Res} (hk : ∀ v, (k v).issuesFrom s) : (withV s n k).issuesFrom s := fun t h => by
  obtain ⟨v, hv, -⟩ := withV_ok h
  exact hk v t hv

theorem issues_withX {n : Nat} {k : W64 → Res} (hk : ∀ v, (k v).issuesFrom s) : (withX s n k).issuesFrom s := fun t h => by
  obtain ⟨v, hv, -⟩ := withX_ok h
  exact hk v t hv

theorem issues_withVV {k : Nat → Nat → Res} (hk : ∀ a b, (k a b).issuesFrom s) : (withVV s o k).issuesFrom s :=
  issues_guarded (issues_withV fun a => issues_withV fun b => hk a.toNat b.toNat)

theorem issues_withV1 {k : Nat → Res} (hk : ∀ a, (k a).issuesFrom s) : (withV1 s o k).issuesFrom s :=
  issues_guarded (issues_withV fun a => hk a.toNat)

/-- A stochastic rounding advances SRCTR, which is none of the frame. -/
theorem issues_withRnd {k : Rnd → (Nat → Nat) → State → Res} (hk : ∀ rd r t, (k rd r t).issuesFrom t) :
    (withRnd o s k).issuesFrom s := by
  unfold withRnd
  dsimp only
  split
  · exact hk _ _ (s.mapCore fun c => { c with st := { c.st with srctr := c.st.srctr + 16 } })
  · exact hk _ _ s

theorem issues_withOld {full : Bool} {k : Nat → Res} (hk : ∀ v, (k v).issuesFrom s) : (withOld s o full k).issuesFrom s :=
  issues_ite (hk 0) (issues_withV fun v => hk v.toNat)

/-! Results -/

theorem issues_vResult {cls v flags : Nat} : (vResult sl o cls v flags s).issuesFrom s := issues_putResult _ _ _ _ _

theorem issues_vLanes {cls w : Nat} {lane : Nat → Nat × Nat} : (vLanes sl o cls w lane s).issuesFrom s := by
  unfold vLanes
  exact issues_withOld fun _ => issues_vResult

theorem issues_vAll {cls w : Nat} {lane : Nat → Nat × Nat} : (vAll sl o cls w lane s).issuesFrom s := by
  unfold vAll
  exact issues_vResult

theorem issues_vMask {cls w : Nat} {lane : Nat → Bool × Nat} : (vMask sl o cls w lane s).issuesFrom s :=
  issues_putResult _ _ _ _ _

/-! Families of V operations -/

theorem issues_viBin (f : Fmt → Int → Int → Int) : (viBin sl o f s).issuesFrom s := by
  unfold viBin
  exact issues_withVV fun _ _ => issues_vLanes

theorem issues_viBits (f : Nat → Nat → Nat) : (viBits sl o f s).issuesFrom s := by
  unfold viBits
  exact issues_withVV fun _ _ => issues_vLanes

theorem issues_viUn (f : Fmt → Nat → Nat) : (viUn sl o f s).issuesFrom s := by
  unfold viUn
  exact issues_withV1 fun _ => issues_vLanes

theorem issues_viShift (f : Nat → Nat → Nat → Nat) : (viShift sl o f s).issuesFrom s := by
  unfold viShift
  exact issues_ite (issues_withV1 fun _ => issues_vLanes) (issues_withVV fun _ _ => issues_vLanes)

theorem issues_viRed (f : Fmt → List Int → Int) : (viRed sl o f s).issuesFrom s := by
  unfold viRed
  exact issues_withV1 fun _ => issues_vResult

theorem issues_vfBin (f : Rnd → Val → Val → Val × Nat) : (vfBin sl o f s).issuesFrom s := by
  unfold vfBin
  exact issues_withVV fun _ _ => issues_withRnd fun _ _ _ => issues_vLanes

theorem issues_vfFma (f : Bool) : (vfFma sl o f s).issuesFrom s := by
  unfold vfFma
  exact issues_withVV fun _ _ => issues_withV fun _ => issues_withRnd fun _ _ _ => issues_vAll

theorem issues_vfTrans (f : Fmt → Rnd → Nat → Val → Nat × Nat) : (vfTrans sl o f s).issuesFrom s := by
  unfold vfTrans
  exact issues_withV1 fun _ => issues_withRnd fun _ _ _ => issues_vLanes

theorem issues_vfMinMax (f : Bool) : (vfMinMax sl o f s).issuesFrom s := by
  unfold vfMinMax
  exact issues_withVV fun _ _ => issues_vLanes

theorem issues_vfSign (f : Fmt → Nat → Nat) : (vfSign sl o f s).issuesFrom s := by
  unfold vfSign
  exact issues_withV1 fun _ => issues_vLanes

theorem issues_maskOp (v : W64) : (maskOp sl o v s).issuesFrom s := issues_guarded (issues_putResult _ _ _ _ _)

/-! V operations of no family -/

theorem issues_opVpack : (opVpack sl o s).issuesFrom s := by
  unfold opVpack
  exact issues_withVV fun _ _ => issues_vLanes

theorem issues_opVshuf : (opVshuf sl o s).issuesFrom s := by
  unfold opVshuf
  exact issues_withVV fun _ _ => issues_vLanes

theorem issues_opVfscale : (opVfscale sl o s).issuesFrom s := by
  unfold opVfscale
  exact issues_withVV fun _ _ => issues_withRnd fun _ _ _ => issues_vLanes

theorem issues_opVunpack : (opVunpack sl o s).issuesFrom s := by
  unfold opVunpack
  exact issues_withV1 fun _ => issues_vLanes

theorem issues_opVdqmx : (opVdqmx sl o s).issuesFrom s := by
  unfold opVdqmx
  exact issues_withV1 fun _ => issues_withRnd fun _ _ _ => issues_vLanes

theorem issues_opVmad : (opVmad sl o s).issuesFrom s := by
  unfold opVmad
  exact issues_withVV fun _ _ => issues_withV fun _ => issues_vAll

theorem issues_opVperm : (opVperm sl o s).issuesFrom s := by
  unfold opVperm
  exact issues_withVV fun _ _ => issues_withV fun _ => issues_vAll

theorem issues_opVsel : (opVsel sl o s).issuesFrom s := by
  unfold opVsel
  exact issues_withVV fun _ _ => issues_vAll

theorem issues_opVcmp : (opVcmp sl o s).issuesFrom s := by
  unfold opVcmp
  exact issues_withVV fun _ _ => issues_vMask

theorem issues_opVfcmp : (opVfcmp sl o s).issuesFrom s := by
  unfold opVfcmp
  exact issues_withVV fun _ _ => issues_vMask

theorem issues_opVfclass : (opVfclass sl o s).issuesFrom s := by
  unfold opVfclass
  exact issues_withV1 fun _ => issues_vMask

theorem issues_opVcmpr : (opVcmpr sl o s).issuesFrom s := by
  unfold opVcmpr
  exact issues_withV1 fun _ => issues_vAll

theorem issues_opVexpd : (opVexpd sl o s).issuesFrom s := by
  unfold opVexpd
  exact issues_withV1 fun _ => issues_vAll

theorem issues_opVrfmax : (opVrfmax sl o s).issuesFrom s := by
  unfold opVrfmax
  exact issues_withV1 fun _ => issues_vResult

theorem issues_opVrfadd : (opVrfadd sl o s).issuesFrom s := by
  unfold opVrfadd
  exact issues_withV1 fun _ => issues_withRnd fun _ _ _ => issues_vResult

theorem issues_opVcvt : (opVcvt sl o s).issuesFrom s := by
  unfold opVcvt
  exact issues_withV1 fun _ => issues_withRnd fun _ _ _ => issues_withOld fun _ => issues_vResult

theorem issues_opVqmx : (opVqmx sl o s).issuesFrom s := by
  unfold opVqmx
  exact issues_ite (issues_withVV fun _ _ => issues_vResult) (issues_withV1 fun _ => issues_vResult)

theorem issues_opViota : (opViota sl o s).issuesFrom s := by
  unfold opViota
  exact issues_guarded issues_vAll

theorem issues_opVbcast : (opVbcast sl o s).issuesFrom s := by
  unfold opVbcast
  exact issues_ite (issues_guarded (issues_withX fun _ => issues_vLanes)) (issues_withV1 fun _ => issues_vLanes)

theorem issues_opVlrot : (opVlrot sl o s).issuesFrom s := by
  unfold opVlrot
  exact issues_withV1 fun _ => issues_ite (issues_withX fun _ => issues_vLanes) issues_vLanes

theorem issues_opVrng : (opVrng sl o s).issuesFrom s := by
  unfold opVrng
  exact issues_guarded (issues_withV fun _ => issues_withX fun _ => issues_vLanes)

theorem issues_opMpop : (opMpop sl o s).issuesFrom s := by
  unfold opMpop
  exact issues_guarded (issues_putResult _ _ _ _ _)

end

/-! The slots -/

section
variable {s : State} {i : Instr}

theorem runOp_issues_s (hs : i.slot = some .s) : (runOp .s i s).issuesFrom s := by
  cases i with
  | sNop => exact issues_ok s.issues_refl
  | mfs o => 
    show (opMfs o s).issuesFrom s
    unfold opMfs
    split
    · exact issues_raise _ _
    · exact issues_guarded (issues_putResult _ _ _ _ _)
  | mts o =>
    show (opMts o s).issuesFrom s
    unfold opMts
    split
    · exact issues_raise _ _
    · exact issues_guarded (issues_ite (issues_raise _ _) (issues_ok (s.issues_atEnd _ _ _)))
  | _ => cases hs <;> exact issues_guarded (issues_putResult _ _ _ _ _)

theorem runOp_issues_a (hs : i.slot = some .a) (ho : ∀ o, i ≠ .wopen o) (ha : ∀ o, i ≠ .wadv o) (hc : ∀ o, i ≠ .wclose o) :
    (runOp .a i s).issuesFrom s := by
  cases i with
  | aNop => exact issues_ok s.issues_refl
  | wopen o => exact absurd rfl (ho o)
  | wadv o => exact absurd rfl (ha o)
  | wclose o => exact absurd rfl (hc o)
  | alea o => exact issues_guarded (issues_ite (issues_raise _ _) (issues_putResult _ _ _ _ _))
  | astep o =>
    show (opAstep o s).issuesFrom s
    unfold opAstep
    refine issues_guarded ?_
    split
    · exact issues_raise _ _
    · exact issues_putResult _ _ _ _ _
  | _ => cases hs <;> exact issues_guarded (issues_putResult _ _ _ _ _)

theorem runOp_issues_v (hs : i.slot = some .v0) : (runOp .v0 i s).issuesFrom s := by
  unfold runOp
  cases i with
  | vNop => exact issues_ok s.issues_refl
  | vadd o | vsub o | vadds o | vsubs o | vmul o | vmulh o | vmin o | vmax o => exact issues_viBin _
  | vand o | vor o | vxor o => exact issues_viBits _
  | vabs o | vneg o | vclz o | vpopc o => exact issues_viUn _
  | vshl o | vshr o | vsar o => exact issues_viShift _
  | vradd o | vrmax o | vrmin o => exact issues_viRed _
  | vfadd o | vfsub o | vfmul o => exact issues_vfBin _
  | vfma o | vfnma o => exact issues_vfFma _
  | vfrcp o | vfrsq o | vfexp2 o | vflog2 o => exact issues_vfTrans _
  | vfmin o | vfmax o => exact issues_vfMinMax _
  | vfabs o | vfneg o => exact issues_vfSign _
  | mand o | mor o | mnot o => exact issues_maskOp _
  | vpack o => exact issues_opVpack
  | vshuf o => exact issues_opVshuf
  | vfscale o => exact issues_opVfscale
  | vunpack o => exact issues_opVunpack
  | vdqmx o => exact issues_opVdqmx
  | vmad o => exact issues_opVmad
  | vperm o => exact issues_opVperm
  | vsel o => exact issues_opVsel
  | vcmp o => exact issues_opVcmp
  | vfcmp o => exact issues_opVfcmp
  | vfclass o => exact issues_opVfclass
  | vcmpr o => exact issues_opVcmpr
  | vexpd o => exact issues_opVexpd
  | vrfmax o => exact issues_opVrfmax
  | vrfadd o => exact issues_opVrfadd
  | vcvt o => exact issues_opVcvt
  | vqmx o => exact issues_opVqmx
  | viota o => exact issues_opViota
  | vbcast o => exact issues_opVbcast
  | vlrot o => exact issues_opVlrot
  | vrng o => exact issues_opVrng
  | mpop o => exact issues_opMpop
  | _ => cases hs

end

/-- Settles O54: each outcome of a slot operation settles alike in every slot, and its issue leaves all but the results in
flight. -/
theorem slotOperationsSettle : Obligations.SlotOperationsSettle := by
  refine ⟨fun i sl s hs hn => ⟨fun t h hf => exec_of_ok hs hn hf h, fun t o h hi => ?_, fun t h => ?_, fun f h => ?_,
    runOp_of_guard_false hs⟩, fun i sl s t hs hsl h ho ha hc => ?_⟩
  · subst hi
    cases hs
    rw [exec_flcfg, h]
    rfl
  · rw [exec_of_not_ok hs hn (by simp [h]), h]
    rfl
  · rw [exec_of_not_ok hs hn (by simp [h]), h]
    rfl
  · obtain rfl | rfl | rfl := hsl
    · exact runOp_issues_s hs t h
    · exact runOp_issues_a hs ho ha hc t h
    · exact runOp_issues_v hs t h

end Sys2Proof.Machine
end

/-! PROOFS. Steps and issue (spec/02_bundle_encoding.md R62): a step takes its turn, and a bundle of one operation runs it. -/
section
namespace Sys2Proof

/-! ## The slot of what decodes (R50, R74) -/

/-- What reads as an operation of a slot may stand in it. -/
theorem fits_of_readOp {sl : Slot} {ws : List Nat} {i : Instr} (h : readOp sl ws = some i) : i.fits sl := by
  have c {w : Nat} {x : Option Nat} (h : readOpC w x = some i) : i.slot = some .c := by
    unfold readOpC at h
    split at h <;> cases h <;> rfl
  have s {w : Nat} {x : Option Nat} (h : readOpS w x = some i) : i.slot = some .s := by
    unfold readOpS at h
    split at h <;> cases h <;> rfl
  have a {w : Nat} {x : Option Nat} (h : readOpA w x = some i) : i.slot = some .a := by
    unfold readOpA at h
    split at h <;> cases h <;> rfl
  have f {w : Nat} {x : Option Nat} (h : readOpF w x = some i) : i.slot = some .f := by
    unfold readOpF at h
    split at h <;> cases h <;> rfl
  have x {b : Nat} (h : readOpX b = some i) : i.slot = some .x := by
    unfold readOpX at h
    split at h <;> cases h <;> rfl
  have v {b : Nat} (h : readOpV b = some i) : i.slot = some .v0 := by
    unfold readOpV at h
    split at h <;> cases h <;> rfl
  have m {b : Nat} (h : readOpM b = some i) : i.slot = some .m := by
    unfold readOpM at h
    split at h <;> cases h <;> rfl
  unfold readOp at h
  split at h
  · exact .inl (c h)
  · exact .inl (c h)
  · exact .inl (s h)
  · exact .inl (s h)
  · exact .inl (a h)
  · exact .inl (a h)
  · exact .inl (f h)
  · exact .inl (f h)
  · exact .inl (x h)
  · exact .inl (v h)
  · exact .inr ⟨v h, rfl⟩
  · exact .inl (m h)
  · cases h

theorem slot_of_decode {sl : Slot} {ws : List Nat} {i : Instr} (h : decode sl ws = some i) (hv : sl ≠ .v1) :
    i.slot = some sl := by
  obtain hs | ⟨-, h1⟩ := fits_of_readOp (decode_eq_some.1 h).1
  · exact hs
  · exact absurd h1 hv

end Sys2Proof

namespace Sys2Proof.Machine

/-! ## Turns (R443, log 1) -/

theorem State.struck_of_no_upsets {s : State} (h : s.upsets = []) : s.struck = s := by rw [State.struck, h]

section
variable {s0 s : State} (hs : s0.struck = s)
include hs

/-- With nothing on the agenda the device's own agents have the step. -/
theorem step_of_no_agenda (ha : s.agenda = []) : step s0 = s.autonomous := by
  simp only [step, State.advance, hs, ha]

/-- An item that is due happens, unless it is a packet for a link whose buffer is full. -/
theorem step_of_due {u : Nat} {i : Instr} {rest : List (Nat × Nat × Instr)} (ha : s.agenda = (0, u, i) :: rest) :
    step s0 = if s.linkFull u i then s.autonomous else { s with agenda := rest }.fromOutside u i := by
  simp only [step, State.advance, hs, ha]

end

section
variable {s : State}

theorem State.autonomous_none (ht : s.turns = []) : s.autonomous = .next s := by simp only [State.autonomous, ht]

theorem State.autonomous_one {t : Turn} (ht : s.turns = [t]) : s.autonomous = s.take t := by simp only [State.autonomous, ht]

/-- Of several turns one is taken. -/
theorem State.autonomous_many {a b : Turn} {r : List Turn} (ht : s.turns = a :: b :: r) :
    ∃ t ∈ s.turns, s.autonomous = ({ s with free := s.free + 1 } : State).take t := by
  have hlt : Config.choose s.free % (a :: b :: r).length < (a :: b :: r).length := Nat.mod_lt _ (Nat.succ_pos _)
  refine ⟨(a :: b :: r)[Config.choose s.free % (a :: b :: r).length], by rw [ht]; exact List.getElem_mem hlt, ?_⟩
  simp only [State.autonomous, ht, State.choose, List.getElem?_eq_getElem hlt]

end

/-! ## Fields that no cycle reads -/

theorem State.focus_unit (s : State) (u h : Nat) : ({ s with unit := u } : State).focus h = { s.focus h with unit := u } := by
  unfold State.focus
  split <;> rfl

/-- Whether a hearth may take its next cycle does not turn on the unit of the step. -/
theorem State.canCycle_unit (s : State) (u : Nat) : ({ s with unit := u } : State).canCycle = s.canCycle := by
  have hready (t : State) : ({ t with unit := u } : State).ready_ = t.ready_ := rfl
  unfold State.canCycle
  simp only [State.focus_unit, hready]
  rfl

/-! ## The cycle of a hearth on its own (R62, R166) -/

theorem State.coreAt_self (s : State) : s.coreAt s.coreId = s.core := if_pos rfl

section
variable {s : State} (hfused : s.core.link.fused = false) (hpaired : s.core.link.paired = false)
include hfused

theorem State.streetDomain_self (hl : s.core.live = true) : s.streetDomain s.coreId = [s.coreId] := by
  simp [State.streetDomain, State.fusedWith, State.coreAt_self, hfused, hl]

include hpaired

/-- A hearth that is neither fused nor paired takes its cycles alone. -/
theorem State.domain_alone (hl : s.core.live = true) : s.domain = [s.coreId] := by
  have hp : s.partnersOf [s.coreId] = [] := by simp [State.partnersOf, State.coreAt_self, hpaired]
  simp [State.domain, State.streetDomain_self hfused hl, hp, List.eraseDups_cons]

theorem State.partnerFrozen_alone (hl : s.core.live = true) : s.partnerFrozen = false := by
  simp [State.partnerFrozen, State.domain_alone hfused hpaired hl, State.partnersOf, State.coreAt_self, hpaired]

/-- What the cycle of a hearth on its own comes to, where the hearth takes it. -/
theorem State.issueCycle_alone {t : State} (hc : s.canCycle = true) (hl : s.core.live = true) (hm : s.memberCycle = .went t) :
    s.issueCycle = ((s.fetchHandler t s.coreId).mapCoreAt s.coreId fun c => { c with clk := c.clk + 1 }).focus s.coreId := by
  have htake : s.takers s.domain = [s.coreId] := by simp [State.domain_alone hfused hpaired hl, State.takers]
  have hstep : s.inStep s.coreId = true := by simp [State.inStep, State.coreAt_self, hfused]
  have hrun : runMembers s [] [s.coreId] s = .inl t := by
    simp [runMembers, hstep, hm]
  simp only [State.issueCycle, hc, if_true, htake, State.partnerFrozen_alone hfused hpaired hl, Bool.false_eq_true, if_false,
    State.runDomain, hrun, List.foldl_cons, List.foldl_nil]

end

/-- A hearth on its own that stands at nothing executes its bundle. -/
theorem State.memberCycle_executes {s : State} (hfused : s.core.link.fused = false) (hl : s.core.live = true)
    (hstuck : s.core.stuck = .no) (howed : s.core.owed = 0) (hstop : s.core.link.stopped = false) (hwait : s.core.wait = .none) :
    s.memberCycle = s.execute none := by
  simp [State.memberCycle, hfused, hl, hstuck, howed, hstop, hwait]

/-! ## A bundle of one operation (R62, R72, R73) -/

theorem Core.badSource_cause {c : Core} {i : Instr} {t : Trap} (h : c.badSource i = some t) : t.cause ≠ 0x01 := by
  unfold Core.badSource at h
  split at h
  · cases h
  · obtain ⟨u, -, hu⟩ := List.exists_of_findSome?_eq_some h
    unfold Core.cause OwnUnit.cause at hu
    split at hu <;> cases hu <;> simp

section
variable {b : Bundle} {sl : Slot} {at_ : Nat} {ws : List Nat} {i : Instr} (ho : b.ops = [(sl, at_, ws)])
  (hdec : decode sl ws = some i)
include ho hdec

theorem Bundle.named_one : b.named = [(sl, at_, i)] := by simp [Bundle.named, ho, hdec]

theorem Bundle.illegal_one {priv : Bool} (pc : Nat) (hl : b.hdr.low = 0) (hm : mtsIllegal priv i = false) :
    b.illegal priv pc = none := by
  simp [Bundle.illegal, hl, ho, hdec, hm]

/-- With HOLD the one operation of a bundle issues alone. -/
theorem Core.acts_one {c : Core} (withC : Bool) (hc : sl ≠ .c) (hh : b.hdr.hold = true) (hd : c.seq.done = 0) :
    c.acts b withC = [⟨sl, i, false, at_⟩] := by
  unfold Core.acts
  rw [Bundle.named_one ho hdec]
  cases sl <;> simp_all [Slot.all]

end

/-- An execution that re-issues nothing steps no address register. -/
theorem mapCore_withSteps_nil (s : State) : (s.mapCore fun c => { c with regs := c.regs.withSteps [] [] }) = s := rfl

section
variable {s t : State} {sl : Slot} {at_ : Nat} {i : Instr}

/-- The execution of one operation that takes effect. -/
theorem runActs_one_ok (hb : s.core.badSource i = none) (h : runOp sl i s = .ok t) :
    runActs [⟨sl, i, false, at_⟩] s [] =
      .ok (t.mapCore fun c => { c.matWrote i with regs := { c.regs with a := s.core.regs.a } }) [] := by
  simp only [runActs, Bool.false_eq_true, if_false, stepRegs, mapCore_withSteps_nil, hb, h]

/-- The execution of one operation that traps: a source in error before anything else, and TRAPADDR of cause 0x01 as the
operation's first syllable (R348, log 34). -/
theorem runActs_one_trap {x : Trap} (h : s.core.badSource i = some x ∨ (s.core.badSource i = none ∧ runOp sl i s = .trap x)) :
    runActs [⟨sl, i, false, at_⟩] s [] = .trap (if x.cause = 0x01 then { x with addr := at_ } else x) ⟨sl, i, false, at_⟩ := by
  obtain hb | ⟨hb, h⟩ := h
  · simp only [runActs, Bool.false_eq_true, if_false, stepRegs, mapCore_withSteps_nil, hb, Core.badSource_cause hb]
  · simp only [runActs, Bool.false_eq_true, if_false, stepRegs, mapCore_withSteps_nil, hb, h]

end

/-- A bundle of one operation outside the C slot that nothing keeps from issuing. -/
structure State.issuesOne (s : State) (b : Bundle) (sl : Slot) (at_ : Nat) (i : Instr) : Prop where
  fetch : s.core.fetch = .bundle b
  acts : s.core.acts b true = [⟨sl, i, false, at_⟩]
  named : b.named = [(sl, at_, i)]
  delay : b.badDelay s.core = false
  legal : b.illegal s.core.priv s.core.seq.pc = none
  once : b.hdr.rep = 0
  first : s.core.seq.done = 0
  fused : s.core.link.fused = false
  paired : s.core.link.paired = false

section
variable {s : State} {b : Bundle} {sl : Slot} {at_ : Nat} {i : Instr}

theorem State.execute_one (h : s.issuesOne b sl at_ i) (hpriv : firstPriv s.core.priv [⟨sl, i, false, at_⟩] = none)
    (hlock : s.core.interlocked i = false) : s.execute none = s.runBundle none b [⟨sl, i, false, at_⟩] 1 := by
  have hswap (o : Option Nat) : (o.filter fun _ => s.core.link.paired) = none := by simp [h.paired]
  simp only [State.execute, h.fetch, h.delay, h.legal, h.acts, Option.isNone_none, hpriv, List.any_cons, List.any_nil, hlock,
    hswap, h.once, h.first, Bool.false_eq_true, if_false, Bool.or_false]

/-- The end of an execution of one operation that takes effect. -/
def State.afterOne (s t : State) (b : Bundle) (sl : Slot) (at_ : Nat) (i : Instr) : State :=
  (((((t.mapCore fun c => { c.matWrote i with regs := { c.regs with a := s.core.regs.a } }).scrub s.core (s.core.acts b true)).mapCore
    fun k => { k with owed := k.owed + k.pad.conflicts }).setViews.mapCore fun k =>
      let k1 := (k.putSteps []).patchGroups s.core s.nextId
      { k1 with sticky := k1.sticky.arm [(sl, at_, i)], link := k1.link.executed none (!k1.mat.groups.isEmpty) }).endCycle true)

theorem State.runBundle_one_ok {t : State} (h : s.issuesOne b sl at_ i) (hb : s.core.badSource i = none)
    (hr : runOp sl i s = .ok t) : s.runBundle none b [⟨sl, i, false, at_⟩] 1 = .went (s.afterOne t b sl at_ i) := by
  simp only [State.runBundle, runActs_one_ok hb hr, State.afterOne, h.acts, h.named, h.first, h.once, h.fused, Option.isNone_none,
    Bool.false_and, Bool.and_false, Bool.false_eq_true, if_false, if_true, decide_true]

theorem State.runBundle_one_trap {x : Trap} (h : s.issuesOne b sl at_ i)
    (hx : s.core.badSource i = some x ∨ (s.core.badSource i = none ∧ runOp sl i s = .trap x)) :
    s.runBundle none b [⟨sl, i, false, at_⟩] 1 =
      .went (((((s.mapCore Core.pass).writeDue (s.mapCore Core.pass).core.fly.length).takeTrap
        (if x.cause = 0x01 then { x with addr := at_ } else x) sl.num false s.core.seq 1 s.core.seq.pc).mapCore fun c =>
          { c with link := { c.link with frozen := false, atSwap := none } })) := by
  simp only [State.runBundle, runActs_one_trap hx, State.raised, h.fused, Bool.false_and, Bool.false_eq_true, if_false]

end

/-- No operation but MFS, MTS and ERET is barred outside privileged mode (R60). -/
theorem firstPriv_one {priv : Bool} {sl : Slot} {i : Instr} {at_ : Nat} (hmfs : ∀ o, i ≠ .mfs o) (hmts : ∀ o, i ≠ .mts o)
    (heret : ∀ o, i ≠ .eret o) : firstPriv priv [⟨sl, i, false, at_⟩] = none := by
  have hp : (⟨sl, i, false, at_⟩ : Issued).privileged priv = none := by
    unfold Issued.privileged
    split
    · exact absurd ‹_› (hmfs _)
    · exact absurd ‹_› (hmts _)
    · exact absurd ‹_› (heret _)
    · rfl
  simp only [firstPriv, hp]

/-- The step of a device whose one turn is the issue of a hearth that takes its cycle alone. -/
theorem exec_bundleIssue_alone {s t : State} (hu : s.unit = s.coreId) (hok : s.hearthOk s.coreId = true)
    (hfused : s.core.link.fused = false) (hpaired : s.core.link.paired = false) (hc : s.canCycle = true)
    (hm : s.memberCycle = .went t) :
    exec .bundleIssue s =
      .next (((s.fetchHandler t s.coreId).mapCoreAt s.coreId fun c => { c with clk := c.clk + 1 }).focus s.coreId) := by
  have hl : s.core.live = true := by
    simp only [State.canCycle, Bool.and_eq_true] at hc
    exact hc.1.1
  change atHearth s State.issueCycle = _
  rw [atHearth_next _ (hu ▸ hok), hu, State.focus_self, State.issueCycle_alone hfused hpaired hc hl hm]

/-- Settles O55: the turn that there is, and along the one execution of a bundle of one operation. -/
theorem stepRunsDecoded : Obligations.StepRunsDecoded := by
  refine ⟨fun s => State.struck_of_no_upsets, fun s0 s u i hs ha ht => ?_, fun s0 s hs ha ht => ?_, fun s hok => ?_,
    fun s0 s a b r hs ha ht => ?_, fun s0 s u i rest hs ha => ⟨fun hf ho hp => ?_, fun hf v j ht => ?_⟩, ?_⟩
  · rw [step_of_no_agenda hs ha, State.autonomous_one ht, State.take]
  · rw [step_of_no_agenda hs ha, State.autonomous_none ht]
  · exact atHearth_next State.issueCycle hok
  · rw [step_of_no_agenda hs ha]
    exact State.autonomous_many ht
  · simp only [step_of_due hs ha, hf, Bool.false_eq_true, if_false, State.fromOutside, ho, hp, Bool.true_or, Bool.and_true, if_true]
  · rw [step_of_due hs ha, if_pos hf, State.autonomous_one ht, State.take]
  · intro s0 s b sl at_ ws i hs ha ht hok hc hstuck howed hstop hwait hctl hfused hpaired hpriv hfetch hrep hlow hops hhold hdone
      hpend hcs hv1 hdec hnop hill hmfs hmts hmswap hlock z passes
    have hslot : i.slot = some sl := slot_of_decode hdec hv1
    have heret (o : S0) : i ≠ .eret o := by
      rintro rfl
      exact hcs (Option.some.inj hslot).symm
    have hone : z.issuesOne b sl at_ i :=
      { fetch := hfetch
        acts := Core.acts_one hops hdec true hcs hhold hdone
        named := Bundle.named_one hops hdec
        delay := by simp [Bundle.badDelay, z, hpend]
        legal := Bundle.illegal_one hops hdec _ hlow (by rw [← hill, ← hpriv])
        once := hrep
        first := hdone
        fused := hfused
        paired := hpaired }
    have hzc : z.canCycle = true := (s.canCycle_unit s.coreId).trans hc
    have hl : z.core.live = true := by
      simp only [State.canCycle, Bool.and_eq_true] at hc
      exact hc.1.1
    have hm : z.memberCycle = z.runBundle none b [⟨sl, i, false, at_⟩] 1 :=
      (State.memberCycle_executes (s := z) hfused hl hstuck howed hstop hwait).trans
        (State.execute_one hone (firstPriv_one hmfs hmts heret) hlock)
    have hstep : step s0 = exec .bundleIssue z := by
      rw [step_of_no_agenda hs ha, State.autonomous_one ht, State.take]
    have hwent {t : State} (h : z.runBundle none b [⟨sl, i, false, at_⟩] 1 = .went t) : step s0 = passes t :=
      hstep.trans (exec_bundleIssue_alone (s := z) rfl hok hfused hpaired hzc (hm.trans h))
    refine ⟨hstep, fun t hb hr => ⟨fun hf => ?_, ?_⟩, fun t hx => ?_⟩
    · rw [exec_of_ok hslot hnop hf hr, if_neg hcs]
    · exact hwent (State.runBundle_one_ok hone hb hr)
    · exact hwent (State.runBundle_one_trap hone hx)

end Sys2Proof.Machine
end

/-! PROOFS. The S slot (spec/04_control_scalar_system.md R108 to R116): the value of each operation and where it goes. -/
section
namespace Sys2Proof.Machine

/-! ## What the families of S-slot operations put in flight (R60, R108, R110, R113, R115) -/

theorem boolV_eq (b : Bool) : boolV b = if b then 1 else 0 := by cases b <;> rfl

section
variable {s : State}

/-- A three-register operation puts the value of its function in flight. -/
theorem settle_alu {o : S3} (h : s.on o.g) (cls : Nat) (f : W64 → W64 → W64) :
    settle s .s (alu o cls f s) = s.scalarOut cls o.f1 (f (o.src2 s.core) (o.src3 s.core)) := by
  rw [alu, guarded_true _ h]
  rfl

/-- An operation with one scalar result puts it in flight. -/
theorem settle_xResult {g : Nat} (h : s.on g) (d : Nat) (v : W64) : settle s .s (xResult g d v s) = s.scalarOut 0 d v := by
  rw [xResult, guarded_true _ h]
  rfl

/-- A compare puts its truth value in flight. -/
theorem settle_cmpOp {o : SC} (h : s.on o.g) (f : W64 → W64 → Bool) :
    settle s .s (cmpOp o f s) = s.predOut o.p1 (f (o.src2 s.core) (o.src3 s.core)) := by
  rw [cmpOp, guarded_true _ h]
  simp only [boolV_eq]
  rfl

/-- An operation of predicate logic puts its truth value in flight. -/
theorem settle_predOp {o : SL} (h : s.on o.g) (f : Bool → Bool → Bool) :
    settle s .s (predOp o f s) = s.predOut o.p1 (f (s.core.readP o.p2) (s.core.readP o.p3)) := by
  rw [predOp, guarded_true _ h]
  simp only [boolV_eq]
  rfl

end

/-! ## Three-register operations (R108, R109) -/

/-- The upper half of an unsigned product. -/
theorem mulHigh_natCast (a b : Nat) : mulHigh a b = BitVec.ofNat 64 (a * b / 2 ^ 64) :=
  (congrArg (BitVec.ofInt 64) (by norm_cast)).trans (BitVec.ofInt_natCast ..)

/-- Settles O1: each operation is its function of the two sources, as the family puts it in flight. -/
theorem scalarArithmeticResults : Obligations.ScalarArithmeticResults := by
  intro o s h a b
  refine ⟨settle_alu h 0 (· + ·), settle_alu h 0 (· - ·), settle_alu h 1 (· * ·), settle_alu h 1 fun a b => mulHigh a.toInt b.toInt,
    ?mulhn, settle_alu h 0 (· &&& ·), settle_alu h 0 (· ||| ·), settle_alu h 0 (· ^^^ ·), settle_alu h 0 (· &&& ~~~·),
    settle_alu h 0 (· <<< shamt ·), settle_alu h 0 (· >>> shamt ·), settle_alu h 0 fun a b => a.sshiftRight (shamt b),
    settle_alu h 0 fun a b => a.rotateLeft (shamt b), settle_alu h 0 fun a b => if a.slt b then a else b,
    settle_alu h 0 fun a b => if a.slt b then b else a, settle_alu h 0 fun a b => if a < b then a else b,
    settle_alu h 0 fun a b => if a < b then b else a, settle_alu h 0 fun a _ => BitVec.ofNat 64 (leadingZeros a.toNat 64),
    settle_alu h 0 fun a _ => BitVec.ofNat 64 (trailingZeros a.toNat 64),
    settle_alu h 0 fun a _ => BitVec.ofNat 64 (popCount a.toNat 64)⟩
  case mulhn =>
    rw [← mulHigh_natCast]
    exact settle_alu h 1 fun a b => mulHigh a.toNat b.toNat

/-- The least number divided by -1 leaves the word's range, and comes back to the least number. -/
theorem divs_eq (a b : W64) : divs a b = if b = 0 then BitVec.allOnes 64
    else if a = BitVec.intMin 64 ∧ b = BitVec.allOnes 64 then BitVec.intMin 64 else BitVec.ofInt 64 (a.toInt.tdiv b.toInt) := by
  have hcorner : BitVec.ofInt 64 ((BitVec.intMin 64).toInt.tdiv (BitVec.allOnes 64).toInt) = BitVec.intMin 64 := by decide
  unfold divs
  split
  · rfl
  · split
    · rename_i h
      obtain ⟨rfl, rfl⟩ := h
      exact hcorner
    · rfl

/-- The remainder of the least number by -1 is 0. -/
theorem rems_eq (a b : W64) : rems a b = if b = 0 then a
    else if a = BitVec.intMin 64 ∧ b = BitVec.allOnes 64 then 0 else BitVec.ofInt 64 (a.toInt.tmod b.toInt) := by
  have hcorner : BitVec.ofInt 64 ((BitVec.intMin 64).toInt.tmod (BitVec.allOnes 64).toInt) = 0 := by decide
  unfold rems
  split
  · rfl
  · split
    · rename_i h
      obtain ⟨rfl, rfl⟩ := h
      exact hcorner
    · rfl

/-- Settles O2: the signed corner case falls out of the exact quotient and remainder. -/
theorem divisionNeverTraps : Obligations.DivisionNeverTraps := by
  intro o s h a b
  refine ⟨?_, settle_alu h 2 divn, ?_, settle_alu h 2 remn⟩
  · rw [← divs_eq]
    exact settle_alu h 2 divs
  · rw [← rems_eq]
    exact settle_alu h 2 rems

/-! ## Immediates, bit fields, compares and predicate logic (R110 to R116) -/

theorem bits_zero (w n : Nat) : bits w 0 n = w % 2 ^ n := by rw [bits, pow_zero, Nat.div_one]

theorem fieldPos_eq (x : Nat) : fieldPos x = x % 64 := bits_zero x 6

theorem bne_eq_decide_ne {α : Type} [DecidableEq α] (a b : α) : (a != b) = decide (a ≠ b) := by
  rw [bne, beq_eq_decide, decide_not]

/-- Settles O3: each operation is its function of its sources, as its family puts it in flight. -/
theorem scalarFieldAndPredicateResults : Obligations.ScalarFieldAndPredicateResults := by
  refine ⟨⟨fun o s h => ?addi, fun o s h => settle_xResult h _ _, fun o s h => ⟨?bext, ?bins, ?sel⟩, fun o s h => ?add128⟩,
    fun o s h => ⟨settle_xResult h _ _, ?rank⟩, fun o s h => ?compares, fun o s h => ?logic⟩
  case addi =>
    refine (settle_xResult h _ _).trans ?_
    rw [BitVec.ofInt_add, BitVec.ofInt_toInt]
  case bext =>
    have hsx : (bit o.x 12 = true) = (o.x / 4096 % 2 = 1) := by simp [bit]
    refine (settle_xResult h _ _).trans ?_
    simp only [hsx, fieldPos_eq]
    rfl
  case bins =>
    refine (settle_xResult h _ _).trans ?_
    simp only [bits_zero, fieldPos_eq]
    rfl
  case sel =>
    refine (settle_xResult h _ _).trans ?_
    rw [bits_zero]
    rfl
  case add128 => exact congrArg (settle s .s) (guarded_true _ h)
  case rank =>
    refine (settle_xResult h _ _).trans ?_
    cases s.core.link.rank <;> rfl
  case compares =>
    refine ⟨settle_cmpOp h (· == ·), ?ne, settle_cmpOp h BitVec.slt, settle_cmpOp h BitVec.sle, settle_cmpOp h (decide <| · < ·),
      settle_cmpOp h (decide <| · ≤ ·), ?any, settle_cmpOp h (· &&& · == 0)⟩
    case ne => exact (settle_cmpOp h (· != ·)).trans (congrArg _ (bne_eq_decide_ne _ _))
    case any => exact (settle_cmpOp h (· &&& · != 0)).trans (congrArg _ (bne_eq_decide_ne _ _))
  case logic =>
    exact ⟨settle_predOp h and, settle_predOp h or, settle_predOp h xor, settle_predOp h fun a _ => !a,
      settle_predOp h fun a _ => a⟩

end Sys2Proof.Machine
end

/-! PROOFS. System registers (spec/04_control_scalar_system.md R117 to R121): the access map, and what MFS and MTS do. -/
section
namespace Sys2Proof.Machine

/-! ## The access map (R118, R120) -/

/-- The registers that a task may write. -/
def sysFree (n : Nat) : Prop :=
  n = 0x000 ∨ n = 0x002 ∨ n = 0x003 ∨ n = 0x004 ∨ n = 0x006 ∨ n = 0x008 ∨ n = 0x009 ∨ n = 0x00A

/-- The registers that a task may not even read. -/
def sysHidden (n : Nat) : Prop := (0x020 ≤ n ∧ n ≤ 0x02A) ∨ n = 0x050 ∨ n = 0x051

section
variable {n : Nat} {priv : Bool}

theorem sysFree.not_hidden (h : sysFree n) : ¬sysHidden n := by
  unfold sysFree at h
  unfold sysHidden
  omega

theorem taskAccess_eq_rw : taskAccess n = .rw ↔ sysFree n := by
  unfold taskAccess
  split
  · exact iff_of_true rfl ‹_›
  · exact iff_of_false (by split <;> nofun) ‹_›

theorem taskAccess_eq_none : taskAccess n = .none ↔ sysHidden n := by
  unfold taskAccess
  split
  · rename_i hf
    exact iff_of_false nofun (sysFree.not_hidden hf)
  · split
    · exact iff_of_true rfl ‹_›
    · exact iff_of_false nofun ‹_›

theorem privAccess_eq_rw : privAccess n = .rw ↔ sysFree n ∨ n = 0x012 ∨ n = 0x050 := by
  unfold privAccess
  rw [← taskAccess_eq_rw]
  split
  · exact iff_of_true rfl ‹_›
  · exact iff_of_false nofun ‹_›

theorem privAccess_ne_none : privAccess n ≠ .none := by
  unfold privAccess
  split <;> simp

/-- A read that the level is allowed raises nothing. -/
theorem sysCheck_read (h : priv = true ∨ ¬sysHidden n) : sysCheck priv false n = none := by
  cases priv with
  | true => simp [sysCheck, privAccess_ne_none]
  | false => simpa [sysCheck, taskAccess_eq_none] using h

/-- Outside privileged mode a hidden register raises cause 0x04, read or written. -/
theorem sysCheck_hidden (mts : Bool) (h : sysHidden n) : sysCheck false mts n = some 0x04 := by
  simp [sysCheck, taskAccess_eq_none.2 h]

/-- A write that the level is allowed raises nothing. -/
theorem sysCheck_write (h : sysFree n ∨ priv = true ∧ (n = 0x012 ∨ n = 0x050)) : sysCheck priv true n = none := by
  have hrw : privAccess n = .rw := privAccess_eq_rw.2 (h.imp_right And.right)
  cases priv with
  | true => simp [sysCheck, hrw]
  | false =>
    have hf : sysFree n := by simpa using h
    simp [sysCheck, hrw, taskAccess_eq_rw.2 hf]

/-- A write of a register that no level may write raises cause 0x01, where the level may read it. -/
theorem sysCheck_readOnly (hf : ¬sysFree n) (h12 : n ≠ 0x012) (h50 : n ≠ 0x050) (h : priv = true ∨ ¬sysHidden n) :
    sysCheck priv true n = some 0x01 := by
  have hp : privAccess n ≠ .rw := by
    rw [Ne, privAccess_eq_rw]
    simp [hf, h12, h50]
  cases priv with
  | true => simp [sysCheck, privAccess_ne_none, hp]
  | false =>
    have ht : taskAccess n ≠ .none := by simpa [taskAccess_eq_none] using h
    simp [sysCheck, ht, hp]

end

/-! ## MFS and MTS (R117, R118) -/

section
variable {o : S1I} {s : State}

/-- The step that raises a cause at an S-slot operation. -/
def State.sTrap (s : State) (cause addr : Nat) : Host.Outcome State Fault Refusal :=
  .next (s.takeTrap ⟨cause, addr, []⟩ 1 false s.core.seq 1 s.core.seq.pc)

theorem exec_mfs_ok (hc : sysCheck s.core.priv false o.i = none) (h : s.on o.g) :
    exec (.mfs o) s = s.scalarOut 0 o.f1 (s.readSys o.i) := by
  have hop : opMfs o s = xResult o.g o.f1 (s.readSys o.i) s := by rw [opMfs, hc]; rfl
  exact (congrArg (settle s .s) hop).trans (settle_xResult h _ _)

theorem exec_mfs_trap {cause : Nat} (hc : sysCheck s.core.priv false o.i = some cause) :
    exec (.mfs o) s = s.sTrap cause o.i := by
  have hop : opMfs o s = raise cause o.i := by rw [opMfs, hc]
  exact congrArg (settle s .s) hop

theorem exec_mts_trap {cause : Nat} (hc : sysCheck s.core.priv true o.i = some cause) :
    exec (.mts o) s = s.sTrap cause (if cause = 0x04 then o.i else s.core.seq.pc) := by
  have hop : opMts o s = raise cause (if cause = 0x04 then o.i else s.core.seq.pc) := by rw [opMts, hc]
  exact congrArg (settle s .s) hop

theorem exec_mts_ok (hc : sysCheck s.core.priv true o.i = none) (h : s.on o.g)
    (hv : o.i = 0x050 → einjOk (o.src1 s.core) = true) :
    exec (.mts o) s = .next (s.atEnd .s [.sys o.i (o.src1 s.core)] 0).setViews := by
  have hop : opMts o s = .ok (s.atEnd .s [.sys o.i (o.src1 s.core)] 0) := by
    rw [opMts, hc]
    simp only [guarded_true _ h]
    exact if_neg fun hbad => by simp [hv hbad.1] at hbad
  exact congrArg (settle s .s) hop

/-- A value that EINJ does not take raises cause 0x01 (spec/15 R350). -/
theorem exec_mts_einj (hc : sysCheck s.core.priv true o.i = none) (h : s.on o.g) (hi : o.i = 0x050)
    (hv : einjOk (o.src1 s.core) = false) : exec (.mts o) s = s.sTrap 0x01 s.core.seq.pc := by
  have hop : opMts o s = raise 0x01 s.core.seq.pc := by
    rw [opMts, hc]
    simp only [guarded_true _ h]
    exact if_pos ⟨hi, by simp [hv]⟩
  exact congrArg (settle s .s) hop

end

/-! ## Writes (R25, R39, R121) -/

theorem bit_eq_testBit (w i : Nat) : bit w i = w.testBit i := by
  rw [Nat.testBit_eq_decide_div_mod_eq, bit, beq_eq_decide]

/-- A write of 1 clears, and nothing else does. -/
theorem bit_w1c (a m : W64) (i : Nat) : bit (w1c a.toNat m.toNat) i = (bit a.toNat i && !bit m.toNat i) := by
  simp only [w1c, BitVec.ofNat_toNat, BitVec.setWidth_eq, bit_eq_testBit, BitVec.testBit_toNat, BitVec.getLsbD_and,
    BitVec.getLsbD_not]
  by_cases hi : i < 64
  · simp [hi]
  · simp [BitVec.getLsbD_of_ge a i (Nat.le_of_not_lt hi)]

/-- A write of FLAGS when nothing has been raised in its cycle. -/
theorem Core.writeSys_flags {c : Core} (hfresh : c.st.fresh = 0) (hkept : c.st.kept = 0) (v : W64) :
    (c.writeSys 0x000 v).st.flags = w1c c.st.flags v.toNat := by
  simp [Core.writeSys, hfresh, hkept]

/-- Settles O4: the access map decides which of its answers MFS and MTS give, and reads and writes are those of their registers. -/
theorem systemRegistersReadAndWrite : Obligations.SystemRegistersReadAndWrite := by
  refine ⟨fun o s _ => ⟨?mfs, ?mfsTrap, ?mts, ?einj, ?mtsTrap, ?readOnly, ?reads, fun c v => ?writes⟩, fun o s hp hlo hhi => ?trapRegs⟩
  case mfs => exact fun h hl => exec_mfs_ok (sysCheck_read hl) h
  case mfsTrap =>
    intro hp hh
    rw [Bool.not_eq_true] at hp
    exact exec_mfs_trap (hp ▸ sysCheck_hidden false hh)
  case mts => exact fun h hl hv => exec_mts_ok (sysCheck_write hl) h hv
  case einj => exact fun h hp hi hv => exec_mts_einj (sysCheck_write (.inr ⟨hp, .inr hi⟩)) h hi hv
  case mtsTrap =>
    intro hp hh
    rw [Bool.not_eq_true] at hp
    obtain hh | hh := hh
    · exact exec_mts_trap (hp ▸ sysCheck_hidden true hh)
    · exact exec_mts_trap (cause := 0x04) (by rw [hp, hh]; rfl)
  case readOnly => exact fun hf h12 h50 hl => exec_mts_trap (sysCheck_readOnly hf h12 h50 hl)
  case reads => exact ⟨rfl, rfl, rfl, rfl, rfl, rfl, rfl, rfl, rfl, rfl, rfl, rfl, rfl, rfl, rfl⟩
  case writes =>
    refine ⟨rfl, rfl, rfl, ?stg, rfl, ?flags⟩
    case stg => rintro k rfl; rfl
    case flags =>
      intro i hfresh hkept hlt
      have hw : c.st.flags = (BitVec.ofNat 64 c.st.flags).toNat := by rw [BitVec.toNat_ofNat, Nat.mod_eq_of_lt hlt]
      rw [Core.writeSys_flags hfresh hkept, hw, bit_w1c]
  case trapRegs =>
    have hh : sysHidden o.i := .inl ⟨hlo, hhi⟩
    exact ⟨exec_mfs_trap (hp ▸ sysCheck_hidden false hh), exec_mts_trap (hp ▸ sysCheck_hidden true hh)⟩

end Sys2Proof.Machine
end

/-! PROOFS. The C slot (spec/04_control_scalar_system.md R94 to R98, R105 to R107): how a bundle ends, and what its C-slot
operation makes of it. -/
section
namespace Sys2Proof.Machine

/-! ## The sequencer at the end of a bundle (R46, R70) -/

section
variable {c : Core} {p : Pending}

theorem Core.advance_plain (h : c.seq.pend = none) :
    c.advance = { c with seq := ⟨c.after, 0, none, c.seq.pc, false, false⟩ } := by
  rw [Core.advance, h]
  rfl

theorem Core.advance_delay (h : c.seq.pend = some p) (hl : 2 ≤ p.left) :
    c.advance = { c with seq := ⟨c.after, 0, some ⟨p.target, p.left - 1, p.src⟩, c.seq.pc, false, false⟩ } := by
  rw [Core.advance, h]
  exact if_neg (by omega)

theorem Core.advance_transfer (h : c.seq.pend = some p) (hl : p.left ≤ 1) :
    c.advance = { c with seq := ⟨p.target, 0, none, p.src, true, false⟩ } := by
  rw [Core.advance, h]
  exact if_pos hl

end

/-! ## A configuration at the end of a bundle (R175) -/

/-- A configuration that takes effect changes flues and bank formats alone, whatever C-slot outcome stands beside it. -/
theorem Core.applyCfg_eq (c : Core) : ∃ cfg flue pad, ∀ x,
    Core.applyCfg { c with ctl := x } = { c with ctl := x, cfg := cfg, flue := flue, pad := pad } := by
  unfold Core.applyCfg
  cases c.cfg with
  | none => exact ⟨none, c.flue, c.pad, fun _ => rfl⟩
  | some e =>
    obtain ⟨n, v⟩ := e
    by_cases hn : n < 8
    · exact ⟨none, (c.setFlue n ⟨v % 2 ^ 8, v / 2 ^ 8, []⟩).flue, c.pad, fun _ => if_pos hn⟩
    · exact ⟨none, c.flue, { c.pad with bfmt := Store.set Pad.bfmtReset c.pad.bfmt (n - 32) v }, fun _ => if_neg hn⟩

theorem Core.applyCfg_putCtl (c : Core) (x : Option Ctl) : Core.applyCfg { c with ctl := x } = { c.applyCfg with ctl := x } := by
  obtain ⟨_, _, _, h⟩ := c.applyCfg_eq
  rw [h x, show c.applyCfg = _ from h c.ctl]

section
variable (c : Core)

@[simp] theorem Core.applyCfg_ctl : c.applyCfg.ctl = c.ctl := by
  obtain ⟨_, _, _, h⟩ := c.applyCfg_eq
  rw [show c.applyCfg = _ from h c.ctl]

@[simp] theorem Core.applyCfg_seq : c.applyCfg.seq = c.seq := by
  obtain ⟨_, _, _, h⟩ := c.applyCfg_eq
  rw [show c.applyCfg = _ from h c.ctl]

@[simp] theorem Core.applyCfg_code : c.applyCfg.code = c.code := by
  obtain ⟨_, _, _, h⟩ := c.applyCfg_eq
  rw [show c.applyCfg = _ from h c.ctl]

@[simp] theorem Core.applyCfg_race : c.applyCfg.race = c.race := by
  obtain ⟨_, _, _, h⟩ := c.applyCfg_eq
  rw [show c.applyCfg = _ from h c.ctl]

@[simp] theorem Core.applyCfg_after : c.applyCfg.after = c.after := by simp [Core.after]

end

/-! ## Closing a bundle (R70, R96, R105 to R107) -/

section
variable {s : State}

theorem closeBundle_of_no_ctl (h : s.core.ctl = none) (t : Nat) :
    s.closeBundle t = (s.mapCore Core.applyCfg).mapCore Core.advance := by
  simp [State.closeBundle, h]

/-- A bundle whose C-slot outcome has been put closes with that outcome. -/
theorem closeBundle_put (s : State) (k : Ctl) (t : Nat) :
    (s.mapCore fun c => { c with ctl := some k }).closeBundle t =
      ({ s with core := { s.core.applyCfg with ctl := some k } } : State).applyCtl t k := by
  simp [State.closeBundle, State.mapCore, Core.applyCfg_putCtl]

/-- The state in which a C-slot outcome takes effect. -/
def State.closing (s : State) : State := { s with core := { s.core.applyCfg with ctl := none } }

/-- The next bundle follows one that has no transfer pending. -/
theorem closing_advance (h : s.core.seq.pend = none) : s.closing.mapCore Core.advance = s.wentOn := by
  have hp : s.closing.core.seq.pend = none := by simp [State.closing, h]
  rw [State.mapCore, Core.advance_plain hp]
  simp [State.closing, State.wentOn, Core.after]

/-- A bundle without a C-slot outcome, or whose operation has none, leads to the next. -/
theorem settleC_continue (hc : s.core.ctl = none) (hp : s.core.seq.pend = none) : settleC s (.ok s) = .next s.wentOn := by
  have hs : s.mapCore Core.applyCfg = s.closing := by
    rw [State.closing, ← hc, ← Core.applyCfg_ctl]
    rfl
  rw [settleC, closeBundle_of_no_ctl hc, hs, closing_advance hp]

end

section
variable {u : State} (h : u.core.seq.pend = none) (s : State)
include h

theorem settleC_jump (t : Nat) : settleC s (withCtl u (.jump t)) = .next (u.transferred t) := by
  rw [withCtl, settleC, closeBundle_put]
  refine congrArg Host.Outcome.next ?_
  rw [State.applyCtl]
  refine (congrArg (fun x : State => x.mapCore _) (closing_advance h)).trans ?_
  simp [State.transferred, State.wentOn, State.mapCore]

theorem settleC_halt : settleC s (withCtl u .halt) =
    .next (u.wentOn.mapCore fun c => { c.bumpEpoch with wait := .halting }) := by
  rw [withCtl, settleC, closeBundle_put, ← closing_advance h]
  rfl

theorem settleC_eret : settleC s (withCtl u .eret) = .next (u.wentOn.mapCore fun c => { c with wait := .ereting }) := by
  rw [withCtl, settleC, closeBundle_put, ← closing_advance h]
  rfl

theorem settleC_trapAfter (code : Nat) : settleC s (withCtl u (.trap code)) =
    .next (u.wentOn.takeTrap ⟨0x28, code, []⟩ 0 false u.wentOn.core.seq 0 u.core.after) := by
  rw [withCtl, settleC, closeBundle_put, show u.core.after = u.wentOn.core.seq.pc from rfl, ← closing_advance h]
  rfl

end

/-! ## Branches, calls and returns (R94 to R98) -/

/-- Settles O21: an operation that transfers puts its target as the bundle's outcome, and the bundle's end makes of it what the
sequencer does. -/
theorem branchesTransfer : Obligations.BranchesTransfer := by
  refine ⟨fun s hp => ⟨fun o h => ?br, fun o h hn => ?taken, fun o h hn hc => ?notTaken, fun o h => ⟨?bri, ?ret⟩, fun o h => ?call⟩,
    fun s hc => ⟨fun hp => settleC_continue hc hp, fun p hp hl => ?delay, fun p hp hl => ?transfer⟩⟩
  case br => exact (congrArg (settleC s) (guarded_true _ h)).trans (settleC_jump hp s _)
  case taken =>
    have hop : opBrp o s = withCtl s (.jump (s.core.target o.simm)) := by
      rw [opBrp, guarded_true _ h, if_neg (by simp [hn])]
      rfl
    exact (congrArg (settleC s) hop).trans (settleC_jump hp s _)
  case notTaken =>
    have hop : opBrp o s = .ok s := by rw [opBrp, guarded_true _ h, if_pos hn]
    exact (congrArg (settleC s) hop).trans (settleC_continue hc hp)
  case bri => exact (congrArg (settleC s) (guarded_true _ h)).trans (settleC_jump hp s _)
  case ret => exact (congrArg (settleC s) (guarded_true _ h)).trans (settleC_jump hp s _)
  case call => exact (congrArg (settleC s) (guarded_true _ h)).trans (settleC_jump (by exact hp) s _)
  case delay =>
    refine congrArg Host.Outcome.next ?_
    rw [closeBundle_of_no_ctl hc, State.mapCore, Core.advance_delay (p := p) (by simpa using hp) hl]
    simp
  case transfer =>
    refine congrArg Host.Outcome.next ?_
    rw [closeBundle_of_no_ctl hc, State.mapCore, Core.advance_transfer (p := p) (by simpa using hp) hl]
    simp

/-! ## HALT, TRAP and ERET (R105 to R107) -/

/-- Settles O23: each is the outcome of its bundle, but for ERET outside privileged mode. -/
theorem haltTrapAndReturn : Obligations.HaltTrapAndReturn := by
  intro s hp c
  refine ⟨fun o h hr hu => ?halt, fun o h hpriv => ?eret, fun o hpriv => ?denied, fun o h => ?trap⟩
  case halt =>
    have hop : opHalt o s = withCtl s .halt := by
      rw [opHalt, guarded_true _ h, withRace, hr, hu]
      rfl
    refine (congrArg (settleC s) hop).trans ((settleC_halt hp s).trans ?_)
    simp [State.mapCore, Core.bumpEpoch, State.wentOn, c]
  case eret =>
    have hop : opEret o s = withCtl s .eret := by rw [opEret, if_pos hpriv, guarded_true _ h]
    exact (congrArg (settleC s) hop).trans (settleC_eret hp s)
  case denied =>
    have hop : opEret o s = raise 0x04 0 := if_neg (by simpa using hpriv)
    exact congrArg (settleC s) hop
  case trap => exact (congrArg (settleC s) (guarded_true _ h)).trans (settleC_trapAfter hp s _)

end Sys2Proof.Machine
end

/-! PROOFS. Traps (spec/10_hearth_traps.md R250 to R253): the trap registers, the handler's entry, and the end of a task that
fails. -/
section
namespace Sys2Proof.Machine

/-! ## The trap registers (R253) -/

theorem ofBool_le_one (b : Bool) : ofBool b ≤ 1 := by cases b <;> decide

theorem ofBool_beq_one (b : Bool) : (ofBool b == 1) = b := by cases b <;> rfl

/-- The fields of TRAPCAUSE stand at their places. -/
theorem trapWord_fields {cause slot left grp : Nat} (hc : cause < 256) (hs : slot < 16) (hl : left < 128) (hg : grp < 16)
    (re delay replay double resid : Bool) :
    let w := (trapWord cause slot re delay left grp replay double resid).toNat
    bits w 0 8 = cause ∧ bits w 8 4 = slot ∧ bit w 12 = re ∧ bit w 13 = delay ∧ bits w 14 7 = left ∧ bit w 26 = double := by
  have h1 := ofBool_le_one re
  have h2 := ofBool_le_one delay
  have h3 := ofBool_le_one replay
  have h4 := ofBool_le_one double
  have h5 := ofBool_le_one resid
  have hre := ofBool_beq_one re
  have hdelay := ofBool_beq_one delay
  have hdouble := ofBool_beq_one double
  simp only [trapWord, BitVec.toNat_ofNat, bits, bit]
  generalize ofBool re = a at *
  generalize ofBool delay = b at *
  generalize ofBool double = d at *
  rw [← hre, ← hdelay, ← hdouble]
  refine ⟨by omega, by omega, congrArg (· == 1) ?_, congrArg (· == 1) ?_, by omega, congrArg (· == 1) ?_⟩ <;> omega

theorem Mat.grp_lt (m : Mat) : m.grp < 16 := by
  have hn (n : Nat) : (if Store.get 0 m.count n = 0 then 0 else 2 ^ n) ≤ 2 ^ n := by
    split
    · exact Nat.zero_le _
    · exact le_rfl
  have h0 := hn 0
  have h1 := hn 1
  have h2 := hn 2
  have h3 := hn 3
  simp only [Mat.grp, List.map_cons, List.map_nil, List.sum_cons, List.sum_nil]
  omega

/-! ## Entering the handler (R250, R251) -/

theorem Mat.abandon_fill (m : Mat) : m.abandon.fill = m.fill := by
  simp only [Mat.abandon, List.foldl_cons, List.foldl_nil, apply_ite Mat.fill, ite_self]

/-- Once dropped, no latch is valid. -/
theorem Regs.dropLatches_valid (r : Regs) (j : Nat) : (Store.get Latch.init r.dropLatches.latch j).valid = false := by
  rw [Regs.dropLatches, Store.get_mapVals _ _ rfl]

theorem State.stopPartner_unpaired {s : State} (h : s.core.link.paired = false) : s.stopPartner = s :=
  if_neg (by simp [h])

section
variable {s : State} {t : Trap} (slot : Nat) (re : Bool) (resume : Seq) (left pc : Nat)

/-- A cause that enters the handler of a hearth on its own (R250, R251): what of the hearth it changes. -/
theorem takeTrap_enters {code : Code} (hpriv : s.core.priv = false) (hpair : s.core.link.paired = false)
    (hfused : s.core.link.fused = false) (horg : s.core.code.origin = none) (hrace : t.cause ≠ 0x18)
    (hcode : s.handlerCode = some code) (hfatal : fatalCause t.cause = false) :
    let rok := s.core.mat.grp != 0 && s.core.mat.groups.all fun g => !g.2.taken
    ∃ tr : TrapRegs, tr.cause = trapWord t.cause slot re resume.pend.isSome left s.core.mat.grp rok false false ∧
      tr.pc = BitVec.ofNat 64 pc ∧ tr.addr = BitVec.ofNat 64 t.addr ∧
      (s.takeTrap t slot re resume left pc).core =
        { s.core with
          trap := tr, frame := some { s.core.frameAt resume with replayOk := rok }
          fly := [], sticky := Sticky.idle, regs := s.core.regs.dropLatches, mat := s.core.mat.abandon
          bad := s.core.badAbandoned, cfg := none, priv := true, hclk := 0, code := code, ctl := none, seq := code.begin_
          stuck := if s.handlerAway then .handler else s.core.stuck } := by
  have horg' : s.core.code.originOf pc = none := by rw [Code.originOf, horg]
  refine ⟨(s.takeTrap t slot re resume left pc).core.trap, ?_⟩
  simp only [State.takeTrap, hpriv, hfatal, hcode, horg, horg', if_neg hrace, State.stopPartner_unpaired hpair, State.mapCore,
    hfused, Bool.false_eq_true, Bool.or_self, if_false, true_and]
  exact ⟨rfl, rfl⟩

end

/-! ## A task that fails (R105, R251, R252, R323) -/

/-- What a task's end does not reach before it counts: the trap registers, the bonds of its hearth, the launches. -/
def State.keepsEnd (s u : State) : Prop :=
  u.core.trap = s.core.trap ∧ u.core.link = s.core.link ∧ u.launches = s.launches

theorem State.keepsEnd_dropFill (s : State) : s.keepsEnd s.dropFill := by
  have hunpin (q : Nat) (l : List Nat) : s.keepsEnd (s.unpin q l) := by
    unfold State.unpin
    split <;> exact ⟨rfl, rfl, rfl⟩
  unfold State.dropFill
  split
  · exact ⟨rfl, rfl, rfl⟩
  · rename_i f _
    obtain ⟨htrap, hlink, hlaunches⟩ := hunpin f.square f.pins
    dsimp only
    split <;> exact ⟨htrap, hlink, hlaunches⟩

theorem State.keepsEnd_vacate (s : State) (n : Nat) : s.keepsEnd (s.vacate n) := by
  unfold State.vacate
  dsimp only
  split <;> exact ⟨rfl, rfl, rfl⟩

theorem State.keepsEnd.trans {s u v : State} (h : s.keepsEnd u) (h' : u.keepsEnd v) : s.keepsEnd v := by
  obtain ⟨htrap, hlink, hlaunches⟩ := h
  obtain ⟨htrap', hlink', hlaunches'⟩ := h'
  exact ⟨htrap'.trans htrap, hlink'.trans hlink, hlaunches'.trans hlaunches⟩

@[simp] theorem State.mapGroup_core (s : State) (t : TaskId) (f : Street → Street) : (s.mapGroup t f).core = s.core := rfl
@[simp] theorem State.mapGroup_launches (s : State) (t : TaskId) (f : Street → Street) :
    (s.mapGroup t f).launches = s.launches := rfl

theorem State.keepsEnd_leaveStreet (s : State) : s.keepsEnd s.leaveStreet := by
  unfold State.leaveStreet
  dsimp only
  split
  · refine .trans ?_ (State.keepsEnd_vacate _ _)
    simp [State.keepsEnd]
  · exact ⟨rfl, rfl, rfl⟩

theorem State.keepsEnd_left (s : State) (b : Bool) : s.keepsEnd (if b then s.leaveStreet else s) := by
  cases b with
  | false => exact ⟨rfl, rfl, rfl⟩
  | true => exact s.keepsEnd_leaveStreet

/-- A launch counts a failed task: the cause of the first in order stands (R323). -/
def Launch.countFailed (l : Launch) (ord cause : Nat) : Launch :=
  let first := l.nfail == 0 || ord < l.ford
  { l with ended := l.ended + 1, nfail := min (l.nfail + 1) (2 ^ 32 - 1),
           ford := if first then ord else l.ford, cause := if first then cause else l.cause }

theorem Launch.countFailed_first {l : Launch} (h : l.nfail = 0) (ord cause : Nat) :
    l.countFailed ord cause = { l with ended := l.ended + 1, nfail := 1, ford := ord, cause := cause } := by
  simp [Launch.countFailed, h]

/-- The failed end of a task on a hearth that is not paired. -/
theorem State.taskEnd_failed {s : State} (hpair : s.core.link.paired = false) (cause : Nat) :
    let u := s.taskEnd (some cause)
    u.core.mode = .free ∧ u.core.trap = s.core.trap ∧
      u.launches = s.launches.map fun l => if l.id = s.core.task.launch then l.countFailed s.core.task.ord cause else l := by
  have hfill : s.keepsEnd (s.dropFill.unuseRecs s.core.task.ctx
      (s.core.win.filterMap fun e => if e.2.opened then some e.2.handle else none)) := s.keepsEnd_dropFill
  have hleft := hfill.trans (State.keepsEnd_left _ s.core.task.fuse)
  unfold State.taskEnd
  dsimp only
  generalize (if s.core.task.fuse = true then _ else _ : State) = sA at *
  obtain ⟨htrap, hlink, hlaunches⟩ := hleft
  rw [if_neg (by simp [hlink, hpair])]
  exact ⟨rfl, htrap, hlaunches ▸ rfl⟩

/-- A hearth that is neither fused nor paired fails alone. -/
theorem State.failsWith_alone {s : State} (hpair : s.core.link.paired = false) (hfused : s.core.link.fused = false) :
    s.failsWith s.coreId = [s.coreId] := by
  simp [State.failsWith, State.fusedWith, State.coreAt_self, hpair, hfused, List.eraseDups_cons]

theorem State.fail_alone {s : State} (hpair : s.core.link.paired = false) (hfused : s.core.link.fused = false) {cause : Nat}
    (hc : cause ≠ 0x20) (double : Bool) : s.fail cause double = s.taskEnd (some (cause % 128 + if double then 0x80 else 0)) := by
  simp [State.fail, hc, State.failsWith_alone hpair hfused]

theorem State.sawWords_launches (s : State) (ctx : Nat) (p : OwnUnit) (ws : List Nat) :
    (s.sawWords ctx p ws).launches = s.launches := by
  unfold State.sawWords
  dsimp only
  split <;> rfl

/-- An error that raises a cause is logged, and its mark may be corrected. -/
theorem State.logTrap_keeps (s : State) (t : Trap) :
    (∃ bad, (s.logTrap t).core = { s.core with bad := bad }) ∧ (s.logTrap t).launches = s.launches := by
  unfold State.logTrap
  split
  · exact ⟨s.sawWords_core _ _ _, s.sawWords_launches _ _ _⟩
  · exact ⟨⟨_, rfl⟩, rfl⟩

/-- What a task that is to fail holds: the trap registers are written, and nothing else that its end reads has changed. -/
def State.failing (s : State) (t : Trap) (v : State) : Prop :=
  v.core.trap.addr = BitVec.ofNat 64 t.addr ∧ v.core.link = s.core.link ∧ v.core.task = s.core.task ∧ v.launches = s.launches

theorem State.failing_setTrap {s v : State} {t : Trap} {tr : TrapRegs} (hcore : ∃ bad, v.core = { s.core with bad := bad })
    (hlaunches : v.launches = s.launches) (haddr : tr.addr = BitVec.ofNat 64 t.addr) :
    s.failing t (v.mapCore fun c => { c with trap := tr }) := by
  obtain ⟨bad, hcore⟩ := hcore
  simp [State.failing, hcore, hlaunches, haddr]

section
variable {s : State} {t : Trap} (slot : Nat) (re : Bool) (resume : Seq) (left pc : Nat)

/-- A cause other than the fatal ones ends the task with DOUBLE where there is no handler (R251). -/
theorem takeTrap_noHandler (hpriv : s.core.priv = false) (hpair : s.core.link.paired = false) (hrace : t.cause ≠ 0x18)
    (hfatal : fatalCause t.cause = false) (hcode : s.handlerCode = none) :
    ∃ v : State, s.takeTrap t slot re resume left pc = v.fail t.cause true ∧ s.failing t v := by
  generalize hu : s.takeTrap t slot re resume left pc = u
  unfold State.takeTrap at hu
  extract_lets c org idx i grp rok double tr s0 s1 at hu
  have hs0 : s0 = s := if_neg (by simp [hfatal])
  have hs1 : s1 = s.mapCore fun c => { c with trap := tr } := by
    simp only [s1, hs0, State.stopPartner_unpaired hpair, if_neg hrace]
  have hdouble : double = true := by simp [double, hfatal, hcode]
  rw [if_neg (by simp [c, hpriv, hfatal]), hdouble] at hu
  split at hu
  · exact ⟨s1, hu.symm, hs1 ▸ State.failing_setTrap ⟨s.core.bad, rfl⟩ rfl rfl⟩
  · rename_i hsome
    simp [hcode] at hsome

/-- A fatal cause outside the handler ends the task without DOUBLE (R252, log 107). -/
theorem takeTrap_fatal (hpriv : s.core.priv = false) (hpair : s.core.link.paired = false) (hrace : t.cause ≠ 0x18)
    (hfatal : fatalCause t.cause = true) :
    ∃ v : State, s.takeTrap t slot re resume left pc = v.fail t.cause false ∧ s.failing t v := by
  obtain ⟨hcore, hlaunches⟩ := s.logTrap_keeps t
  generalize hu : s.takeTrap t slot re resume left pc = u
  unfold State.takeTrap at hu
  extract_lets c org idx i grp rok double tr s0 s1 at hu
  have hs0 : s0 = s.logTrap t := if_pos hfatal
  have hpair' : (s.logTrap t).core.link.paired = false := by
    obtain ⟨bad, hbad⟩ := hcore
    rw [hbad]
    exact hpair
  have hs1 : s1 = (s.logTrap t).mapCore fun c => { c with trap := tr } := by
    simp only [s1, hs0, State.stopPartner_unpaired hpair', if_neg hrace]
  have hdouble : double = false := by simp [double, c, hpriv, hfatal]
  rw [if_pos (by simp [hfatal]), hdouble] at hu
  exact ⟨s1, hu.symm, hs1 ▸ State.failing_setTrap hcore hlaunches rfl⟩

/-- A cause without a handler, and 0x21 with one or without, ends the task as failed, with DOUBLE but for 0x21. -/
theorem takeTrap_fails (hpriv : s.core.priv = false) (hpair : s.core.link.paired = false) (hrace : t.cause ≠ 0x18)
    (h20 : t.cause ≠ 0x20) (hh : s.handlerCode = none ∨ t.cause = 0x21) :
    ∃ v : State, s.takeTrap t slot re resume left pc = v.fail t.cause (t.cause != 0x21) ∧ s.failing t v := by
  by_cases h21 : t.cause = 0x21
  · have hdouble : (t.cause != 0x21) = false := by simpa using h21
    rw [hdouble]
    exact takeTrap_fatal slot re resume left pc hpriv hpair hrace (by simp [fatalCause, h21])
  · have hdouble : (t.cause != 0x21) = true := by simpa using h21
    rw [hdouble]
    exact takeTrap_noHandler slot re resume left pc hpriv hpair hrace (by simp [fatalCause, h20, h21]) (hh.resolve_right h21)

end

/-- The code that a failed launch reports: the cause, and DOUBLE but for 0x21. -/
theorem failCode_eq {cause : Nat} (h : cause < 0x80) :
    (cause % 128 + if cause != 0x21 then 0x80 else 0) = if cause = 0x21 then 0x21 else cause + 0x80 := by
  by_cases h21 : cause = 0x21
  · simp [h21]
  · simp [h21, Nat.mod_eq_of_lt h]

/-- Settles O56: a handler is entered with the frame of the hearth and the fields of TRAPCAUSE; without one, and for 0x21, the task
fails alone and its launch counts it. -/
theorem trapsEnterTheHandler : Obligations.TrapsEnterTheHandler := by
  intro s t slot re resume left pc hpriv hpair hfused horg hrace hcause hslot hleft u
  refine ⟨fun code hcode hfatal => ?enters, fun hh h20 hlow => ?fails⟩
  case enters =>
    obtain ⟨tr, hword, hpc, haddr, hcore⟩ := takeTrap_enters slot re resume left pc hpriv hpair hfused horg hrace hcode hfatal
    obtain ⟨fcause, fslot, fre, fdelay, fleft, fdouble⟩ := trapWord_fields hcause hslot hleft s.core.mat.grp_lt re
      resume.pend.isSome (s.core.mat.grp != 0 && s.core.mat.groups.all fun g => !g.2.taken) false false
    rw [← hword] at fcause fslot fre fdelay fleft fdouble
    rw [show u.core = _ from hcore]
    exact ⟨rfl, rfl, rfl, rfl, rfl, rfl, rfl, s.core.regs.dropLatches_valid, rfl, rfl, rfl, rfl, rfl, rfl, rfl, rfl, rfl, rfl, rfl,
      rfl, rfl, rfl, s.core.mat.abandon_fill, ⟨_, rfl, rfl, rfl, rfl, rfl, rfl⟩, fcause, fslot, fre, fdelay, fleft, fdouble, hpc,
      haddr⟩
  case fails =>
    obtain ⟨v, hv, haddr, hlink, htask, hlaunches⟩ :=
      takeTrap_fails slot re resume left pc hpriv hpair hrace h20 hh
    have hu : u = v.taskEnd (some (if t.cause = 0x21 then 0x21 else t.cause + 0x80)) := by
      rw [← failCode_eq hlow, ← State.fail_alone (hlink ▸ hpair) (hlink ▸ hfused) h20]
      exact hv
    obtain ⟨hmode, htrap, hcounts⟩ := State.taskEnd_failed (s := v) (hlink ▸ hpair) (if t.cause = 0x21 then 0x21 else t.cause + 0x80)
    rw [← hu] at hmode htrap hcounts
    refine ⟨hmode, htrap ▸ haddr, fun l hl hid hfirst _ => ?_⟩
    rw [hcounts, hlaunches, htask]
    exact List.mem_map.2 ⟨l, hl, by rw [if_pos hid, Launch.countFailed_first hfirst]⟩

end Sys2Proof.Machine
end

/-! PROOFS. Memory (spec/06_scratchpad_flues_landing.md R151): the canonical form says what is read, and every store and every
slot operation keeps it. -/
section
namespace Sys2Proof.Machine

/-! ## The canonical form is determined by what is read -/

section
variable {α : Type} [DecidableEq α] {d : α}

/-- A key below every entry of a store reads as the default. -/
theorem Store.get_of_lt_wfFrom {s : Store α} {lo k : Nat} (hs : Store.wfFrom d lo s = true) (hk : k < lo) :
    Store.get d s k = d := by
  induction s generalizing lo with
  | nil => rfl
  | cons e r ih =>
    obtain ⟨j, v⟩ := e
    simp only [Store.wfFrom, Bool.and_eq_true, decide_eq_true_eq] at hs
    obtain ⟨⟨hlo, -⟩, hr⟩ := hs
    have hj : j ≠ k := by omega
    rw [Store.get, if_neg hj, ih hr (by omega)]

/-- The first entry of a canonical store does not read as the default. -/
theorem Store.get_head_ne {s : Store α} {lo j : Nat} {v : α} (hs : Store.wfFrom d lo ((j, v) :: s) = true) :
    Store.get d ((j, v) :: s) j ≠ d := by
  simp only [Store.wfFrom, Bool.and_eq_true, Bool.not_eq_true', decide_eq_false_iff_not] at hs
  rw [Store.get, if_pos rfl]
  exact hs.1.2

/-- Of two canonical stores that read alike, the second begins no higher than the first. -/
theorem Store.head_key_le {s s' : Store α} {lo lo' j j' : Nat} {v v' : α} (hs : Store.wfFrom d lo ((j, v) :: s) = true)
    (hs' : Store.wfFrom d lo' ((j', v') :: s') = true)
    (h : ∀ k, Store.get d ((j, v) :: s) k = Store.get d ((j', v') :: s') k) : j' ≤ j := by
  by_contra hlt
  have htail : Store.wfFrom d j' ((j', v') :: s') = true := by
    simp only [Store.wfFrom, Bool.and_eq_true, decide_eq_true_eq] at hs' ⊢
    exact ⟨⟨le_refl j', hs'.1.2⟩, hs'.2⟩
  exact Store.get_head_ne hs ((h j).trans (Store.get_of_lt_wfFrom htail (by omega)))

/-- Two canonical stores that read alike are one. -/
theorem Store.eq_of_get_eq {s s' : Store α} {lo lo' : Nat} (hs : Store.wfFrom d lo s = true) (hs' : Store.wfFrom d lo' s' = true)
    (h : ∀ k, Store.get d s k = Store.get d s' k) : s = s' := by
  induction s generalizing lo lo' s' with
  | nil =>
    cases s' with
    | nil => rfl
    | cons e' r' => exact absurd (h e'.1).symm (Store.get_head_ne hs')
  | cons e r ih =>
    obtain ⟨j, v⟩ := e
    cases s' with
    | nil => exact absurd (h j) (Store.get_head_ne hs)
    | cons e' r' =>
      obtain ⟨j', v'⟩ := e'
      obtain rfl : j = j' := Nat.le_antisymm (Store.head_key_le hs' hs fun k => (h k).symm) (Store.head_key_le hs hs' h)
      have hv : v = v' := by simpa [Store.get] using h j
      simp only [Store.wfFrom, Bool.and_eq_true] at hs hs'
      have htail : ∀ k, Store.get d r k = Store.get d r' k := fun k => by
        by_cases hk : j = k
        · rw [Store.get_of_lt_wfFrom hs.2 (by omega), Store.get_of_lt_wfFrom hs'.2 (by omega)]
        · simpa [Store.get, hk] using h k
      rw [hv, ih hs.2 hs'.2 htail]

end

/-- Bytes written upwards from an address read back (R151). -/
theorem Memory.readN_writeN (m : Memory) (a : Nat) (bs : List Byte) : (m.writeN a bs).readN a bs.length = bs := by
  induction bs generalizing m a with
  | nil => rfl
  | cons b bs ih =>
    simp only [Memory.writeN, List.length_cons, Memory.readN]
    rw [ih, Memory.read_writeN_outside _ _ _ a (by omega), Memory.read_write_self]

/-! ## Outcomes that keep the scratchpad's form -/

/-- The scratchpad of the hearth in focus is in canonical form. -/
def State.formed (s : State) : Prop := s.core.pad.mem.wf = true

/-- Where an outcome takes effect, the scratchpad is in canonical form. -/
def Res.formed (r : Res) : Prop := ∀ t, r = .ok t → t.formed

theorem State.formed_of_core {s t : State} (hs : s.formed) (h : t.core = s.core) : t.formed :=
  (congrArg (fun c : Core => c.pad.mem.wf = true) h).mpr hs

theorem State.formed_mapCore {s : State} {f : Core → Core} (hs : s.formed) (h : (f s.core).pad.mem = s.core.pad.mem) :
    (s.mapCore f).formed := (congrArg (fun m : Memory => m.wf = true) h).mpr hs

theorem State.formed_padPut {s : State} (hs : s.formed) (places : List Nat) (bytes : List Byte) :
    (s.padPut places bytes).formed := by
  obtain ⟨bad, einj, h⟩ := s.padPut_core places bytes
  unfold State.formed
  rw [h]
  exact Memory.wf_puts _ _ hs

theorem formed_ok {t : State} (h : t.formed) : (Res.ok t).formed := fun _ ht => Res.ok.inj ht ▸ h

theorem formed_trap (t : Trap) : (Res.trap t).formed := fun _ h => nomatch h

theorem formed_freeze (f : Freeze) : (Res.freeze f).formed := fun _ h => nomatch h

theorem formed_raise (cause addr : Nat) : (raise cause addr).formed := formed_trap _

theorem formed_tensorTrap (cause h : Nat) (c : List Int) : (tensorTrap cause h c).formed := formed_trap _

theorem formed_ite {p : Prop} [Decidable p] {k l : Res} (hk : k.formed) (hl : l.formed) : (if p then k else l).formed := by
  split
  · exact hk
  · exact hl

/-- An outcome with the frame of an issue leaves the scratchpad as it is. -/
theorem Res.issuesFrom.formed {s : State} {r : Res} (h : r.issuesFrom s) (hs : s.formed) : r.formed := fun t ht => by
  obtain ⟨-, hpad, -⟩ := h t ht
  exact (congrArg (fun p : Pad => p.mem.wf = true) hpad).mpr hs

section
variable {s : State}

theorem formed_guarded {g : Nat} {k : Res} (hs : s.formed) (hk : k.formed) : (guarded g s k).formed :=
  formed_ite hk (formed_ok hs)

/-! Sources and addresses -/

theorem formed_withV {n : Nat} {k : V512 → Res} (hk : ∀ v, (k v).formed) : (withV s n k).formed := fun t h => by
  obtain ⟨v, hv, -⟩ := withV_ok h
  exact hk v t hv

theorem formed_withX {n : Nat} {k : W64 → Res} (hk : ∀ v, (k v).formed) : (withX s n k).formed := fun t h => by
  obtain ⟨v, hv, -⟩ := withX_ok h
  exact hk v t hv

theorem formed_readGroup {v n : Nat} {k : List V512 → Res} (hk : ∀ vs, (k vs).formed) : (readGroup s v n k).formed := by
  induction n generalizing v k with
  | zero => exact hk []
  | succ n ih => exact formed_withV fun x => ih fun vs => hk (x :: vs)

theorem formed_padAddr {a : AReg} {disp : Int} {len align : Nat} {k : Nat → Res} (hk : ∀ x, (k x).formed) :
    (padAddr a disp len align k).formed := formed_ite (formed_raise _ _) (hk _)

theorem formed_landed {a : Nat} {places : List Nat} {k : Res} (hk : k.formed) : (landed s a places k).formed := by
  unfold landed
  split
  · exact hk
  · exact formed_ite (formed_freeze _) (formed_raise _ _)

theorem formed_padRead {v : View} {a : Nat} {places : List Nat} {k : Nat → State → Res} (hs : s.formed)
    (hk : ∀ x t, t.formed → (k x t).formed) : (padRead s v a places k).formed := fun t h =>
  hk _ (s.usePorts false places) hs t (padRead_ok h)

theorem formed_padWrite {v : View} {places : List Nat} {x : Nat} (hs : s.formed) : (padWrite s v places x).formed := fun t h => by
  rw [padWrite_ok h]
  exact State.formed_padPut hs places _

theorem formed_readStream {n : Nat} {k : V512 → State → Res} (hs : s.formed) (hk : ∀ v t, t.formed → (k v t).formed) :
    (readStream s n k).formed := fun t h => by
  obtain ⟨e, r, v, -, -, -, hv⟩ := readStream_ok h
  exact hk v (s.mapCore fun c => (c.setQ n r).took) hs t hv

theorem formed_readElems {q n : Nat} {k : List V512 → State → Res} (hs : s.formed) (hk : ∀ vs t, t.formed → (k vs t).formed) :
    (readElems s q n k).formed := by
  induction n generalizing s k with
  | zero => exact hk [] s hs
  | succ n ih => exact formed_readStream hs fun v t ht => ih ht fun vs u hu => hk (v :: vs) u hu

theorem formed_readFlue {n : Nat} {k : V512 → State → Res} (hs : s.formed) (hk : ∀ v t, t.formed → (k v t).formed) :
    (readFlue s n k).formed := by
  unfold readFlue
  split
  · exact formed_raise _ _
  · exact formed_freeze _
  · split
    · exact formed_raise _ _
    · exact hk _ (s.mapCore _) hs

/-! Tensors and the copy queues -/

theorem formed_withRec {h : Nat} {c : List Int} {k : Rec → Res} (hk : ∀ r, (k r).formed) : (withRec s h c k).formed := by
  unfold withRec
  refine formed_ite (formed_tensorTrap _ _ _) ?_
  split
  · exact formed_tensorTrap _ _ _
  · exact hk _

theorem formed_withOffset {h : Nat} {c : List Int} {n : Nat} {k : Rec → Nat → Res} (hk : ∀ r x, (k r x).formed) :
    (withOffset s h c n k).formed := by
  refine formed_withRec fun r => ?_
  split
  · exact formed_tensorTrap _ _ _
  · exact hk r _

theorem formed_withTier {r : Rec} {c : List Int} {k : Res} (hk : k.formed) : (withTier s r c k).formed :=
  formed_ite hk (formed_ite (formed_freeze _) (formed_ite (formed_tensorTrap _ _ _) (formed_ite (formed_tensorTrap _ _ _) hk)))

theorem formed_withLeast {r : Rec} {c : List Int} {d n : Nat} {k : Res} (hk : k.formed) : (withLeast s r c d n k).formed :=
  formed_ite (formed_tensorTrap _ _ _) hk

theorem formed_withRace {m : Nat} {k : Res} (hk : k.formed) : (withRace s m k).formed := by
  unfold withRace
  split
  · exact formed_raise _ _
  · exact formed_ite (formed_freeze _) hk

/-- A translation touches the square's cache alone. -/
theorem State.translated_core (s : State) (h : Nat) : (s.translated h).core = s.core := by
  unfold State.translated
  dsimp only
  split
  · rfl
  · split <;> rfl

theorem State.formed_translated (hs : s.formed) (h : Nat) : (s.translated h).formed :=
  State.formed_of_core hs (s.translated_core h)

/-- A fold of a step that keeps the scratchpad's form keeps it. -/
theorem State.formed_foldl {α : Type} {f : State → α → State} (hf : ∀ s a, s.formed → (f s a).formed) (hs : s.formed)
    (l : List α) : (l.foldl f s).formed := by
  induction l generalizing s with
  | nil => exact hs
  | cons a l ih => exact ih (hf s a hs)

theorem formed_accept {cl : Bool} {hint padded tail : Nat} {mk : Nat → CopyKind} {k : Nat → State → Res} (hs : s.formed)
    (hk : ∀ id t, t.formed → (k id t).formed) : (accept s cl hint padded tail mk k).formed := by
  refine formed_ite (formed_freeze _) (hk _ _ ?_)
  exact State.formed_foldl (f := State.translated) (fun s h hs => State.formed_translated hs h) (s := s.fresh.2) hs _

/-! Windows -/

theorem State.formed_cancelFill (hs : s.formed) (w : Win) (f : WinFill) : (s.cancelFill w f).formed := by
  unfold State.cancelFill
  split
  · exact hs
  · refine State.formed_foldl (fun s i hs => ?_) hs _
    dsimp only
    split
    · exact hs
    · exact State.formed_padPut (s := s.pick.2) hs _ _

theorem State.formed_closeWin (hs : s.formed) (n : Nat) : (s.closeWin n).formed := by
  unfold State.closeWin
  dsimp only
  split
  · exact hs
  · exact State.formed_foldl (f := fun s f => s.cancelFill _ f) (fun s f hs => State.formed_cancelFill hs _ f) hs _

theorem formed_queueFill {n : Nat} {w : Win} {r0 : Int} {k : Nat} {f : State → Res} (hs : s.formed)
    (hf : ∀ t, t.formed → (f t).formed) : (queueFill s n w r0 k f).formed := by
  unfold queueFill
  dsimp only
  split
  · exact formed_raise _ _
  · exact formed_accept hs fun id t ht => hf _ ht

/-! Sync requests -/

theorem formed_issueSync {o : Long} {op space : Nat} {a b b1 : W64} {pd : Nat} (hs : s.formed) :
    (issueSync o op space s a b b1 pd).formed := by
  refine formed_ite (formed_raise _ _) (formed_ite (formed_raise _ _) (formed_ite (formed_raise _ _)
    (formed_ite (formed_raise _ _) ?_)))
  refine formed_ite (formed_withRace (formed_ite (formed_freeze _) (formed_ok ?_))) (formed_ite (formed_freeze _) (formed_ok ?_))
  all_goals
    dsimp only
    split <;> exact hs

theorem formed_atomic1 {o : Long} {op space : Nat} (hs : s.formed) : (atomic1 o op space s).formed :=
  formed_guarded hs (formed_withX fun _ => formed_withX fun _ => formed_issueSync hs)

theorem formed_atomic0 {o : Long} {op space : Nat} (hs : s.formed) : (atomic0 o op space s).formed :=
  formed_guarded hs (formed_withX fun _ => formed_issueSync hs)

end

/-! ## Slot operations keep the scratchpad's form -/

section
variable {s : State}

/-! The C slot -/

theorem formed_withCtl {k : Ctl} (hs : s.formed) : (withCtl s k).formed := formed_ok hs

theorem formed_openLoop {n i : Nat} {stages : Option Nat} (hs : s.formed) : (openLoop n i stages s).formed := by
  refine formed_ite (formed_raise _ _) (formed_ite (formed_raise _ _) (formed_ite (formed_raise _ _)
    (formed_ite (formed_raise _ _) (formed_ite (formed_withCtl hs) (formed_ite (formed_raise _ _) ?_)))))
  split <;> exact formed_withCtl hs

theorem formed_opNext {o : S0} (hs : s.formed) : (opNext o s).formed := by
  refine formed_guarded hs ?_
  split
  · exact formed_raise _ _
  · exact formed_ite (formed_withCtl hs) (formed_raise _ _)

theorem formed_opLexit {o : S0} (hs : s.formed) : (opLexit o s).formed := by
  refine formed_guarded hs ?_
  split
  · exact formed_raise _ _
  · exact formed_withCtl hs

theorem formed_needGroup {b : Bool} {k : Res} (hk : k.formed) : (needGroup s b k).formed := formed_ite hk (formed_raise _ _)

/-! The A slot -/

theorem formed_opWopen {o : S3X} (hs : s.formed) : (opWopen o s).formed :=
  formed_guarded hs (formed_withRec fun _ => formed_ite (formed_tensorTrap _ _ _) (formed_ite (formed_raise _ _)
    (formed_withTier (formed_withLeast (formed_queueFill (State.formed_closeWin hs _) fun _ ht => formed_ok ht)))))

theorem formed_opWadv {o : S3} (hs : s.formed) : (opWadv o s).formed :=
  formed_guarded hs (formed_ite (formed_raise _ _) (formed_ite (formed_ok hs) (formed_ite (formed_raise _ _)
    (formed_withRec fun _ => formed_withTier (formed_withLeast
      (formed_queueFill (State.formed_foldl (fun _ _ h => State.formed_cancelFill h _ _) hs _) fun _ ht => formed_ok ht))))))

theorem formed_opWclose {o : S3} (hs : s.formed) : (opWclose o s).formed :=
  formed_guarded hs (formed_ite (formed_ok (State.formed_closeWin hs _)) (formed_raise _ _))

/-! The F slot -/

theorem formed_opFill {o : S2I} (hs : s.formed) : (opFill o s).formed :=
  formed_guarded hs (formed_padAddr fun _ => formed_ite (formed_raise _ _) (formed_padWrite hs))

theorem formed_opFlpush {o : S3X} (hs : s.formed) : (opFlpush o s).formed := by
  have push : ∀ (v : V512) (t : State), t.formed →
      (if t.core.flueRoom o.f1 1 then Res.ok (t.pushFlue o.f1 (t.core.now + 1) ((t.core.flueOf o.f1).entry v))
        else raise 0x06 o.f1).formed := fun v t ht => formed_ite (formed_ok ht) (formed_raise _ _)
  exact formed_guarded hs (formed_ite (formed_readStream hs push) (formed_withV fun v => push v s hs))

theorem formed_opFlpop {o : S3X} (hs : s.formed) : (opFlpop o s).formed :=
  formed_guarded hs (formed_readFlue hs fun _ _ ht => formed_ok ht)

/-! The X slot -/

theorem formed_opTpref {o : Long} (hs : s.formed) : (opTpref o s).formed := by
  refine formed_guarded hs (formed_withX fun h => ?_)
  split
  · exact formed_ok hs
  · split
    · exact formed_ok hs
    · exact formed_ite (formed_ok hs) (formed_accept hs fun _ _ ht => formed_ok ht)

/-- A copy that enters its queue leaves the bytes of the scratchpad, though its banks take a view. -/
theorem formed_copyGo {c : CopyDesc} {hint : Nat} {src dst : Option Rec} (hs : s.formed) :
    (copyChecked.go s c hint src dst).formed := by
  unfold copyChecked.go
  dsimp only
  split
  · exact formed_raise _ _
  · refine formed_ite (formed_raise _ _) (formed_accept hs fun id t ht =>
      formed_ok (State.formed_mapCore ht ?_))
    split <;> split <;> rfl

theorem formed_copyChecked {c : CopyDesc} {ring : AReg} {hint : Nat} {src dst : Option Rec} (hs : s.formed) :
    (copyChecked s c ring hint src dst).formed := by
  have tier : ∀ (x : Option Rec) (co : List Int) (k : Res), k.formed →
      (match x with | some r => withTier s r co k | none => k).formed := fun x co k hk => by
    cases x with
    | none => exact hk
    | some r => exact formed_withTier hk
  have least : ∀ k : Res, k.formed → (match src with
      | some r => if c.kind = 4 then withLeast s r (rowCoords c c.sc 0) c.d 0 k else k
      | none => k).formed := fun k hk => by
    cases src with
    | none => exact hk
    | some r => exact formed_ite (formed_withLeast hk) hk
  refine formed_ite (formed_raise _ _) ?_
  split
  · exact formed_trap _
  · refine tier _ _ _ (tier _ _ _ (least _ ?_))
    split
    · exact formed_ite (formed_tensorTrap _ _ _) (formed_ite (formed_raise _ _) (formed_copyGo hs))
    · exact formed_copyGo hs

theorem formed_opTcopy {o : Long} (hs : s.formed) : (opTcopy o s).formed :=
  formed_guarded hs (formed_withV fun _ => formed_ite (formed_raise _ _) (formed_ite (formed_tensorTrap _ _ _)
    (formed_ite (formed_tensorTrap _ _ _) (formed_copyChecked hs))))

/-! The M slot -/

theorem formed_startFill (hs : s.formed) (d : Nat) (src : FillSrc) (ty md : Nat) : (s.startFill d src ty md).formed := hs

theorem formed_opMldb {o : Long} (hs : s.formed) : (opMldb o s).formed := by
  refine formed_guarded hs (formed_padAddr fun a => ?_)
  dsimp only
  split
  · exact formed_raise _ _
  · refine formed_landed ?_
    split
    · exact formed_raise _ _
    · exact formed_ite (formed_raise _ _) (formed_ok (formed_startFill hs _ _ _ _))

theorem formed_opMtfetch {o : Long} (hs : s.formed) : (opMtfetch o s).formed :=
  formed_guarded hs (formed_withX fun _ => formed_withX fun _ => formed_withRec fun r => formed_ite (formed_raise _ _)
    (formed_ite (formed_tensorTrap _ _ _) (formed_withTier (formed_withLeast (formed_ite (formed_raise _ _)
      (formed_ok (State.formed_translated hs r.handle)))))))

theorem formed_withFill {early : Bool} {k : Res} (hk : k.formed) : (withFill s early k).formed := by
  unfold withFill
  split
  · exact hk
  · exact formed_ite (formed_freeze _) (formed_ite (formed_raise _ _) hk)

theorem formed_opMshift {o : Long} (hs : s.formed) : (opMshift o s).formed := by
  refine formed_guarded hs (formed_withFill ?_)
  split
  · exact formed_raise _ _
  · exact formed_ok hs

theorem State.formed_pushed (hs : s.formed) (n v : Nat) : (s.pushed n v).2.formed := by
  unfold State.pushed
  split <;> exact hs

theorem formed_pushPlane {o : Long} {e c v : Nat} (hs : s.formed) : (pushPlane o e c v s).formed := formed_ok hs

theorem formed_opMpush {o : Long} (hs : s.formed) : (opMpush o s).formed :=
  formed_guarded hs (formed_ite (formed_raise _ _) (formed_withFill (formed_ite
    (formed_readFlue hs fun _ _ ht => formed_pushPlane (State.formed_mapCore (State.formed_pushed ht _ _) rfl))
    (formed_withV fun _ => formed_pushPlane hs))))

theorem formed_beatOp {o : Long} (hs : s.formed) : (beatOp o s).formed :=
  formed_guarded hs (formed_ite (formed_raise _ _) (formed_ite (formed_readElems hs fun _ _ ht => formed_ok ht)
    (formed_readGroup fun _ => formed_ok hs)))

theorem formed_opMswap {o : Long} (hs : s.formed) : (opMswap o s).formed := by
  refine formed_guarded hs (formed_ok (State.formed_mapCore hs ?_))
  dsimp only
  split <;> rfl

theorem formed_opMdrain {o : Long} (hs : s.formed) : (opMdrain o s).formed := by
  refine formed_guarded hs (formed_ite (formed_raise _ _) (formed_ite (formed_raise _ _) (formed_ok ?_)))
  dsimp only
  split <;> split <;> exact hs

end

/-! The slots -/

section
variable {s : State} {i : Instr} (hs : s.formed)
include hs

theorem runOp_formed_c (hi : i.slot = some .c) : (runOp .c i s).formed := by
  cases i with
  | cNop => exact formed_ok hs
  | br o | bri o | ret o | call o | trap o => exact formed_guarded hs (formed_withCtl hs)
  | brp o => exact formed_guarded hs (formed_ite (formed_ok hs) (formed_withCtl hs))
  | loop o | sloop o => exact formed_guarded hs (formed_openLoop hs)
  | next o => exact formed_opNext hs
  | lexit o => exact formed_opLexit hs
  | lix o => exact formed_guarded hs (formed_ok hs)
  | halt o => exact formed_guarded hs (formed_withRace (formed_withCtl hs))
  | eret o => exact formed_ite (formed_guarded hs (formed_withCtl hs)) (formed_raise _ _)
  | fuse o | rejoin o | decouple o | pair o => exact formed_guarded hs (formed_needGroup (formed_withCtl hs))
  | sbar o | sqbar o => exact formed_guarded hs (formed_needGroup (formed_withRace (formed_withCtl hs)))
  | _ => cases hi

theorem runOp_formed_a (hi : i.slot = some .a) : (runOp .a i s).formed := by
  cases i with
  | wopen o => exact formed_opWopen hs
  | wadv o => exact formed_opWadv hs
  | wclose o => exact formed_opWclose hs
  | _ => cases hi <;> exact (runOp_issues_a rfl (by simp) (by simp) (by simp)).formed hs

theorem runOp_formed_f (hi : i.slot = some .f) : (runOp .f i s).formed := by
  cases i with
  | fNop => exact formed_ok hs
  | fill o => exact formed_opFill hs
  | flcfg o => exact formed_guarded hs (formed_ok hs)
  | flpush o => exact formed_opFlpush hs
  | flpop o => exact formed_opFlpop hs
  | _ => cases hi

theorem runOp_formed_x (hi : i.slot = some .x) : (runOp .x i s).formed := by
  cases i with
  | xNop => exact formed_ok hs
  | lds o | vld o | vldx o =>
    exact formed_guarded hs (formed_padAddr fun _ => formed_padRead hs fun _ _ ht => formed_ok ht)
  | sts o => exact formed_guarded hs (formed_withX fun _ => formed_padAddr fun _ => formed_padWrite hs)
  | vst o | vstx o => exact formed_guarded hs (formed_withV fun _ => formed_padAddr fun _ => formed_padWrite hs)
  | tld o =>
    exact formed_guarded hs (formed_withX fun _ => formed_withOffset fun _ _ => formed_ite (formed_tensorTrap _ _ _)
      (formed_withTier (formed_withLeast (formed_ite (formed_accept hs fun _ _ ht => formed_ok ht) (formed_raise _ _)))))
  | tst o =>
    exact formed_guarded hs (formed_withX fun _ => formed_withOffset fun _ _ => formed_ite (formed_tensorTrap _ _ _)
      (formed_withTier (formed_readGroup fun _ => formed_accept hs fun _ _ ht => formed_ok ht)))
  | tcopy o => exact formed_opTcopy hs
  | tpref o => exact formed_opTpref hs
  | fence o => exact formed_guarded hs (formed_withRace (formed_ok hs))
  | qfence o => exact formed_guarded hs (formed_ite (formed_ok hs) (formed_withRace (formed_ok hs)))
  | vjoin o => exact formed_guarded hs (formed_withX fun _ => formed_ok hs)
  | aadd o | amin o | amax o | aand o | aor o | axor o | axchg o | ast o | afadd o | notify o | dqpush o | dcnt o =>
    exact formed_atomic1 hs
  | ald o | dqpop o | dqsteal o => exact formed_atomic0 hs
  | acas o | waita o => exact formed_guarded hs (formed_withX fun _ => formed_issueSync hs)
  | _ => cases hi

theorem runOp_formed_m (hi : i.slot = some .m) : (runOp .m i s).formed := by
  cases i with
  | mNop => exact formed_ok hs
  | mldb o => exact formed_opMldb hs
  | mtfetch o => exact formed_opMtfetch hs
  | mshift o => exact formed_opMshift hs
  | mpush o => exact formed_opMpush hs
  | macc o | mtern o => exact formed_beatOp hs
  | mzero o => exact formed_guarded hs (formed_ok hs)
  | mswap o => exact formed_opMswap hs
  | mdrain o => exact formed_opMdrain hs
  | _ => cases hi

/-- Every slot operation keeps the scratchpad's canonical form (R151). -/
theorem runOp_formed {sl : Slot} (hi : i.slot = some sl) : (runOp sl i s).formed := by
  cases sl with
  | c => exact runOp_formed_c hs hi
  | s => exact (runOp_issues_s hi).formed hs
  | a => exact runOp_formed_a hs hi
  | x => exact runOp_formed_x hs hi
  | v0 => exact (runOp_issues_v hi).formed hs
  | v1 => exact absurd hi i.slot_ne_v1
  | m => exact runOp_formed_m hs hi
  | f => exact runOp_formed_f hs hi

end

/-- Settles O58: writes keep the form and read back, so does what every slot operation stores, and the form is determined by
what is read. -/
theorem memoryKeepsItsForm : Obligations.MemoryKeepsItsForm :=
  ⟨fun m a bs h => ⟨m.wf_writeN a bs h, m.readN_writeN a bs, m.read_writeN_outside a bs⟩,
    fun m places bs h => m.wf_puts (places.zip bs) h, fun _ _ _ t hs hi h => runOp_formed hs hi t h,
    fun _ _ => Store.eq_of_get_eq⟩

end Sys2Proof.Machine
end

/-! PROOFS. Flues (spec/06_scratchpad_flues_landing.md R170 to R177): what an operation's sources give it where they are ready, and
what FILL, FLCFG, FLPUSH and FLPOP do. -/
section
namespace Sys2Proof.Machine

/-! ## Sources that are ready (R56, R68, R165, R227) -/

section
variable {s : State}

/-- A vector source that can be read gives its value. -/
theorem withV_ready {n : Nat} {k : V512 → Res} (h : s.vReady n) : withV s n k = k (s.vSrc n) := by
  unfold withV State.vSrc
  by_cases hn : n < 1024
  · rw [State.vReady, if_pos hn] at h
    rw [if_pos hn, if_pos hn, h]
  · rw [State.vReady, if_neg hn] at h
    simp only [if_neg hn, h, if_true]

/-- The oldest element is taken where it has landed with its data. -/
theorem takeElem_landed {e : Elem} {l : List Elem} {v : V512} (hl : e.landed = true) (hd : e.data = some v) :
    takeElem (e :: l) = .got e l := by simp [takeElem, hl, hd]

/-- A stream register gives the data of its oldest element, once that has landed without a mark, and loses it. -/
theorem readStream_landed {n : Nat} {k : V512 → State → Res} {e : Elem} {l : List Elem} {v : V512}
    (hq : s.core.qOf n = e :: l) (hl : e.landed = true) (hd : e.data = some v) (hm : e.mark = none) :
    readStream s n k = k v (s.mapCore fun c => (c.setQ n l).took) := by
  unfold readStream
  rw [hq, takeElem_landed hl hd]
  simp only [hm, hd, Option.getD_some]

/-- A flue gives the data of its oldest entry, once that has landed without a mark, and loses it. -/
theorem readFlue_landed {n : Nat} {k : V512 → State → Res} {e : Elem} {l : List Elem} {v : V512}
    (hq : (s.core.flueOf n).q = e :: l) (hl : e.landed = true) (hd : e.data = some v) (hm : e.mark = none) :
    readFlue s n k = k v (s.mapCore fun c => (c.setFlue n { c.flueOf n with q := l }).took) := by
  unfold readFlue
  rw [hq, takeElem_landed hl hd]
  simp only [hm, hd, Option.getD_some]

/-- A checked address that reaches its offset gives it. -/
theorem padAddr_reach {a : AReg} {disp : Int} {len align x : Nat} {k : Nat → Res} (h : a.reach disp len align x) :
    padAddr a disp len align k = k x := by
  obtain ⟨hx, hlen, halign, hring⟩ := h
  unfold padAddr
  simp only [hx, hring, Int.toNat_natCast]
  refine if_neg ?_
  simp only [Bool.false_eq_true, or_false, not_or, not_not]
  omega

/-- A store whose banks allow its view stores its bytes and nothing else (R160, R227). -/
theorem padWrite_stores {v : View} {places : List Nat} {x : Nat} (h : s.core.pad.clashW v places = none) :
    ∃ t : State, padWrite s v places x = .ok t ∧ s.storesAt t.setViews places (toBytes places.length x) := by
  unfold padWrite
  rw [h]
  obtain ⟨bad, einj, hcore⟩ := s.padPut_core places (toBytes places.length x)
  refine ⟨_, rfl, ?_⟩
  simp only [State.storesAt, State.keepsTask, State.setViews, State.usePorts, State.mapCore, hcore, and_self,
    true_and]
  exact ⟨rfl, fun a ha => Memory.read_puts_outside _ _ a fun e he hea => ha (hea ▸ (List.of_mem_zip he).1)⟩

end

/-! ## FILL (R174) -/

/-- The byte of a pattern that falls on an offset. -/
theorem ofNat_elemAt (b i : Nat) : BitVec.ofNat 8 (elemAt 8 b i) = BitVec.ofNat 8 (b / 2 ^ (8 * i)) := by
  apply BitVec.eq_of_toNat_eq
  simp [elemAt]

/-- The bytes that a store of the number that some bytes make writes are those bytes. -/
theorem toBytes_placesOf {x n : Nat} {l : List Byte} (h : l.length = n) : toBytes (placesOf x n).length (ofBytes l) = l := by
  rw [placesOf_length, ← h, toBytes_ofBytes]

theorem exec_fill {o : S2I} {s : State} {x : Nat} (h : s.on o.g) (hx : (s.core.readA o.f1).reach 0 (o.imm + 1) 1 x)
    (hunit : x / 64 = (x + (o.imm + 1) - 1) / 64) (hclash : s.core.pad.clashW .lin (placesOf x (o.imm + 1)) = none) :
    ∃ t : State, exec (.fill o) s = .next t ∧ s.storesAt t (placesOf x (o.imm + 1))
      ((List.range (o.imm + 1)).map fun k => BitVec.ofNat 8 ((o.src2 s.core).toNat / 2 ^ (8 * ((x + k) % 8)))) := by
  obtain ⟨t, ht, hstores⟩ := padWrite_stores (x := ofBytes ((List.range (o.imm + 1)).map fun k =>
    BitVec.ofNat 8 (elemAt 8 (o.src2 s.core).toNat ((x + k) % 8)))) hclash
  refine ⟨t.setViews, ?_, ?_⟩
  · change settle s .f (opFill o s) = _
    rw [opFill, guarded_true _ h, padAddr_reach hx, if_neg (not_not.2 hunit), ht]
    rfl
  · rw [toBytes_placesOf (by simp)] at hstores
    simpa only [ofNat_elemAt] using hstores

/-! ## FLCFG (R158, R175) -/

/-- A pending configuration of a flue sets its formats and empties it. -/
theorem Core.applyCfg_flue (c : Core) {n : Nat} (x : Nat) (h : n < 8) :
    Core.applyCfg { c with cfg := some (n, x) } = { c with cfg := none }.setFlue n ⟨x % 2 ^ 8, x / 2 ^ 8, []⟩ := if_pos h

/-- A pending configuration of a bank sets its format register. -/
theorem Core.applyCfg_bank (c : Core) {n : Nat} (x : Nat) (h : 8 ≤ n) :
    Core.applyCfg { c with cfg := some (n, x) } =
      { c with cfg := none, pad := { c.pad with bfmt := Store.set Pad.bfmtReset c.pad.bfmt (n - 32) x } } :=
  if_neg (Nat.not_lt.2 h)

/-- FLCFG puts its configuration in force at the end of its bundle. -/
theorem exec_flcfg_on {o : S3X} {s : State} (h : s.on o.g) :
    exec (.flcfg o) s = .next (s.mapCore fun c => Core.applyCfg
      { c with cfg := some (o.f1, if o.f1 < 8 then bits o.x 0 8 + bits o.x 8 8 * 2 ^ 8 else bits o.x 0 8) }).setViews := by
  rw [exec_flcfg]
  change settle s .f ((opFlcfg o s).bind _) = _
  rw [opFlcfg, guarded_true _ h]
  rfl

theorem exec_flcfg_flue {o : S3X} {s : State} (h : s.on o.g) (hn : o.f1 < 8) :
    exec (.flcfg o) s =
      .next (s.mapCore fun c => { c with cfg := none }.setFlue o.f1 ⟨o.x % 256, o.x / 256 % 256, []⟩).setViews := by
  have hlow : (bits o.x 0 8 + bits o.x 8 8 * 2 ^ 8) % 2 ^ 8 = o.x % 256 := by simp [bits]
  have hhigh : (bits o.x 0 8 + bits o.x 8 8 * 2 ^ 8) / 2 ^ 8 = o.x / 256 % 256 := by simp only [bits]; omega
  simp only [exec_flcfg_on h, if_pos hn, Core.applyCfg_flue _ _ hn, hlow, hhigh]

theorem exec_flcfg_bank {o : S3X} {s : State} (h : s.on o.g) (hn : 8 ≤ o.f1) :
    exec (.flcfg o) s = .next (s.mapCore fun c =>
      { c with cfg := none, pad := { c.pad with bfmt := Store.set 0x80 c.pad.bfmt (o.f1 - 32) (o.x % 256) } }).setViews := by
  simp only [exec_flcfg_on h, if_neg (Nat.not_lt.2 hn), Core.applyCfg_bank _ _ hn, bits_zero]
  rfl

/-! ## FLPUSH and FLPOP (R172, R176, R177) -/

section
variable {o : S3X} {s : State}

theorem exec_flpush_vector (h : s.on o.g) (hroom : s.core.flueRoom o.f1 1 = true) (hsel : bit o.x 10 = false)
    (hv : s.vReady (o.x % 1024)) :
    exec (.flpush o) s =
      .next (s.pushFlue o.f1 (s.core.now + 1) ((s.core.flueOf o.f1).entry (s.vSrc (o.x % 1024)))).setViews := by
  change settle s .f (opFlpush o s) = _
  have hsrc : bits o.x 0 10 = o.x % 1024 := bits_zero o.x 10
  rw [opFlpush, guarded_true _ h, hsel, if_neg Bool.false_ne_true, hsrc, withV_ready hv]
  exact congrArg (settle s .f) (if_pos hroom)

theorem exec_flpush_stream {e : Elem} {l : List Elem} {v : V512} (h : s.on o.g) (hroom : s.core.flueRoom o.f1 1 = true)
    (hsel : bit o.x 10 = true) (hq : s.core.qOf (o.x % 16) = e :: l) (hl : e.landed = true) (hd : e.data = some v)
    (hm : e.mark = none) :
    let z := s.mapCore fun c => (c.setQ (o.x % 16) l).took
    exec (.flpush o) s = .next (z.pushFlue o.f1 (z.core.now + 1) ((z.core.flueOf o.f1).entry v)).setViews := by
  intro z
  change settle s .f (opFlpush o s) = _
  have hsrc : bits o.x 0 4 = o.x % 16 := bits_zero o.x 4
  have hroom' : z.core.flueRoom o.f1 1 = true := hroom
  rw [opFlpush, guarded_true _ h, hsel, if_pos rfl, hsrc, readStream_landed hq hl hd hm]
  exact congrArg (settle s .f) (if_pos hroom')

theorem exec_flpop_landed {e : Elem} {l : List Elem} {v : V512} (h : s.on o.g) (hq : (s.core.flueOf o.f1).q = e :: l)
    (hl : e.landed = true) (hd : e.data = some v) (hm : e.mark = none) :
    let f := s.core.flueOf o.f1
    let z := s.mapCore fun c => (c.setFlue o.f1 { f with q := l }).took
    let r := flueConvert f.source f.sink v.toNat
    exec (.flpop o) s = .next (z.result .f 14 [.v (physV s.core.loops.rot (o.x % 1024)) (BitVec.ofNat 512 r.1)]
      (some (BitVec.ofNat 512 r.1)) r.2).setViews := by
  intro f z r
  change settle s .f (opFlpop o s) = _
  have hdst : bits o.x 0 10 = o.x % 1024 := bits_zero o.x 10
  have hf : z.core.flueOf o.f1 = { f with q := l } := Store.get_set_self Flue.init s.core.flue o.f1 _
  have hr : flueConvert (z.core.flueOf o.f1).source (z.core.flueOf o.f1).sink v.toNat = r := by rw [hf]
  rw [opFlpop, guarded_true _ h, readFlue_landed hq hl hd hm, hdst]
  exact congrArg (fun r : Nat × Nat => Host.Outcome.next (z.result .f 14
    [.v (physV s.core.loops.rot (o.x % 1024)) (BitVec.ofNat 512 r.1)] (some (BitVec.ofNat 512 r.1)) r.2).setViews) hr

end

/-- Settles O7: where its sources are ready, each operation of the F slot is the one change that its rule gives. -/
theorem flueOperations : Obligations.FlueOperations :=
  ⟨⟨fun _ _ _ h => exec_fill h, fun _ _ h => ⟨exec_flcfg_flue h, exec_flcfg_bank h⟩⟩,
    ⟨fun _ _ h hroom => ⟨exec_flpush_vector h hroom, fun _ _ _ => exec_flpush_stream h hroom⟩,
      fun _ _ _ _ _ h => exec_flpop_landed h⟩⟩

end Sys2Proof.Machine
end

/-! PROOFS. Beats of the matrix array (spec/08_matrix_instructions.md R216; spec/05_number_formats.md R150): the units that MACC and
MTERN read, and the cells that a beat writes. -/
section
namespace Sys2Proof.Machine

/-! ## A units (R165, R216) -/

section
variable {s : State}

/-- A group of vector sources that can all be read gives their values in order. -/
theorem readGroup_ready {v n : Nat} {k : List V512 → Res} (h : ∀ i < n, s.vReady (v + i)) :
    readGroup s v n k = k ((List.range n).map fun i => s.vSrc (v + i)) := by
  induction n generalizing v k with
  | zero => rfl
  | succ n ih =>
    have hrest : ∀ i < n, s.vReady (v + 1 + i) := fun i hi => by
      rw [Nat.add_assoc, Nat.add_comm 1]
      exact h (i + 1) (by omega)
    rw [readGroup, withV_ready (n := v) (h 0 (Nat.succ_pos n)), ih hrest, List.range_succ_eq_map, List.map_cons, List.map_map]
    simp only [Function.comp_def, Nat.succ_eq_add_one, Nat.add_assoc, Nat.add_comm 1, Nat.add_zero]

/-- What taking elements of a stream register leaves of the hearth: the other elements, the accumulators and plane W. -/
def State.leftBy (s z : State) (q n : Nat) : Prop :=
  z.core.qOf q = (s.core.qOf q).drop n ∧ z.core.mat.live = s.core.mat.live ∧ z.core.mat.w = s.core.mat.w

/-- A stream register gives the data of its oldest elements in order, once they have landed without a mark, and loses them. -/
theorem readElems_landed {q n : Nat} (hn : n ≤ (s.core.qOf q).length)
    (h : ∀ e ∈ (s.core.qOf q).take n, e.landed = true ∧ e.data.isSome = true ∧ e.mark = none) :
    ∃ z, s.leftBy z q n ∧
      ∀ k : List V512 → State → Res, readElems s q n k = k (((s.core.qOf q).take n).map fun e => e.data.getD 0) z := by
  induction n generalizing s with
  | zero => exact ⟨s, ⟨rfl, rfl, rfl⟩, fun _ => rfl⟩
  | succ n ih =>
    cases hq : s.core.qOf q with
    | nil => simp [hq] at hn
    | cons e l =>
      rw [hq] at h hn
      obtain ⟨hl, hd, hm⟩ := h e List.mem_cons_self
      obtain ⟨v, hv⟩ := Option.isSome_iff_exists.1 hd
      have hrest : (s.mapCore fun c => (c.setQ q l).took).core.qOf q = l := Store.get_set_self [] s.core.q q l
      obtain ⟨z, ⟨hzq, hlive, hw⟩, hz⟩ := ih (s := s.mapCore fun c => (c.setQ q l).took) (by rw [hrest]; simpa using hn)
        (by rw [hrest]; exact fun e he => h e (List.mem_cons_of_mem _ he))
      rw [hrest] at hzq hz
      refine ⟨z, ⟨by rw [hzq, hq, List.drop_succ_cons], hlive, hw⟩, fun k => ?_⟩
      rw [readElems, readStream_landed hq hl hv hm, hz, List.take_succ_cons, List.map_cons, hv, Option.getD_some]

/-! ## MACC and MTERN (R216) -/

variable {o : Long} {m : Nat}

/-- A beat on a row of its shape reads its units as its operand selects. -/
theorem beatOp_row (h : s.on o.g) (hm : (s.core.readA o.sb).int = m) (hrow : m < (shapeOf o.ty).rows) :
    beatOp o s =
      let cnt := (shapeOf o.ty).units + if (fmtA o.ty o.md).isMx then 1 else 0
      if bit o.sc 4 then readElems s o.sa cnt fun us s => .ok (beat o (o.sc / 512 % 4) m us s)
      else readGroup s o.sa cnt fun us => .ok (beat o (o.sc / 512 % 4) m us s) := by
  have hin : ¬((m : Int) < 0 ∨ ((shapeOf o.ty).rows : Int) ≤ m) := by omega
  rw [beatOp, guarded_true _ h, hm, if_neg hin]
  rfl

theorem beatOp_registers (h : s.on o.g) (hm : (s.core.readA o.sb).int = m) (hrow : m < (shapeOf o.ty).rows)
    (hsel : bit o.sc 4 = false) (hv : ∀ i < (shapeOf o.ty).units + if (fmtA o.ty o.md).isMx then 1 else 0, s.vReady (o.sa + i)) :
    beatOp o s = .ok (beat o (o.sc / 512 % 4) m
      ((List.range ((shapeOf o.ty).units + if (fmtA o.ty o.md).isMx then 1 else 0)).map fun i => s.vSrc (o.sa + i)) s) := by
  rw [beatOp_row h hm hrow]
  simp only [hsel, Bool.false_eq_true, if_false]
  exact readGroup_ready hv

end

/-! ## The cells of a beat (R150) -/

/-- Writing the values of a function at the keys of some indices leaves every other key alone. -/
theorem Store.get_foldl_set_of_not_mem {α : Type} [DecidableEq α] (d : α) (key : Nat → Nat) (v : Nat → α) (l : List Nat)
    (s : Store α) {k : Nat} (h : ∀ i ∈ l, key i ≠ k) :
    Store.get d (l.foldl (fun s i => Store.set d s (key i) (v i)) s) k = Store.get d s k := by
  induction l generalizing s with
  | nil => rfl
  | cons i l ih =>
    rw [List.foldl_cons, ih _ fun j hj => h j (List.mem_cons_of_mem i hj),
      Store.get_set_ne d s (v i) (h i List.mem_cons_self).symm]

/-- Writing the values of a function at the keys of some indices, no two alike, gives each key its index's value. -/
theorem Store.get_foldl_set_of_mem {α : Type} [DecidableEq α] (d : α) {key : Nat → Nat} (hkey : Function.Injective key)
    (v : Nat → α) {l : List Nat} (s : Store α) {i : Nat} (hi : i ∈ l) :
    Store.get d (l.foldl (fun s i => Store.set d s (key i) (v i)) s) (key i) = v i := by
  induction l generalizing s with
  | nil => exact absurd hi List.not_mem_nil
  | cons j l ih =>
    by_cases hmem : i ∈ l
    · exact ih _ hmem
    · obtain rfl : i = j := (List.mem_cons.1 hi).resolve_right hmem
      rw [List.foldl_cons, Store.get_foldl_set_of_not_mem d key v l _ fun a ha hai => hmem ((hkey hai : a = i) ▸ ha),
        Store.get_set_self]

/-- What a beat makes of the cell of a column: its old value, if it counts, and the column's products (R150). -/
def beatValue (o : Long) (n m : Nat) (us : List V512) (s : State) (col : Nat) : W32 :=
  let sh := shapeOf o.ty
  let au := packList 512 ((us.take sh.units).map BitVec.toNat)
  let sc := ((us[sh.units]?).getD 0).toNat
  BitVec.ofNat 32 (beatCell (if bit o.sc 3 then none else some (Store.get 0 s.core.mat.live (accKey n m col)))
    (columnTerms o.ty o.md (rowVal (fmtA o.ty o.md) au (elemAt 8 sc)) (s.core.mat.w.row sh.rowBytes col)
      (s.core.mat.w.scaleOf (sh.depth / 32) col))).1

theorem State.beatCount_live (s : State) (n : Nat) (taken : Bool) : (s.beatCount n taken).core.mat.live = s.core.mat.live := rfl

/-- A beat writes the 128 cells of its row, one after another. -/
theorem beat_live (o : Long) (n m : Nat) (us : List V512) (s : State) :
    (beat o n m us s).core.mat.live =
      (List.range 128).foldl (fun l col => Store.set 0 l (accKey n m col) (beatValue o n m us s col)) s.core.mat.live := by
  simp only [beat, State.beatCount_live, State.mapCore_core, List.foldl_map, beatValue]
  cases h : us[(shapeOf o.ty).units]? with
  | none => simp only [Option.getD_none, BitVec.ofNat_eq_ofNat, BitVec.toNat_ofNat, Nat.zero_mod]
  | some u => rfl

theorem accKey_injective (n m : Nat) : Function.Injective (accKey n m) := fun i j hij => by
  unfold accKey at hij
  omega

/-- The row of a cell, with its accumulator. -/
theorem accKey_div {n m col : Nat} (h : col < 128) : accKey n m col / 128 = n * 128 + m := by
  unfold accKey
  omega

/-- A cell is at its column in its row. -/
theorem eq_accKey {n m k : Nat} (h : k / 128 = n * 128 + m) : k = accKey n m (k % 128) := by
  unfold accKey
  omega

/-- A beat writes the cells of its row of its accumulator, and no other cell. -/
theorem beat_cell (o : Long) (n m : Nat) (us : List V512) (s : State) (k : Nat) :
    Store.get 0 (beat o n m us s).core.mat.live k =
      if k / 128 = n * 128 + m then beatValue o n m us s (k % 128) else Store.get 0 s.core.mat.live k := by
  rw [beat_live]
  split
  · rename_i hk
    have hcol : k % 128 ∈ List.range 128 := List.mem_range.2 (Nat.mod_lt k (by decide))
    exact (congrArg _ (eq_accKey hk)).trans (Store.get_foldl_set_of_mem 0 (accKey_injective n m) (beatValue o n m us s) _ hcol)
  · rename_i hk
    exact Store.get_foldl_set_of_not_mem 0 (accKey n m) _ _ _ fun i hi he => hk (he ▸ accKey_div (List.mem_range.1 hi))

/-- Settles O19: a beat's units are read in order, and its cells are the 128 keys of its row, no two alike. -/
theorem beatsComplete : Obligations.BeatsComplete := by
  refine ⟨fun o s m h => ?_, fun o n m us s k => ?_⟩
  · intro n cnt hm hrow
    refine ⟨fun hsel hv => ?registers, fun hsel hlen he => ?stream⟩
    case registers =>
      have hop := beatOp_registers h hm hrow hsel hv
      exact ⟨congrArg (settle s .m) hop, congrArg (settle s .m) hop⟩
    case stream =>
      obtain ⟨z, ⟨hq, hlive, hw⟩, hz⟩ := readElems_landed hlen he
      have hop := (beatOp_row h hm hrow).trans ((if_pos hsel).trans (hz _))
      exact ⟨z, hq, hlive, hw, congrArg (settle s .m) hop, congrArg (settle s .m) hop⟩
  · intro sh au sc a t old col
    refine (beat_cell o n m us s k).trans ?_
    by_cases hk : k / 128 = n * 128 + m
    · have hold : old = Store.get 0 s.core.mat.live (accKey n m col) := congrArg (Store.get 0 s.core.mat.live) (eq_accKey hk)
      rw [if_pos hk, if_pos hk, hold]
      rfl
    · rw [if_neg hk, if_neg hk]

end Sys2Proof.Machine
end

/-! PROOFS. Landings and arrivals (spec/06_scratchpad_flues_landing.md R163 to R165; spec/08_matrix_instructions.md R213, R214;
spec/09_memory_instructions.md R245): what makes due data readable, and where data on its way goes. -/
section
namespace Sys2Proof.Machine

/-! ## LANDING (R163, R164) -/

/-- Changing every entry's value by a function is the function on each value read, where it keeps the default. -/
theorem Store.get_map {α : Type} (d : α) {f : α → α} (hf : f d = d) (s : Store α) (k : Nat) :
    Store.get d (s.map fun e => (e.1, f e.2)) k = f (Store.get d s k) := by
  induction s with
  | nil => exact hf.symm
  | cons e r ih =>
    simp only [List.map_cons, Store.get, ih]
    split <;> rfl

/-- An element as LANDING leaves it: readable once its landing cycle has come. -/
def Core.landElem (c : Core) (e : Elem) : Elem := if c.due e.hand e.land then { e with landed := true } else e

theorem exec_landing {s : State} (h : s.hearthOk s.unit = true) :
    exec .landing s = .next (s.there.mapCore fun c =>
      { c with q := c.q.map fun e => (e.1, e.2.map c.landElem)
               flue := c.flue.map fun e => (e.1, { e.2 with q := e.2.q.map c.landElem }) }) := by
  change execLanding s = _
  exact atHearth_next _ h

/-! ## PLANE_FILL_LANDING (R214) -/

/-- Lowering pins touches the square alone. -/
theorem State.unpin_core (s : State) (q : Nat) (as : List Nat) : (s.unpin q as).core = s.core := by
  unfold State.unpin
  split <;> rfl

/-- A plane with all rows of a fill written into it. -/
def Fill.rowsInto (f : Fill) (p : Plane) : Plane :=
  (List.range 128).foldl (fun p n => p.setRow (shapeOf f.ty).rowBytes n (f.img.row (shapeOf f.ty).rowBytes n)) p

/-- A due fill with all its rows puts them into the staging plane; of the hearth it touches the array, FLAGS and the marks of
errors alone. -/
theorem landFill_core {s : State} {f : Fill} (hf : s.core.mat.fill = some f) (hdue : s.core.due f.hand f.land = true)
    (hgot : 128 ≤ f.got) :
    ∃ (p : Plane) (bad : List (OwnUnit × Flaw)), p.bytes = (f.rowsInto s.core.mat.s).bytes ∧ s.landFill.core =
      { s.core.engineFlags f.flags with
        mat := { s.core.mat with s := p, fill := none, smark := f.mark }
        bad := bad } := by
  have hbytes : ∀ scale : Memory, (if (fmtB f.ty f.md).isMx then { f.rowsInto s.core.mat.s with scale := scale }
      else f.rowsInto s.core.mat.s).bytes = (f.rowsInto s.core.mat.s).bytes := fun scale => by split <;> rfl
  unfold State.landFill
  simp only [hf, hdue, hgot, decide_true, Bool.and_self, if_true]
  split
  · simp only [State.unuseRecs_core, State.mapCore_core, State.unpin_core]
    exact ⟨_, _, hbytes _, rfl⟩
  · simp only [State.mapCore_core, State.unpin_core]
    exact ⟨_, _, hbytes _, rfl⟩

/-! ## WINDOW_ROW_LANDING (R232, R245) -/

/-- The bytes of a row with their places, but for what later operations of the queue have written (R232). -/
def Win.freeBytes (w : Win) (f : WinFill) : List (Nat × Byte) :=
  (((List.range w.size).map (w.slotBase f.row + ·)).zip (f.data.getD [])).filter
    fun e => !(f.later.any fun p => p.1 ≤ e.1 && e.1 < p.1 + p.2)

/-- A row's bytes go into its slot; nothing else of the hearth changes but marks of errors and EINJ (R350). -/
theorem State.putRow_core (s : State) (w : Win) (f : WinFill) :
    ∃ bad einj, (s.putRow w f).core =
      { s.core with bad := bad, st := { s.core.st with einj := einj },
                    pad := { s.core.pad with mem := (w.freeBytes f).foldl (fun m e => m.write e.1 e.2) s.core.pad.mem } } := by
  have empty : w.freeBytes f = [] → ∃ bad einj, s.core =
      { s.core with bad := bad, st := { s.core.st with einj := einj },
                    pad := { s.core.pad with mem := (w.freeBytes f).foldl (fun m e => m.write e.1 e.2) s.core.pad.mem } } :=
    fun h => ⟨s.core.bad, s.core.st.einj, by rw [h]; rfl⟩
  unfold State.putRow
  rcases hd : f.data with - | (- | ⟨b, bs⟩)
  · exact empty (by simp [Win.freeBytes, hd])
  · exact empty (by simp [Win.freeBytes, hd])
  · have hfree : (if f.later.isEmpty then ((List.range w.size).map (w.slotBase f.row + ·)).zip (b :: bs)
        else (((List.range w.size).map (w.slotBase f.row + ·)).zip (b :: bs)).filter
          fun e => !(f.later.any fun p => p.1 ≤ e.1 && e.1 < p.1 + p.2)) = w.freeBytes f := by
      rw [Win.freeBytes, hd]
      split
      · rename_i hl
        simp [List.isEmpty_iff.1 hl]
      · rfl
    simp only [hfree]
    obtain ⟨bad, einj, h⟩ := s.padPut_core ((w.freeBytes f).map Prod.fst) ((w.freeBytes f).map Prod.snd)
    rw [← List.zip_of_prod rfl rfl] at h
    exact ⟨bad, einj, h⟩

/-- A window whose row has landed: its fill is gone, and its slot carries the row's mark, if any (R316, R381). -/
def Win.rowLanded (w : Win) (f : WinFill) : Win :=
  let old := w.marks.filter fun m => w.slotBase m.1 != w.slotBase f.row
  { w with fills := w.fills.filter fun x => !(x.row == f.row && x.req == f.req)
           marks := match f.mark with | some m => old ++ [(f.row, m)] | none => old }

theorem Win.not_mem_fills_rowLanded {w : Win} {f x : WinFill} (hx : x ∈ (w.rowLanded f).fills) :
    ¬(x.row = f.row ∧ x.req = f.req) := by
  rintro ⟨hrow, hreq⟩
  simp [Win.rowLanded, hrow, hreq] at hx

theorem exec_windowRowLanding {s : State} (h : s.hearthOk s.unit = true) {n : Nat} {w : Win} {f : WinFill}
    (hrow : s.there.core.dueRow = some (n, w, f)) :
    exec .windowRowLanding s = .next ((s.there.putRow w f).mapCore fun c =>
      { c.engineFlags f.flags with win := Store.set Win.closed c.win n (w.rowLanded f) }) := by
  change execWindowRowLanding s = _
  rw [execWindowRowLanding, atHearth_next _ h]
  simp only [State.there] at hrow ⊢
  simp only [hrow]
  rfl

/-! ## DATA_ARRIVAL (R163, R165, R213) -/

/-- The hearth once item `n` of the data on its way has left the list, and a freeze that waited for it has ended. -/
def Core.received (c : Core) (n : Nat) : Core :=
  { c with eng := { c.eng with transit := c.eng.transit.take n ++ c.eng.transit.drop (n + 1) }
           link := { c.link with frozen := false } }

/-- What an arriving item leaves of the hearth. -/
theorem Core.arrive_keeps (c : Core) (x : Transit) :
    (c.arrive x).eng = c.eng ∧ (c.arrive x).link = c.link ∧ (c.arrive x).regs = c.regs ∧ (c.arrive x).pad = c.pad := by
  unfold Core.arrive
  cases x.dest <;> exact ⟨rfl, rfl, rfl, rfl⟩

/-- Of some elements among which data has arrived, the one that awaited it holds it. -/
theorem mem_map_arrive {l : List Elem} {req j : Nat} {v : V512} {m : Option (Nat × Nat)} {e : Elem}
    (he : e ∈ l.map fun e => e.arrive req j v m) (hreq : e.req = req) (hj : e.j = j) : e.data = some v ∧ e.mark = m := by
  obtain ⟨y, -, rfl⟩ := List.mem_map.1 he
  unfold Elem.arrive at hreq hj ⊢
  by_cases hy : y.req = req ∧ y.j = j
  · simp [hy]
  · rw [if_neg hy] at hreq hj
    exact absurd ⟨hreq, hj⟩ hy

/-- An item gives its data and its mark to the element of a stream register that awaits it. -/
theorem Core.arrive_q {c : Core} {x : Transit} {q req j : Nat} (hx : x.dest = .q q req j) {e : Elem}
    (he : e ∈ (c.arrive x).qOf q) (hreq : e.req = req) (hj : e.j = j) :
    e.data = some (BitVec.ofNat 512 (ofBytes x.data)) ∧ e.mark = x.mark := by
  have hq : (c.arrive x).qOf q = (c.qOf q).map fun e => e.arrive req j (BitVec.ofNat 512 (ofBytes x.data)) x.mark := by
    simp only [Core.arrive, hx]
    exact Store.get_set_self [] c.q q _
  rw [hq] at he
  exact mem_map_arrive he hreq hj

/-- An item gives its data, as the flue's formats keep it, and its mark to the entry of a flue that awaits it. -/
theorem Core.arrive_flue {c : Core} {x : Transit} {q req j : Nat} (hx : x.dest = .flue q req j) {e : Elem}
    (he : e ∈ ((c.arrive x).flueOf q).q) (hreq : e.req = req) (hj : e.j = j) :
    e.data = some ((c.flueOf q).entry (BitVec.ofNat 512 (ofBytes x.data))) ∧ e.mark = x.mark := by
  have hq : ((c.arrive x).flueOf q).q =
      (c.flueOf q).q.map fun e => e.arrive req j ((c.flueOf q).entry (BitVec.ofNat 512 (ofBytes x.data))) x.mark := by
    simp only [Core.arrive, hx]
    exact congrArg Flue.q (Store.get_set_self Flue.init c.flue q _)
  rw [hq] at he
  exact mem_map_arrive he hreq hj

/-- An item gives its bytes, its flags and its mark to the row of a window that awaits it. -/
theorem Core.arrive_win {c : Core} {x : Transit} {w req : Nat} {row : Int} (hx : x.dest = .win w req row) {f : WinFill}
    (hf : f ∈ (Store.get Win.closed (c.arrive x).win w).fills) (hreq : f.req = req) (hrow : f.row = row) :
    f.data = some x.data ∧ f.flags = x.flags ∧ f.mark = x.mark := by
  have hw : (Store.get Win.closed (c.arrive x).win w).fills = (Store.get Win.closed c.win w).fills.map fun f =>
      if f.req = req ∧ f.row = row then { f with data := some x.data, flags := x.flags, mark := x.mark } else f := by
    simp only [Core.arrive, hx]
    exact congrArg Win.fills (Store.get_set_self Win.closed c.win w _)
  rw [hw] at hf
  obtain ⟨y, -, rfl⟩ := List.mem_map.1 hf
  by_cases hy : y.req = req ∧ y.row = row
  · simp [hy]
  · rw [if_neg hy] at hreq hrow
    exact absurd ⟨hreq, hrow⟩ hy

/-! The next row of a plane fill (R212) -/

/-- What a fill has read awaits no packets, and has left the hearth as it was but for its marks of errors. -/
def Tile.kept (c : Core) (t : Tile) : Prop := t.port = [] ∧ ∃ bad, t.st.core = { c with bad := bad }

/-- A fill's read of a granule or chunk keeps what the reading keeps. -/
theorem once_kept {c : Core} {t : Tile} (h : t.kept c) (k : Nat)
    {read : State → List Byte × Option (Nat × Nat) × List Nat × List Nat × State}
    (hread : ∀ s : State, (∃ bad, s.core = { c with bad := bad }) →
      (read s).2.2.2.1 = [] ∧ ∃ bad, (read s).2.2.2.2.core = { c with bad := bad }) : (t.once k read).kept c := by
  obtain ⟨hport, hcore⟩ := h
  unfold Tile.once
  split
  · exact ⟨hport, hcore⟩
  · obtain ⟨hnew, hst⟩ := hread t.st hcore
    exact ⟨by simp only [hport, hnew, List.append_nil], hst⟩

/-- Logging what a read met in some units changes the marks of errors alone. -/
theorem sawUnits_kept {c : Core} (l : List Nat) (places : List Nat) {s : State} (h : ∃ bad, s.core = { c with bad := bad }) :
    ∃ bad, (l.foldl (fun s u => s.sawWords s.core.task.ctx (.pad u) (wordsIn u places)) s).core = { c with bad := bad } := by
  induction l generalizing s with
  | nil => exact h
  | cons u l ih =>
    obtain ⟨bad, hbad⟩ := h
    obtain ⟨bad', hsaw⟩ := s.sawWords_core s.core.task.ctx (.pad u) (wordsIn u places)
    exact ih ⟨bad', by rw [hsaw, hbad]⟩

theorem foldl_kept {c : Core} {step : Tile → Nat → Tile} (hstep : ∀ t k, t.kept c → (step t k).kept c) (l : List Nat)
    {t : Tile} (h : t.kept c) : (l.foldl step t).kept c := by
  induction l generalizing t with
  | nil => exact h
  | cons k l ih => exact ih (hstep t k h)

/-- Reading the scratchpad for a fill awaits no packets and leaves the hearth as it was but for its marks of errors. -/
theorem padChunks_kept {c : Core} {t : Tile} (h : t.kept c) (a n : Nat) : (padChunks t a n).kept c := by
  unfold padChunks
  refine (foldl_kept (fun t k ht => once_kept ht k fun s hs => ⟨?_, ?_⟩) _ h :
    Tile.kept c (List.foldl _ { t with bytes := [] } _))
  · rfl
  · dsimp only
    split
    · exact hs
    · exact sawUnits_kept _ _ hs

/-- The next row of a fill from the scratchpad joins its image. -/
theorem fillRow_pad {s : State} {f : Fill} {a : Nat} (hf : s.core.mat.fill = some f) (hsrc : f.src = .pad a)
    (hgot : f.got < 128) :
    ∃ (g : Fill) (bad : List (OwnUnit × Flaw)), g.got = f.got + 1 ∧
      s.fillRow.core = { s.core with bad := bad, mat := { s.core.mat with fill := some g } } := by
  have h0 : Tile.kept s.core ⟨[], none, f.pins, f.seen, [], s⟩ := ⟨rfl, s.core.bad, rfl⟩
  unfold State.fillRow
  simp only [hf, hsrc, if_neg (Nat.not_le.2 hgot)]
  split
  · obtain ⟨hport, bad, hcore⟩ := padChunks_kept
      (padChunks_kept h0 (a + f.got * (shapeOf f.ty).rowBytes) (shapeOf f.ty).rowBytes)
      (a + 128 * (shapeOf f.ty).rowBytes + f.got * ((shapeOf f.ty).depth / 32)) ((shapeOf f.ty).depth / 32)
    simp only [hport, List.isEmpty_nil, if_true, State.mapCore, hcore]
    exact ⟨_, bad, rfl, rfl⟩
  · obtain ⟨hport, bad, hcore⟩ := padChunks_kept h0 (a + f.got * (shapeOf f.ty).rowBytes) (shapeOf f.ty).rowBytes
    simp only [hport, List.isEmpty_nil, if_true, State.mapCore, hcore]
    exact ⟨_, bad, rfl, rfl⟩

/-! The step -/

section
variable {n : Nat} {s : State}

theorem exec_dataArrival_item {x : Transit} (h : s.hearthOk s.unit = true) (hx : s.there.core.eng.transit[n]? = some x)
    (hport : s.there.portClear x.port = true) :
    exec (.dataArrival n) s = .next (s.there.mapCore fun c => (c.received n).arrive x) := by
  change execDataArrival n s = _
  rw [execDataArrival, atHearth_next _ h]
  simp only [State.there] at hx hport ⊢
  simp only [hx, hport, Bool.not_true, Bool.false_eq_true, if_false]
  rfl

theorem exec_dataArrival_row (h : s.hearthOk s.unit = true) (hn : n = s.there.core.eng.transit.length)
    (hready : s.there.fillReady = true) :
    exec (.dataArrival n) s = .next (s.there.fillRow.mapCore fun c => { c with link := { c.link with frozen := false } }) := by
  change execDataArrival n s = _
  rw [execDataArrival, atHearth_next _ h]
  subst hn
  have hnone : s.there.core.eng.transit[s.there.core.eng.transit.length]? = none := List.getElem?_eq_none le_rfl
  simp only [State.there] at hready hnone ⊢
  simp only [hnone, hready, decide_true, Bool.and_self, if_true]

end

/-- Settles O27: each event of a landing or an arrival is the change of the hearth that its rule gives, and what it awaits or
brings decides the rest. -/
theorem landingsAndArrivals : Obligations.LandingsAndArrivals := by
  refine ⟨fun s h => ⟨?landing, ?fill, ?row⟩, fun n s h => ⟨?item, ?padRow, exec_dataArrival_row h⟩⟩
  case landing =>
    exact ⟨_, exec_landing h, fun k => Store.get_map [] rfl _ k, fun k =>
      have hk := Store.get_map Flue.init (f := fun e => { e with q := e.q.map s.there.core.landElem }) rfl s.there.core.flue k
      ⟨congrArg Flue.q hk, (congrArg Flue.source hk).trans rfl⟩, rfl, rfl, rfl, rfl⟩
  case fill =>
    intro f hf hdue hgot rb
    obtain ⟨p, bad, hbytes, hcore⟩ := landFill_core hf hdue hgot
    refine ⟨_, atHearth_next State.landFill h, ?_⟩
    rw [show (s.focus s.unit).landFill.core = _ from hcore]
    exact ⟨rfl, rfl, hbytes, rfl, rfl, rfl, rfl, rfl⟩
  case row =>
    intro n w f hrow
    refine ⟨_, exec_windowRowLanding h hrow, ?_⟩
    obtain ⟨bad, einj, hcore⟩ := s.there.putRow_core w f
    simp only [State.mapCore, hcore]
    refine ⟨rfl, fun x hx => ?_, rfl, rfl, rfl⟩
    rw [Store.get_set_self] at hx
    exact Win.not_mem_fills_rowLanded hx
  case item =>
    intro x hx hport
    refine ⟨_, exec_dataArrival_item h hx hport, ?_⟩
    obtain ⟨heng, hlink, hregs, hpad⟩ := (s.there.core.received n).arrive_keeps x
    exact ⟨congrArg Engine.transit heng, congrArg Link.frozen hlink, hregs, congrArg Pad.mem hpad,
      fun q req j hd e he => Core.arrive_q hd he, fun q req j hd e he => Core.arrive_flue (c := s.there.core.received n) hd he,
      fun w req row hd f hf => Core.arrive_win hd hf⟩
  case padRow =>
    intro f a hn hf hsrc hgot hport
    obtain ⟨g, bad, hg, hcore⟩ := fillRow_pad hf hsrc hgot
    have hready : s.there.fillReady = true := by simp [State.fillReady, hf, hsrc, hgot, hport]
    refine ⟨_, g, exec_dataArrival_row h hn hready, ?_⟩
    simp only [State.mapCore, hcore, hg, and_self]

end Sys2Proof.Machine
end

/-! PROOFS. The V slots (spec/07_vector_instructions.md R178 to R187, R200): what a vector operation puts in flight from V0 where
its sources are ready, and the value that each integer operation gives its lanes. -/
section
namespace Sys2Proof.Machine

/-! ## Packed lanes (R178) -/

theorem packList_cons (w x : Nat) (r : List Nat) : packList w (x :: r) = x % 2 ^ w + 2 ^ w * packList w r := rfl

/-- The lanes above the lowest are those of the rest of the list. -/
theorem elemAt_packList_succ (w x : Nat) (r : List Nat) (i : Nat) :
    elemAt w (packList w (x :: r)) (i + 1) = elemAt w (packList w r) i := by
  have hx : x % 2 ^ w < 2 ^ w := Nat.mod_lt _ (Nat.two_pow_pos w)
  unfold elemAt
  rw [Nat.mul_succ, Nat.add_comm, pow_add, ← Nat.div_div_eq_div_mul, packList_cons,
    Nat.add_mul_div_left _ _ (Nat.two_pow_pos w), Nat.div_eq_of_lt hx, Nat.zero_add]

/-- A lane of a packed list is its element, cut to the lane's width. -/
theorem elemAt_packList (w : Nat) (l : List Nat) (i : Nat) :
    elemAt w (packList w l) i = (l[i]?).getD 0 % 2 ^ w := by
  induction l generalizing i with
  | nil => exact congrArg (· % 2 ^ w) (Nat.zero_div _)
  | cons x r ih =>
    cases i with
    | zero =>
      rw [elemAt, packList_cons, Nat.mul_zero, pow_zero, Nat.div_one, Nat.add_mul_mod_self_left, Nat.mod_mod]
      rfl
    | succ i => exact (elemAt_packList_succ w x r i).trans (ih i)

/-! ## Lanes of a source, and sources that are ready (R178, R180, R183) -/

/-- A lane of a vector source, as a pattern of `w` bits. -/
abbrev State.laneAt (s : State) (w n i : Nat) : Nat := elemAt w (s.vSrc n).toNat i

/-- A lane of a vector source as the number that it is in the operation's integer or float type. -/
abbrev State.intLane (s : State) (o : Long) (n i : Nat) : Int := decodeInt (Long_ity o) (s.laneAt (Long_ity o).width n i)
abbrev State.floatLane (s : State) (o : Long) (n i : Nat) : Val := decodeFloat (Long_fty o) (s.laneAt (Long_fty o).width n i)

section
variable {s s0 : State} {o : Long}

/-- A scalar source of a long operation that can be read gives its value. -/
theorem withX_ready {n : Nat} {k : W64 → Res} (h : s.xReady n) : withX s n k = k (s.xSrc n) := by
  unfold withX State.xSrc
  by_cases hn : n < 1024
  · rw [if_pos hn, if_pos hn]
  · simp only [if_neg hn, h (Nat.not_lt.1 hn), if_true]

theorem withV1_ready {k : Nat → Res} (h : s.on o.g) (ha : s.vReady o.sa) : withV1 s o k = k (s.vSrc o.sa).toNat := by
  rw [withV1, guarded_true _ h, withV_ready ha]

theorem withVV_ready {k : Nat → Nat → Res} (h : s.on o.g) (ha : s.vReady o.sa) (hb : s.vReady o.sb) :
    withVV s o k = k (s.vSrc o.sa).toNat (s.vSrc o.sb).toNat := by
  rw [withVV, guarded_true _ h, withV_ready ha, withV_ready hb]

/-- A merge that can read its old destination gets it, and zeros where nothing merges. -/
theorem withOld_ready {all : Bool} {k : Nat → Res} (h : s.mergeReady o all) : withOld s o all k = k (s.old o all) := by
  unfold withOld State.old
  by_cases hnone : (all || o.wbs) = true
  · rw [if_pos hnone, if_pos hnone]
  · rw [if_neg hnone, if_neg hnone]
    refine withV_ready ?_
    rw [Bool.or_eq_true, not_or] at hnone
    exact (h.resolve_left hnone.1).resolve_left hnone.2

/-- The mode and the random words of a float operation, and the state that its draw leaves (R138, R141). -/
theorem withRnd_eq (k : Rnd → (Nat → Nat) → State → Res) : withRnd o s k = k (roundOf o) (s.word o) (s.drawn o) := by
  have hword : s.word o = if o.md = 4 then srWord s.core.st.srkey.toNat s.core.st.srctr.toNat else fun _ => 0 := by
    funext i
    unfold State.word
    split <;> rfl
  rw [hword]
  unfold withRnd roundOf State.drawn
  dsimp only
  split <;> rfl

/-- A draw changes nothing but the system registers. -/
theorem State.drawn_eq : ∃ st, s.drawn o = s.mapCore fun c => { c with st := st } := by
  unfold State.drawn
  split
  · exact ⟨_, rfl⟩
  · exact ⟨s.core.st, rfl⟩

/-- A draw leaves what a merge reads. -/
theorem State.mergeReady_drawn {all : Bool} (h : s.mergeReady o all) : (s.drawn o).mergeReady o all := by
  obtain ⟨st, hz⟩ := State.drawn_eq (s := s) (o := o)
  rw [hz]
  exact h

theorem State.allLanes_drawn (w : Nat) : (s.drawn o).allLanes o w = s.allLanes o w := by
  obtain ⟨st, hz⟩ := State.drawn_eq (s := s) (o := o)
  rw [hz]
  rfl

theorem State.old_drawn (all : Bool) : (s.drawn o).old o all = s.old o all := by
  obtain ⟨st, hz⟩ := State.drawn_eq (s := s) (o := o)
  rw [hz]
  rfl

/-! ## Results as steps (R180, R181) -/

theorem settle_vLanes {cls w : Nat} {lane : Nat → Nat × Nat} (h : s.mergeReady o (s.allLanes o w)) :
    settle s0 .v0 (vLanes .v0 o cls w lane s) = s.lanesOut o cls w lane := by
  unfold vLanes
  exact congrArg (settle s0 .v0) (withOld_ready h)

theorem settle_vLanes_drawn {cls w : Nat} {lane : Nat → Nat × Nat} (h : s.mergeReady o (s.allLanes o w)) :
    settle s0 .v0 (vLanes .v0 o cls w lane (s.drawn o)) = (s.drawn o).lanesOut o cls w lane :=
  settle_vLanes (State.allLanes_drawn (s := s) w ▸ State.mergeReady_drawn h)

theorem settle_vAll {cls w : Nat} {lane : Nat → Nat × Nat} :
    settle s0 .v0 (vAll .v0 o cls w lane s) = s.vectorOut o cls w lane := rfl

theorem settle_vMask {cls w : Nat} {lane : Nat → Bool × Nat} :
    settle s0 .v0 (vMask .v0 o cls w lane s) = s.maskOut o cls w lane := rfl

theorem settle_vResult {cls v flags : Nat} : settle s0 .v0 (vResult .v0 o cls v flags s) = s.valueOut o cls v flags := rfl

/-! What a settled operation does once its sources are read. -/

theorem settle_withV1 {k : Nat → Res} (h : s.on o.g) (ha : s.vReady o.sa) :
    settle s0 .v0 (withV1 s o k) = settle s0 .v0 (k (s.vSrc o.sa).toNat) := congrArg (settle s0 .v0) (withV1_ready h ha)

theorem settle_withVV {k : Nat → Nat → Res} (h : s.on o.g) (ha : s.vReady o.sa) (hb : s.vReady o.sb) :
    settle s0 .v0 (withVV s o k) = settle s0 .v0 (k (s.vSrc o.sa).toNat (s.vSrc o.sb).toNat) :=
  congrArg (settle s0 .v0) (withVV_ready h ha hb)

theorem settle_withV {k : V512 → Res} {n : Nat} (h : s.vReady n) : settle s0 .v0 (withV s n k) = settle s0 .v0 (k (s.vSrc n)) :=
  congrArg (settle s0 .v0) (withV_ready h)

theorem settle_withX {k : W64 → Res} {n : Nat} (h : s.xReady n) : settle s0 .v0 (withX s n k) = settle s0 .v0 (k (s.xSrc n)) :=
  congrArg (settle s0 .v0) (withX_ready h)

theorem settle_guarded {k : Res} (h : s.on o.g) : settle s0 .v0 (guarded o.g s k) = settle s0 .v0 k :=
  congrArg (settle s0 .v0) (guarded_true k h)

theorem settle_withOld_drawn {all : Bool} {k : Nat → Res} (h : s.mergeReady o all) :
    settle s0 .v0 (withOld (s.drawn o) o all k) = settle s0 .v0 (k (s.old o all)) := by
  rw [withOld_ready (State.mergeReady_drawn h), State.old_drawn]

theorem settle_withRnd {k : Rnd → (Nat → Nat) → State → Res} :
    settle s0 .v0 (withRnd o s k) = settle s0 .v0 (k (roundOf o) (s.word o) (s.drawn o)) :=
  congrArg (settle s0 .v0) (withRnd_eq k)

end

/-! ## The families of integer operations (R184, R185, R200) -/

section
variable {s : State} {o : Long} (h : s.on o.g)
include h

theorem settle_viBin (f : Fmt → Int → Int → Int) (ha : s.vReady o.sa) (hb : s.vReady o.sb)
    (hm : s.mergeReady o (s.allLanes o (Long_ity o).width)) :
    settle s .v0 (viBin .v0 o f s) = s.lanesOut o 5 (Long_ity o).width fun i =>
      (wrap (Long_ity o).width (f (Long_ity o) (s.intLane o o.sa i) (s.intLane o o.sb i)), 0) := by
  unfold viBin
  exact (settle_withVV h ha hb).trans (settle_vLanes hm)

theorem settle_viBits (f : Nat → Nat → Nat) (ha : s.vReady o.sa) (hb : s.vReady o.sb)
    (hm : s.mergeReady o (s.allLanes o (Long_ity o).width)) :
    settle s .v0 (viBits .v0 o f s) = s.lanesOut o 5 (Long_ity o).width fun i =>
      (f (s.laneAt (Long_ity o).width o.sa i) (s.laneAt (Long_ity o).width o.sb i), 0) := by
  unfold viBits
  exact (settle_withVV h ha hb).trans (settle_vLanes hm)

theorem settle_viUn (f : Fmt → Nat → Nat) (ha : s.vReady o.sa) (hm : s.mergeReady o (s.allLanes o (Long_ity o).width)) :
    settle s .v0 (viUn .v0 o f s) = s.lanesOut o 5 (Long_ity o).width fun i =>
      (f (Long_ity o) (s.laneAt (Long_ity o).width o.sa i), 0) := by
  unfold viUn
  exact (settle_withV1 h ha).trans (settle_vLanes hm)

/-- The amount of a shift is CI where CI[6] is set, and else that of each lane of B. -/
theorem settle_viShift (f : Nat → Nat → Nat → Nat) (ha : s.vReady o.sa) (hb : s.vReady o.sb)
    (hm : s.mergeReady o (s.allLanes o (Long_ity o).width)) :
    settle s .v0 (viShift .v0 o f s) = s.lanesOut o 5 (Long_ity o).width fun i =>
      (f (Long_ity o).width (s.laneAt (Long_ity o).width o.sa i)
        (if bit o.ci 6 then o.ci % 64 else s.laneAt (Long_ity o).width o.sb i % (Long_ity o).width), 0) := by
  rw [viShift, bits_zero]
  by_cases hci : bit o.ci 6 = true
  · simp only [if_pos hci]
    exact (settle_withV1 h ha).trans (settle_vLanes hm)
  · simp only [if_neg hci]
    exact (settle_withVV h ha hb).trans (settle_vLanes hm)

theorem settle_maskOp (v : W64) : settle s .v0 (maskOp .v0 o v s) =
    .next (s.result .v0 5 (if o.wbs then [] else [.m o.dst v]) (some (v.setWidth 512)) 0).setViews := by
  unfold maskOp
  exact settle_guarded h

end

/-- Settles O13: each operation is its function of the lanes, as its family puts it in flight. -/
theorem integerLaneResults : Obligations.IntegerLaneResults := by
  refine ⟨fun w l i _ => elemAt_packList w l i, ?_⟩
  intro o s h ha hb t w hm x y a b out raw sh
  have bin := fun f => settle_viBin h f ha hb hm
  have lanes := fun f => settle_viBits h f ha hb hm
  have un := fun f => settle_viUn h f ha hm
  have shift := fun f => settle_viShift h f ha hb hm
  exact ⟨bin fun _ a b => a + b, bin fun _ a b => a - b, bin fun t a b => clampInt t.minInt t.maxInt (a + b),
    bin fun t a b => clampInt t.minInt t.maxInt (a - b), bin fun _ a b => a * b, bin fun t a b => a * b / 2 ^ t.width,
    bin fun _ a b => if a < b then a else b, bin fun _ a b => if a < b then b else a,
    un fun t x => if t.isSigned then wrap t.width (decodeInt t x).natAbs else x, un fun t x => wrap t.width (0 - decodeInt t x),
    lanes Nat.land, lanes Nat.lor, lanes Nat.xor, un fun t x => leadingZeros x t.width, un fun t x => popCount x t.width,
    shift fun w x n => x * 2 ^ n % 2 ^ w, shift fun _ x n => x / 2 ^ n, shift fun w x n => wrap w (signed w x / 2 ^ n)⟩

/-! ## Product-sum, select and compare (R184, R186, R187) -/

section
variable {s : State} {o : Long} (h : s.on o.g) (ha : s.vReady o.sa) (hb : s.vReady o.sb)
include h ha hb

theorem settle_opVmad (hc : s.vReady o.sc) : settle s .v0 (opVmad .v0 o s) = s.vectorOut o 5 (Long_ity o).width fun i =>
    (wrap (Long_ity o).width (s.intLane o o.sa i + s.intLane o o.sb i * s.intLane o o.sc i), 0) := by
  unfold opVmad
  exact (settle_withVV h ha hb).trans ((settle_withV hc).trans settle_vAll)

theorem settle_opVsel : settle s .v0 (opVsel .v0 o s) = s.vectorOut o 5 (Long_ity o).width fun i =>
    (if bit (s.core.readM o.sc).toNat i then s.laneAt (Long_ity o).width o.sa i
      else s.laneAt (Long_ity o).width o.sb i, 0) := by
  unfold opVsel
  exact (settle_withVV h ha hb).trans settle_vAll

/-- A compare delivers the condition of its code. -/
theorem settle_opVcmp (c : Int → Int → Bool) (hc : viCond o.md = c) :
    settle s .v0 (opVcmp .v0 o s) = s.maskOut o 5 (Long_ity o).width fun i =>
      (c (s.intLane o o.sa i) (s.intLane o o.sb i), 0) := by
  subst hc
  unfold opVcmp
  exact (settle_withVV h ha hb).trans settle_vMask

end

/-- Settles O14: product-sum and select write every lane, a compare its condition's bit, and a mask operation all 64 bits. -/
theorem integerSelectCompareAndMasks : Obligations.IntegerSelectCompareAndMasks := by
  refine ⟨?lanes, fun o s h => ⟨settle_maskOp h _, settle_maskOp h _, settle_maskOp h _, ?pop⟩⟩
  case lanes =>
    intro o s h ha hb t w x y a b
    have cmp := settle_opVcmp h ha hb
    refine ⟨settle_opVmad h ha hb, settle_opVsel h ha hb, ?eq, ?ne, ?lt, ?le, ?gt, ?ge⟩
    case eq => exact fun hmd => cmp (fun a b => decide (a = b)) (hmd ▸ rfl)
    case ne => exact fun hmd => cmp (fun a b => decide (a ≠ b)) (hmd ▸ funext₂ bne_eq_decide_ne)
    case lt => exact fun hmd => cmp (fun a b => decide (a < b)) (hmd ▸ rfl)
    case le => exact fun hmd => cmp (fun a b => decide (a ≤ b)) (hmd ▸ rfl)
    case gt => exact fun hmd => cmp (fun a b => decide (b < a)) (hmd ▸ rfl)
    case ge => exact fun hmd => cmp (fun a b => decide (b ≤ a)) (hmd ▸ rfl)
  case pop => exact settle_guarded h

end Sys2Proof.Machine
end

/-! PROOFS. Float operations of the V slots (spec/07_vector_instructions.md R188 to R192): one draw for the operation, and the
value that it gives each lane. -/
section
namespace Sys2Proof.Machine

/-! ## The families of float operations (R188, R189, R192) -/

section
variable {s : State} {o : Long} (h : s.on o.g) (ha : s.vReady o.sa)
include h ha

theorem settle_vfBin (f : Rnd → Val → Val → Val × Nat) (hb : s.vReady o.sb)
    (hm : s.mergeReady o (s.allLanes o (Long_fty o).width)) :
    settle s .v0 (vfBin .v0 o f s) = (s.drawn o).lanesOut o 6 (Long_fty o).width fun i =>
      deliver (Long_fty o) (roundOf o) (s.word o i) (f (roundOf o) (s.floatLane o o.sa i) (s.floatLane o o.sb i)) := by
  unfold vfBin
  exact (settle_withVV h ha hb).trans (settle_withRnd.trans (settle_vLanes_drawn hm))

theorem settle_vfTrans (f : Fmt → Rnd → Nat → Val → Nat × Nat) (hm : s.mergeReady o (s.allLanes o (Long_fty o).width)) :
    settle s .v0 (vfTrans .v0 o f s) = (s.drawn o).lanesOut o 7 (Long_fty o).width fun i =>
      f (Long_fty o) (roundOf o) (s.word o i) (s.floatLane o o.sa i) := by
  unfold vfTrans
  exact (settle_withV1 h ha).trans (settle_withRnd.trans (settle_vLanes_drawn hm))

/-- A negated multiply-add is that of the negated factor. -/
theorem settle_vfFma (neg : Bool) (hb : s.vReady o.sb) (hc : s.vReady o.sc) :
    settle s .v0 (vfFma .v0 o neg s) = (s.drawn o).vectorOut o 6 (Long_fty o).width fun i =>
      let b := s.floatLane o o.sb i
      deliver (Long_fty o) (roundOf o) (s.word o i)
        (fmaVals (roundOf o) (s.floatLane o o.sa i) (if neg then b.negate else b) (s.floatLane o o.sc i)) := by
  unfold vfFma
  exact (settle_withVV h ha hb).trans ((settle_withV hc).trans (settle_withRnd.trans settle_vAll))

theorem settle_vfMinMax (isMax : Bool) (hb : s.vReady o.sb) (hm : s.mergeReady o (s.allLanes o (Long_fty o).width)) :
    settle s .v0 (vfMinMax .v0 o isMax s) = s.lanesOut o 6 (Long_fty o).width fun i =>
      fMinMax (Long_fty o) isMax (s.laneAt (Long_fty o).width o.sa i) (s.laneAt (Long_fty o).width o.sb i) := by
  unfold vfMinMax
  exact (settle_withVV h ha hb).trans (settle_vLanes hm)

theorem settle_vfSign (f : Fmt → Nat → Nat) (hm : s.mergeReady o (s.allLanes o (Long_fty o).width)) :
    settle s .v0 (vfSign .v0 o f s) = s.lanesOut o 6 (Long_fty o).width fun i =>
      let x := s.laneAt (Long_fty o).width o.sa i
      (if (decodeFloat (Long_fty o) x).isNan then (Long_fty o).canonicalNan else f (Long_fty o) x, 0) := by
  unfold vfSign
  exact (settle_withV1 h ha).trans (settle_vLanes hm)

theorem settle_opVfscale (hb : s.vReady o.sb) (hm : s.mergeReady o (s.allLanes o (Long_fty o).width)) :
    settle s .v0 (opVfscale .v0 o s) = (s.drawn o).lanesOut o 6 (Long_fty o).width fun i =>
      fScale (Long_fty o) (roundOf o) (s.word o i) (s.floatLane o o.sa i)
        (signed (Long_fty o).width (s.laneAt (Long_fty o).width o.sb i)) := by
  unfold opVfscale
  exact (settle_withVV h ha hb).trans (settle_withRnd.trans (settle_vLanes_drawn hm))

/-- A compare delivers the condition of its code, and NV for a signalling operand. -/
theorem settle_opVfcmp (hb : s.vReady o.sb) (c : Val → Val → Bool) (hc : vfCond o.md = c) :
    settle s .v0 (opVfcmp .v0 o s) = s.maskOut o 6 (Long_fty o).width fun i =>
      (c (s.floatLane o o.sa i) (s.floatLane o o.sb i), sigFlag [s.floatLane o o.sa i, s.floatLane o o.sb i]) := by
  subst hc
  unfold opVfcmp
  exact (settle_withVV h ha hb).trans settle_vMask

/-- A class test delivers the bit of CI that the lane's class has. -/
theorem settle_opVfclass : settle s .v0 (opVfclass .v0 o s) = s.maskOut o 6 (Long_fty o).width fun i =>
    (bit o.ci (classOf (Long_fty o) (s.floatLane o o.sa i)), 0) := by
  unfold opVfclass
  exact (settle_withV1 h ha).trans settle_vMask

end

/-- Settles O15: each operation is its function of the lanes; those that round draw first, the others draw nothing. -/
theorem floatLaneResults : Obligations.FloatLaneResults := by
  refine ⟨?rounded, ?exact⟩
  case rounded =>
    intro o s h ha t w rd x a b z out slow
    refine ⟨fun hm => ⟨fun hb => ?_, ?_⟩, fun hb hc => ⟨settle_vfFma h ha false hb hc, settle_vfFma h ha true hb hc⟩⟩
    · have bin := fun f => settle_vfBin h ha f hb hm
      exact ⟨bin fun rd a b => sumVals rd [a, b], bin fun rd a b => sumVals rd [a, b.negate], bin fun _ a b => mulVals a b,
        settle_opVfscale h ha hb hm⟩
    · have un := fun f => settle_vfTrans h ha f hm
      exact ⟨un fRcp, un fRsq, un fExp2, un fLog2⟩
  case exact =>
    intro o s h ha t w x y a b nan cmp
    refine ⟨fun hm => ⟨fun hb => ⟨settle_vfMinMax h ha false hb hm, settle_vfMinMax h ha true hb hm⟩, ?abs, ?neg⟩,
      fun hb => ?compare, settle_opVfclass h ha⟩
    case abs => exact settle_vfSign h ha (fun t x => x % 2 ^ (t.width - 1)) hm
    case neg => exact settle_vfSign h ha (fun t x => Nat.xor x (2 ^ (t.width - 1))) hm
    case compare =>
      have cond := settle_opVfcmp h ha hb
      refine ⟨?eq, ?ne, ?lt, ?le, ?un⟩
      case eq => exact fun hmd => cond (fun a b => !(a.isNan || b.isNan) && eqVals a b) (hmd ▸ rfl)
      case ne => exact fun hmd => cond (fun a b => a.isNan || b.isNan || !eqVals a b) (hmd ▸ rfl)
      case lt => exact fun hmd => cond (fun a b => !(a.isNan || b.isNan) && ltVals a b) (hmd ▸ rfl)
      case le => exact fun hmd => cond (fun a b => !(a.isNan || b.isNan) && (ltVals a b || eqVals a b)) (hmd ▸ rfl)
      case un => exact fun hmd => cond (fun a b => a.isNan || b.isNan) (hmd ▸ rfl)

end Sys2Proof.Machine
end

/-! PROOFS. Conversions, reductions, permutations and random numbers of the V slots (spec/07_vector_instructions.md R193 to R199,
R202). -/
section
namespace Sys2Proof.Machine

/-! ## Conversions and reductions (R193 to R198) -/

section
variable {s : State} {o : Long} (h : s.on o.g) (ha : s.vReady o.sa)
include h ha

/-- The lanes of source A that the lane mask selects, the first lowest. -/
abbrev State.selected (s : State) (o : Long) (w : Nat) : List Nat :=
  ((List.range (512 / w)).filter (bit (s.core.readM o.lm).toNat)).map (s.laneAt w o.sa)

/-- The second source is read where the 32 values are FP32 ones. -/
theorem settle_opVqmx (hb : o.ty = 0 → s.vReady o.sb) :
    let a := (s.vSrc o.sa).toNat
    let q := mxBlock ((Fmt.ofCode (o.ci % 32)).getD .mx8e4) ((List.range 32).map fun i => decodeFloat (Long_fty o)
      (if o.ty = 0 then (if i < 16 then elemAt 32 a i else elemAt 32 (s.vSrc o.sb).toNat (i - 16)) else elemAt 16 a i))
    settle s .v0 (opVqmx .v0 o s) = s.valueOut o 9 q.1 q.2 := by
  rw [opVqmx, bits_zero]
  by_cases hty : o.ty = 0
  · rw [if_pos hty]
    exact (settle_withVV h ha (hb hty)).trans settle_vResult
  · rw [if_neg hty]
    simp only [if_neg hty]
    exact (settle_withV1 h ha).trans settle_vResult

theorem settle_opVdqmx (hm : s.mergeReady o (s.allLanes o (Long_fty o).width)) :
    let f := (Fmt.ofCode (o.ci % 32)).getD .mx8e4
    let a := (s.vSrc o.sa).toNat
    settle s .v0 (opVdqmx .v0 o s) = (s.drawn o).lanesOut o 8 (Long_fty o).width fun j =>
      toFloat (Long_fty o) (roundOf o) (s.word o j)
        (mxVal f (bits a 504 8) (elemAt f.width a (j + if bit o.ci 5 then 16 else 0))) := by
  rw [opVdqmx, bits_zero]
  exact (settle_withV1 h ha).trans (settle_withRnd.trans (settle_vLanes_drawn hm))

/-- An integer reduction folds the lanes that the mask selects. -/
theorem settle_viRed (f : Fmt → List Int → Int) :
    settle s .v0 (viRed .v0 o f s) = s.valueOut o 10
      (wrap 64 (f (Long_ity o) ((s.selected o (Long_ity o).width).map (decodeInt (Long_ity o))))) 0 := by
  rw [State.selected, List.map_map]
  unfold viRed
  exact (settle_withV1 h ha).trans settle_vResult

theorem settle_opVrfmax :
    let m := maxLanes (Long_fty o) (s.selected o (Long_fty o).width)
    settle s .v0 (opVrfmax .v0 o s) = s.valueOut o 10 m.1 m.2 := by
  unfold opVrfmax
  exact (settle_withV1 h ha).trans settle_vResult

end

/-- Settles O16: a conversion splices its elements into the old destination, and a reduction folds the selected lanes. -/
theorem conversionAndReductionResults : Obligations.ConversionAndReductionResults := by
  refine ⟨?conversions, ?reductions⟩
  case conversions =>
    intro o s h ha v f ft it w m
    refine ⟨?vcvt, settle_opVqmx h ha, settle_opVdqmx h ha, ?vpack, ?vunpack⟩
    case vcvt =>
      intro src dst n p s0 d0 on all hm old rs
      change settle s .v0 (opVcvt .v0 o s) = _
      rw [opVcvt, bits_zero, bits_zero]
      exact (settle_withV1 h ha).trans (settle_withRnd.trans ((settle_withOld_drawn hm).trans settle_vResult))
    case vpack =>
      intro hb hm lo hi
      change settle s .v0 (opVpack .v0 o s) = _
      unfold opVpack
      exact (settle_withVV h ha hb).trans (settle_vLanes hm)
    case vunpack =>
      intro hm
      change settle s .v0 (opVunpack .v0 o s) = _
      unfold opVunpack
      exact (settle_withV1 h ha).trans (settle_vLanes hm)
  case reductions =>
    intro o s h ha v m it ft sel ints
    have red := fun f => settle_viRed h ha f
    refine ⟨?sum, ?max, ?min, settle_opVrfmax h ha, ?tree⟩
    case sum => exact red fun _ l => l.foldl (· + ·) 0
    case max => exact red fun t l => l.foldl max t.minInt
    case min => exact red fun t l => l.foldl min t.maxInt
    case tree =>
      intro conv r
      change settle s .v0 (opVrfadd .v0 o s) = _
      unfold opVrfadd
      refine (settle_withV1 h ha).trans (settle_withRnd.trans ?_)
      refine congrArg (fun flags => (s.drawn o).valueOut o 10 r.1 (orF r.2 (orAll flags))) ?_
      exact List.map_congr_left fun x _ => by cases x <;> rfl

/-! ## Permutations and random numbers (R199, R202) -/

/-- Settles O17: each permutation is the choice of its lanes, and VRNG a block for each group. -/
theorem permutationAndRandomResults : Obligations.PermutationAndRandomResults := by
  refine ⟨?permutations, ?random⟩
  case permutations =>
    intro o s h w n m a b ab sel merge
    refine ⟨?vperm, ?scalar, ?lane, ?vlrot, ?vshuf, ?vcmpr, ?vexpd, ?viota⟩
    case vperm =>
      intro ha hb hc
      change settle s .v0 (opVperm .v0 o s) = _
      unfold opVperm
      exact (settle_withVV h ha hb).trans ((settle_withV hc).trans settle_vAll)
    case scalar =>
      intro hci hx hm
      change settle s .v0 (opVbcast .v0 o s) = _
      rw [opVbcast, if_pos hci]
      exact (settle_guarded h).trans ((settle_withX hx).trans (settle_vLanes hm))
    case lane =>
      intro hci ha hm
      change settle s .v0 (opVbcast .v0 o s) = _
      rw [opVbcast, if_neg (ne_true_of_eq_false hci), bits_zero]
      exact (settle_withV1 h ha).trans (settle_vLanes hm)
    case vlrot =>
      intro ha hx hm k
      change settle s .v0 (opVlrot .v0 o s) = _
      rw [opVlrot, bits_zero]
      refine (settle_withV1 h ha).trans ?_
      by_cases hci : bit o.ci 6 = true
      · rw [if_pos hci, show k = (s.xSrc o.sb).toNat % n from if_pos hci]
        exact (settle_withX (hx hci)).trans (settle_vLanes hm)
      · rw [if_neg hci, show k = o.ci % 64 from if_neg hci]
        exact settle_vLanes hm
    case vshuf =>
      intro ha hb hm
      refine ⟨?_, ?_, ?_, ?_⟩
      all_goals
        intro hci
        change settle s .v0 (opVshuf .v0 o s) = _
        rw [opVshuf, hci]
        exact (settle_withVV h ha hb).trans (settle_vLanes hm)
    case vcmpr =>
      intro ha
      change settle s .v0 (opVcmpr .v0 o s) = _
      unfold opVcmpr
      refine (settle_withV1 h ha).trans ?_
      refine congrArg (s.vectorOut o 11 w) (funext fun i => ?_)
      change (match sel[i]? with | some j => a j | none => 0, 0) = ((sel[i]?).elim 0 a, 0)
      cases sel[i]? <;> rfl
    case vexpd =>
      intro ha
      change settle s .v0 (opVexpd .v0 o s) = _
      unfold opVexpd
      exact (settle_withV1 h ha).trans settle_vAll
    case viota =>
      change settle s .v0 (opViota .v0 o s) = _
      unfold opViota
      exact (settle_guarded h).trans settle_vAll
  case random =>
    intro o s h ha hx hm
    change settle s .v0 (opVrng .v0 o s) = _
    unfold opVrng
    exact (settle_guarded h).trans ((settle_withV ha).trans ((settle_withX hx).trans (settle_vLanes hm)))

end Sys2Proof.Machine
end

/-! PROOFS. Planes of the matrix array (spec/08_matrix_instructions.md R212 to R215, R221): the fills that MLDB and MTFETCH start,
what MSHIFT makes of the planes, and what MPUSH splices into one. -/
section
namespace Sys2Proof.Machine

/-! ## The start of a fill (R212 to R214) -/

/-- The fill of S pending from `src`, to land `d` cycles on, is all that a step changes of the task's results, registers and
scratchpad. -/
def State.startsFill (s t : State) (d : Nat) (src : FillSrc) (ty md : Nat) : Prop :=
  ∃ f : Fill, t.core.mat = { s.core.mat with fill := some f } ∧ f.src = src ∧ f.land = s.core.now + d ∧ f.ty = ty ∧ f.md = md ∧
    f.got = 0 ∧ t.core.regs = s.core.regs ∧ t.core.fly = s.core.fly ∧ t.core.pad.mem = s.core.pad.mem

section
variable {o : Long} {s : State}

theorem State.startFill_startsFill {z : State} (h : z.core = s.core) (d : Nat) (src : FillSrc) (ty md : Nat) :
    s.startsFill (z.startFill d src ty md).setViews d src ty md := by
  unfold State.startsFill
  rw [← h]
  exact ⟨_, rfl, rfl, rfl, rfl, rfl, rfl, rfl, rfl, rfl⟩

/-- No pending window row covers the places of a read (R249). -/
theorem landed_clear {a : Nat} {places : List Nat} {k : Res} (h : s.core.pendingRow places = none) : landed s a places k = k := by
  rw [landed, h]

/-- The units of the scratchpad that hold the plane image at an offset (R204, R212). -/
abbrev imageUnits (o : Long) (x : Nat) : List Nat :=
  (List.range (ceilDiv (imageBytes (shapeOf o.ty) (fmtB o.ty o.md).isMx) 64)).map (x + 64 * ·)

theorem opMldb_ready {x : Nat} (h : s.on o.g)
    (hx : (s.core.readA o.sa).reach 0 (imageBytes (shapeOf o.ty) (fmtB o.ty o.md).isMx) 64 x)
    (hclash : s.core.pad.clash .swz (imageUnits o x) = none) (hrow : s.core.pendingRow (imageUnits o x) = none)
    (hmark : s.core.rowMark (imageUnits o x) = none) (hfill : s.core.mat.fill = none) :
    opMldb o s = .ok (s.startFill o.sb (.pad x) o.ty o.md) := by
  rw [opMldb, guarded_true _ h, padAddr_reach hx]
  simp only [hclash, hmark, hfill, landed_clear hrow, Option.isSome_none, Bool.false_eq_true, if_false]

/-! ## Tensors at issue (R228, R229) -/

/-- The task finds the record of a tensor that can be named. -/
theorem withRec_ready {h : Nat} {r : Rec} {c : List Int} {k : Rec → Res} (hr : s.tensorReady h r) : withRec s h c k = k r := by
  obtain ⟨hh, hrec, -⟩ := hr
  rw [withRec, if_neg (Nat.not_le.2 hh), hrec]

/-- A record that may be used raises no cause of its tier. -/
theorem withTier_ready {r : Rec} {c : List Int} {k : Res} (h : s.recReady r) : withTier s r c k = k := by
  rw [withTier]
  obtain hre | ⟨hmov, haway, hfail⟩ := h
  · exact if_pos hre
  · simp only [hmov, haway, hfail, Bool.false_eq_true, if_false, ite_self]

/-- The format of the tile that MTFETCH brings, the cycles until it lands, and the part of its tensor's innermost dimension that
it covers (R213). -/
abbrev tileFmt (o : Long) : Fmt := fmtB o.ty (o.sc / 256 % 8)
abbrev tileDelay (o : Long) : Nat := o.sc % 256 * 4
abbrev Rec.tileSpan (r : Rec) (o : Long) : Int :=
  if r.raw then (shapeOf o.ty).depth * (tileFmt o).width / 8 else (shapeOf o.ty).depth

/-- A tile within its tensor, far enough ahead for the tensor's tier, becomes the pending fill. -/
theorem opMtfetch_ready {r : Rec} {n0 k0 : Int} (h : s.on o.g) (hsa : s.xReady o.sa) (hsb : s.xReady o.sb)
    (hn : signed 32 (s.xSrc o.sb).toNat = n0) (hk : signed 32 ((s.xSrc o.sb).toNat / 2 ^ 32) = k0)
    (hr : s.tensorReady (s.xSrc o.sa).toNat r) (hmx : (r.raw && (tileFmt o).isMx) = false) (hlen : r.ext.length = 2)
    (hn0 : 0 ≤ n0) (hk0 : 0 ≤ k0) (hnend : n0 + 128 ≤ r.ext.headD 0) (hkend : k0 + r.tileSpan o ≤ r.ext.getD 1 0)
    (halign : (r.isMx || (tileFmt o).isMx) = true → k0 % 32 = 0)
    (hleast : (s.fixed && decide (tileDelay o < r.worst + 64)) = false) (hfill : s.core.mat.fill = none) :
    opMtfetch o s = .ok (((s.translated r.handle).useRecs s.core.task.ctx [r.handle]).startFill (tileDelay o)
      (.tile r.handle n0.toNat k0.toNat o.md) o.ty (o.sc / 256 % 8)) := by
  have hmd : bits o.sc 8 3 = o.sc / 256 % 8 := rfl
  have hd : bits o.sc 0 8 = o.sc % 256 := bits_zero o.sc 8
  have hin : ¬(r.ext.length ≠ 2 ∨ n0 < 0 ∨ k0 < 0 ∨ ((r.ext.headD 0 : Nat) : Int) < n0 + 128 ∨
      ((r.ext.getD 1 0 : Nat) : Int) < k0 + r.tileSpan o ∨ ((r.isMx || (tileFmt o).isMx) = true ∧ k0 % 32 ≠ 0)) := by
    rintro (hne | hneg | hneg | hpast | hpast | ⟨hm, hoff⟩)
    · exact hne hlen
    · exact absurd hn0 (not_le.2 hneg)
    · exact absurd hk0 (not_le.2 hneg)
    · exact absurd hnend (not_le.2 hpast)
    · exact absurd hkend (not_le.2 hpast)
    · exact hoff (halign hm)
  rw [opMtfetch, guarded_true _ h, withX_ready hsa, withX_ready hsb]
  simp only [hmd, hd, hn, hk]
  rw [withRec_ready hr, if_neg (ne_true_of_eq_false hmx), if_neg hin, withTier_ready hr.2.2, withLeast,
    if_neg (ne_true_of_eq_false hleast), hfill]
  rfl

/-! ## MSHIFT (R214, R221) -/

theorem withFill_none {early : Bool} {k : Res} (h : s.core.mat.fill = none) : withFill s early k = k := by rw [withFill, h]

/-- Before its landing cycle a pending fill makes MSHIFT premature and does not concern MPUSH. -/
theorem withFill_early {early : Bool} {k : Res} {f : Fill} (h : s.core.mat.fill = some f) (hdue : s.core.due f.hand f.land = false) :
    withFill s early k = if early then raise 0x06 0 else k := by
  simp only [withFill, h, hdue, Bool.false_eq_true, if_false]

theorem withFill_push {k : Res} (h : ∀ f, s.core.mat.fill = some f → s.core.due f.hand f.land = false) : withFill s false k = k := by
  cases hf : s.core.mat.fill with
  | none => exact withFill_none hf
  | some f => exact withFill_early hf (h f hf)

theorem opMshift_landed (h : s.on o.g) (hfill : s.core.mat.fill = none) (hmark : s.core.mat.smark = none) :
    opMshift o s = .ok (s.mapCore fun c =>
      { c with mat := { c.mat with w := s.core.mat.s, s := if bit o.sc 0 then s.core.mat.w else s.core.mat.s } }) := by
  rw [opMshift, guarded_true _ h, withFill_none hfill, hmark]
  rfl

theorem opMshift_premature {f : Fill} (h : s.on o.g) (hfill : s.core.mat.fill = some f)
    (hdue : s.core.due f.hand f.land = false) : opMshift o s = raise 0x06 0 := by
  rw [opMshift, guarded_true _ h, withFill_early hfill hdue, if_pos rfl]

/-! ## MPUSH (R215) -/

/-- The elements that MPUSH writes: by its format, and from a flue by the flue's formats. -/
def State.pushCount (s : State) (o : Long) : Nat :=
  let fl := s.core.flueOf (o.sa % 8)
  if (fmtB o.ty o.md).isMx then 32 else if (fmtB o.ty o.md).width = 6 then 64
  else if bit o.sc 4 then flueCount ((Fmt.ofCode fl.source).getD .f32) ((Fmt.ofCode fl.sink).getD .f32)
  else 512 / (fmtB o.ty o.md).width

/-- A plane with `c` elements of a value from element `e` on, and the scale of an MX block. -/
def Plane.pushed (p : Plane) (o : Long) (e c v : Nat) : Plane :=
  let sh := shapeOf o.ty
  let p1 := p.setRow sh.rowBytes (e / sh.depth)
    (spliceBits (p.row sh.rowBytes (e / sh.depth)) (e % sh.depth * (fmtB o.ty o.md).width) (c * (fmtB o.ty o.md).width) v)
  if (fmtB o.ty o.md).isMx then
    { p1 with scale := p1.scale.write (e / sh.depth * (sh.depth / 32) + e % sh.depth / 32) (BitVec.ofNat 8 (bits v 504 8)) }
  else p1

/-- A push as a step changes S and no more of what its operation leaves. -/
theorem settle_pushPlane (s z : State) (o : Long) (e c v : Nat) :
    ∃ t : State, settle s .m (pushPlane o e c v z) = .next t ∧
      t.core.mat = { z.core.mat with s := z.core.mat.s.pushed o e c v } ∧ t.core.flue = z.core.flue ∧
      t.core.regs = z.core.regs ∧ t.core.fly = z.core.fly ∧ t.core.pad.mem = z.core.pad.mem :=
  ⟨_, rfl, rfl, rfl, rfl, rfl, rfl⟩

/-- The bits of a popped entry that are drawn lie past source bit 511. -/
theorem State.pushed_low (s : State) (n v : Nat) : (s.pushed n v).1 % 2 ^ 512 = v % 2 ^ 512 := by
  unfold State.pushed
  split
  · rfl
  · rw [Nat.add_mul_mod_self_right, Nat.mod_mod]

theorem State.pushed_core (s : State) (n v : Nat) : (s.pushed n v).2.core = s.core := by
  unfold State.pushed
  split <;> rfl

section
variable {e : Nat} (h : s.on o.g) (he : (s.core.readA o.sb).int = e) (hend : e + s.pushCount o ≤ 128 * (shapeOf o.ty).depth)
  (hrow : e % (shapeOf o.ty).depth + s.pushCount o ≤ (shapeOf o.ty).depth) (hmx : (fmtB o.ty o.md).isMx = true → e % 32 = 0)
  (hfill : ∀ f, s.core.mat.fill = some f → s.core.due f.hand f.land = false)
include h he hend hrow hmx hfill

/-- Elements that fit a row of the plane come from the source that the operand selects. -/
theorem opMpush_fits :
    opMpush o s =
      if bit o.sc 4 then
        readFlue s (o.sa % 8) fun v z =>
          let r := flueConvert (s.core.flueOf (o.sa % 8)).source (s.core.flueOf (o.sa % 8)).sink v.toNat
          let p := z.pushed (s.pushCount o * (fmtB o.ty o.md).width) r.1
          pushPlane o e (s.pushCount o) p.1 (p.2.mapCore fun k => k.putFlight ⟨.m, 1, [], none, r.2, false⟩)
      else withV s o.sa fun v => pushPlane o e (s.pushCount o) v.toNat s := by
  have hin : ¬((e : Int) < 0 ∨ ((128 * (shapeOf o.ty).depth : Nat) : Int) < e + s.pushCount o ∨
      ((shapeOf o.ty).depth : Int) < (e : Int) % (shapeOf o.ty).depth + s.pushCount o ∨
      ((fmtB o.ty o.md).isMx = true ∧ (e : Int) % 32 ≠ 0)) := by
    rintro (hneg | hpast | hover | ⟨hm, halign⟩)
    · omega
    · omega
    · rw [← Int.natCast_mod] at hover
      omega
    · have := hmx hm
      omega
  rw [opMpush, guarded_true _ h, he]
  exact (if_neg hin).trans (withFill_push hfill)

theorem opMpush_vector (hsel : bit o.sc 4 = false) (hv : s.vReady o.sa) :
    opMpush o s = pushPlane o e (s.pushCount o) (s.vSrc o.sa).toNat s := by
  rw [opMpush_fits h he hend hrow hmx hfill, hsel, if_neg Bool.false_ne_true, withV_ready hv]

/-- A push from a flue writes its entry's conversion up to source bit 511, once the entry has landed, and takes the entry. -/
theorem opMpush_flue (hsel : bit o.sc 4 = true) {x : Elem} {l : List Elem} {v : V512}
    (hq : (s.core.flueOf (o.sa % 8)).q = x :: l) (hl : x.landed = true) (hd : x.data = some v) (hm : x.mark = none) :
    let fl := s.core.flueOf (o.sa % 8)
    ∃ (z : State) (y : Nat), opMpush o s = pushPlane o e (s.pushCount o) y z ∧
      y % 2 ^ 512 = (flueConvert fl.source fl.sink v.toNat).1 % 2 ^ 512 ∧ z.core.mat.s = s.core.mat.s ∧
      z.core.flue = Store.set Flue.init s.core.flue (o.sa % 8) { fl with q := l } ∧ z.core.regs = s.core.regs ∧
      z.core.pad.mem = s.core.pad.mem := by
  intro fl
  have hop := opMpush_fits h he hend hrow hmx hfill
  rw [hsel, if_pos rfl, readFlue_landed hq hl hd hm] at hop
  refine ⟨_, _, hop, State.pushed_low _ _ _, ?_⟩
  rw [State.mapCore_core, State.pushed_core]
  exact ⟨rfl, rfl, rfl, rfl⟩

end

end

/-- Settles O18: each operation on the planes meets the conditions under which its rule lets it issue, and is then the one change
of S, of W or of the pending fill. -/
theorem planeFillsShiftAndPush : Obligations.PlaneFillsShiftAndPush := by
  refine ⟨⟨?mldb, ?mtfetch⟩, fun o s h => ⟨?shift, ?premature⟩, ?push⟩
  case mldb =>
    intro o s x h n units hx hclash hrow hmark hfill
    obtain ⟨f, hf⟩ := State.startFill_startsFill (rfl : s.core = s.core) o.sb (.pad x) o.ty o.md
    exact ⟨_, f, congrArg (settle s .m) (opMldb_ready h hx hclash hrow hmark hfill), hf⟩
  case mtfetch =>
    intro o s r h hsa hsb hd md fb depth n0 k0 d span hr hmx hlen hn0 hk0 hn hk halign hleast hfill
    have hop := opMtfetch_ready h hsa hsb rfl rfl hr hmx hlen hn0 hk0 hn hk halign hleast hfill
    obtain ⟨f, hf⟩ := State.startFill_startsFill (z := (s.translated r.handle).useRecs s.core.task.ctx [r.handle])
      (s.translated_core r.handle) d (.tile r.handle n0.toNat k0.toNat o.md) o.ty md
    exact ⟨_, f, congrArg (settle s .m) hop, hf⟩
  case shift => exact fun hfill hmark => congrArg (settle s .m) (opMshift_landed h hfill hmark)
  case premature => exact fun f hfill hdue => congrArg (settle s .m) (opMshift_premature h hfill hdue)
  case push =>
    intro o s e h fb depth n fl cnt put he hend hrow hmx hfill
    refine ⟨fun hsel hv => ?vector, fun x l v hsel hq hl hd hm => ?flue⟩
    case vector =>
      obtain ⟨t, ht, hmat, -, hrest⟩ := settle_pushPlane s s o e cnt (s.vSrc o.sa).toNat
      exact ⟨t, (congrArg (settle s .m) (opMpush_vector h he hend hrow hmx hfill hsel hv)).trans ht, hmat, hrest⟩
    case flue =>
      obtain ⟨z, y, hop, hy, hs, hflue, hregs, hmem⟩ := opMpush_flue h he hend hrow hmx hfill hsel hq hl hd hm
      obtain ⟨t, ht, hmat, htflue, htregs, -, htmem⟩ := settle_pushPlane s z o e cnt y
      refine ⟨t, y, (congrArg (settle s .m) hop).trans ht, ?_, hy, htflue.trans hflue, htregs.trans hregs, htmem.trans hmem⟩
      rw [hmat, hs]
      rfl

end Sys2Proof.Machine
end

/-! PROOFS. Groups and drains of the accumulators (spec/08_matrix_instructions.md R217 to R220): MZERO and MSWAP, the cells that
MDRAIN reads, and where it delivers and what it clears. -/
section
namespace Sys2Proof.Machine

/-- An element put in flight to a flue is among its elements. -/
theorem Core.mem_insertElem (c : Core) (e : Elem) (l : List Elem) : e ∈ c.insertElem e l := by
  induction l with
  | nil => exact List.mem_singleton_self e
  | cons x r ih =>
    rw [Core.insertElem]
    split
    · exact List.mem_cons_of_mem x ih
    · exact List.mem_cons_self

theorem State.pushFlue_mem (s : State) (n land : Nat) (v : V512) :
    ∃ x ∈ ((s.pushFlue n land v).core.flueOf n).q, x.data = some v ∧ x.land = land := by
  rw [State.pushFlue, State.mapCore_core, Core.flueOf, Core.setFlue, Store.get_set_self]
  exact ⟨_, Core.mem_insertElem _ _ _, rfl, rfl⟩

section
variable {o : Long} {s : State}

/-! ## MSWAP (R219) -/

/-- MSWAP retires the group; what else it changes is the link to the partner of a paired hearth. -/
theorem opMswap_retires (h : s.on o.g) :
    ∃ link, opMswap o s = .ok (s.mapCore fun c => { c.retire (o.sc / 512 % 4) with link := link }) := by
  rw [opMswap, guarded_true _ h]
  by_cases hp : s.core.link.paired = true
  · exact ⟨_, congrArg (fun c => Res.ok (s.mapCore fun _ => c)) (if_pos hp)⟩
  · exact ⟨_, congrArg (fun c => Res.ok (s.mapCore fun _ => c)) (if_neg hp)⟩

/-! ## MDRAIN (R220) -/

/-- The keys of the cells that MDRAIN reads from cell `e` on. -/
def drainKeys (o : Long) (e : Nat) : List Nat :=
  (List.range (512 / (drainFmt o.md).width)).map fun i => o.sc / 512 % 4 * 16384 + (e + i)

/-- The cells of some keys in the output format, each with its flags; the result that packs them, and the flags of all. -/
def State.drainCells (s : State) (o : Long) (keys : List Nat) : List (Nat × Nat) :=
  keys.map fun k =>
    if o.md = 0 then ((Store.get 0 s.core.mat.live k).toNat, 0)
    else convertElem .f32 (drainFmt o.md) .rne 0 (Store.get 0 s.core.mat.live k).toNat
def State.drainValue (s : State) (o : Long) (keys : List Nat) : V512 :=
  BitVec.ofNat 512 (packList (drainFmt o.md).width ((s.drainCells o keys).map Prod.fst))
def State.drainFlags (s : State) (o : Long) (keys : List Nat) : Nat := orAll ((s.drainCells o keys).map Prod.snd)

/-- The two destinations of a drain: vD and b6, or a flue, with the flags of the conversion in flight. -/
def State.drainToV (s : State) (o : Long) (keys : List Nat) : State :=
  s.result .m 13 (vdst o s.core (s.drainValue o keys)) (some (s.drainValue o keys)) (s.drainFlags o keys)
def State.drainToFlue (s : State) (o : Long) (keys : List Nat) : State :=
  (s.pushFlue (o.sc % 8) (s.core.now + s.core.latency 13) ((s.core.flueOf (o.sc % 8)).entry (s.drainValue o keys))).mapCore fun k =>
    k.putFlight ⟨.m, k.latency 13, [], none, s.drainFlags o keys, false⟩

theorem State.drainToFlue_mem (keys : List Nat) :
    ∃ x ∈ ((s.drainToFlue o keys).core.flueOf (o.sc % 8)).q,
      x.data = some ((s.core.flueOf (o.sc % 8)).entry (s.drainValue o keys)) ∧ x.land = s.core.now + s.core.latency 13 :=
  s.pushFlue_mem _ _ _

/-- Some cells of accumulator `n` cleared, which counts as a beat. -/
def State.clearCells (s : State) (n : Nat) (keys : List Nat) : State :=
  (s.mapCore fun k =>
    { k with mat := { k.mat with live := keys.foldl (fun l x => Store.set 0 l x 0) k.mat.live } }).beatCount n false

theorem State.clearCells_flueOf (n : Nat) (keys : List Nat) (q : Nat) : (s.clearCells n keys).core.flueOf q = s.core.flueOf q := rfl

theorem State.clearCells_live (n : Nat) (keys : List Nat) (k : Nat) :
    Store.get 0 (s.clearCells n keys).core.mat.live k = if k ∈ keys then 0 else Store.get 0 s.core.mat.live k := by
  change Store.get 0 (keys.foldl (fun l x => Store.set 0 l x 0) s.core.mat.live) k = _
  split
  · rename_i hk
    exact Store.get_foldl_set_of_mem 0 Function.injective_id (fun _ => 0) _ hk
  · rename_i hk
    exact Store.get_foldl_set_of_not_mem 0 id (fun _ => 0) _ _ fun i hi he => hk (he ▸ hi)

section
variable {e : Nat} (h : s.on o.g) (he : (s.core.readA o.sb).int = e) (halign : e % (512 / (drainFmt o.md).width) = 0)
  (hrow : e / 128 < (shapeOf o.ty).rows)
include h he halign hrow

/-- A drain from an aligned cell of its shape, into a flue with room where it goes to one, delivers its cells and then clears
them where it is asked to. -/
theorem opMdrain_cells (hroom : bit o.sc 4 = true → s.core.flueRoom (o.sc % 8) 1 = true) :
    opMdrain o s =
      let t := if bit o.sc 4 then s.drainToFlue o (drainKeys o e) else s.drainToV o (drainKeys o e)
      .ok (if bit o.sc 3 then t.clearCells (o.sc / 512 % 4) (drainKeys o e) else t) := by
  have hin : ¬((e : Int) < 0 ∨ (e : Int) % (512 / (drainFmt o.md).width : Nat) ≠ 0 ∨
      ((shapeOf o.ty).rows : Int) ≤ (e : Int) / 128) := by
    rw [← Int.natCast_mod, halign]
    omega
  have hkeys : ((List.range (512 / (drainFmt o.md).width)).map fun i =>
      accKey (bits o.sc 9 2) ((e + i) / 128) ((e + i) % 128)) = drainKeys o e := by
    refine List.map_congr_left fun i _ => ?_
    change o.sc / 512 % 4 * 16384 + (e + i) / 128 * 128 + (e + i) % 128 = _
    omega
  have hfl : bits o.sc 0 3 = o.sc % 8 := bits_zero o.sc 3
  have hfull : ¬(bit o.sc 4 = true ∧ s.core.flueRoom (bits o.sc 0 3) 1 = false) := by
    rintro ⟨hsel, hno⟩
    rw [hfl, hroom hsel] at hno
    exact Bool.true_eq_false.mp hno
  rw [opMdrain, guarded_true _ h, he]
  refine (if_neg hin).trans ((if_neg hfull).trans ?_)
  rw [Int.toNat_natCast, hkeys, hfl]
  rfl

end

end

/-- Settles O20: MZERO and MSWAP are one change of the accumulators, and a drain delivers its cells before any of them is cleared. -/
theorem accumulatorGroupsAndDrains : Obligations.AccumulatorGroupsAndDrains := by
  refine ⟨fun o s h => ⟨?mzero, ?mswap⟩, fun o s e h => ?mdrain⟩
  case mzero => exact ⟨_, congrArg (settle s .m) (guarded_true _ h), rfl, rfl, rfl, rfl, rfl, rfl⟩
  case mswap =>
    obtain ⟨link, hop⟩ := opMswap_retires h
    refine ⟨_, congrArg (settle s .m) hop, rfl, rfl, Store.get_set_self 0 s.core.mat.count _ 0, fun g hg => ?_, rfl, rfl, rfl⟩
    exact bne_iff_ne.1 (List.mem_filter.1 hg).2
  case mdrain =>
    intro f c n keys cell rs v flags he halign hrow
    have hdrain := opMdrain_cells h he halign hrow
    refine ⟨fun hsel hkeep => ?register, fun hsel hclear => ?cleared, fun hsel hroom => ?flue⟩
    case register =>
      have hop := hdrain fun hs => absurd hs (ne_true_of_eq_false hsel)
      simp only [hsel, hkeep, Bool.false_eq_true, if_false] at hop
      exact congrArg (settle s .m) hop
    case cleared =>
      have hop := hdrain fun hs => absurd hs (ne_true_of_eq_false hsel)
      simp only [hsel, hclear, Bool.false_eq_true, if_false, if_true] at hop
      exact ⟨_, congrArg (settle s .m) hop, rfl, State.clearCells_live n keys⟩
    case flue =>
      have hop := hdrain fun _ => hroom
      obtain ⟨x, hx, hdata, hland⟩ := State.drainToFlue_mem (s := s) (o := o) keys
      by_cases hclear : bit o.sc 3 = true
      · simp only [hsel, hclear, if_true] at hop
        rw [← State.clearCells_flueOf n keys] at hx
        refine ⟨_, x, congrArg (settle s .m) hop, hx, hdata, hland, fun k => ?_⟩
        simp only [hclear, true_and]
        exact State.clearCells_live n keys k
      · rw [Bool.not_eq_true] at hclear
        simp only [hsel, hclear, Bool.false_eq_true, if_false, if_true] at hop
        refine ⟨_, x, congrArg (settle s .m) hop, hx, hdata, hland, fun k => ?_⟩
        rw [hclear]
        exact (if_neg fun hk => Bool.false_ne_true hk.1).symm

end Sys2Proof.Machine
end

/-! PROOFS. The address operations of the A slot (spec/09_memory_instructions.md R244; spec/01_task_state.md R21). -/
section
namespace Sys2Proof.Machine

/-! ## Exact values (R244) -/

/-- An exact value that fits in 64 bits is written. -/
theorem withVal_fits {n : Nat} {v : Int} {k : W64 → Res} (hlo : -(2 ^ 63) ≤ v) (hhi : v < 2 ^ 63) :
    withVal n v k = k (BitVec.ofInt 64 v) := if_neg (by omega)

/-- An exact value outside 64 bits raises cause 0x12 with the register's number. -/
theorem withVal_overflows {n : Nat} {v : Int} {k : W64 → Res} (h : v < -(2 ^ 63) ∨ 2 ^ 63 ≤ v) :
    withVal n v k = raise 0x12 n := if_pos h

/-! ## Stepping (R21) -/

/-- A register without a ring steps to the exact sum where it fits. -/
theorem AReg.stepBy_linear {a : AReg} {d : Int} (hlin : a.rlen = 0) (hlo : -(2 ^ 63) ≤ a.val.toInt + d)
    (hhi : a.val.toInt + d < 2 ^ 63) : a.stepBy d = some (BitVec.ofInt 64 (a.val.toInt + d)) :=
  (if_pos hlin).trans (if_neg (by omega))

theorem AReg.stepBy_overflows {a : AReg} {d : Int} (hlin : a.rlen = 0)
    (h : a.val.toInt + d < -(2 ^ 63) ∨ 2 ^ 63 ≤ a.val.toInt + d) : a.stepBy d = none :=
  (if_pos hlin).trans (if_pos h)

/-- A register with a ring wraps round it and never overflows. -/
theorem AReg.stepBy_ring {a : AReg} {d : Int} (hring : a.rlen ≠ 0) :
    a.stepBy d = some (BitVec.ofInt 64 ((a.rbase.toNat * 64 : Int) +
      (a.val.toInt - a.rbase.toNat * 64 + d).fmod (a.rlen.toNat * 64))) := if_neg hring

/-! ## ASTEP -/

section
variable {o : S3} {s : State}

theorem exec_astep_some {v : W64} (h : s.on o.g) (hv : (s.core.readA o.f1).stepBy (o.src3 s.core).toInt = some v) :
    exec (.astep o) s = s.addrOut v [.aval o.f1 v] := by
  change settle s .a (opAstep o s) = _
  rw [opAstep, guarded_true _ h, hv]
  rfl

theorem exec_astep_none (h : s.on o.g) (hv : (s.core.readA o.f1).stepBy (o.src3 s.core).toInt = none) :
    exec (.astep o) s = .next (s.takeTrap ⟨0x12, o.f1, []⟩ 2 false s.core.seq 1 s.core.seq.pc) := by
  change settle s .a (opAstep o s) = _
  rw [opAstep, guarded_true _ h, hv]
  rfl

end

/-- Settles O5: what each operation writes is its exact value, or the step of its register by a linear or a ring rule. -/
theorem addressRegisterResults : Obligations.AddressRegisterResults := by
  refine ⟨fun o s h => ⟨fun hv => ?fits, fun hv => ?overflows⟩, fun o s h => ⟨?aset, ?step, ?stepOver, ?ring, ?aring⟩⟩
  case fits => exact congrArg (settle s .a) ((guarded_true _ h).trans (withVal_fits hv.1 hv.2))
  case overflows => exact congrArg (settle s .a) ((guarded_true _ h).trans (withVal_overflows hv))
  case aset => exact congrArg (settle s .a) (guarded_true _ h)
  case step => exact fun hlin hlo hhi => exec_astep_some h (AReg.stepBy_linear hlin hlo hhi)
  case stepOver => exact fun hlin hv => exec_astep_none h (AReg.stepBy_overflows hlin hv)
  case ring => exact fun hring => exec_astep_some h (AReg.stepBy_ring hring)
  case aring => exact congrArg (settle s .a) (guarded_true _ h)

end Sys2Proof.Machine
end

/-! PROOFS. Scratchpad stores (spec/09_memory_instructions.md R227). -/
section
namespace Sys2Proof.Machine

variable {o : Long} {s : State} {x : Nat}

/-- A store through a view that its banks allow, as a step of the X slot. -/
theorem settle_padWrite {v : View} {places : List Nat} {n : Nat} (hclash : s.core.pad.clashW v places = none) :
    ∃ t : State, settle s .x (padWrite s v places n) = .next t ∧ s.storesAt t places (toBytes places.length n) := by
  obtain ⟨t, ht, hstores⟩ := padWrite_stores (x := n) hclash
  exact ⟨t.setViews, congrArg (settle s .x) ht, hstores⟩

theorem exec_sts (h : s.on o.g) (hsrc : s.xReady o.sb) (hx : (s.core.readA o.sa).reach (signed 10 o.sc * (2 ^ o.ty : Nat)) (2 ^ o.ty) (2 ^ o.ty) x) :
    exec (.sts o) s = settle s .x (padWrite s .lin (placesOf x (2 ^ o.ty)) (s.xSrc o.sb).toNat) :=
  congrArg (settle s .x) ((guarded_true _ h).trans ((withX_ready hsrc).trans (padAddr_reach hx)))

theorem exec_vst (h : s.on o.g) (hsrc : s.vReady o.sb) (hx : (s.core.readA o.sa).reach (signed 10 o.sc * 64) 64 64 x) :
    exec (.vst o) s = settle s .x (padWrite s .lin (placesOf x 64) (s.vSrc o.sb).toNat) :=
  congrArg (settle s .x) ((guarded_true _ h).trans ((withV_ready hsrc).trans (padAddr_reach hx)))

theorem exec_vstx (h : s.on o.g) (hsrc : s.vReady o.sb)
    (hx : (s.core.readA o.sa).reach (signed 10 o.sc * (swzSpan o).2) (swzSpan o).1 (swzSpan o).2 x) :
    exec (.vstx o) s = settle s .x (padWrite s .swz (swzPlaces o x) (s.vSrc o.sb).toNat) :=
  congrArg (settle s .x) ((guarded_true _ h).trans ((withV_ready hsrc).trans (padAddr_reach hx)))

end Sys2Proof.Machine
end

section
namespace Sys2Proof.Machine

/-- Settles O8: once its source is read and its offset reached, each store is the one write of its bytes through its view. -/
theorem scratchpadStores : Obligations.ScratchpadStores := by
  refine ⟨fun o s x h hsrc => ?sts, fun o s x h hsrc hx hclash => ?vst, fun o s x h hsrc hx hclash => ?vstx⟩
  case sts =>
    intro n hx hclash
    have hstores := settle_padWrite (n := (s.xSrc o.sb).toNat) hclash
    rw [placesOf_length] at hstores
    rw [exec_sts h hsrc hx]
    exact hstores
  case vst =>
    have hstores := settle_padWrite (n := (s.vSrc o.sb).toNat) hclash
    rw [placesOf_length] at hstores
    rw [exec_vst h hsrc hx]
    exact hstores
  case vstx =>
    rw [exec_vstx h hsrc hx]
    exact settle_padWrite hclash

end Sys2Proof.Machine
end

/-! PROOFS. What the memory system leaves of a hearth and of the sync engines' parts: of the hearth in focus all but EINJ, which
an injection that fires spends (spec/15 R350), and the counters, mailboxes and their errors altogether. -/
section
namespace Sys2Proof.Machine

/-! ## What is left alone -/

/-- The hearth in focus stands, but for EINJ. -/
def State.keepsCore (s t : State) : Prop :=
  t.coreId = s.coreId ∧ ∃ einj, t.core = { s.core with st := { s.core.st with einj := einj } }

/-- The mailboxes stand, and the counters of named tasks with their definitions. -/
def State.keepsParts (s t : State) : Prop :=
  ∀ d, (t.dieAt d).boxes = (s.dieAt d).boxes ∧
    ∀ i, (t.namedAt d i).count = (s.namedAt d i).count ∧ (t.namedAt d i).defn = (s.namedAt d i).defn

/-- The errors of deques, mailboxes and counters stand. -/
def State.keepsFlaws (s t : State) : Prop := ∀ d, (t.dieAt d).flaws = (s.dieAt d).flaws

/-- A step of the memory system: none of these changes. -/
structure State.quiet (s t : State) : Prop where
  core : s.keepsCore t
  parts : s.keepsParts t
  flaws : s.keepsFlaws t

section
variable {s t u : State}

theorem State.keepsCore_refl (s : State) : s.keepsCore s := ⟨rfl, _, rfl⟩
theorem State.keepsParts_refl (s : State) : s.keepsParts s := fun _ => ⟨rfl, fun _ => ⟨rfl, rfl⟩⟩
theorem State.quiet_refl (s : State) : s.quiet s := ⟨s.keepsCore_refl, s.keepsParts_refl, fun _ => rfl⟩

theorem State.keepsCore.trans (h : s.keepsCore t) (h' : t.keepsCore u) : s.keepsCore u := by
  obtain ⟨hid, e, hcore⟩ := h
  obtain ⟨hid', e', hcore'⟩ := h'
  exact ⟨hid'.trans hid, e', by rw [hcore', hcore]⟩

theorem State.keepsParts.trans (h : s.keepsParts t) (h' : t.keepsParts u) : s.keepsParts u := fun d =>
  ⟨(h' d).1.trans (h d).1, fun i => ⟨((h' d).2 i).1.trans ((h d).2 i).1, ((h' d).2 i).2.trans ((h d).2 i).2⟩⟩

theorem State.quiet.trans (h : s.quiet t) (h' : t.quiet u) : s.quiet u :=
  ⟨h.core.trans h'.core, h.parts.trans h'.parts, fun d => (h'.flaws d).trans (h.flaws d)⟩

/-- A change outside hearths and dies is quiet. -/
theorem State.quiet_of_eq (hcore : t.core = s.core) (hid : t.coreId = s.coreId) (hdies : t.dies = s.dies) : s.quiet t := by
  have hdie : ∀ d, t.dieAt d = s.dieAt d := fun d => by rw [State.dieAt, hdies, ← State.dieAt]
  exact ⟨⟨hid, s.core.st.einj, hcore⟩, fun d => ⟨by rw [hdie], fun i => ⟨by rw [State.namedAt, hdie, ← State.namedAt],
    by rw [State.namedAt, hdie, ← State.namedAt]⟩⟩, fun d => by rw [hdie]⟩

theorem State.dieAt_mapDie (s : State) (d j : Nat) (f : Die → Die) :
    (s.mapDie d f).dieAt j = if j = d then f (s.dieAt d) else s.dieAt j := Store.get_set Die.init s.dies d j _

/-- A change of one die keeps each property of every die that it keeps of its own. -/
theorem State.dieAt_mapDie_keeps {α : Type} (p : Die → α) (s : State) (d j : Nat) {f : Die → Die} (hf : ∀ x, p (f x) = p x) :
    p ((s.mapDie d f).dieAt j) = p (s.dieAt j) := by
  rw [State.dieAt_mapDie]
  split
  · rename_i h
    rw [h, hf]
  · rfl

theorem State.keepsCore_mapDie (s : State) (d : Nat) (f : Die → Die) : s.keepsCore (s.mapDie d f) := ⟨rfl, _, rfl⟩

theorem State.keepsParts_mapDie (s : State) (d : Nat) {f : Die → Die} (hb : ∀ x, (f x).boxes = x.boxes)
    (hn : ∀ x, (f x).named = x.named) : s.keepsParts (s.mapDie d f) := fun j => by
  have hnamed := s.dieAt_mapDie_keeps Die.named d j hn
  exact ⟨s.dieAt_mapDie_keeps Die.boxes d j hb, fun i => by simp only [State.namedAt, hnamed, and_self]⟩

/-- A change of a die that leaves its mailboxes, named tasks and errors is quiet. -/
theorem State.quiet_mapDie (s : State) (d : Nat) {f : Die → Die}
    (hf : ∀ x, (f x).boxes = x.boxes ∧ (f x).named = x.named ∧ (f x).flaws = x.flaws) : s.quiet (s.mapDie d f) :=
  ⟨s.keepsCore_mapDie d f, s.keepsParts_mapDie d (fun x => (hf x).1) fun x => (hf x).2.1,
    fun j => s.dieAt_mapDie_keeps Die.flaws d j fun x => (hf x).2.2⟩

theorem State.quiet_foldl {α : Type} (s : State) (l : List α) {f : State → α → State}
    (hf : ∀ (s : State) (a : α), s.quiet (f s a)) :
    s.quiet (l.foldl f s) := by
  induction l generalizing s with
  | nil => exact s.quiet_refl
  | cons a l ih => exact (hf s a).trans (ih _)

theorem State.quiet_ite {p : Prop} [Decidable p] (ht : s.quiet t) (hu : s.quiet u) : s.quiet (if p then t else u) := by
  split <;> assumption

theorem State.quiet.keepsCtl (h : s.quiet t) : t.core.ctl = s.core.ctl := by
  obtain ⟨-, e, hcore⟩ := h.core
  rw [hcore]

end

/-! ## Injections and the log (R350, R351) -/

section
variable (s : State)

theorem State.quiet_fireFor (t : Nat × Nat) (array : Nat) : s.quiet (s.fireFor t array).2 := by
  unfold State.fireFor
  split
  · exact s.quiet_refl
  · rename_i c hc
    dsimp only
    split
    · refine ⟨⟨rfl, ?_⟩, s.keepsParts_refl, fun _ => rfl⟩
      dsimp only [State.mapTask]
      split
      · exact ⟨_, rfl⟩
      · exact ⟨_, rfl⟩
    · exact s.quiet_refl

theorem State.quiet_logError (d : Nat) (w : W64) : s.quiet (s.logError d w) := s.quiet_mapDie d fun _ => ⟨rfl, rfl, rfl⟩

theorem State.quiet_logHome (r : Rec) (p : Nat × Nat × Nat) (x : Flaw) : s.quiet (s.logHome r p x) :=
  State.quiet_ite s.quiet_refl (s.quiet_logError _ _)

/-! ## HBM, the memory-side cache and the square L2 (R239, R281 to R284, R391, R394) -/

theorem State.quiet_setSquare (q : Nat) (x : Square) : s.quiet (s.setSquare q x) := State.quiet_of_eq rfl rfl rfl
theorem State.quiet_mapRec (c h : Nat) (f : Rec → Rec) : s.quiet (s.mapRec c h f) := State.quiet_of_eq rfl rfl rfl
theorem State.quiet_setHome (r : Rec) (g : Nat) (x : Flaw) : s.quiet (s.setHome r g x) := s.quiet_mapRec _ _ _
theorem State.quiet_sidePut (d k : Nat) (l : Option Line) : s.quiet (s.sidePut d k l) :=
  s.quiet_mapDie d fun _ => ⟨rfl, rfl, rfl⟩
theorem State.quiet_hbmSend (key a op : Nat) (v : V512) (m : W64) (x : Flaw) : s.quiet (s.hbmSend key a op v m x) :=
  State.quiet_of_eq rfl rfl rfl

theorem State.quiet_hbmStore (t : Nat × Nat) (r : Rec) (g op : Nat) (v : V512) (m : Nat) (x : Flaw) :
    s.quiet (s.hbmStore t r g op v m x) :=
  ((s.quiet_fireFor t 0x06).trans (State.quiet_setHome _ _ _ _)).trans (State.quiet_hbmSend _ _ _ _ _ _ _)

theorem State.quiet_sideOut (k : Nat) (l : Line) : s.quiet (s.sideOut k l) := by
  unfold State.sideOut
  split
  · exact s.quiet_refl
  · refine State.quiet_ite (State.quiet.trans ?_ (State.quiet_hbmStore _ _ _ _ _ _ _ _)) s.quiet_refl
    exact State.quiet_ite (s.quiet_logHome _ _ _) s.quiet_refl

theorem State.quiet_sideInstall (t : Nat × Nat) (d : Nat) (l : Line) (hint : Nat) : s.quiet (s.sideInstall t d l hint) := by
  unfold State.sideInstall
  split
  · exact s.quiet_refl
  · split
    · exact s.quiet_refl
    · rename_i k old aged _
      have haged := s.quiet_foldl aged (f := fun s e => s.sidePut d e.1 e.2) fun s e => s.quiet_sidePut d e.1 e.2
      refine State.quiet.trans ?_ (State.quiet_sidePut _ _ _ _)
      refine State.quiet.trans ?_ (State.quiet_fireFor _ _ _)
      cases old with
      | none => exact haged
      | some o => exact haged.trans (State.quiet_sideOut _ _ _)

theorem State.quiet_correctCell (k g : Nat) : s.quiet (s.correctCell k g) := by
  unfold State.correctCell
  split
  · exact State.quiet_ite (State.quiet_of_eq rfl rfl rfl) s.quiet_refl
  · exact s.quiet_refl

theorem State.quiet_correctSpill (i : Nat) : s.quiet (s.correctSpill i) := by
  unfold State.correctSpill
  split
  · exact State.quiet_ite (State.quiet_of_eq rfl rfl rfl) s.quiet_refl
  · exact s.quiet_refl

theorem State.quiet_sawHome (r : Rec) (g : Nat) : s.quiet (s.sawHome r g) := by
  unfold State.sawHome
  refine State.quiet_ite s.quiet_refl ?_
  split
  · exact (s.quiet_logHome _ _ _).trans (State.quiet_sidePut _ _ _ _)
  · have hset := (s.quiet_logHome r (r.arrayOf g) (s.homeFlaw r g)).trans
      (State.quiet_setHome _ r g ((s.homeFlaw r g).corrected (s.homeFlaw r g).words))
    dsimp only
    split
    · exact hset.trans (State.quiet_correctCell _ _ _)
    · exact hset.trans (State.quiet_correctSpill _ _)
    · exact hset

theorem State.quiet_homeTouch (t : Nat × Nat) (r : Rec) (g hint : Nat) : s.quiet (s.homeTouch t r g hint) := by
  unfold State.homeTouch
  refine State.quiet_ite s.quiet_refl (s.quiet_foldl _ fun s u => ?_)
  dsimp only
  split
  · exact s.quiet_sidePut _ _ _
  · exact (s.quiet_hbmSend _ _ _ _ _ _).trans (State.quiet_sideInstall _ _ _ _ _)

theorem State.quiet_dropCopies (d : Nat) (keep : Option Nat) (a : Nat) : s.quiet (s.dropCopies d keep a) := by
  unfold State.dropCopies
  refine s.quiet_foldl _ fun s p => State.quiet_ite s.quiet_refl ?_
  split
  · exact s.quiet_setSquare _ _
  · exact s.quiet_refl

theorem State.quiet_homePut (t : Nat × Nat) (keep : Option Nat) (r : Rec) (g hint : Nat) (v : V512) (m : Nat) (x : Flaw) :
    s.quiet (s.homePut t keep r g hint v m x) := by
  have hwritten := (s.quiet_dropCopies r.home keep (r.phys g)).trans
    (State.quiet_mapRec _ r.ctx r.handle fun x => x.putGran g v)
  unfold State.homePut
  refine State.quiet_ite ?pool ?hbm
  case pool => exact (hwritten.trans (State.quiet_fireFor _ _ _)).trans (State.quiet_setHome _ _ _ _)
  case hbm =>
    dsimp only
    split
    · exact (hwritten.trans (State.quiet_fireFor _ _ _)).trans (State.quiet_sidePut _ _ _ _)
    · exact State.quiet_ite (hwritten.trans (State.quiet_sideInstall _ _ _ _ _))
        (hwritten.trans (State.quiet_hbmStore _ _ _ _ _ _ _ _))

theorem State.quiet_sawLine (q a : Nat) : s.quiet (s.sawLine q a) := by
  unfold State.sawLine
  split
  · exact s.quiet_refl
  · exact State.quiet_ite s.quiet_refl ((s.quiet_logError _ _).trans (State.quiet_setSquare _ _ _))

theorem State.quiet_writeHome (q : Nat) (l : Line) : s.quiet (s.writeHome q l) := by
  unfold State.writeHome
  split
  · exact State.quiet.trans (State.quiet_ite (s.quiet_sawLine _ _) s.quiet_refl) (State.quiet_homePut _ _ _ _ _ _ _ _ _)
  · exact s.quiet_refl

theorem State.quiet_sawGran (q : Nat) (r : Rec) (g : Nat) : s.quiet (s.sawGran q r g) := by
  refine State.quiet_ite (s.quiet_sawLine _ _) ?_
  split
  · exact s.quiet_sawLine _ _
  · exact s.quiet_sawHome _ _

theorem State.quiet_squareFence (q : Nat) (wb inv : Bool) : s.quiet (s.squareFence q wb inv) :=
  State.quiet_ite (State.quiet.trans (State.quiet_ite (s.quiet_foldl _ fun s l => s.quiet_writeHome q l) s.quiet_refl)
    (State.quiet_setSquare _ _ _)) s.quiet_refl

theorem State.quiet_homeFetch (c h off n : Nat) : s.quiet (s.homeFetch c h off n) := by
  unfold State.homeFetch
  split
  · exact s.quiet_refl
  · refine s.quiet_foldl _ fun s g => ?_
    exact State.quiet_ite (s.quiet_sawGran _ _ _) ((s.quiet_sawGran _ _ _).trans (State.quiet_homeTouch _ _ _ _ _))

/-! ## Launches of named tasks (R323, R327) -/

theorem State.quiet_fresh : s.quiet s.fresh.2 := State.quiet_of_eq rfl rfl rfl
theorem State.quiet_launches (l : List Launch) : s.quiet { s with launches := l } := State.quiet_of_eq rfl rfl rfl
theorem State.quiet_mapCtx (c : Nat) (f : Context → Context) : s.quiet (s.mapCtx c f) := State.quiet_of_eq rfl rfl rfl

theorem State.quiet_specialise (d : Nat) (c : Context) (r : Rec) (kv : List W64) : s.quiet (s.specialise d c r kv).2.2 := by
  unfold State.specialise
  dsimp only
  split
  · exact s.quiet_refl
  · split
    · dsimp only
      exact s.quiet_fresh.trans (State.quiet_mapDie _ d fun _ => ⟨rfl, rfl, rfl⟩)
    · dsimp only
      exact s.quiet_fresh.trans (State.quiet_mapDie _ d fun _ => ⟨rfl, rfl, rfl⟩)

theorem State.quiet_readAsk (a : Ask) : s.quiet (s.readAsk a) :=
  (s.quiet_homeFetch _ _ _ _).trans (State.quiet_homeFetch _ _ _ _ _)

theorem State.quiet_beginLaunch (a : Ask) (countStep : Bool) : s.quiet (s.beginLaunch a countStep).2.2 := by
  unfold State.beginLaunch
  dsimp only
  split
  · exact s.quiet_readAsk a
  · refine State.quiet.trans ?_ (State.quiet_launches _ _)
    refine State.quiet.trans ?_ (State.quiet_fresh _)
    refine State.quiet.trans ?_ (State.quiet_specialise _ _ _ _ _)
    exact (s.quiet_readAsk a).trans (State.quiet_ite (State.quiet_mapCtx _ _ _) (State.quiet_refl _))

theorem State.quiet_setSlot (st : StreamId) (serial l : Nat) (x : LaunchSlot) : s.quiet (s.setSlot st serial l x) := by
  unfold State.setSlot State.mapStream
  split
  · exact s.quiet_mapDie st.die fun _ => ⟨rfl, rfl, rfl⟩
  · exact s.quiet_refl

theorem State.quiet_beginSlot (a : Ask) (st : StreamId) (serial l : Nat) (countStep : Bool) :
    s.quiet (s.beginSlot a st serial l countStep).2 := by
  have hslot := (s.quiet_beginLaunch a countStep).trans (State.quiet_setSlot _ st serial l
    { LaunchSlot.empty with status := (s.beginLaunch a countStep).1, launch := (s.beginLaunch a countStep).2.1 })
  exact State.quiet_ite hslot (hslot.trans (State.quiet_of_eq rfl rfl rfl))

/-- A counter that keeps its number and definition is quiet. -/
theorem State.quiet_putNamed {d i : Nat} {x : Named} (hcount : x.count = (s.namedAt d i).count)
    (hdefn : x.defn = (s.namedAt d i).defn) : s.quiet (s.putNamed d i x) := by
  refine ⟨s.keepsCore_mapDie _ _, fun j => ⟨s.dieAt_mapDie_keeps Die.boxes d j fun _ => rfl, fun k => ?_⟩,
    fun j => s.dieAt_mapDie_keeps Die.flaws d j fun _ => rfl⟩
  simp only [State.namedAt, State.putNamed, State.dieAt_mapDie] at *
  by_cases hj : j = d
  · subst hj
    simp only [if_true, Store.get_set]
    by_cases hk : k = i
    · subst hk
      simp only [if_true]
      exact ⟨hcount, hdefn⟩
    · simp only [if_neg hk, and_self]
  · simp only [if_neg hj, and_self]

theorem State.quiet_tryNamed (d n : Nat) : s.quiet (s.tryNamed d n) := by
  unfold State.tryNamed
  dsimp only
  split
  · exact s.quiet_refl
  · rename_i f rest _
    have hput : s.quiet (s.putNamed d n { s.namedAt d n with ready := rest, known := [] }) := s.quiet_putNamed rfl rfl
    exact State.quiet_ite s.quiet_refl (hput.trans (State.quiet_beginSlot _ _ _ _ _ _))

theorem State.quiet_tryAllNamed (d : Nat) : s.quiet (s.tryAllNamed d) :=
  s.quiet_foldl _ fun s _ => s.quiet_foldl _ fun s n => s.quiet_tryNamed d n

end

end Sys2Proof.Machine
end

/-! PROOFS. Waits (spec/09_memory_instructions.md R240, R242, R243; spec/11 R277; spec/12 R294, R296): how the wait of a fence ends,
and how a WAITA times out and cancels its monitor. -/
section
namespace Sys2Proof.Machine

/-! ## The end of a wait (R240) -/

/-- Where no C-slot outcome stands back behind the wait, nothing more happens at its end. -/
theorem State.goOn_of_no_ctl {s : State} (h : s.core.ctl = none) : s.goOn = s :=
  if_neg fun hw => by simp [h] at hw

theorem State.writeRows_ctl (s : State) (m : Nat) : (s.writeRows m).core.ctl = s.core.ctl := by
  unfold State.writeRows
  generalize s.core.fillsIn m = l
  induction l generalizing s with
  | nil => rfl
  | cons e l ih =>
    obtain ⟨bad, einj, hcore⟩ := s.putRow_core e.1 e.2
    rw [List.foldl_cons, ih, hcore]

theorem Core.cleanBanks_ctl (c : Core) (m : Nat) : (c.cleanBanks m).ctl = c.ctl := by
  unfold Core.cleanBanks
  split <;> rfl

/-- The hearth may issue again. -/
abbrev State.freed (s : State) : State :=
  s.mapCore fun c => { c with wait := .none, link := { c.link with frozen := false } }

/-- The actions of a wait that is over (R242, R243): write-back or invalidation of the square's lines, and the rows and the views
of the banks that a VJOIN names. -/
abbrev State.waitEnded (s : State) (wb inv : Bool) (banks : Nat) : State :=
  (((s.squareFence (squareOf s.coreId) wb inv).freed).writeRows banks).mapCore fun c => c.cleanBanks banks

theorem State.waitEnded_ctl (s : State) (wb inv : Bool) (banks : Nat) : (s.waitEnded wb inv banks).core.ctl = s.core.ctl :=
  (Core.cleanBanks_ctl _ _).trans ((State.writeRows_ctl _ _).trans (s.quiet_squareFence _ wb inv).keepsCtl)

/-- The request held behind a wait leaves (R294). -/
def State.sendHeld (y : State) : Option Nat → State
  | none => y
  | some id => (y.reqs.find? fun r : SyncReq => r.id == id).elim y fun r =>
      (y.mapReq id fun r => { r with sent := true }).mapCore fun c => { c with wait := r.waitAfter (c.mode == Mode.preempting) }

theorem State.sendHeld_some {y : State} {id : Nat} {r : SyncReq} (hr : y.reqs.find? (fun r => r.id == id) = some r) :
    y.sendHeld (some id) = (y.mapReq id fun r => { r with sent := true }).mapCore fun c =>
      { c with wait := r.waitAfter (c.mode == Mode.preempting) } := by rw [State.sendHeld, hr, Option.elim_some]

/-- The member whose barrier awaited the fence arrives on its line (R277), or the hearth goes on. -/
def State.leaveFence (z : State) : Option Ctl → State
  | none => z.goOn
  | some k => z.arrive (z.lineTime - 1) z.core.seq.from_ k

section
variable {s : State}

/-- FENCE_WAIT_END where the wait of a fence is over. -/
theorem exec_fenceWaitEnd_fence (h : s.hearthOk s.unit = true) (hover : s.there.waitOver = true) {ops reqs : List Nat}
    {fills padded banks : Nat} {wb inv : Bool} {release : Option Nat} {arrive : Option Ctl}
    (hw : s.there.core.wait = .fence ops reqs fills padded wb inv banks release arrive) :
    exec .fenceWaitEnd s = .next (((s.there.waitEnded wb inv banks).sendHeld release).leaveFence arrive) := by
  change execFenceWaitEnd s = _
  rw [execFenceWaitEnd, atHearth_next _ h]
  unfold State.there at *
  simp only [hover, hw, Bool.not_true, Bool.false_eq_true, if_false]
  cases release with
  | none => cases arrive <;> rfl
  | some id =>
    unfold State.sendHeld
    cases hr : ((s.focus s.unit).waitEnded wb inv banks).reqs.find? fun r => r.id == id with
    | none => cases arrive <;> simp only [hr] <;> rfl
    | some r => cases arrive <;> simp only [hr] <;> rfl

/-- FENCE_WAIT_END where the acquire side of an atomic is over (R294). -/
theorem exec_fenceWaitEnd_acquire (h : s.hearthOk s.unit = true) (hover : s.there.waitOver = true) {req padded : Nat} {inv : Bool}
    (hw : s.there.core.wait = .acquire req padded inv) :
    exec .fenceWaitEnd s = .next (s.there.squareFence (squareOf s.there.coreId) false inv).freed.goOn := by
  change execFenceWaitEnd s = _
  rw [execFenceWaitEnd, atHearth_next _ h]
  unfold State.there at *
  simp only [hover, hw, Bool.not_true, Bool.false_eq_true, if_false]

end

/-! ## WAITA (R296) -/

section
variable {s : State} (h : s.hearthOk s.unit = true) {req pd issued t : Nat} {inv : Bool}
include h

theorem exec_waitaTimeout_due (hw : s.there.core.wait = .waita req pd issued t inv false) (ht : t ≠ 0)
    (hdue : t ≤ s.there.core.now - issued) (hreply : (s.there.reqs.any fun r => r.id == req && r.done) = false) :
    exec .waitaTimeout s = .next (s.there.mapCore fun c => { c with wait := .waita req pd issued t inv true }) := by
  change execWaitaTimeout s = _
  rw [execWaitaTimeout, atHearth_next _ h]
  unfold State.there at *
  simp only [hw]
  exact congrArg _ (if_pos ⟨ht, hdue, by rw [hreply]; rfl⟩)

/-- MONITOR_CANCEL_ACK at the cancellation of a wait whose request is outstanding. -/
theorem exec_monitorCancelAck_cancelling (hw : s.there.core.wait = .waita req pd issued t inv true) {r : SyncReq}
    (hr : s.there.reqs.find? (fun r => r.id == req) = some r) :
    exec .monitorCancelAck s = .next
      (let z := s.there
       if r.done then z.endWaita r (r.val != 0) r.got inv
       else if z.armed r then
         (z.mapDie (syncDie r.addr) fun d => { d with monitors := d.monitors.filter fun m => m.req != req }).endWaita r false [] inv
       else z) := by
  change execMonitorCancelAck s = _
  rw [execMonitorCancelAck, atHearth_next _ h]
  unfold State.there at *
  simp only [hw, hr]

end

/-- A WAITA that ends with false, and with no C-slot outcome behind it, writes its predicate and nothing else of the hearth's
registers and scratchpad. -/
theorem State.endWaita_false {s : State} (hc : s.core.ctl = none) (r : SyncReq) (got : List Tag) (inv : Bool) :
    (s.endWaita r false got inv).core = { s.core with wait := .none, regs := s.core.regs.setP r.pd false } :=
  congrArg State.core (State.goOn_of_no_ctl
    (s := (s.dropReq r.id).mapCore fun c => { c with wait := .none, regs := c.regs.setP r.pd false }) hc)

/-- Settles O29: each end is the step of its wait, behind which no C-slot outcome stands. -/
theorem waitsEndAndCancel : Obligations.WaitsEndAndCancel := by
  refine ⟨fun s h hover hctl => ⟨?fence, ?release, ?arrive, ?acquire⟩, fun s h => ⟨?timeout, ?cancel⟩⟩
  case fence =>
    intro ops reqs fills padded wb inv banks hw
    have hy : (s.there.waitEnded wb inv banks).core.ctl = none := (State.waitEnded_ctl _ wb inv banks).trans hctl
    rw [exec_fenceWaitEnd_fence h hover hw, State.sendHeld, State.leaveFence, State.goOn_of_no_ctl hy]
  case release =>
    intro ops reqs fills padded wb inv banks id r hw y hr
    have hy : y.core.ctl = none := (State.waitEnded_ctl _ wb inv banks).trans hctl
    rw [exec_fenceWaitEnd_fence h hover hw, State.sendHeld_some hr, State.leaveFence, State.goOn_of_no_ctl]
    exact hy
  case arrive =>
    intro ops reqs fills padded wb inv banks k hw
    exact exec_fenceWaitEnd_fence h hover hw
  case acquire =>
    intro req padded inv hw
    rw [exec_fenceWaitEnd_acquire h hover hw, State.goOn_of_no_ctl]
    exact (State.quiet_squareFence _ _ false inv).keepsCtl.trans hctl
  case timeout => exact fun req pd issued t inv hw => exec_waitaTimeout_due h hw
  case cancel =>
    intro req pd issued t inv r hw hr
    have hstep := exec_monitorCancelAck_cancelling h hw hr
    refine ⟨fun hdone => ?_, fun hdone harmed hctl => ?_⟩
    · rw [hstep]
      exact congrArg _ (if_pos hdone)
    · simp only [hdone, harmed, Bool.false_eq_true, if_false, if_true] at hstep
      have hcore := State.endWaita_false (s := s.there.mapDie (syncDie r.addr) fun d =>
        { d with monitors := d.monitors.filter fun m => m.req != req }) hctl r [] inv
      exact ⟨_, hstep, by rw [hcore], by rw [hcore]; rfl, by rw [hcore]; rfl⟩

end Sys2Proof.Machine
end

/-! PROOFS. VJOIN (spec/09_memory_instructions.md R243; spec/10 R262; spec/15 R345): its padded end is that of the task's own
entries, which queue entries of a pre-empted task may pass. -/
section
namespace Sys2Proof.Machine

/-! ## VJOIN (R243, R345) -/

/-- The queue entries that VJOIN awaits for the banks of a mask. -/
abbrev State.joinOps (s : State) (m : Nat) : List CopyOp :=
  (s.core.eng.cp ++ s.core.eng.cl).filter fun x => (s.opBanks x).any (bit m)

/-- The padded end of VJOIN: the task's own entries, those that have left their queue, and the rows of pending fills. -/
def State.joinEnd (s : State) (m : Nat) : Nat :=
  max (max (s.core.paddedEnd (s.joinOps m) fun x => (s.opBanks x).any (bit m))
    (maxOf ((s.core.fillsIn m).map fun e => s.core.now + s.core.until_ e.2.hand e.2.land))) s.core.now

theorem exec_vjoin {o : Long} {s : State} (h : s.on o.g) (hx : s.xReady o.sa) :
    let m := (s.xSrc o.sa).toNat % 2 ^ 32
    exec (.vjoin o) s = .next (s.mapCore fun c =>
      { c with wait := .fence ((s.joinOps m).map (·.id)) [] 0 (s.joinEnd m + 1) false false m none none }).setViews :=
  congrArg (settle s .x) ((guarded_true _ h).trans (withX_ready hx))

/-! ## An entry of a pre-empted task (R262) -/

/-- A copy within bank 0 that a task of launch 1 left in the queue, with padded completion 1000. -/
def leftCopy : CopyOp :=
  { id := 1, req := 1
    kind := .copy { kind := 3, shandle := 0, dhandle := 0, sc := [], dc := [], soff := 0, doff := 64, pitch := 64, rows := 1,
                    count := 64, d := 0, sigKind := 0, sigId := 0, flue := 0, wdim := 0, adv := 0, remote := none, bfmt := [] }
    hint := 0, padded := 1000, tail := 0, epoch := 0, launch := 1, ord := 0, ctx := 0, known := [], sat := false
    performed := false, status := 0, awaits := 0, snap := none }

/-- The hearth runs a task of launch 2 whose x1 names bank 0, beside the entry that the pre-empted task of launch 1 left. -/
def besideLeftCopy : State :=
  State.reset.mapCore fun c =>
    { c with mode := .running, task := { c.task with launch := 2 }, regs := { c.regs with x := [(1, 1)] }
             eng := { c.eng with cp := [leftCopy] } }

/-- VJOIN of the banks that x1 names. -/
def joinX1 : Long := { g := 0, wbs := false, ty := 0, md := 0, dst := 0, sa := 1, sb := 0, sc := 0 }

/-- VJOIN awaits the entry, which belongs to another task: the wait's padded end is the current cycle, 0. -/
theorem besideLeftCopy_join : besideLeftCopy.joinOps 1 = [leftCopy] ∧ besideLeftCopy.joinEnd 1 = 0 ∧
    besideLeftCopy.core.paddedOp leftCopy = 1000 := by decide +kernel

/-- Refutes O11: the padded end of VJOIN is that of the task's own entries, so that an entry which a pre-empted task left in the
queue is awaited with a padded completion that lies behind it. -/
theorem not_fencesWait : ¬ Obligations.FencesWait := by
  intro h
  obtain ⟨hops, hend, hpadded⟩ := besideLeftCopy_join
  have hready : besideLeftCopy.xReady joinX1.sa := fun hbig => absurd hbig (by decide)
  obtain ⟨-, -, -, hjoin⟩ := h joinX1 besideLeftCopy rfl
  obtain ⟨t, padded, hexec, -, -, hwait, hbefore, -⟩ := hjoin hready
  have hm : (besideLeftCopy.xSrc joinX1.sa).toNat % 2 ^ 32 = 1 := by decide +kernel
  have ht := Host.Outcome.next.inj ((exec_vjoin rfl hready).symm.trans hexec)
  rw [← ht, hm] at hwait
  rw [hm] at hbefore
  have hpad : besideLeftCopy.joinEnd 1 + 1 = padded := (Wait.fence.inj hwait).2.2.2.1
  have hlate := hbefore leftCopy (by rw [show List.filter _ _ = _ from hops]; exact List.mem_singleton.2 rfl)
  omega

end Sys2Proof.Machine
end

/-! PROOFS. Tensor transfers at issue (spec/09_memory_instructions.md R228 to R238; spec/23_fabric.md R440): what accepting an operation into
a queue does, and that TLD, TST, TPREF and TCOPY are accepted where their checks pass. -/
section
namespace Sys2Proof.Machine

/-! ## Acceptance into a queue (R232) -/

section
variable {s : State}

theorem State.foldl_translated_core (s : State) (hs : List Nat) : (hs.foldl State.translated s).core = s.core := by
  induction hs generalizing s with
  | nil => rfl
  | cons h hs ih => rw [List.foldl_cons, ih, State.translated_core]

/-- A copy engine with one more entry in its collective queue or its copy queue. -/
def Engine.push (e : Engine) (cl : Bool) (op : CopyOp) : Engine :=
  if cl then { e with cl := e.cl ++ [op] } else { e with cp := e.cp ++ [op] }

/-- The queue that an operation enters. -/
abbrev Engine.queue (e : Engine) (cl : Bool) : List CopyOp := if cl then e.cl else e.cp

/-- The entry that acceptance makes of what an operation asks for. -/
def State.newEntry (s : State) (hint padded tail : Nat) (kind : CopyKind) : CopyOp :=
  let c := s.core
  { id := s.nextId, req := s.nextId, kind := kind, hint := hint, padded := padded, tail := tail, epoch := c.race.epoch
    launch := c.task.launch, ord := c.task.ord, ctx := c.task.ctx, known := c.race.known, sat := c.race.sat, performed := false
    status := 0, awaits := 0, snap := none }

/-- An operation that finds room enters its queue as asked for, which is all that happens to the hearth. -/
theorem accept_room {cl : Bool} {hint padded tail : Nat} {mk : Nat → CopyKind} {k : Nat → State → Res}
    (hroom : (s.core.eng.queue cl).length < 32) :
    ∃ (op : CopyOp) (z : State), accept s cl hint padded tail mk k = k op.req z ∧ op.id = op.req ∧ op.kind = mk op.req ∧
      op.hint = hint ∧ z.core = { s.core with eng := s.core.eng.push cl op } := by
  unfold accept
  rw [if_neg (Nat.not_le.2 hroom)]
  refine ⟨s.newEntry hint padded tail (mk s.nextId), _, rfl, rfl, rfl, rfl, ?_⟩
  simp only [State.mapCore_core, State.useRecs_core, State.foldl_translated_core]
  rfl

/-- An operation that is accepted and does nothing more, as a step: it stands last in its queue with what it asks for, and the
hearth is as it was but for the views at the end of the execution. -/
theorem settle_accept {cl : Bool} {hint padded tail : Nat} {kind : CopyKind} (hroom : (s.core.eng.queue cl).length < 32) :
    ∃ (t : State) (op : CopyOp), settle s .x (accept s cl hint padded tail (fun _ => kind) fun _ s => .ok s) = .next t ∧
      op.kind = kind ∧ op.hint = hint ∧ t.core.eng = s.core.eng.push cl op ∧
      t.core.q = s.core.q ∧ t.core.regs = s.core.regs ∧ t.core.fly = s.core.fly ∧ t.core.pad.mem = s.core.pad.mem := by
  obtain ⟨op, z, hacc, -, hkind, hhint, hz⟩ := accept_room (hint := hint) (padded := padded) (tail := tail)
    (mk := fun _ => kind) (k := fun _ s => .ok s) hroom
  rw [hacc]
  refine ⟨z.setViews, op, rfl, hkind, hhint, ?_⟩
  simp only [State.setViews_core_eng, State.setViews_core_q, State.setViews_core_regs, State.setViews_core_fly,
    State.setViews_core_pad_mem, hz, and_self]

/-! ## Landing records of a hearth whose queues have grown (R163) -/

theorem Core.insertElem_eng (c : Core) (g : Engine) (e : Elem) (l : List Elem) :
    Core.insertElem { c with eng := g } e l = c.insertElem e l := by
  induction l with
  | nil => rfl
  | cons x l ih =>
    rw [Core.insertElem, ih]
    rfl

theorem Core.reserve_eng (c : Core) (g : Engine) (l : List Elem) (req land k : Nat) :
    Core.reserve { c with eng := g } l req land k = c.reserve l req land k := by
  induction k with
  | zero => rfl
  | succ k ih => simp only [Core.reserve, ih, Core.insertElem_eng]

/-! ## Addressing and tiers (R228, R229) -/

/-- A tensor that can be named has the offset of coordinates within it. -/
theorem withOffset_ready {h n off : Nat} {c : List Int} {r : Rec} {k : Rec → Nat → Res} (hr : s.tensorReady h r)
    (hoff : r.offsetOf c n = some off) : withOffset s h c n k = k r off := by
  rw [withOffset, withRec_ready hr, hoff]

/-- A landing distance that the tier allows raises no cause. -/
theorem withLeast_ready {r : Rec} {c : List Int} {d extra : Nat} {k : Res} (h : (s.fixed && decide (d < r.worst + extra)) = false) :
    withLeast s r c d extra k = k := if_neg (ne_true_of_eq_false h)

/-! ## TLD, TST and TPREF (R230, R231, R238) -/

section
variable {o : Long} {r : Rec} (h : s.on o.g) (hsa : s.xReady o.sa)
include h hsa

/-- TLD is accepted and reserves its elements. -/
theorem exec_tld_queues (hr : s.tensorReady (s.xSrc o.sa).toNat r) (hroom : s.core.eng.cp.length < 32) {off : Nat}
    (hoff : r.offsetOf (s.core.pairCoords o.sb) (512 * (o.ty + 1)) = some off) (halign : off % 64 = 0)
    (hleast : (s.fixed && decide (o.sc % 256 * 4 < r.worst)) = false) (hq : s.core.qRoom o.dst (o.ty + 1) = true) :
    ∃ (t : State) (op : CopyOp), exec (.tld o) s = .next t ∧ t.core.eng.cp = s.core.eng.cp ++ [op] ∧
      op.kind = .tld o.dst r.handle off (o.ty + 1) ∧ op.hint = o.md ∧
      t.core.q = Store.set [] s.core.q o.dst
        (s.core.reserve (s.core.qOf o.dst) op.req (s.core.now + o.sc % 256 * 4) (o.ty + 1)) ∧
      t.core.regs = s.core.regs ∧ t.core.fly = s.core.fly ∧ t.core.pad.mem = s.core.pad.mem := by
  have hd : bits o.sc 0 8 = o.sc % 256 := bits_zero o.sc 8
  obtain ⟨op, z, hacc, -, hkind, hhint, hz⟩ := accept_room (s := s) (cl := false) (hint := o.md)
    (padded := s.core.now + o.sc % 256 * 4 + (o.ty + 1) - 1) (tail := 0)
    (mk := fun _ => .tld o.dst r.handle off (o.ty + 1)) (k := fun id s => .ok (s.mapCore fun c =>
      c.setQ o.dst (c.reserve (c.qOf o.dst) id (c.now + o.sc % 256 * 4) (o.ty + 1)))) hroom
  have hop : opTld o s = .ok (z.mapCore fun c =>
      c.setQ o.dst (c.reserve (c.qOf o.dst) op.req (c.now + o.sc % 256 * 4) (o.ty + 1))) := by
    rw [opTld, guarded_true _ h, withX_ready hsa, withOffset_ready hr hoff, if_neg (not_not.2 halign), withTier_ready hr.2.2,
      hd, withLeast_ready (extra := 0) hleast, if_pos hq, hacc]
  refine ⟨_, op, congrArg (settle s .x) hop, ?_, hkind, hhint, ?_⟩
  · simp only [State.setViews_core_eng, State.mapCore_core, Core.setQ_eng, hz, Engine.push, Bool.false_eq_true, if_false]
  · simp only [State.setViews_core_q, State.setViews_core_regs, State.setViews_core_fly, State.setViews_core_pad_mem,
      State.mapCore_core, Core.setQ_q, Core.setQ_regs, Core.setQ_fly, Core.setQ_pad, hz, Core.reserve_eng, and_self, and_true]
    rfl

/-- TST is accepted with the values of its registers. -/
theorem opTst_ready (hr : s.tensorReady (s.xSrc o.sa).toNat r) {off : Nat}
    (hoff : r.offsetOf (s.core.pairCoords o.sb) (512 * (o.ty + 1)) = some off) (halign : off % 64 = 0)
    (hv : ∀ i < o.ty + 1, s.vReady (o.sc + i)) :
    opTst o s = accept s false o.md (s.core.now + r.worst + 4 * (o.ty + 1)) 0
      (fun _ => .tst r.handle off ((List.range (o.ty + 1)).map fun i => s.vSrc (o.sc + i))) fun _ s => .ok s := by
  rw [opTst, guarded_true _ h, withX_ready hsa, withOffset_ready hr hoff, if_neg (not_not.2 halign), withTier_ready hr.2.2,
    readGroup_ready hv]

/-- TPREF is accepted for what of its range lies within the tensor. -/
theorem opTpref_ready (hr : s.tensorReady (s.xSrc o.sa).toNat r) {off : Nat}
    (hoff : r.offsetOf (s.core.pairCoords o.sb) 8 = some off) :
    opTpref o s = accept s false o.md
      (s.core.now + r.worst + 2 * prefGrans off (min (2 ^ o.ty * 4096) (r.bytes - off)) o.md) 0
      (fun _ => .tpref r.handle off (min (2 ^ o.ty * 4096) (r.bytes - off))) fun _ s => .ok s := by
  obtain ⟨-, hrec, htier⟩ := hr
  have hgo : (!s.rebuilding r && ((s.fixed && r.away) || r.rfail)) = false := by
    obtain hre | ⟨-, haway, hfail⟩ := htier
    · simp [hre]
    · simp [haway, hfail]
  rw [opTpref, guarded_true _ h, withX_ready hsa]
  simp only [hrec, hoff, hgo, Bool.false_eq_true, if_false]

/-- TPREF does nothing where a check of R228 or R229 would stop it. -/
theorem opTpref_stopped
    (hstop : s.recFor s.core.task.launch s.core.task.ctx (s.xSrc o.sa).toNat = none ∨
      ∃ r, s.recFor s.core.task.launch s.core.task.ctx (s.xSrc o.sa).toNat = some r ∧
        (r.offsetOf (s.core.pairCoords o.sb) 8 = none ∨
          (s.rebuilding r = false ∧ ((s.fixed && r.away) = true ∨ r.rfail = true)))) :
    opTpref o s = .ok s := by
  rw [opTpref, guarded_true _ h, withX_ready hsa]
  obtain hnone | ⟨r, hrec, hbad⟩ := hstop
  · simp only [hnone]
  · simp only [hrec]
    cases hoff : r.offsetOf (s.core.pairCoords o.sb) 8 with
    | none => rfl
    | some off =>
      obtain hout | ⟨hre, htier⟩ := hbad
      · rw [hoff] at hout
        exact nomatch hout
      · refine if_pos ?_
        rw [hre]
        exact Bool.or_eq_true_iff.2 htier

end

/-! ## TCOPY (R234, R235, R440) -/

/-- The records that a copy's local tensor sides have in the task's context. -/
abbrev State.copySrc (s : State) (c : CopyDesc) : Option Rec :=
  if c.srcTensor && !c.srcRemote then s.recFor s.core.task.launch s.core.task.ctx c.shandle else none
abbrev State.copyDst (s : State) (c : CopyDesc) : Option Rec :=
  if c.dstTensor && !c.dstRemote then s.recFor s.core.task.launch s.core.task.ctx c.dhandle else none

/-- A descriptor whose words are legal and whose tensors the task finds goes on to the further checks. -/
theorem opTcopy_found {o : Long} (h : s.on o.g) (hsa : s.vReady o.sa) {c : CopyDesc}
    (hc : CopyDesc.of (s.vSrc o.sa).toNat (s.core.readA o.sb).int (s.core.readA o.sc).int s.core.pad.bfmt = c)
    (hlegal : c.illegal (s.vSrc o.sa).toNat (s.copySrc c) (s.copyDst c) = false)
    (hsrc : (c.srcTensor && !c.srcRemote) = true → (s.copySrc c).isSome = true)
    (hdst : (c.dstTensor && !c.dstRemote) = true → (s.copyDst c).isSome = true) :
    opTcopy o s = copyChecked s c (s.core.readA o.sb) o.md (s.copySrc c) (s.copyDst c) := by
  have hfound : ∀ {b : Bool} {x : Option Rec}, (b = true → x.isSome = true) → ¬((b && x.isNone) = true) := by
    intro b x hx hb
    obtain ⟨hb, hnone⟩ := Bool.and_eq_true_iff.1 hb
    simp [Option.isNone_iff_eq_none.1 hnone] at hx
    exact absurd hb (by simp [hx])
  rw [opTcopy, guarded_true _ h, withV_ready hsa, hc]
  refine (if_neg (ne_true_of_eq_false hlegal)).trans ((if_neg (hfound hsrc)).trans (if_neg (hfound hdst)))


/-- The widths of a row's elements on the source's and on the destination's side (R235). -/
abbrev CopyDesc.srcWidth (c : CopyDesc) (src dst : Option Rec) (r : Nat) : Nat :=
  sideWidth (c.rowSides src dst r).1 (c.rowSides src dst r).2
abbrev CopyDesc.dstWidth (c : CopyDesc) (src dst : Option Rec) (r : Nat) : Nat :=
  sideWidth (c.rowSides src dst r).2 (c.rowSides src dst r).1

/-- A copy whose rows, tiers, landing distance and path are right goes on to its banks and its flue. -/
theorem copyChecked_ready {c : CopyDesc} {ring : AReg} {hint : Nat} {src dst : Option Rec}
    (hring : ((c.srcPad || c.dstPad) && ring.ringOver) = false) (hrows : (List.range c.rows).findSome? (c.rowBad src dst) = none)
    (hsrc : ∀ r, src = some r → s.recReady r) (hdst : ∀ r, dst = some r → s.recReady r)
    (hleast : ∀ r, c.kind = 4 → src = some r → (s.fixed && decide (c.d < r.worst)) = false)
    (hfar : ∀ r, c.remote = some r → s.fixed = false ∧ s.pathOk s.core.task.ctx r = true) :
    copyChecked s c ring hint src dst = copyChecked.go s c hint src dst := by
  have tier : ∀ {x : Option Rec} (co : List Int) (k : Res), (∀ r, x = some r → s.recReady r) →
      (match x with | some r => withTier s r co k | none => k) = k := fun {x} co k hx => by
    cases x with
    | none => rfl
    | some r => exact withTier_ready (hx r rfl)
  have least : ∀ {x : Option Rec} (k : Res), (∀ r, c.kind = 4 → x = some r → (s.fixed && decide (c.d < r.worst)) = false) →
      (match x with
        | some r => if c.kind = 4 then withLeast s r (rowCoords c c.sc 0) c.d 0 k else k
        | none => k) = k := fun {x} k hx => by
    cases x with
    | none => rfl
    | some r =>
      by_cases hk : c.kind = 4
      · exact (if_pos hk).trans (withLeast_ready (extra := 0) (hx r hk rfl))
      · exact if_neg hk
  unfold copyChecked
  rw [if_neg (ne_true_of_eq_false hring), hrows]
  refine (tier _ _ hsrc).trans ((tier _ _ hdst).trans ((least _ hleast).trans ?_))
  cases hrem : c.remote with
  | none => rfl
  | some r =>
    obtain ⟨hfixed, hpath⟩ := hfar r hrem
    simp only [hfixed, hpath, Bool.false_eq_true, Bool.not_true, if_false]

/-- A copy whose banks and flue allow it enters its queue, as a step. -/
theorem settle_copyGo {c : CopyDesc} {hint : Nat} {src dst : Option Rec}
    (hrd : c.srcPad = true → s.core.pad.clash .lin (c.padPlaces c.soff (c.srcWidth src dst)) = none)
    (hwr : c.dstPad = true → s.core.pad.clashW .lin (c.padPlaces c.doff (c.dstWidth src dst)) = none)
    (hflue : c.kind = 4 → s.core.flueRoom c.flue c.count = true) (hroom : (s.core.eng.queue c.remote.isSome).length < 32) :
    ∃ (t : State) (op : CopyOp), settle s .x (copyChecked.go s c hint src dst) = .next t ∧ op.kind = .copy c ∧ op.hint = hint ∧
      t.core.eng = s.core.eng.push c.remote.isSome op ∧
      t.core.regs = s.core.regs ∧ t.core.fly = s.core.fly ∧ t.core.pad.mem = s.core.pad.mem := by
  have hrd' : (if c.srcPad = true then s.core.pad.clash .lin (c.padPlaces c.soff (c.srcWidth src dst)) else none) = none := by
    split
    · exact hrd ‹_›
    · rfl
  have hwr' : (if c.dstPad = true then s.core.pad.clashW .lin (c.padPlaces c.doff (c.dstWidth src dst)) else none) = none := by
    split
    · exact hwr ‹_›
    · rfl
  have hfull : ¬(c.kind = 4 ∧ s.core.flueRoom c.flue c.count = false) := fun ⟨hk, hno⟩ =>
    Bool.true_eq_false.mp ((hflue hk).symm.trans hno)
  unfold copyChecked.go
  simp only [Bool.false_eq_true, if_false, if_true, hrd', hwr', Option.or_none, if_neg hfull]
  obtain ⟨op, z, hacc, -, hkind, hhint, hz⟩ := accept_room (s := s) (hint := hint)
    (padded := if c.remote.isSome = true then 0 else c.paddedAt src dst s.core.now) (tail := c.tail dst) (mk := fun _ => .copy c)
    (k := fun id s => .ok (s.mapCore fun k =>
      let k1 := if c.dstPad then { k with pad := k.pad.setView .lin (c.padPlaces c.doff (c.dstWidth src dst)) } else k
      if c.kind = 4 then
        k1.setFlue c.flue { k1.flueOf c.flue with q := k1.reserve (k1.flueOf c.flue).q id (k1.now + c.d) c.count }
      else k1)) hroom
  rw [hacc]
  refine ⟨_, op, rfl, hkind, hhint, ?_⟩
  by_cases hpad : c.dstPad = true <;> by_cases hk : c.kind = 4 <;>
    simp [hpad, hk, hz, Pad.setView]

end

/-- Settles O10: where its checks pass, each transfer is accepted into its queue; a TPREF that one would stop does nothing. -/
theorem tensorTransfersQueue : Obligations.TensorTransfersQueue := by
  refine ⟨fun o s r h hsa => ?issued, fun o s h hsa hstop => ?stopped, fun o s h hsa => ?copied⟩
  case issued =>
    intro hd c k d hr hroom
    refine ⟨fun off hoff halign hleast hq => exec_tld_queues h hsa hr hroom hoff halign hleast hq,
      fun off hoff halign hv => ?tst, fun off hoff => ?tpref⟩
    case tst =>
      obtain ⟨t, op, ht, hkind, hhint, heng, hrest⟩ := settle_accept (cl := false) (hint := o.md) hroom
      exact ⟨t, op, (congrArg (settle s .x) (opTst_ready h hsa hr hoff halign hv)).trans ht, congrArg Engine.cp heng, hkind, hhint,
        hrest⟩
    case tpref =>
      obtain ⟨t, op, ht, hkind, hhint, heng, hrest⟩ := settle_accept (cl := false) (hint := o.md) hroom
      exact ⟨t, op, (congrArg (settle s .x) (opTpref_ready h hsa hr hoff)).trans ht, congrArg Engine.cp heng, hkind, hhint, hrest⟩
  case stopped => exact congrArg (settle s .x) (opTpref_stopped h hsa hstop)
  case copied =>
    intro v p c src dst ready q hlegal hsrc hdst hring hrows hsrcr hdstr hleast hfar hrd hwr hflue hroom
    obtain ⟨t, op, ht, hkind, hhint, heng, hrest⟩ := settle_copyGo (hint := o.md) hrd hwr hflue hroom
    have hop := (opTcopy_found h hsa rfl hlegal hsrc hdst).trans (copyChecked_ready hring hrows hsrcr hdstr hleast hfar)
    refine ⟨t, op, (congrArg (settle s .x) hop).trans ht, hkind, hhint, ?_, hrest⟩
    rw [heng, Engine.push]
    split <;> exact ⟨rfl, rfl⟩

end Sys2Proof.Machine
end

/-! PROOFS. Windows (spec/09_memory_instructions.md R245 to R248): the fills that WOPEN and WADV queue, and what a closed window
leaves. -/
section
namespace Sys2Proof.Machine

/-! ## Cancelled fills (R245, R248) -/

/-- Bytes of the scratchpad, marks of errors and EINJ are all that a step changes of the hearth. -/
def State.writesPad (s t : State) : Prop :=
  ∃ bad einj mem, t.core =
    { s.core with bad := bad, st := { s.core.st with einj := einj }, pad := { s.core.pad with mem := mem } }

section
variable {s t u : State}

theorem State.writesPad_refl (s : State) : s.writesPad s := ⟨_, _, _, rfl⟩

theorem State.writesPad.trans (h : s.writesPad t) (h' : t.writesPad u) : s.writesPad u := by
  obtain ⟨_, _, _, ht⟩ := h
  obtain ⟨bad, einj, mem, hu⟩ := h'
  exact ⟨bad, einj, mem, by rw [hu, ht]⟩

theorem State.writesPad_foldl {α : Type} (s : State) (l : List α) {f : State → α → State}
    (hf : ∀ (s : State) (a : α), s.writesPad (f s a)) : s.writesPad (l.foldl f s) := by
  induction l generalizing s with
  | nil => exact s.writesPad_refl
  | cons a l ih => exact (hf s a).trans (ih _)

theorem State.writesPad_padPut (s : State) (places : List Nat) (bytes : List Byte) : s.writesPad (s.padPut places bytes) := by
  obtain ⟨bad, einj, hcore⟩ := s.padPut_core places bytes
  exact ⟨bad, einj, _, hcore⟩

theorem State.writesPad_cancelFill (s : State) (w : Win) (f : WinFill) : s.writesPad (s.cancelFill w f) := by
  unfold State.cancelFill
  split
  · exact s.writesPad_refl
  · refine s.writesPad_foldl _ fun s i => ?_
    dsimp only
    split
    · exact s.writesPad_refl
    · exact s.pick.2.writesPad_padPut _ _

/-- What a write of the scratchpad leaves of the checks and records of a window's fills. -/
theorem State.writesPad.keeps (h : s.writesPad t) : t.core.regs = s.core.regs ∧ t.core.fly = s.core.fly ∧
    t.core.eng = s.core.eng ∧ t.core.win = s.core.win ∧ t.core.pad.bfmt = s.core.pad.bfmt ∧
    ∀ places, t.core.pad.clashW .lin places = s.core.pad.clashW .lin places := by
  obtain ⟨bad, einj, mem, ht⟩ := h
  rw [ht]
  exact ⟨rfl, rfl, rfl, rfl, rfl, fun _ => rfl⟩

/-! ## Closing a window (R248) -/

/-- A window that is closed leaves no window under its number, and registers and results in flight as they were. -/
theorem State.closeWin_opened {n : Nat} (h : (Store.get Win.closed s.core.win n).opened = true) :
    Store.get Win.closed (s.closeWin n).core.win n = Win.closed ∧ (s.closeWin n).core.regs = s.core.regs ∧
      (s.closeWin n).core.fly = s.core.fly := by
  let w := Store.get Win.closed s.core.win n
  obtain ⟨hregs, hfly, -⟩ := (s.writesPad_foldl w.fills fun s f => s.writesPad_cancelFill w f).keeps
  rw [State.closeWin, if_neg (by rw [h]; decide)]
  dsimp only [State.mapCore_core]
  exact ⟨Store.get_set_self _ _ _ _, hregs, hfly⟩

/-! ## Queueing fills (R245) -/

/-- The rows of a fill, and one place in each bank of their slots. -/
abbrev fillRows (r0 : Int) (k : Nat) : List Int := (List.range k).map fun (i : Nat) => r0 + (i : Int)
abbrev Win.fillPlaces (w : Win) (r0 : Int) (k : Nat) : List Nat :=
  ((fillRows r0 k).map fun r => bankPlaces (w.slotBase r) w.size).flatten

/-- Window `n`, as `w`, awaits `k` rows of a request, and their banks take the linear view. -/
def State.awaitRows (s : State) (n : Nat) (w : Win) (r0 : Int) (k req : Nat) : State :=
  s.mapCore fun c =>
    { c with win := Store.set Win.closed c.win n { w with fills := w.fills ++ winFills r0 w.size (c.now + w.d) req c.priv k }
             pad := c.pad.setView .lin (w.fillPlaces r0 k) }

/-- A fill whose banks allow it enters the copy queue, and its window awaits the rows. -/
theorem queueFill_ready {n : Nat} {w : Win} {r0 : Int} {k : Nat} {f : State → Res}
    (hclash : s.core.pad.clashW .lin (w.fillPlaces r0 k) = none) (hroom : s.core.eng.cp.length < 32) :
    ∃ (op : CopyOp) (z : State), queueFill s n w r0 k f = f z ∧ op.kind = .win n w.handle (fillRows r0 k) s.core.pad.bfmt ∧
      z.core = { s.core with
        eng := s.core.eng.push false op
        win := Store.set Win.closed s.core.win n
          { w with fills := w.fills ++ winFills r0 w.size (s.core.now + w.d) op.id s.core.priv k }
        pad := s.core.pad.setView .lin (w.fillPlaces r0 k) } := by
  obtain ⟨op, z, hacc, hid, hkind, -, hz⟩ := accept_room (s := s) (cl := false) (hint := 0)
    (padded := s.core.now + w.d + (k - 1) * w.size / 64) (tail := 0)
    (mk := fun _ => .win n w.handle (fillRows r0 k) s.core.pad.bfmt) (k := fun id s => f (s.awaitRows n w r0 k id)) hroom
  refine ⟨op, z.awaitRows n w r0 k op.req, ?_, hkind, ?_⟩
  · unfold queueFill
    simp only [hclash]
    exact hacc
  · rw [State.awaitRows, State.mapCore_core, hz, hid]
    rfl

end

/-! ## WOPEN (R246) -/

section
variable {o : S3X} {s : State}

/-- The window that WOPEN opens on a record in the state in which no window stands under its number. -/
abbrev State.newWin (s z : State) (o : S3X) (r : Rec) : Win :=
  let base : Nat := (o.src3 s.core).toNat % 2 ^ 32
  ⟨true, (o.src2 s.core).toNat, signed 32 ((o.src3 s.core).toNat / 2 ^ 32), bits o.x 2 11 + 1, winSize r (bfmtOf z.core.pad.bfmt base),
    base, bits o.x 13 10, [], []⟩

/-- The writes that WOPEN puts in flight: the first row's slot, the step of a slot, and the ring of the window. -/
abbrev Win.ring (w : Win) (a : Nat) : List Eff :=
  [.aval a (BitVec.ofNat 64 (w.slotBase w.r0)), .astep a (BitVec.ofNat 32 w.size),
    .aring a (BitVec.ofNat 16 (w.base / 64)) (BitVec.ofNat 16 (w.n * w.size / 64))]

/-- The slots of a window lie in the scratchpad, each in one bank, and an MX tensor's in none of raw format. -/
def Win.fits (w : Win) (bfmt : Store Nat) (r : Rec) : Prop :=
  w.base % 64 = 0 ∧ w.base + w.n * w.size ≤ padBytes ∧
    ((List.range w.n).any fun i => bankOf (w.base + i * w.size) != bankOf (w.base + i * w.size + w.size - 1)) = false ∧
    (r.isMx && (List.range w.n).any fun (i : Nat) => bfmtOf bfmt ((w.base : Int) + i * w.size) == 0x80) = false

/-- A WOPEN whose tensor has rank 2, whose slots fit and whose tier allows its distance queues the window's first fills. -/
theorem opWopen_ready {r : Rec} (h : s.on o.g) (hr : (s.closeWin (bits o.x 0 2)).tensorReady (o.src2 s.core).toNat r)
    (hext : r.ext.length = 2) :
    let z := s.closeWin (bits o.x 0 2)
    let w := s.newWin z o r
    w.fits z.core.pad.bfmt r → (z.fixed && decide (w.d < r.worst)) = false →
    opWopen o s = queueFill (z.useRecs z.core.task.ctx [w.handle]) (bits o.x 0 2) w w.r0 w.n fun t =>
      .ok (t.result .a 3 (w.ring o.f1) (some ((BitVec.ofNat 64 (w.slotBase w.r0)).setWidth 512)) 0) := by
  intro z w hfits hleast
  obtain ⟨halign, hfit, hbank, hmx⟩ := hfits
  have hbase : bits (o.src3 s.core).toNat 0 32 = (o.src3 s.core).toNat % 2 ^ 32 := bits_zero _ 32
  have hin : ¬(w.base % 64 ≠ 0 ∨ padBytes < w.base + w.n * w.size ∨
      ((List.range w.n).any fun i => bankOf (w.base + i * w.size) != bankOf (w.base + i * w.size + w.size - 1)) = true ∨
      (r.isMx && (List.range w.n).any fun (i : Nat) => bfmtOf z.core.pad.bfmt ((w.base : Int) + i * w.size) == 0x80) = true) := by
    rintro (hoff | hpast | hspan | hraw)
    · exact hoff halign
    · exact absurd hfit (Nat.not_le.2 hpast)
    · exact Bool.false_ne_true (hbank.symm.trans hspan)
    · exact Bool.false_ne_true (hmx.symm.trans hraw)
  rw [opWopen, guarded_true _ h, hbase]
  refine (withRec_ready hr).trans ((if_neg (not_not.2 hext)).trans ((if_neg hin).trans ?_))
  exact (withTier_ready hr.2.2).trans (withLeast_ready (extra := 0) hleast)

end

/-! ## WADV and WCLOSE (R247, R248) -/

section
variable {o : S3} {s : State}

/-- The window that WADV moves. -/
abbrev State.winAt (s : State) (o : S3) : Win := Store.get Win.closed s.core.win o.f1

theorem exec_wadv_closed (h : s.on o.g) (hw : (s.winAt o).opened = false) :
    exec (.wadv o) s = .next (s.takeTrap ⟨0x13, o.f1, []⟩ 2 false s.core.seq 1 s.core.seq.pc) :=
  congrArg (settle s .a) ((guarded_true _ h).trans (if_pos (by rw [hw]; rfl)))

theorem exec_wclose_closed (h : s.on o.g) (hw : (s.winAt o).opened = false) :
    exec (.wclose o) s = .next (s.takeTrap ⟨0x13, o.f1, []⟩ 2 false s.core.seq 1 s.core.seq.pc) :=
  congrArg (settle s .a) ((guarded_true _ h).trans (if_neg (ne_true_of_eq_false hw)))

theorem exec_wclose_opened (h : s.on o.g) (hw : (s.winAt o).opened = true) :
    exec (.wclose o) s = .next (s.closeWin o.f1).setViews :=
  congrArg (settle s .a) ((guarded_true _ h).trans (if_pos hw))

theorem exec_wadv_zero (h : s.on o.g) (hw : (s.winAt o).opened = true) (hk : (o.src2 s.core).toNat = 0) :
    exec (.wadv o) s = .next s.setViews :=
  congrArg (settle s .a) ((guarded_true _ h).trans ((if_neg (by rw [hw]; decide)).trans (if_pos hk)))

/-- A fill of one of the first `k` rows of a window. -/
def Win.leaves (w : Win) (k : Nat) (f : WinFill) : Bool := w.r0 ≤ f.row && f.row < w.r0 + k

/-- A window with its first `k` rows gone. -/
def Win.movedOn (w : Win) (k : Nat) : Win :=
  { w with r0 := w.r0 + k
           fills := w.fills.filter fun f => !w.leaves k f
           marks := w.marks.filter fun m => !(w.r0 ≤ m.1 && m.1 < w.r0 + k) }

/-- The fills of a window's first `k` rows are cancelled. -/
def State.cancelRows (s : State) (w : Win) (k : Nat) : State := (w.fills.filter (w.leaves k)).foldl (fun s f => s.cancelFill w f) s

theorem State.writesPad_cancelRows (s : State) (w : Win) (k : Nat) : s.writesPad (s.cancelRows w k) :=
  s.writesPad_foldl _ fun s f => s.writesPad_cancelFill w f

/-- WADV of an open window cancels the fills of the rows that it leaves and queues those of as many rows after the last. -/
theorem opWadv_ready {w : Win} {k : Nat} {r : Rec} (h : s.on o.g) (hw : s.winAt o = w) (hopen : w.opened = true)
    (hk : (o.src2 s.core).toNat = k) (hpos : 0 < k) (hkn : k ≤ w.n) (hr : s.tensorReady w.handle r)
    (hleast : (s.fixed && decide (w.d < r.worst)) = false) :
    opWadv o s = queueFill (s.cancelRows w k) o.f1 (w.movedOn k) (w.r0 + w.n) k fun t => .ok t := by
  rw [opWadv, guarded_true _ h, hk]
  simp only [hw]
  refine (if_neg (by rw [hopen]; decide)).trans ((if_neg (Nat.ne_of_gt hpos)).trans ((if_neg (Nat.not_lt.2 hkn)).trans ?_))
  exact (withRec_ready hr).trans ((withTier_ready hr.2.2).trans (withLeast_ready (extra := 0) hleast))

end

/-- Settles O6: WOPEN and WADV queue their fills on what closing a window or cancelling rows leaves, which is all but bytes of
the scratchpad. -/
theorem windowsOpenAdvanceClose : Obligations.WindowsOpenAdvanceClose := by
  refine ⟨fun o s r h => ?opens, fun o s h => ?moves⟩
  case opens =>
    intro n cnt d hd base r0 z code size w rows hr hext halign hfit hbank hmx hleast hclash hroom
    have hop := opWopen_ready h hr hext ⟨halign, hfit, hbank, hmx⟩ hleast
    obtain ⟨op, t, hfill, hkind, ht⟩ := queueFill_ready (s := z.useRecs z.core.task.ctx [w.handle]) (n := n) (w := w) (r0 := w.r0)
      (k := w.n) (f := fun t => .ok (t.result .a 3 (w.ring o.f1) (some ((BitVec.ofNat 64 (w.slotBase w.r0)).setWidth 512)) 0))
      hclash hroom
    have hfly : t.core.fly = z.core.fly := by rw [ht]; rfl
    refine ⟨_, op, congrArg (settle s .a) (hop.trans hfill), ?_, hkind, ?_, _,
      (t.result_core_fly .a 3 _ _ 0).trans (congrArg (· ++ [_]) hfly), rfl, rfl⟩
    · simp only [State.setViews_core_eng, State.result_core_eng, ht]
      rfl
    · simp only [State.setViews_core_win, State.result_core_win, ht]
      rfl
  case moves =>
    intro w k
    refine ⟨fun hw => ⟨exec_wadv_closed h hw, exec_wclose_closed h hw⟩, fun hw => ⟨?close, exec_wadv_zero h hw, ?advance⟩⟩
    case close =>
      obtain ⟨hwin, hregs, hfly⟩ := State.closeWin_opened hw
      exact ⟨_, exec_wclose_opened h hw, hwin, hregs, hfly⟩
    case advance =>
      intro r hpos hkn hr hleast hroom rows hclash
      have hop := opWadv_ready h rfl hw rfl hpos hkn hr hleast
      obtain ⟨hregs, hfly, heng, -, hbfmt, hviews⟩ := (s.writesPad_cancelRows w k).keeps
      obtain ⟨op, t, hfill, hkind, ht⟩ := queueFill_ready (s := s.cancelRows w k) (n := o.f1) (w := w.movedOn k)
        (r0 := w.r0 + w.n) (k := k) (f := fun t => .ok t) ((hviews _).trans hclash) (by rw [heng]; exact hroom)
      have hwin := (congrArg (fun c : Core => Store.get Win.closed c.win o.f1) ht).trans (Store.get_set_self _ _ _ _)
      refine ⟨_, op, _, congrArg (settle s .a) (hop.trans hfill), hwin, rfl, hw, ?_, ?_, ?_, ?_⟩
      · simp only [State.setViews_core_eng, ht, heng]
        rfl
      · rw [hkind, hbfmt]
        rfl
      · simp only [State.setViews_core_regs, ht, hregs]
      · simp only [State.setViews_core_fly, ht, hfly]

end Sys2Proof.Machine
end

/-! PROOFS. The copy engine's queues (spec/09_memory_instructions.md R232, R236; spec/12_die_sync_engine.md R302): what performing
an operation marks, and what a completed one leaves and signals. -/
section
namespace Sys2Proof.Machine

/-! ## Performing an operation (R232) -/

/-- Every entry of the hearth's queues under an operation's number is performed. -/
def State.opDone (s : State) (id : Nat) : Prop := ∀ x ∈ s.core.eng.cp ++ s.core.eng.cl, x.id = id → x.performed = true

theorem State.opDone_mapOp (s : State) (id : Nat) {f : CopyOp → CopyOp} (hf : ∀ x, (f x).performed = true) :
    (s.mapOp id f).opDone id := by
  have hmark : ∀ l : List CopyOp, ∀ x ∈ l.map fun o => if o.id = id then f o else o, x.id = id → x.performed = true := by
    intro l x hx hid
    obtain ⟨y, -, rfl⟩ := List.mem_map.1 hx
    by_cases hy : y.id = id
    · rw [if_pos hy]
      exact hf y
    · rw [if_neg hy] at hid
      exact absurd hid hy
  intro x hx
  exact (List.mem_append.1 hx).elim (hmark _ x) (hmark _ x)

theorem State.opDone_performCopy (s : State) (o : CopyOp) (c : CopyDesc) : (s.performCopy o c).opDone o.id := by
  unfold State.performCopy
  dsimp only
  split
  · exact State.opDone_mapOp _ _ fun _ => rfl
  · split
    · split <;> exact State.opDone_mapOp _ _ fun _ => rfl
    · split
      · split <;> exact State.opDone_mapOp _ _ fun _ => rfl
      · exact State.opDone_mapOp _ _ fun _ => rfl

theorem State.opDone_performFailed (s : State) (o : CopyOp) (h : Nat) : (s.performFailed o h).opDone o.id := by
  unfold State.performFailed
  dsimp only
  split
  case h_3 c _ =>
    by_cases hin : c.kind = 4
    · rw [if_pos hin]
      exact State.opDone_mapOp _ _ fun _ => rfl
    by_cases hout : c.kind = 5
    · rw [if_neg hin, if_pos hout]
      exact State.opDone_mapOp _ _ fun _ => rfl
    rw [if_neg hin, if_neg hout]
    split
    · exact State.opDone_mapOp _ _ fun _ => rfl
    · split
      · split
        · exact State.opDone_mapOp _ _ fun _ => rfl
        · exact s.opDone_performCopy o c
      · exact s.opDone_performCopy o c
  all_goals exact State.opDone_mapOp _ _ fun _ => rfl

theorem State.opDone_performLocal (s : State) (o : CopyOp) : (s.performLocal o).opDone o.id := by
  unfold State.performLocal
  dsimp only
  split
  · exact State.opDone_performFailed _ _ _
  · split
    case h_5 => exact State.opDone_performCopy _ _ _
    all_goals split <;> exact State.opDone_mapOp _ _ fun _ => rfl

/-- What a queue entry took along goes back, and the queues stay. -/
theorem State.withSnap_eng (s : State) (o : CopyOp) (k : State → State) : ∃ t, (s.withSnap o k).core.eng = (k t).core.eng := by
  unfold State.withSnap
  split
  · exact ⟨_, rfl⟩
  · exact ⟨_, rfl⟩

theorem State.opDone_performOp (s : State) (o : CopyOp) : (s.performOp o).opDone o.id := by
  obtain ⟨t, ht⟩ := s.withSnap_eng o fun s => (s.afterFills o).performLocal o
  intro x hx
  rw [State.performOp, ht] at hx
  exact State.opDone_performLocal _ o x hx

/-- The next operation of a queue, where it may run, is the one that the engine takes. -/
theorem State.nextOf_ready {s : State} {q : List CopyOp} {o : CopyOp} (hnext : nextOp q = some o) (hready : s.opReady o = true) :
    s.nextOf q = some o := by
  rw [State.nextOf, hnext]
  exact if_pos hready

/-! ## Signals (R236, R302) -/

section
variable (s : State)

theorem Die.flawAt_mapFlaw_clean (x : Die) (k : Nat × Nat × Nat) : (x.mapFlaw k fun _ => Flaw.clean).flawAt k = Flaw.clean := by
  have hnone : (x.flaws.filter fun e => e.1 != k).find? (fun e => e.1 == k) = none :=
    List.find?_eq_none.2 fun e he => by simpa using (List.mem_filter.1 he).2
  rw [Die.flawAt, Die.mapFlaw, if_pos rfl, hnone]

/-- A read of a part logs and corrects, and leaves what the part counts or holds. -/
theorem State.keepsCore_sawPart (d ctx : Nat) (k : Nat × Nat × Nat) (ret : Bool) : s.keepsCore (s.sawPart d ctx k ret) := by
  unfold State.sawPart
  dsimp only
  split
  · exact ((s.quiet_logError _ _).core).trans (State.keepsCore_mapDie _ _ _)
  · split
    · exact (s.quiet_logError _ _).core
    · exact s.keepsCore_refl

theorem State.keepsParts_sawPart (d ctx : Nat) (k : Nat × Nat × Nat) (ret : Bool) : s.keepsParts (s.sawPart d ctx k ret) := by
  unfold State.sawPart
  dsimp only
  split
  · exact ((s.quiet_logError _ _).parts).trans (State.keepsParts_mapDie _ _ (fun _ => rfl) fun _ => rfl)
  · split
    · exact (s.quiet_logError _ _).parts
    · exact s.keepsParts_refl

/-- A part without an uncorrectable error is good once it is read. -/
theorem State.partBad_sawPart {d : Nat} (ctx : Nat) {k : Nat × Nat × Nat} (ret : Bool) (h : ((s.dieAt d).flawAt k).kind ≠ 1) :
    (s.sawPart d ctx k ret).partBad d k = false := by
  unfold State.sawPart State.partBad
  dsimp only
  split
  · rw [State.dieAt_mapDie, if_pos rfl, Die.flawAt_mapFlaw_clean]
    rfl
  · rw [if_neg fun hbad => h hbad.1]
    exact beq_eq_false_iff_ne.2 h

theorem Die.keeps_foldl {α : Type} (x : Die) (l : List α) {f : Die → α → Die}
    (hf : ∀ (x : Die) (a : α), (f x a).boxes = x.boxes ∧ (f x a).named = x.named) :
    (l.foldl f x).boxes = x.boxes ∧ (l.foldl f x).named = x.named := by
  induction l generalizing x with
  | nil => exact ⟨rfl, rfl⟩
  | cons a l ih => exact ⟨(ih _).1.trans (hf x a).1, (ih _).2.trans (hf x a).2⟩

/-- An injection at a part marks errors, and changes nothing that the parts hold. -/
theorem State.keeps_injectPart (t : Nat × Nat) (d space i part : Nat) :
    s.keepsCore (s.injectPart t d space i part) ∧ s.keepsParts (s.injectPart t d space i part) := by
  have hfire := s.quiet_fireFor t 0x08
  unfold State.injectPart
  dsimp only
  split
  · exact ⟨hfire.core, hfire.parts⟩
  · have hmarks (x : Die) := x.keeps_foldl (List.range 8) (f := fun y w =>
      if (s.fireFor t 0x08).1.ofWord w = Flaw.clean then y
      else y.mapFlaw (if part = 0 then (space, i / 8 * 8 + w, 0) else (space, i, (part - 1) / 8 * 8 + w + 1))
        (·.with_ ((s.fireFor t 0x08).1.ofWord w))) fun x w => by split <;> exact ⟨rfl, rfl⟩
    exact ⟨hfire.core.trans (State.keepsCore_mapDie _ _ _),
      hfire.parts.trans (State.keepsParts_mapDie _ _ (fun x => (hmarks x).1) fun x => (hmarks x).2)⟩

theorem State.keepsCore_setNamed (ctx d i : Nat) (x : Named) : s.keepsCore (s.setNamed ctx d i x) := ⟨rfl, _, rfl⟩

theorem State.namedAt_setNamed (ctx d i : Nat) (x : Named) : (s.setNamed ctx d i x).namedAt d i = x := by
  have hput := State.dieAt_mapDie (s.mapCtx ctx fun c => { c with savedNamed := keepFirst c.savedNamed d i (s.namedAt d i) }) d d
    fun y => { y with named := Store.set Named.init y.named i x }
  rw [State.namedAt, State.setNamed, State.dieAt_mapDie, if_pos rfl, Die.mapFlaw, State.putNamed, hput, if_pos rfl]
  exact Store.get_set_self _ _ _ _

theorem State.keepsCore_lowerNamed (t : Nat × Nat) (ctx d n b : Nat) (known : List Tag) :
    s.keepsCore (s.lowerNamed t ctx d n b known) := by
  unfold State.lowerNamed
  split
  · exact s.keepsCore_refl
  · exact (s.keepsCore_setNamed _ _ _ _).trans (State.keeps_injectPart _ _ _ _ _ _).1

theorem State.count_lowerNamed (t : Nat × Nat) (ctx : Nat) {d n : Nat} (b : Nat) (known : List Tag)
    (h : s.partBad d (3, n, 0) = false) :
    ((s.lowerNamed t ctx d n b known).namedAt d n).count = (s.namedAt d n).count - b := by
  rw [State.lowerNamed, if_neg (ne_true_of_eq_false h)]
  refine (((State.keeps_injectPart _ t d 3 n 0).2 d).2 n).1.trans ?_
  rw [State.namedAt_setNamed]

theorem State.keepsCore_postBox (t : Nat × Nat) (d m : Nat) (msg : W64) (known : List Tag) :
    s.keepsCore (s.postBox t d m msg known 0) := by
  have hput (x : Mailbox) : s.keepsCore (s.putBox d m x) := s.keepsCore_mapDie _ _
  unfold State.postBox
  dsimp only
  split
  · exact (hput _).trans (State.keeps_injectPart _ _ _ _ _ _).1
  · exact hput _

/-- A message to a mailbox with room stands last in it. -/
theorem State.queue_postBox (t : Nat × Nat) {d m : Nat} (msg : W64) (known : List Tag) (hroom : (s.boxAt d m).queue.length < 16)
    (hwait : (s.boxAt d m).waiting = []) :
    ((s.postBox t d m msg known 0).boxAt d m).queue = (s.boxAt d m).queue ++ [(msg, known)] := by
  rw [State.postBox, if_pos ⟨hroom, by rw [hwait]; rfl⟩, if_pos rfl, State.boxAt, ((State.keeps_injectPart _ t d 2 m 0).2 d).1,
    State.putBox, State.dieAt_mapDie, if_pos rfl]
  exact congrArg Mailbox.queue (Store.get_set_self _ _ _ _)

theorem State.keepsCore_signal (t : Nat × Nat) (ctx d kind id : Nat) (msg : W64) (known : List Tag) :
    s.keepsCore (s.signal t ctx d kind id msg known) := by
  unfold State.signal
  split
  · split
    · exact s.keepsCore_refl
    · exact (s.keepsCore_sawPart _ _ _ _).trans (State.keepsCore_lowerNamed _ _ _ _ _ _ _)
  · split
    · exact s.keepsCore_refl
    · dsimp only
      split
      · exact s.keepsCore_sawPart _ _ _ _
      · exact (s.keepsCore_sawPart _ _ _ _).trans (State.keepsCore_postBox _ _ _ _ _ _)
  · exact s.keepsCore_refl

/-- SIGKIND 1 of a defined named task with a good counter lowers it by 1. -/
theorem State.count_signal (t : Nat × Nat) (ctx : Nat) {d id : Nat} (msg : W64) (known : List Tag)
    (hdefn : (s.namedAt d id).defn ≠ none) (hgood : ((s.dieAt d).flawAt (3, id, 0)).kind ≠ 1) :
    ((s.signal t ctx d 1 id msg known).namedAt d id).count = (s.namedAt d id).count - 1 := by
  obtain ⟨a, ha⟩ := Option.ne_none_iff_exists'.1 hdefn
  simp only [State.signal, ha]
  rw [State.count_lowerNamed _ t ctx 1 known (s.partBad_sawPart ctx false hgood), ((s.keepsParts_sawPart d ctx _ false d).2 id).1]

/-- SIGKIND 2 posts the message to a bound and good mailbox with room. -/
theorem State.queue_signal (t : Nat × Nat) (ctx : Nat) {d id : Nat} (msg : W64) (known : List Tag)
    (hbound : (s.boxAt d id).bound ≠ none) (hroom : (s.boxAt d id).queue.length < 16) (hwait : (s.boxAt d id).waiting = [])
    (hgood : ((s.dieAt d).flawAt (2, id, 0)).kind ≠ 1) :
    ((s.signal t ctx d 2 id msg known).boxAt d id).queue = (s.boxAt d id).queue ++ [(msg, known)] := by
  obtain ⟨a, ha⟩ := Option.ne_none_iff_exists'.1 hbound
  have hbox : (s.sawPart d ctx (2, id, 0) false).boxAt d id = s.boxAt d id := by
    rw [State.boxAt, (s.keepsParts_sawPart d ctx _ false d).1, ← State.boxAt]
  simp only [State.signal, ha]
  rw [if_neg (ne_true_of_eq_false (s.partBad_sawPart ctx false hgood)), ← hbox]
  exact State.queue_postBox _ t msg known (hbox ▸ hroom) (hbox ▸ hwait)

/-! ## Completing an operation (R232, R236) -/

/-- A completed operation leaves the queues and its tensors, after the write-back that it asks for. -/
def State.leaveQueues (o : CopyOp) : State :=
  (((s.flushFor o).unuseRecs o.ctx o.kind.handles).mapCore fun c =>
    { c with eng := { c.eng with cp := c.eng.cp.filter fun x => x.id != o.id, cl := c.eng.cl.filter fun x => x.id != o.id } }).mapTask
      o.launch o.ord fun c => c.keepPadded o

theorem State.quiet_flushed (o : CopyOp) : s.quiet ((s.flushFor o).unuseRecs o.ctx o.kind.handles) := by
  have hflush : s.quiet (s.flushFor o) := State.quiet_ite (s.quiet_squareFence _ _ _) s.quiet_refl
  exact hflush.trans (State.quiet_of_eq rfl rfl rfl)

/-- What leaving the queues keeps: all parts of the sync engines, and of the hearth all but EINJ, its queues and past copies. -/
theorem State.leaveQueues_keeps (o : CopyOp) : s.keepsParts (s.leaveQueues o) ∧ s.keepsFlaws (s.leaveQueues o) ∧
    (s.leaveQueues o).coreId = s.coreId ∧ (s.leaveQueues o).core.regs = s.core.regs ∧
    (s.leaveQueues o).core.pad.mem = s.core.pad.mem ∧
    ∀ x ∈ (s.leaveQueues o).core.eng.cp ++ (s.leaveQueues o).core.eng.cl, x.id ≠ o.id := by
  obtain ⟨⟨hid, einj, hcore⟩, hparts, hflaws⟩ := s.quiet_flushed o
  have hleft : ∃ past, (s.leaveQueues o).core = { s.core with
      st := { s.core.st with einj := einj }, past := past
      eng := { s.core.eng with
        cp := s.core.eng.cp.filter fun x => x.id != o.id, cl := s.core.eng.cl.filter fun x => x.id != o.id } } := by
    simp only [State.leaveQueues, State.mapTask, State.mapCore_core, hcore]
    split <;> exact ⟨_, rfl⟩
  obtain ⟨past, hleft⟩ := hleft
  refine ⟨hparts, hflaws, hid, by rw [hleft], by rw [hleft], ?_⟩
  rw [hleft]
  simp [← or_and_right]

theorem State.completeOp_copy {o : CopyOp} {c : CopyDesc} (h : o.kind = .copy c) :
    let s1 := s.leaveQueues o
    s.completeOp o = (s1.signal (o.launch, o.ord) o.ctx s1.die c.sigKind c.sigId (copyMessage c o.ord o.status)
      (carried o.known o.sat (o.launch, o.ord, o.epoch))).tryAllNamed s1.die := by
  simp only [State.completeOp, h, State.leaveQueues]

theorem State.keepsCore_completeOp (o : CopyOp) : (s.leaveQueues o).keepsCore (s.completeOp o) := by
  unfold State.completeOp
  dsimp only
  split
  · exact (State.keepsCore_signal _ _ _ _ _ _ _ _).trans (State.quiet_tryAllNamed _ _).core
  · exact State.keepsCore_refl _

theorem State.leaveQueues_die (o : CopyOp) : (s.leaveQueues o).die = s.die := by
  rw [State.die, (s.leaveQueues_keeps o).2.2.1, ← State.die]

theorem State.count_completeOp {o : CopyOp} {c : CopyDesc} (hkind : o.kind = .copy c) (hsig : c.sigKind = 1)
    (hdefn : (s.namedAt s.die c.sigId).defn ≠ none) (hgood : ((s.dieAt s.die).flawAt (3, c.sigId, 0)).kind ≠ 1) :
    ((s.completeOp o).namedAt s.die c.sigId).count = (s.namedAt s.die c.sigId).count - 1 := by
  obtain ⟨hparts, hflaws, -⟩ := s.leaveQueues_keeps o
  obtain ⟨hcount, hdef⟩ := (hparts s.die).2 c.sigId
  rw [s.completeOp_copy hkind, s.leaveQueues_die, hsig, (((State.quiet_tryAllNamed _ _).parts s.die).2 _).1, ← hcount]
  refine State.count_signal _ _ _ _ _ (hdef ▸ hdefn) ?_
  rwa [Die.flawAt, hflaws, ← Die.flawAt]

theorem State.queue_completeOp {o : CopyOp} {c : CopyDesc} (hkind : o.kind = .copy c) (hsig : c.sigKind = 2)
    (hbound : (s.boxAt s.die c.sigId).bound ≠ none) (hroom : (s.boxAt s.die c.sigId).queue.length < 16)
    (hwait : (s.boxAt s.die c.sigId).waiting = []) (hgood : ((s.dieAt s.die).flawAt (2, c.sigId, 0)).kind ≠ 1) :
    ((s.completeOp o).boxAt s.die c.sigId).queue.map Prod.fst =
      (s.boxAt s.die c.sigId).queue.map Prod.fst ++ [copyMessage c o.ord o.status] := by
  obtain ⟨hparts, hflaws, -⟩ := s.leaveQueues_keeps o
  have hbox : (s.leaveQueues o).boxAt s.die c.sigId = s.boxAt s.die c.sigId := by rw [State.boxAt, (hparts _).1, ← State.boxAt]
  rw [s.completeOp_copy hkind, s.leaveQueues_die, hsig, State.boxAt, ((State.quiet_tryAllNamed _ _).parts s.die).1, ← State.boxAt,
    State.queue_signal _ _ _ _ _ (hbox ▸ hbound) (hbox ▸ hroom) (hbox ▸ hwait) (by rwa [Die.flawAt, hflaws, ← Die.flawAt]),
    List.map_append, hbox]
  rfl

end

/-! ## The actions -/

section
variable {s : State} {o : CopyOp} {coll : Bool}

theorem exec_copyPerform (h : s.hearthOk s.unit = true)
    (hnext : nextOp (if coll then s.there.core.eng.cl else s.there.core.eng.cp) = some o) (hready : s.there.opReady o = true) :
    exec (.copyPerform coll) s = .next (s.there.performOp o) := by
  change execCopyPerform coll s = _
  unfold State.there at *
  rw [execCopyPerform, atHearth_next _ h, State.nextOf_ready hnext hready]
  exact congrArg _ (if_pos hready)

theorem exec_copyComplete (h : s.hearthOk s.unit = true)
    (hfind : (if coll then s.there.core.eng.cl else s.there.core.eng.cp).find? (fun o => o.complete s.there.core) = some o) :
    exec (.copyComplete coll) s = .next (s.there.completeOp o) := by
  change execCopyComplete coll s = _
  unfold State.there at *
  rw [execCopyComplete, atHearth_next _ h, hfind]

/-- The hearth that a full queue froze goes on. -/
abbrev State.unstuck (s : State) : State := s.mapCore fun c => { c with stuck := .no, link := { c.link with frozen := false } }

theorem exec_copyQueueAccept_cp (h : s.hearthOk s.unit = true) (hstuck : s.there.core.stuck = .cp)
    (hroom : s.there.core.eng.cp.length < 32) : exec .copyQueueAccept s = .next s.there.unstuck := by
  change execCopyQueueAccept s = _
  unfold State.there at *
  rw [execCopyQueueAccept, atHearth_next _ h]
  simp only [hstuck, hroom, decide_true, if_true]

theorem exec_copyQueueAccept_cl (h : s.hearthOk s.unit = true) (hstuck : s.there.core.stuck = .cl)
    (hroom : s.there.core.eng.cl.length < 32) : exec .copyQueueAccept s = .next s.there.unstuck := by
  change execCopyQueueAccept s = _
  unfold State.there at *
  rw [execCopyQueueAccept, atHearth_next _ h]
  simp only [hstuck, hroom, decide_true, if_true]

theorem exec_syncRequestAccept (h : s.hearthOk s.unit = true) (hstuck : s.there.core.stuck = .sync)
    (hroom : (s.there.reqs.filter fun r => r.hearth == s.there.coreId).length < 32) :
    exec .syncRequestAccept s = .next s.there.unstuck := by
  change execSyncRequestAccept s = _
  unfold State.there at *
  rw [execSyncRequestAccept, atHearth_next _ h, if_pos ⟨hstuck, hroom⟩]

end

/-- Settles O28: each way to perform an operation ends by marking it, a completed one leaves the queues, and its signal reaches a
good counter or mailbox. -/
theorem copyEngineRuns : Obligations.CopyEngineRuns := by
  refine ⟨fun coll s h => ⟨?performs, ?completes⟩, fun s h =>
    ⟨exec_copyQueueAccept_cp h, exec_copyQueueAccept_cl h, exec_syncRequestAccept h⟩⟩
  case performs => exact fun o hnext hready => ⟨_, exec_copyPerform h hnext hready, rfl, State.opDone_performOp _ o⟩
  case completes =>
    intro o hfind
    obtain ⟨-, -, -, hregs, hmem, hleft⟩ := s.there.leaveQueues_keeps o
    obtain ⟨-, einj, hcore⟩ := s.there.keepsCore_completeOp o
    refine ⟨_, exec_copyComplete h hfind, ?_, ?_, ?_, fun c hkind =>
      ⟨State.count_completeOp _ hkind, State.queue_completeOp _ hkind⟩⟩
    · rw [hcore]
      exact hleft
    · rw [hcore]
      exact hregs
    · rw [hcore]
      exact hmem

end Sys2Proof.Machine
end

/-! PROOFS. Streets, squares and pairs in the C slot (spec/11_square_streets.md R265 to R267, R275 to R279; spec/15 R342; spec/02
R62): the groups that an operation needs, and how its bundle ends. -/
section
namespace Sys2Proof.Machine

/-! ## The hearths by number -/

theorem partnerOf_ne (h : Nat) : partnerOf h ≠ h := by
  have hx : (squareOf h ^^^ 1) ≠ squareOf h := fun he => by simpa using congrArg (squareOf h ^^^ ·) he
  have hp : partnerOf h = (squareOf h ^^^ 1) * 16 + h % 16 := rfl
  unfold squareOf at *
  omega

section
variable (s : State) (g j : Nat)

@[simp] theorem State.setCoreAt_coreId (c : Core) : (s.setCoreAt g c).coreId = s.coreId := by
  unfold State.setCoreAt
  split <;> rfl

@[simp] theorem State.setCoreAt_streets (c : Core) : (s.setCoreAt g c).streets = s.streets := by
  unfold State.setCoreAt
  split <;> rfl

@[simp] theorem State.setCoreAt_launches (c : Core) : (s.setCoreAt g c).launches = s.launches := by
  unfold State.setCoreAt
  split <;> rfl

theorem State.coreAt_setCoreAt (c : Core) : (s.setCoreAt g c).coreAt j = if j = g then c else s.coreAt j := by
  unfold State.coreAt
  rw [State.setCoreAt_coreId]
  unfold State.setCoreAt
  by_cases hg : g = s.coreId
  · subst hg
    simp only [if_true]
    split <;> rfl
  · rw [if_neg hg, Store.get_set]
    by_cases hj : j = g
    · rw [if_pos hj, if_pos hj, if_neg (hj ▸ hg)]
    · rw [if_neg hj, if_neg hj]

theorem State.coreAt_mapCoreAt (f : Core → Core) :
    (s.mapCoreAt g f).coreAt j = if j = g then f (s.coreAt g) else s.coreAt j := s.coreAt_setCoreAt g j _

@[simp] theorem State.streetAt_setStreet (n : Nat) (x : Street) : (s.setStreet n x).streetAt n = x :=
  Store.get_set_self Street.init s.streets n x

/-- A change of another hearth leaves the one in focus alone. -/
theorem State.mapCoreAt_core_ne {g : Nat} (hg : g ≠ s.coreId) (f : Core → Core) : (s.mapCoreAt g f).core = s.core := by
  rw [State.mapCoreAt, State.setCoreAt, if_neg hg]

end

/-! ## Operations that need a group (R266) -/

section
variable {s : State} {g : Nat} {ok : Bool} {k : Res}

theorem settleC_needGroup (h : s.on g) (hf : s.core.task.fuse = true) (hok : ok = true) :
    settleC s (guarded g s (needGroup s ok k)) = settleC s k := by
  rw [guarded_true _ h, needGroup, hf, hok]
  rfl

/-- Without the groups of a launch with FUSEREQ, or without its own condition, the operation raises cause 0x03. -/
theorem settleC_needGroup_refused (h : s.on g) (hno : s.core.task.fuse = false ∨ ok = false) :
    settleC s (guarded g s (needGroup s ok k)) =
      .next (s.takeTrap ⟨0x03, s.core.seq.pc, []⟩ 0 false s.core.seq 1 s.core.seq.pc) := by
  have hc : (s.core.task.fuse && ok) = false := Bool.and_eq_false_iff.2 hno
  rw [guarded_true _ h, needGroup, hc]
  rfl

theorem settleC_withRace {mask : Nat} (hr : s.core.raceDue mask = none) (hu : s.unchecked mask = false) :
    settleC s (withRace s mask k) = settleC s k := by
  rw [withRace, hr, hu]
  rfl

end

/-! ## The ends of their bundles (R267, R275 to R279) -/

section
variable (c : Core)

@[simp] theorem Core.applyCfg_regs : c.applyCfg.regs = c.regs := by
  obtain ⟨_, _, _, h⟩ := c.applyCfg_eq
  rw [show c.applyCfg = _ from h c.ctl]

@[simp] theorem Core.applyCfg_link : c.applyCfg.link = c.link := by
  obtain ⟨_, _, _, h⟩ := c.applyCfg_eq
  rw [show c.applyCfg = _ from h c.ctl]

@[simp] theorem Core.applyCfg_task : c.applyCfg.task = c.task := by
  obtain ⟨_, _, _, h⟩ := c.applyCfg_eq
  rw [show c.applyCfg = _ from h c.ctl]

end

/-- MODE of a street becomes 2 where the hearth in focus leads it (R276). -/
def State.leaderLeaves (s : State) : State :=
  if s.myStreet.leader = s.coreId % 8 then s.setStreet (streetOf s.coreId) { s.myStreet with mode := 2 } else s

/-- A hearth that leaves its fused street: a group switch, and none of the street's deliveries are left (R276). -/
def Core.decoupled (c : Core) : Core :=
  { c.groupSwitch 1 with link := { c.link with fused := false, inbox := [], past := [] } }

section
variable (s : State)

@[simp] theorem State.leaderLeaves_core : s.leaderLeaves.core = s.core := by
  unfold State.leaderLeaves
  split <;> rfl

theorem State.leaderLeaves_closing : s.leaderLeaves.closing = s.closing.leaderLeaves := by
  by_cases hl : s.myStreet.leader = s.coreId % 8
  · rw [State.leaderLeaves, if_pos hl]
    exact (if_pos hl).symm
  · rw [State.leaderLeaves, if_neg hl]
    exact (if_neg hl).symm

theorem State.leaderLeaves_mode : (s.leaderLeaves.streetAt (streetOf s.coreId)).mode =
    if s.myStreet.leader = s.coreId % 8 then 2 else s.myStreet.mode := by
  unfold State.leaderLeaves
  split
  · rw [State.streetAt_setStreet]
  · rfl

end

/-- A hearth ends its pairing and its partner's (R279). -/
def State.unpaired (s : State) : State :=
  (s.mapCore fun c => { c with link := { c.link with paired := false, mswaps := [] } }).mapCoreAt (partnerOf s.coreId) fun d =>
    { d with link := { d.link with paired := false, frozen := false, stopped := false, held := none, mswaps := [] } }

/-- The barrier's wait for what it orders, with the epoch that it begins (R277, R315). -/
def State.atBarrier (s : State) (k : Ctl) : State :=
  s.mapCore fun c => { c.bumpEpoch with wait := s.fenceWait 0x1F s.releaseReqs 0 false false none (some k) }

section
variable {s : State} (h : s.core.seq.pend = none)
include h

/-- A member arrives with the PC of the bundle that it ends, and stands at the next one (R267, R275). -/
theorem settleC_fuse (skew : Nat) : settleC s (withCtl s (.fuse skew)) =
    .next (s.wentOn.arrive s.lineTime s.core.seq.pc (.fuse skew)) := by
  rw [withCtl, settleC, closeBundle_put, ← closing_advance h, ← s.core.applyCfg_seq]
  rfl

theorem settleC_rejoin : settleC s (withCtl s .rejoin) = .next (s.wentOn.arrive s.lineTime s.core.seq.pc .rejoin) := by
  rw [withCtl, settleC, closeBundle_put, ← closing_advance h, ← s.core.applyCfg_seq]
  rfl

theorem settleC_sbar : settleC s (withCtl s .sbar) = .next (s.wentOn.atBarrier .sbar) := by
  rw [withCtl, settleC, closeBundle_put, ← closing_advance h]
  rfl

theorem settleC_sqbar : settleC s (withCtl s .sqbar) = .next (s.wentOn.atBarrier .sqbar) := by
  rw [withCtl, settleC, closeBundle_put, ← closing_advance h]
  rfl

theorem settleC_pairOn : settleC s (withCtl s (.pair true)) =
    .next (s.wentOn.mapCore fun c => { c with wait := .pairLine s.lineTime }) := by
  rw [withCtl, settleC, closeBundle_put, ← closing_advance h]
  rfl

theorem settleC_pairOff : settleC s (withCtl s (.pair false)) = .next s.wentOn.unpaired := by
  rw [withCtl, settleC, closeBundle_put, ← closing_advance h]
  rfl

theorem settleC_decouple : settleC s (withCtl s .decouple) = .next (s.leaderLeaves.wentOn.mapCore Core.decoupled) := by
  rw [withCtl, settleC, closeBundle_put, ← closing_advance (s.leaderLeaves_core ▸ h), State.leaderLeaves_closing]
  rfl

end

section
variable (s : State)

/-- What a barrier awaits is the task's, wherever its sequencer stands (R277). -/
theorem State.releaseReqs_wentOn : s.wentOn.releaseReqs = s.releaseReqs := by
  simp [State.releaseReqs, State.mySync, State.wentOn]

/-- A task at a barrier stands after the barrier's bundle, in the next epoch, and waits for what it has to release. -/
theorem State.atBarrier_wentOn (k : Ctl) :
    (s.wentOn.atBarrier k).core.seq.pc = s.core.after ∧
      (s.wentOn.atBarrier k).core.wait = s.wentOn.fenceWait 0x1F s.releaseReqs 0 false false none (some k) ∧
      (s.wentOn.atBarrier k).core.race.epoch = s.core.race.epoch + 1 ∧ (s.wentOn.atBarrier k).core.regs = s.core.regs := by
  refine ⟨rfl, ?_, ?_, s.core.applyCfg_regs⟩
  · rw [← s.releaseReqs_wentOn]
    rfl
  · exact congrArg (fun r : Race => r.epoch + 1) s.core.applyCfg_race

end

section
variable (s : State)

theorem State.unpaired_core : s.unpaired.core = { s.core with link := { s.core.link with paired := false, mswaps := [] } } :=
  State.mapCoreAt_core_ne (s.mapCore _) (partnerOf_ne s.coreId) _

theorem State.unpaired_partner : (s.unpaired.coreAt (partnerOf s.coreId)).link.paired = false := by
  rw [State.unpaired, State.coreAt_mapCoreAt, if_pos rfl]

end

section
variable {o : S1I} (s : State)

theorem opPair_on (hi : o.imm = 1) : opPair o s = guarded o.g s
    (needGroup s (s.partnerRuns && s.squareFixed (squareOf s.coreId) == s.squareFixed (Nat.xor (squareOf s.coreId) 1))
      (withCtl s (.pair true))) := by
  rw [opPair, hi]
  rfl

theorem opPair_off (hi : o.imm = 0) :
    opPair o s = guarded o.g s (needGroup s (s.core.link.paired && s.core.mat.grp == 0) (withCtl s (.pair false))) := by
  rw [opPair, hi]
  rfl

end

/-- Settles O24: each operation is refused without its group, and otherwise its bundle ends with its outcome. -/
theorem streetsPairsAndNops : Obligations.StreetsPairsAndNops := by
  refine ⟨fun s hp => ⟨fun hf o q ho hq => ?noGroups, fun hf => ⟨fun o h => ?fuse, fun o h =>
      ⟨?rejoin, ?noRejoin, ?decouple, ?noDecouple, ?noSbar, ?noSqbar, ?sbar, ?sqbar⟩⟩⟩,
    fun o s h hp hf => ⟨?pairOn, ?noPairOn, ?noPairOff, ?pairOff⟩, fun s => ⟨rfl, rfl, rfl, rfl, rfl, rfl⟩⟩
  case noGroups =>
    have hno {g : Nat} (h : s.on g) (ok : Bool) (k : Res) := settleC_needGroup_refused (ok := ok) (k := k) h (.inl hf)
    exact ⟨hno ho _ _, hno hq _ _, hno hq _ _, hno hq _ _, hno hq _ _, hno ho _ _⟩
  case fuse =>
    refine ⟨fun hm => ?_, fun hm => settleC_needGroup_refused h (.inr (by simpa using hm))⟩
    exact (settleC_needGroup h hf (by simpa using hm)).trans (settleC_fuse hp o.imm)
  case rejoin => exact fun hm => (settleC_needGroup h hf (by simpa using hm)).trans (settleC_rejoin hp)
  case noRejoin => exact fun hm => settleC_needGroup_refused h (.inr (by simpa using hm))
  case decouple =>
    intro hm
    have hrank : s.leaderLeaves.wentOn.core.link.rank = s.core.link.rank := by simp [State.wentOn]
    exact ⟨_, (settleC_needGroup h hf hm).trans (settleC_decouple hp), rfl, congrArg Core.after s.leaderLeaves_core, rfl,
      hrank, s.leaderLeaves_mode⟩
  case noDecouple => exact fun hm => settleC_needGroup_refused h (.inr hm)
  case noSbar => exact fun h1 h2 => settleC_needGroup_refused h (.inr (by simpa using ⟨h1, h2⟩))
  case noSqbar => exact fun hm => settleC_needGroup_refused h (.inr (by simpa using hm))
  case sbar =>
    intro hm hr hu
    have hok : (s.myStreet.mode == 1 || s.myStreet.mode == 2) = true := by simpa using hm
    have hstep := (settleC_needGroup h hf hok).trans ((settleC_withRace hr hu).trans (settleC_sbar hp))
    exact ⟨_, hstep, s.atBarrier_wentOn .sbar⟩
  case sqbar =>
    intro hm hr hu
    have hstep := (settleC_needGroup h hf hm).trans ((settleC_withRace hr hu).trans (settleC_sqbar hp))
    exact ⟨_, hstep, s.atBarrier_wentOn .sqbar⟩
  case pairOn =>
    intro hi hr hsame
    have hok := settleC_needGroup (k := withCtl s (.pair true)) h hf (Bool.and_eq_true_iff.2 ⟨hr, beq_iff_eq.2 hsame⟩)
    exact (congrArg (settleC s) (opPair_on s hi)).trans (hok.trans (settleC_pairOn hp))
  case noPairOn =>
    intro hi hno
    have hok := Bool.and_eq_false_iff.2 (hno.imp_right beq_eq_false_iff_ne.2)
    exact (congrArg (settleC s) (opPair_on s hi)).trans (settleC_needGroup_refused h (.inr hok))
  case noPairOff =>
    intro hi hno
    have hok := Bool.and_eq_false_iff.2 (hno.imp_right beq_eq_false_iff_ne.2)
    exact (congrArg (settleC s) (opPair_off s hi)).trans (settleC_needGroup_refused h (.inr hok))
  case pairOff =>
    intro hi hpair hgrp
    have hok := settleC_needGroup (k := withCtl s (.pair false)) h hf (Bool.and_eq_true_iff.2 ⟨hpair, beq_iff_eq.2 hgrp⟩)
    refine ⟨_, (congrArg (settleC s) (opPair_off s hi)).trans (hok.trans (settleC_pairOff hp)), ?_,
      s.wentOn.unpaired_partner, ?_, ?_⟩ <;> rw [State.unpaired_core]
    · rfl
    · exact s.core.applyCfg_regs

end Sys2Proof.Machine
end

/-! PROOFS. Lines that read high and tasks that end (spec/11_square_streets.md R267, R275, R277, R279; spec/04 R105): what a line
does for the members that arrived, and the end of a halted task. -/
section
namespace Sys2Proof.Machine

/-! ## Hearths brought into focus -/

section
variable (s : State) (g j : Nat)

@[simp] theorem State.focus_coreId : (s.focus g).coreId = g := by
  unfold State.focus
  split
  · rename_i hg
    exact hg.symm
  · rfl

@[simp] theorem State.focus_core : (s.focus g).core = s.coreAt g := by
  unfold State.focus State.coreAt
  split <;> rfl

@[simp] theorem State.focus_streets : (s.focus g).streets = s.streets := by
  unfold State.focus
  split <;> rfl

/-- Bringing a hearth into focus changes no hearth. -/
@[simp] theorem State.coreAt_focus : (s.focus g).coreAt j = s.coreAt j := by
  by_cases hg : g = s.coreId
  · rw [hg, s.focus_self]
  · by_cases hj : j = g
    · rw [hj, ← s.focus_core g]
      exact if_pos (s.focus_coreId g).symm
    · rw [State.coreAt, if_neg (by simpa using hj), State.focus, if_neg hg, State.coreAt]
      simp only [Store.get_set, if_neg hj]

@[simp] theorem State.mapCoreAt_streets (f : Core → Core) : (s.mapCoreAt g f).streets = s.streets :=
  s.setCoreAt_streets g _

@[simp] theorem State.mapCoreAt_launches (f : Core → Core) : (s.mapCoreAt g f).launches = s.launches :=
  s.setCoreAt_launches g _

@[simp] theorem State.mapCoreAt_coreId (f : Core → Core) : (s.mapCoreAt g f).coreId = s.coreId :=
  s.setCoreAt_coreId g _

theorem State.coreAt_mapCore (f : Core → Core) :
    (s.mapCore f).coreAt j = if j = s.coreId then f s.core else s.coreAt j := by
  by_cases hj : j = s.coreId
  · rw [if_pos hj, hj]
    exact State.coreAt_self _
  · rw [if_neg hj, State.coreAt, State.coreAt, if_neg hj]
    exact if_neg hj

end

/-! ## What is done at each of some hearths -/

section
variable {hs : List Nat} {f : State → Nat → State}

/-- What each turn does to the hearth of its number, and every turn keeps at every hearth, holds in the end of each hearth that
had its turn. -/
theorem State.coreAt_foldl {P : Core → Prop} {j : Nat} (hown : ∀ s, P ((f s j).coreAt j))
    (hkeep : ∀ s g, P (s.coreAt j) → P ((f s g).coreAt j)) (hj : j ∈ hs) (s : State) : P ((hs.foldl f s).coreAt j) := by
  induction hs generalizing s with
  | nil => cases hj
  | cons g hs ih =>
    rcases List.mem_cons.1 hj with rfl | hj
    · exact List.foldlRecOn hs f (hown s) fun u hu g _ => hkeep u g hu
    · exact ih hj _

/-- What no turn changes stands at the end. -/
theorem State.foldl_keeps {α : Type} (p : State → α) (hf : ∀ s g, p (f s g) = p s) (s : State) : p (hs.foldl f s) = p s :=
  List.foldlRecOn hs f (motive := fun u => p u = p s) rfl fun u hu g _ => (hf u g).trans hu

end

/-! ## Requests that are shared (R280, R332) -/

section
variable (s : State) (hs : List Nat)

theorem Core.askPreempt_link (c : Core) : c.askPreempt.link = c.link := by
  unfold Core.askPreempt
  split <;> rfl

theorem Core.askPreempt_wait {c : Core} (h : c.wait = .none) : c.askPreempt.wait = .none := by
  unfold Core.askPreempt
  split
  · simp [h]
  · exact h

@[simp] theorem State.shareRequest_streets : (s.shareRequest hs).streets = s.streets := by
  unfold State.shareRequest
  split
  · exact State.foldl_keeps State.streets (fun u g => u.mapCoreAt_streets g _) s
  · rfl

@[simp] theorem State.shareRequest_coreId : (s.shareRequest hs).coreId = s.coreId := by
  unfold State.shareRequest
  split
  · exact State.foldl_keeps State.coreId (fun u g => u.mapCoreAt_coreId g _) s
  · rfl

/-- The hearth waits for nothing, and its link is as `P` says. -/
def Core.freeWith (c : Core) (P : Link → Prop) : Prop := P c.link ∧ c.wait = .none

theorem State.freeWith_shareRequest {s : State} {j : Nat} {P : Link → Prop} (h : (s.coreAt j).freeWith P) :
    ((s.shareRequest hs).coreAt j).freeWith P := by
  unfold State.shareRequest
  split
  · refine List.foldlRecOn hs _ (motive := fun u : State => (u.coreAt j).freeWith P) h fun u hu g _ => ?_
    rw [State.coreAt_mapCoreAt]
    split
    · rename_i hg
      subst hg
      exact ⟨(Core.askPreempt_link _).symm ▸ hu.1, Core.askPreempt_wait hu.2⟩
    · exact hu
  · exact h

end

/-! ## Chimney lines (R267, R275, R277) -/

/-- Every one of some hearths enters lock step with its rank (R275). -/
def State.fuseAll (s : State) (hs : List Nat) : State :=
  (hs.foldl (fun s h => s.mapCoreAt h fun c => c.fuseIn (h % 8)) s).shareRequest hs

/-- A street whose line has read high. -/
def Street.noArrivals (t : Street) : Street := { t with arrived := [] }

/-- What a street's line does for members that all arrived at one operation. -/
def State.meet (s : State) (n : Nat) (k : Ctl) : State :=
  let t := (s.streetAt n).noArrivals
  let u := s.setStreet n t
  match k with
  | .sbar => u.joinAll (s.members n)
  | .fuse skew => (u.setStreet n { t with mode := 1, skew := skew }).fuseAll (s.members n)
  | .rejoin => (u.setStreet n { t with mode := 1 }).fuseAll (s.members n)
  | _ => s

section
variable {s : State} {n pc : Nat} {k : Ctl}

/-- Members that all arrived with one operation, at one PC, meet at it (R275, R277). -/
theorem State.streetHigh_meet (hover : s.lineOver n = true) (hne : s.members n ≠ [])
    (hall : ∀ g ∈ s.members n, ∃ c, (s.streetAt n).arrived.find? (fun a => a.1 == g % 8) = some (g % 8, pc, k, c)) :
    s.streetHigh n = s.meet n k := by
  obtain ⟨g, gs, hgs⟩ := List.exists_cons_of_ne_nil hne
  obtain ⟨c, hc⟩ := hall g (by simp [hgs])
  unfold State.streetHigh
  simp only [hover, Bool.not_true, Bool.false_eq_true, if_false, hgs, List.head?_cons, Option.bind_some, hc]
  rw [← hgs]
  refine (if_neg ?_).trans ?_
  · simp only [Bool.not_eq_true', Bool.not_eq_false, List.all_eq_true]
    intro g hg
    obtain ⟨c, hc⟩ := hall g hg
    simp [hc]
  · cases k <;> rfl

end

/-- What every member of a fused street has: its rank, and nothing to wait for (R275). -/
def Core.inLockStep (c : Core) (rank : Nat) : Prop := c.freeWith fun l => l.fused = true ∧ l.rank = some rank

section
variable (s : State) (hs : List Nat) {h : Nat}

theorem State.fuseAll_member (hj : h ∈ hs) : ((s.fuseAll hs).coreAt h).inLockStep (h % 8) := by
  have hown (c : Core) : (c.fuseIn (h % 8)).inLockStep (h % 8) := ⟨⟨rfl, rfl⟩, rfl⟩
  refine State.freeWith_shareRequest hs
    (State.coreAt_foldl (P := fun c => c.inLockStep (h % 8)) (fun u => ?_) (fun u g hu => ?_) hj s)
  · rw [State.coreAt_mapCoreAt, if_pos rfl]
    exact hown _
  · rw [State.coreAt_mapCoreAt]
    split
    · rename_i hg
      exact hg ▸ hown _
    · exact hu

@[simp] theorem State.fuseAll_streets : (s.fuseAll hs).streets = s.streets :=
  (State.shareRequest_streets _ hs).trans (State.foldl_keeps State.streets (fun u g => u.mapCoreAt_streets g _) s)

/-- Acquiring a record changes the race detector's state alone (R315). -/
theorem State.acquire_eq (q : List Tag) :
    ∃ race contexts, s.acquire q = { s with core := { s.core with race := race }, contexts := contexts } := by
  unfold State.acquire
  dsimp only
  split <;> exact ⟨_, _, rfl⟩

@[simp] theorem State.acquire_coreId (q : List Tag) : (s.acquire q).coreId = s.coreId := by
  obtain ⟨race, contexts, hq⟩ := s.acquire_eq q
  rw [hq]

@[simp] theorem State.acquire_streets (q : List Tag) : (s.acquire q).streets = s.streets := by
  obtain ⟨race, contexts, hq⟩ := s.acquire_eq q
  rw [hq]

theorem State.coreAt_acquire_wait (q : List Tag) (j : Nat) : ((s.acquire q).coreAt j).wait = (s.coreAt j).wait := by
  obtain ⟨race, contexts, hq⟩ := s.acquire_eq q
  rw [hq]
  unfold State.coreAt
  split <;> rfl

theorem State.joinAll_streets : (s.joinAll hs).streets = s.streets :=
  State.foldl_keeps State.streets (fun u g => by simp) s

/-- Who stands at a barrier goes on (R277). -/
theorem State.joinAll_wait (hj : h ∈ hs) : ((s.joinAll hs).coreAt h).wait = .none := by
  refine State.coreAt_foldl (P := fun c => c.wait = .none) (fun u => ?_) (fun u g hu => ?_) hj s
  · rw [State.coreAt_mapCore, if_pos (by rw [State.acquire_coreId, State.focus_coreId])]
  · rw [State.coreAt_mapCore]
    split
    · rfl
    · rw [State.coreAt_acquire_wait, State.coreAt_focus]
      exact hu

end

/-- Once the square's line reads high, the members of its street groups join, and their arrivals are gone. -/
theorem State.squareHigh_over {s : State} (hover : s.squareOver = true) : s.squareHigh =
    (s.setSquare (squareOf s.coreId) { s.squareAt (squareOf s.coreId) with
      sqbar := (s.squareAt (squareOf s.coreId)).sqbar.filter fun a => !(s.squareStreets.flatMap s.members).contains a.1 }).joinAll
        (s.squareStreets.flatMap s.members) :=
  if_neg (by rw [hover]; decide)

/-- What stands at a member's hearth once its street has fused. -/
theorem State.fused_there (s : State) (n : Nat) (x : Street) {hs : List Nat} {h : Nat} (hj : h ∈ hs) :
    let t := ((s.setStreet n x).fuseAll hs).focus h
    t.streetAt n = x ∧ t.coreId = h ∧ t.core.inLockStep (h % 8) := by
  refine ⟨?_, State.focus_coreId _ _, ?_⟩
  · rw [State.streetAt, State.focus_streets, State.fuseAll_streets]
    exact s.streetAt_setStreet n x
  · rw [State.focus_core]
    exact State.fuseAll_member _ hs hj

/-- What stands at a member's hearth once its barrier's line has read high. -/
theorem State.joined_there (s : State) {hs : List Nat} {h : Nat} (hj : h ∈ hs) :
    let t := (s.joinAll hs).focus h
    t.streets = s.streets ∧ t.coreId = h ∧ t.core.wait = .none := by
  refine ⟨?_, State.focus_coreId _ _, ?_⟩
  · rw [State.focus_streets, State.joinAll_streets]
  · rw [State.focus_core]
    exact State.joinAll_wait s hs hj

/-! ## The pair line (R279) -/

/-- A partner at PAIR on becomes paired. -/
def Core.pairs (c : Core) : Core := { c with wait := .none, link := { c.link with paired := true, mswaps := [], atSwap := none } }

/-- Both partners become paired, and one's request for pre-emption becomes the other's. -/
def State.pairUp (s : State) : State :=
  ((s.mapCore Core.pairs).mapCoreAt (partnerOf s.coreId) Core.pairs).shareRequest [s.coreId, partnerOf s.coreId]

@[simp] theorem State.pairUp_coreId (s : State) : s.pairUp.coreId = s.coreId :=
  (State.shareRequest_coreId _ _).trans (State.mapCoreAt_coreId _ _ _)

theorem State.pairUp_paired (s : State) {j : Nat} (hj : j = s.coreId ∨ j = partnerOf s.coreId) :
    (s.pairUp.coreAt j).freeWith fun l => l.paired = true := by
  have hpairs (c : Core) : c.pairs.freeWith fun l => l.paired = true := ⟨rfl, rfl⟩
  refine State.freeWith_shareRequest _ ?_
  rw [State.coreAt_mapCoreAt]
  split
  · exact hpairs _
  · rename_i hne
    rw [State.coreAt_mapCore, if_pos (hj.resolve_right hne)]
    exact hpairs _

/-! ## The end of a task (R105, R274, R280) -/

section
variable (s : State)

theorem State.dropFill_coreId : s.dropFill.coreId = s.coreId := by
  have hunpin (q : Nat) (l : List Nat) : (s.unpin q l).coreId = s.coreId := by
    unfold State.unpin
    split <;> rfl
  unfold State.dropFill
  split
  · rfl
  · dsimp only
    split <;> exact hunpin _ _

theorem State.leaveStreet_coreId : s.leaveStreet.coreId = s.coreId := by
  have hvacate (u : State) (n : Nat) : (u.vacate n).coreId = u.coreId := by
    unfold State.vacate
    dsimp only
    split <;> rfl
  unfold State.leaveStreet
  dsimp only
  split
  · exact hvacate _ _
  · rfl

/-- A task that ends gives up its fill, its windows and its place in its street. -/
def State.offStreet (s : State) : State :=
  let u := s.dropFill.unuseRecs s.core.task.ctx (s.core.win.filterMap fun e => if e.2.opened then some e.2.handle else none)
  if s.core.task.fuse then u.leaveStreet else u

/-- The pair of a hearth loses its task. -/
def State.offPair (s : State) : State := if s.core.link.paired then s.mapCoreAt (partnerOf s.coreId) Core.unpair else s

theorem State.offStreet_coreId : s.offStreet.coreId = s.coreId := by
  unfold State.offStreet
  dsimp only
  split
  · exact (State.leaveStreet_coreId _).trans s.dropFill_coreId
  · exact s.dropFill_coreId

theorem State.keepsEnd_offStreet : s.keepsEnd s.offStreet :=
  State.keepsEnd.trans s.keepsEnd_dropFill (State.keepsEnd_left (s.dropFill.unuseRecs _ _) s.core.task.fuse)

theorem State.offPair_keeps : s.offPair.coreId = s.coreId ∧ s.offPair.launches = s.launches := by
  unfold State.offPair
  split
  · exact ⟨s.mapCoreAt_coreId _ _, s.mapCoreAt_launches _ _⟩
  · exact ⟨rfl, rfl⟩

/-- The end of a task that has not failed: its hearth is free, and its launch counts it. -/
theorem State.taskEnd_none :
    let u := s.taskEnd none
    u.coreId = s.coreId ∧ u.core.mode = .free ∧ u.core.wait = .none ∧ u.core.q = [] ∧ u.core.win = [] ∧
      u.launches = s.launches.map fun l => if l.id = s.core.task.launch then { l with ended := l.ended + 1 } else l := by
  obtain ⟨-, -, hstreet⟩ := s.keepsEnd_offStreet
  obtain ⟨hid, hpair⟩ := s.offStreet.offPair_keeps
  exact ⟨hid.trans s.offStreet_coreId, rfl, rfl, rfl, rfl, congrArg (List.map _) (hpair.trans hstreet)⟩

end

section
variable {s : State} (h : s.hearthOk s.unit = true)
include h

theorem exec_chimneyLineHigh (square : Bool) : exec (.chimneyLineHigh square) s = .next
    ((if square then s.there.squareHigh else s.there.streetHigh (streetOf s.there.coreId)).focus s.there.coreId) := by
  change execChimneyLineHigh square s = _
  rw [execChimneyLineHigh, atHearth_next _ h]
  rfl

theorem exec_pairLineMeet (hover : s.there.pairOver = true) : exec .pairLineMeet s = .next s.there.pairUp :=
  (atHearth_next _ h).trans (congrArg Host.Outcome.next (if_pos hover))

theorem exec_haltComplete (hw : s.there.core.wait = .halting) (hfly : s.there.core.fly = []) (hpriv : s.there.core.priv = false) :
    exec .haltComplete s = .next (s.there.taskEnd none) := by
  change execHaltComplete s = _
  rw [execHaltComplete, atHearth_next _ h]
  unfold State.there at *
  rw [if_pos ⟨hw, by rw [hfly]; rfl⟩, if_neg (Bool.eq_false_iff.1 hpriv)]

end

/-- Settles O30: a line that reads high does at each member's hearth what its operation says, and a halted task ends. -/
theorem linesMeetAndTasksEnd : Obligations.LinesMeetAndTasksEnd := by
  intro s hok z h st hs
  refine ⟨fun k pc hmem hover hall => ?street, fun hmem hover => ?square, fun hover => ?pair, fun hw hfly hpriv => ?halt⟩
  case street =>
    have hstep := (exec_chimneyLineHigh hok false).trans
      (congrArg (fun u : State => Host.Outcome.next (u.focus h)) (State.streetHigh_meet hover (List.ne_nil_of_mem hmem) hall))
    have hfuse (x : Street) := (z.setStreet (streetOf h) st.noArrivals).fused_there (streetOf h) x hmem
    refine ⟨fun skew hk => ?_, fun hk => ?_, fun hk => ?_⟩ <;> subst hk
    · obtain ⟨hst, hid, ⟨hfused, hrank⟩, hwait⟩ := hfuse { st.noArrivals with mode := 1, skew := skew }
      exact ⟨_, hstep, congrArg Street.mode hst, congrArg Street.skew hst, hid, hfused, hrank, hwait⟩
    · obtain ⟨hst, hid, ⟨hfused, hrank⟩, hwait⟩ := hfuse { st.noArrivals with mode := 1 }
      have hskew := congrArg Street.skew hst
      exact ⟨_, hstep, congrArg Street.mode hst, hskew, hid, hfused, hrank, hwait⟩
    · obtain ⟨hstreets, hid, hwait⟩ := (z.setStreet (streetOf h) st.noArrivals).joined_there hmem
      have hmode := congrArg (fun m => (Store.get Street.init m (streetOf h)).mode) hstreets
      have hset := congrArg Street.mode (z.streetAt_setStreet (streetOf h) st.noArrivals)
      exact ⟨_, hstep, hmode.trans hset, hid, hwait⟩
  case square =>
    have hstep := (exec_chimneyLineHigh hok true).trans
      (congrArg (fun u : State => Host.Outcome.next (u.focus h)) (State.squareHigh_over hover))
    obtain ⟨-, hid, hwait⟩ := State.joined_there (z.setSquare _ _) hmem
    exact ⟨_, hstep, hid, hwait⟩
  case pair =>
    have hown := z.pairUp_paired (.inl rfl)
    rw [← z.pairUp_coreId, State.coreAt_self] at hown
    obtain ⟨hlink, hwait⟩ := hown
    obtain ⟨hlink', hwait'⟩ := z.pairUp_paired (.inr rfl)
    exact ⟨_, exec_pairLineMeet hok hover, hlink, hwait, hlink', hwait'⟩
  case halt =>
    obtain ⟨hid, hmode, hwait, hq, hwin, hlaunches⟩ := z.taskEnd_none
    refine ⟨_, exec_haltComplete hok hw hfly hpriv, hid, hmode, hwait, hq, hwin, fun l hl hown => ?_⟩
    rw [hlaunches]
    exact List.mem_map.2 ⟨l, hl, if_pos hown⟩

end Sys2Proof.Machine
end

/-! PROOFS. Atomics at issue (spec/12_die_sync_engine.md R292 to R299): the request that an atomic sends where the checks of R294 pass,
and the causes of AFADD. -/
section
namespace Sys2Proof.Machine

/-! ## The request of an accepted atomic (R294) -/

section
variable {s : State} {o : Long} {op space : Nat} {a : W64}

/-- The hearth with a landing record for the result of request `id`, where the atomic returns one. -/
def State.reserveReturn (s : State) (o : Long) (id : Nat) : State :=
  if bit o.sc 10 then s.mapCore fun c => c.setQ o.dst (c.reserve (c.qOf o.dst) id (c.now + bits o.sc 0 8 * 4) 1) else s

/-- The request that an atomic makes of its operands. -/
def State.syncReq (s : State) (o : Long) (op : Nat) (a b b1 : W64) (pd : Nat) : SyncReq :=
  { id := s.nextId, hearth := s.coreId, op := op, addr := a, b := b, b1 := b1, uns := bit o.sc 8, scope := o.ty, order := o.md,
    issued := s.core.now, ret := if bit o.sc 10 then some o.dst else none, pd := pd, who := s.ident, ctx := s.core.task.ctx,
    epoch := s.core.race.epoch, known := Machine.recordOf s.core.race.known s.core.race.sat, sent := false, done := false, val := 0,
    status := 0, got := [], bad := false }

/-- The state in which an atomic's request has been accepted. -/
def State.syncAccepted (s : State) (o : Long) (op : Nat) (a b b1 : W64) (pd : Nat) : State :=
  (s.fresh.2.reserveReturn o s.nextId).acceptSync (s.syncReq o op a b b1 pd)

theorem withRace_clear {mask : Nat} {k : Res} (hr : s.core.raceDue mask = none) (hu : s.unchecked mask = false) :
    withRace s mask k = k := by
  rw [withRace, hr, hu]
  rfl

/-- An atomic that passes the checks of R294 is accepted. -/
theorem issueSync_ready {b b1 : W64} {pd : Nat} (h : s.atomicReady o op space a) :
    issueSync o op space s a b b1 pd = .ok (s.syncAccepted o op a b b1 pd) := by
  obtain ⟨hok, hdet, hret, hrel, hroom⟩ := h
  have hadd : ¬(op = 0x2A ∧ s.det = true) := fun hc => ne_true_of_eq_false (hdet hc.1) hc.2
  have hleast : ¬(bit o.sc 10 = true ∧ s.fixed = true ∧ bits o.sc 0 8 * 4 < syncLeast s.die a) := by
    rintro ⟨hb, hfix, hlt⟩
    have hle := (hret hb).1 hfix
    simp only [bits, pow_zero, Nat.div_one] at hlt
    omega
  have hq : ¬(bit o.sc 10 = true ∧ s.core.qRoom o.dst 1 = false) := fun hc => ne_true_of_eq_false hc.2 (hret hc.1).2
  unfold issueSync
  simp only [hok, Bool.not_true, Bool.false_eq_true, if_false, if_neg hadd, if_neg hleast, if_neg hq, if_neg (Nat.not_le.2 hroom)]
  split
  · rename_i hr
    rw [withRace_clear (hrel hr).1 (hrel hr).2]
    rfl
  · rfl

/-- What an accepted atomic leaves of the hearth, and the request that it adds. -/
theorem State.syncAccepted_keeps (s : State) (o : Long) (op : Nat) (a b b1 : W64) (pd : Nat) :
    let t := s.syncAccepted o op a b b1 pd
    t.reqs = s.reqs ++ [{ s.syncReq o op a b b1 pd with sent := !isRelease o.md }] ∧ t.core.regs = s.core.regs ∧
      t.core.fly = s.core.fly ∧ t.core.pad.mem = s.core.pad.mem := by
  unfold State.syncAccepted State.reserveReturn
  split <;> exact ⟨rfl, rfl, rfl, rfl⟩

/-- The step of an operation that issues an atomic which passes its checks. -/
theorem atomicSent_of_issue {i : Instr} {b b1 : W64} {pd : Nat} (h : s.atomicReady o op space a)
    (hexec : exec i s = settle s .x (issueSync o op space s a b b1 pd)) : s.atomicSent i o op a b b1 := by
  obtain ⟨hreqs, hregs, hfly, hmem⟩ := s.syncAccepted_keeps o op a b b1 pd
  rw [issueSync_ready h] at hexec
  exact ⟨_, _, hexec, hreqs, rfl, rfl, rfl, rfl, rfl, rfl, rfl, rfl, rfl, rfl, rfl, hregs, hfly, hmem⟩

end

/-! ## Operands (R292) -/

section
variable {s : State} {o : Long} {op space : Nat} (hon : s.on o.g) (ha : s.xReady o.sa)
include hon ha

theorem atomic1_ready (hb : s.xReady o.sb) : atomic1 o op space s = issueSync o op space s (s.xSrc o.sa) (s.xSrc o.sb) 0 0 := by
  rw [atomic1, guarded_true _ hon, withX_ready ha, withX_ready hb]

theorem atomicSent_atomic1 {i : Instr} (hexec : exec i s = settle s .x (atomic1 o op space s)) (hb : s.xReady o.sb)
    (h : s.atomicReady o op space (s.xSrc o.sa)) : s.atomicSent i o op (s.xSrc o.sa) (s.xSrc o.sb) 0 :=
  atomicSent_of_issue h (hexec.trans (congrArg (settle s .x) (atomic1_ready hon ha hb)))

theorem atomicSent_atomic0 {i : Instr} (hexec : exec i s = settle s .x (atomic0 o op space s))
    (h : s.atomicReady o op space (s.xSrc o.sa)) : s.atomicSent i o op (s.xSrc o.sa) 0 0 :=
  atomicSent_of_issue (b := 0) (b1 := 0) h
    (hexec.trans (congrArg (settle s .x) ((guarded_true _ hon).trans (withX_ready ha))))

theorem exec_acas : exec (.acas o) s =
    settle s .x (issueSync o 0x27 0 s (s.xSrc o.sa) (s.core.readX o.sb) (s.core.readX (o.sb + 1)) 0) :=
  congrArg (settle s .x) ((guarded_true _ hon).trans (withX_ready ha))

theorem exec_waita : exec (.waita o) s =
    settle s .x (issueSync o 0x2B 0 s (s.xSrc o.sa) (s.core.readX o.sb) (s.core.readX (o.sb + 1))
      (physP s.core.loops.rot o.dst)) :=
  congrArg (settle s .x) ((guarded_true _ hon).trans (withX_ready ha))

theorem exec_afadd (hb : s.xReady o.sb) :
    exec (.afadd o) s = settle s .x (issueSync o 0x2A 0 s (s.xSrc o.sa) (s.xSrc o.sb) 0 0) :=
  congrArg (settle s .x) (atomic1_ready hon ha hb)

end

/-! ## Causes (R293, R294) -/

section
variable {s : State} {o : Long} {op space : Nat} {a b b1 : W64} {pd : Nat}

theorem issueSync_outside (h : s.syncOk s.core.task.ctx space a = false) : issueSync o op space s a b b1 pd = raise 0x10 a.toNat := by
  rw [issueSync, h]
  rfl

theorem issueSync_deterministic (h : s.syncOk s.core.task.ctx space a = true) (hdet : s.det = true) :
    issueSync o 0x2A space s a b b1 pd = raise 0x19 a.toNat := by
  rw [issueSync, h, hdet]
  rfl

end

/-- Settles O12: an atomic of each kind issues its request with the operands of its form, and AFADD's two causes come in order. -/
theorem atomicsBecomeRequests : Obligations.AtomicsBecomeRequests := by
  refine ⟨fun o s hon ha => ⟨fun hb => ?operand, fun h => ?acas, ?ald, fun h => ?waita, ?dqpop, ?dqsteal⟩,
    fun o s hon ha hb => ⟨fun hout => ?outside, fun hok hdet => ?det⟩⟩
  case operand =>
    have hsent {op space : Nat} {i : Instr} (hexec : exec i s = settle s .x (atomic1 o op space s)) :=
      atomicSent_atomic1 hon ha hexec hb
    exact ⟨hsent rfl, hsent rfl, hsent rfl, hsent rfl, hsent rfl, hsent rfl, hsent rfl, hsent rfl, hsent rfl, hsent rfl,
      hsent rfl, hsent rfl⟩
  case acas => exact atomicSent_of_issue h (exec_acas hon ha)
  case waita => exact atomicSent_of_issue h (exec_waita hon ha)
  case ald | dqpop | dqsteal => exact atomicSent_atomic0 hon ha rfl
  case outside => rw [exec_afadd hon ha hb, issueSync_outside hout]; rfl
  case det => rw [exec_afadd hon ha hb, issueSync_deterministic hok hdet]; rfl

end Sys2Proof.Machine
end

/-! PROOFS. The ends of launches and the mailboxes (spec/12_die_sync_engine.md R298; spec/14_die_dispatch_specialisation.md R323, R327,
R328; spec/18_package_residency.md R379): what a completed launch writes, and what a mailbox takes and launches. -/
section
namespace Sys2Proof.Machine

/-! ## Mailboxes by number -/

section
variable (s : State)

theorem State.boxAt_putBox (d m : Nat) (b : Mailbox) : (s.putBox d m b).boxAt d m = b := by
  rw [State.boxAt, State.putBox, State.dieAt_mapDie, if_pos rfl]
  exact Store.get_set_self _ _ _ _

variable {s}

theorem State.quiet.boxAt {t : State} (h : s.quiet t) (d m : Nat) : t.boxAt d m = s.boxAt d m := by
  rw [State.boxAt, (h.parts d).1, ← State.boxAt]

end

/-! ## LAUNCH_COMPLETE (R323, R328, R379) -/

section
variable (s : State) (l : Launch)

/-- The device once a launch has left it, with the cached code that it alone still used. -/
abbrev State.withoutLaunch : State := ({ s with launches := s.launches.filter fun x => x.id != l.id } : State).pruneSpec l.die

variable {s l}

/-- The launch slot that a completed launch leaves. -/
abbrev Launch.endSlot (l : Launch) : LaunchSlot := ⟨if l.nfail = 0 then 0 else 0x10, l.cause, l.nfail, l.ford, 0⟩

/-- A completed launch writes the slot that still holds it, keeps a failure for the host, and signals (R323). -/
theorem State.endLaunch_slot {st : StreamId} {serial n : Nat} {x : Stream} (hdst : l.dst = .slot st serial n)
    (hx : (s.withoutLaunch l).streamAt st = some x) (hslot : (Store.get LaunchSlot.empty x.slots n).launch = l.id) :
    s.endLaunch l =
      let w := (s.withoutLaunch l).setSlot st serial n l.endSlot
      let w' := if l.nfail = 0 then w else w.keepFailure l.ctx st n 0x10
      (w'.signal noTask l.ctx l.die l.sigKind l.sigId (BitVec.ofNat 64 n) []).tryAllNamed l.die := by
  unfold State.endLaunch
  simp only [hdst, hx, hslot, beq_self_eq_true, if_true]
  by_cases hfail : l.nfail = 0
  · simp only [Launch.endSlot, if_pos hfail]
  · simp only [Launch.endSlot, if_neg hfail]

/-- A handler that has ended without failing frees its mailbox (R328). -/
theorem State.endLaunch_handler {m : Nat} (hdst : l.dst = .handler m) (hfail : l.nfail = 0) :
    s.endLaunch l =
      (s.withoutLaunch l).putBox l.die m { (s.withoutLaunch l).boxAt l.die m with busy := false } := by
  simp only [State.endLaunch, hdst, if_pos hfail]

/-- A recipe's launch writes nothing. -/
theorem State.endLaunch_recipe {h : Nat} (hdst : l.dst = .recipe h) : s.endLaunch l = s.withoutLaunch l := by
  simp only [State.endLaunch, hdst]

section
variable (hl : s.launch? s.unit = some l) (hdone : s.launchDone l = true)
include hl hdone

theorem exec_launchComplete (hdst : ∀ h, l.dst ≠ .recipe h) : exec .launchComplete s = .next (s.endLaunch l) := by
  change execLaunchComplete s = _
  unfold execLaunchComplete
  cases hd : l.dst with
  | recipe h => exact absurd hd (hdst h)
  | slot | handler => simp only [hl, hdone, Bool.not_true, Bool.false_eq_true, if_false, hd]

theorem exec_launchComplete_recipe {h : Nat} {r : Rec} (hdst : l.dst = .recipe h)
    (hr : (s.withoutLaunch l).recAt l.ctx h = some r) :
    exec .launchComplete s = .next ([0, 1, 2, 3].foldl State.tryAllNamed
      (if l.nfail = 0 then (s.withoutLaunch l).reissue r else (s.withoutLaunch l).endRebuild r false)) := by
  change execLaunchComplete s = _
  unfold execLaunchComplete
  simp only [hl, hdone, Bool.not_true, Bool.false_eq_true, if_false, hdst, State.endLaunch_recipe hdst, hr]

end

end

/-! ## Mailboxes (R298, R328) -/

section
variable {s : State}

/-- The oldest waiting message enters a mailbox with room, and its request is answered. -/
theorem exec_mailboxPost {m req : Nat} {msg : W64} {known : List Tag} {rest : List (Nat × W64 × List Tag)}
    (hd : s.diePresent s.unit = true) (hwait : (s.boxAt s.unit m).waiting = (req, msg, known) :: rest)
    (hroom : (s.boxAt s.unit m).queue.length < 16) :
    exec (.mailboxPost m) s = .next
      (let b := s.boxAt s.unit m
       let t := s.putBox s.unit m { b with queue := b.queue ++ [(msg, known)], waiting := rest }
       if req = 0 then t else t.reply req 0 0 [] false) := by
  change execMailboxPost m s = _
  rw [execMailboxPost, atDie_next _ hd]
  simp only [hwait, if_pos hroom]

/-- A reply marks the requests of its number done, with its status. -/
theorem State.mem_reply {id status : Nat} {val : W64} {got : List Tag} {bad : Bool} {r : SyncReq}
    (hr : r ∈ (s.reply id val status got bad).reqs) (hid : r.id = id) : r.done = true ∧ r.status = status := by
  obtain ⟨q, -, rfl⟩ := List.mem_map.1 hr
  dsimp only at hid ⊢
  split at hid
  · rename_i hq
    rw [if_pos hq]
    exact ⟨rfl, rfl⟩
  · rename_i hq
    exact absurd hid hq

/-- A launch by a message that passes its checks has one task, with the message in k0 and the mailbox in k1 (R322, R328). -/
theorem State.beginLaunch_message {a : Ask} {msg m : Nat} (countStep : Bool) (hmsg : a.msg = some (msg, m))
    (hok : ((s.readAsk a).checkAsk a).2.isSome = true) :
    (s.beginLaunch a countStep).1 = 0xFF ∧ ∃ l ∈ (s.beginLaunch a countStep).2.2.launches, l.dst = a.dst ∧
      l.kvals[0]? = some (BitVec.ofNat 64 msg) ∧ l.kvals[1]? = some (BitVec.ofNat 64 m) ∧ l.total = 1 ∧ l.pri = a.pri := by
  obtain ⟨⟨c, k, g⟩, hsome⟩ := Option.isSome_iff_exists.1 hok
  have hcheck : (s.readAsk a).checkAsk a = (((s.readAsk a).checkAsk a).1, some (c, k, g)) := Prod.ext rfl hsome
  unfold State.beginLaunch
  dsimp only
  rw [hcheck]
  refine ⟨rfl, _, List.mem_append_right _ (List.mem_singleton_self _), rfl, ?_, ?_, ?_, rfl⟩
  · simp [hmsg]
  · simp [hmsg]
  · simp [hmsg]

theorem exec_mailboxHandlerLaunch {m : Nat} (hd : s.diePresent s.unit = true) :
    exec (.mailboxHandlerLaunch m) s = .next (s.launchHandler s.unit m) :=
  atDie_next (fun d s => s.launchHandler d m) hd

/-- An idle bound mailbox, not closing, whose handler is resident begins its handler's launch for its oldest message. -/
theorem State.launchHandler_begins {d m pri kernel args ctx : Nat} {msg : W64} {known : List Tag}
    {rest : List (W64 × List Tag)} (hbound : (s.boxAt d m).bound = some (pri, kernel, args, ctx))
    (hbusy : (s.boxAt d m).busy = false) (hclosing : (s.boxAt d m).closing = false)
    (hqueue : (s.boxAt d m).queue = (msg, known) :: rest) (hres : s.awaits ctx kernel args = []) :
    let z := s.putBox d m { s.boxAt d m with queue := rest, busy := true }
    let x := z.beginLaunch ⟨ctx, d, kernel, args, pri, .handler m, 0, 0, some (msg.toNat, m), known⟩ false
    x.1 = 0xFF → s.launchHandler d m = x.2.2 := by
  unfold State.launchHandler
  generalize s.boxAt d m = b at *
  obtain ⟨bound, queue, waiting, busy, closing⟩ := b
  dsimp only at *
  subst hbound hbusy hclosing hqueue
  intro hx
  simp only [Bool.or_self, hres, List.isEmpty_nil, Bool.not_true, Bool.false_eq_true, if_false]
  exact if_pos hx

end

/-- Settles O34: each clause is the step of a completed launch by its destination, of a waiting post, or of a mailbox's handler. -/
theorem launchesAndMailboxes : Obligations.LaunchesAndMailboxes := by
  refine ⟨fun s l hl hdone => ⟨fun st serial n x hdst hx _ hslot => ?slot, fun m hdst hfail => ?handler,
    fun h r hdst hr => exec_launchComplete_recipe hl hdone hdst hr⟩, fun m s req msg known rest hd hwait hroom => ?post,
    fun m s pri kernel args ctx msg known rest => ?launch⟩
  case slot =>
    rw [exec_launchComplete hl hdone (by simp [hdst]), State.endLaunch_slot hdst hx hslot]
  case handler =>
    exact ⟨_, exec_launchComplete hl hdone (by simp [hdst]), by rw [State.endLaunch_handler hdst hfail, State.boxAt_putBox]⟩
  case post =>
    refine ⟨_, exec_mailboxPost hd hwait hroom, ?_⟩
    have hbox := s.boxAt_putBox s.unit m
      { s.boxAt s.unit m with queue := (s.boxAt s.unit m).queue ++ [(msg, known)], waiting := rest }
    dsimp only
    split
    · rename_i hreq
      rw [hbox]
      exact ⟨rfl, rfl, fun hne => absurd hreq hne⟩
    · exact ⟨congrArg Mailbox.queue hbox, congrArg Mailbox.waiting hbox, fun _ r hr hid => State.mem_reply hr hid⟩
  case launch =>
    intro d b z a hd hbound hbusy hclosing hqueue hres hok
    obtain ⟨hstatus, l, hl, hdst, hmsg, hm, htotal, hpri⟩ := z.beginLaunch_message false rfl hok
    have hbegins := State.launchHandler_begins hbound hbusy hclosing hqueue hres hstatus
    have hbox := ((z.quiet_beginLaunch a false).boxAt d m).trans (s.boxAt_putBox d m _)
    exact ⟨_, l, (exec_mailboxHandlerLaunch hd).trans (congrArg Host.Outcome.next hbegins), hl, hdst, hmsg, hm, htotal, hpri,
      congrArg Mailbox.queue hbox, congrArg Mailbox.busy hbox⟩

end Sys2Proof.Machine
end

/-! PROOFS. Command packets (spec/20_package_host_firmware.md R403, R405, R409): a packet that is served comes to what its command
comes to. -/
section
namespace Sys2Proof.Machine

/-- How a served packet ends: it is answered with its command's status, or stays started. -/
def Cmd.ends (self : Instr) (k : Packet) : Cmd → Host.Outcome State Fault Refusal
  | .done status t => t.answers self k status
  | .wait t => .next (t.keepStarted self)

section
variable {s : State} {self : Instr} {k : Packet}

theorem Cmd.ends_check (ok : Bool) (status : Nat) (t : State) (c : Cmd) :
    (Cmd.check ok status t c).ends self k = if ok then c.ends self k else t.answers self k status := by
  cases ok <;> rfl

/-- A served packet comes to what its command comes to once its buffers have been flushed. -/
theorem command_serves {body : State → Cmd} (h : s.serves self k) :
    command self k s body = (body (s.flushed k)).ends self k := by
  obtain ⟨hstate, hahead, hstopped, hbad, hbufs⟩ := h
  rw [command, if_neg (not_not.2 hstate)]
  simp only [hahead, hstopped, hbad, hbufs, Bool.not_true, Bool.false_eq_true, if_false]
  rw [← State.flushed]
  cases body (s.flushed k) <;> rfl

theorem State.ofCtx_some {id : Nat} {c : Context} {f : Context → Cmd} (h : s.ctx? id = some c) : s.ofCtx id f = f c := by
  rw [State.ofCtx, h]

end

end Sys2Proof.Machine
end

/-! PROOFS. Host commands on keys, sync state, the pool, maps and slot tables (spec/20_package_host_firmware.md R404, R409; spec/12
R287; spec/18 R370; spec/19 R400; spec/23 R431). -/
section
namespace Sys2Proof.Machine

/-! ## Keys (R400) -/

section
variable {s : State} {k : Packet} {slot : Nat}

/-- A key slot takes a value where no record names it. -/
theorem Cmd.ends_unlessUsed {self : Instr} {t u : State} :
    (Cmd.check (!t.keyUsed slot) 0x05 t (.done 0 u)).ends self k =
      if t.keyUsed slot then t.answers self k 0x05 else u.answers self k 0 := by
  rw [Cmd.ends_check]
  cases t.keyUsed slot <;> rfl

/-- A key is loaded over a slot that no record names. -/
theorem exec_keyLoad {owner k1 k2 : Nat} (h : s.serves (.keyLoad k slot owner k1 k2) k) (hlo : 1 ≤ slot) (hhi : slot < 512)
    (howner : owner < 4096) (h1 : k1 < 2 ^ 256) (h2 : k2 < 2 ^ 256) :
    exec (.keyLoad k slot owner k1 k2) s =
      let z := s.flushed k
      let x : KeySlot := ⟨true, owner, BitVec.ofNat 256 k1, BitVec.ofNat 256 k2⟩
      if z.keyUsed slot then z.answers (.keyLoad k slot owner k1 k2) k 0x05
      else State.answers { z with keys := Store.set KeySlot.empty z.keys slot x } (.keyLoad k slot owner k1 k2) k 0 := by
  change execKeyLoad k slot owner k1 k2 s = _
  rw [execKeyLoad, command_serves h, Cmd.ends_check, if_pos (decide_eq_true ⟨hlo, hhi, howner, h1, h2⟩), Cmd.ends_unlessUsed]

/-- A key is destroyed in a slot that the host may name and no record does. -/
theorem exec_keyDestroy (h : s.serves (.keyDestroy k slot) k) : exec (.keyDestroy k slot) s =
    let z := s.flushed k
    if ¬(1 ≤ slot ∧ slot < 512) then z.answers (.keyDestroy k slot) k 0x02
    else if z.keyUsed slot then z.answers (.keyDestroy k slot) k 0x05
    else State.answers { z with keys := Store.set KeySlot.empty z.keys slot KeySlot.empty } (.keyDestroy k slot) k 0 := by
  change execKeyDestroy k slot s = _
  rw [execKeyDestroy, command_serves h, Cmd.ends_check, Cmd.ends_unlessUsed]
  by_cases hslot : 1 ≤ slot ∧ slot < 512
  · rw [if_pos (decide_eq_true hslot)]
    exact (if_neg (not_not.2 hslot)).symm
  · rw [if_neg (by simpa using hslot)]
    exact (if_pos hslot).symm

end

/-! ## Owner keys (R431) -/

/-- An entry that is put where its key was missing can be taken out again. -/
theorem Store.filter_put {α : Type} {r : Store α} {k : Nat} (v : α) (h : ∀ e ∈ r, e.1 ≠ k) :
    (Store.put r k v).filter (fun e => e.1 != k) = r := by
  have hall (r : Store α) (h : ∀ e ∈ r, e.1 ≠ k) : r.filter (fun e => e.1 != k) = r :=
    List.filter_eq_self.2 fun e he => bne_iff_ne.2 (h e he)
  induction r with
  | nil => simp [Store.put]
  | cons e r ih =>
    have hr : ∀ e ∈ r, e.1 ≠ k := fun e he => h e (List.mem_cons_of_mem _ he)
    rw [Store.put]
    split
    · rw [List.filter_cons_of_neg (by simp), hall _ h]
    · rw [List.filter_cons_of_pos (by simpa using h e List.mem_cons_self), ih hr]

/-- The second of two writes of one key stands. -/
theorem Store.set_set {α : Type} [DecidableEq α] (d : α) (m : Store α) (k : Nat) (v w : α) :
    Store.set d (Store.set d m k v) k w = Store.set d m k w := by
  have hno : ∀ e ∈ m.filter (fun e => e.1 != k), e.1 ≠ k := fun e he => bne_iff_ne.1 (List.mem_filter.1 he).2
  have hfilter : (Store.set d m k v).filter (fun e => e.1 != k) = m.filter fun e => e.1 != k := by
    unfold Store.set
    split
    · simp only [List.filter_filter, Bool.and_self]
    · exact Store.filter_put v hno
  rw [Store.set, hfilter, ← Store.set]

/-- Change some ports by a function of each. -/
def State.mapPorts (s : State) (f : Port → Port) (ps : List Nat) : State := ps.foldl (fun s p => s.setPort p (f (s.portAt p))) s

section
variable (s : State) (f : Port → Port)

theorem State.portAt_setPort (p q : Nat) (x : Port) : (s.setPort p x).portAt q = if q = p then x else s.portAt q :=
  Store.get_set _ _ _ _ _

/-- Ports are changed once, however often they are named, by a function that changes nothing when it is used again. -/
theorem State.portAt_mapPorts (hf : ∀ x, f (f x) = f x) (ps : List Nat) (q : Nat) :
    (s.mapPorts f ps).portAt q = if q ∈ ps then f (s.portAt q) else s.portAt q := by
  induction ps generalizing s with
  | nil => simp [State.mapPorts]
  | cons p ps ih =>
    rw [State.mapPorts, List.foldl_cons, ← State.mapPorts, ih, State.portAt_setPort]
    by_cases hq : q = p
    · subst hq
      simp [hf]
    · simp [hq]

theorem State.mapPorts_keeps (ps : List Nat) : (s.mapPorts f ps).keys = s.keys ∧ (s.mapPorts f ps).core = s.core := by
  induction ps generalizing s with
  | nil => exact ⟨rfl, rfl⟩
  | cons p ps ih => exact ih _

theorem Port.setEntry_setEntry (x : Port) (o : Nat) (e e' : OwnerEntry) : (x.setEntry o e).setEntry o e' = x.setEntry o e' := by
  simp only [Port.setEntry, Store.set_set]

theorem Port.entry_setEntry (x : Port) (o i : Nat) (e : OwnerEntry) : (x.setEntry o e).entry i = if i = o then e else x.entry i :=
  Store.get_set _ _ _ _ _

end

/-- A port with an owner's key, isolated where the port is down. -/
def Port.withOwner (e owner key : Nat) (x : Port) : Port :=
  x.setEntry e ⟨if x.down then 2 else 1, owner, 0, BitVec.ofNat 256 key⟩

/-- A port without a key in an entry. -/
def Port.withoutOwner (e : Nat) (x : Port) : Port := x.setEntry e OwnerEntry.empty

section
variable {s : State} {k : Packet} {e : Nat} {ps : List Nat}

theorem State.ports_ok (h : ∀ p ∈ ps, p < 64 ∧ s.hasPort p = true) :
    (ps.all fun p => p < scalePorts && s.hasPort p) = true :=
  List.all_eq_true.2 fun p hp => Bool.and_eq_true_iff.2 ⟨decide_eq_true (h p hp).1, (h p hp).2⟩

theorem exec_ownerKeyLoad {owner key : Nat} (h : s.serves (.ownerKeyLoad k e owner key ps) k) (he : e < 64) (ho : owner < 2 ^ 16)
    (hk : key < 2 ^ 256) (hps : ∀ p ∈ ps, p < 64 ∧ (s.flushed k).hasPort p = true) :
    exec (.ownerKeyLoad k e owner key ps) s =
      ((s.flushed k).mapPorts (Port.withOwner e owner key) ps).answers (.ownerKeyLoad k e owner key ps) k 0 := by
  change execOwnerKeyLoad k e owner key ps s = _
  rw [execOwnerKeyLoad, command_serves h, Cmd.ends_check,
    if_pos (Bool.and_eq_true_iff.2 ⟨decide_eq_true ⟨he, ho, hk⟩, State.ports_ok hps⟩)]
  rfl

theorem exec_ownerKeyDestroy (h : s.serves (.ownerKeyDestroy k e ps) k) (he : e < 64)
    (hps : ∀ p ∈ ps, p < 64 ∧ (s.flushed k).hasPort p = true) :
    exec (.ownerKeyDestroy k e ps) s =
      ((s.flushed k).mapPorts (Port.withoutOwner e) ps).answers (.ownerKeyDestroy k e ps) k 0 := by
  change execOwnerKeyDestroy k e ps s = _
  rw [execOwnerKeyDestroy, command_serves h, Cmd.ends_check,
    if_pos (Bool.and_eq_true_iff.2 ⟨decide_eq_true (p := e < ownerEntries) he, State.ports_ok hps⟩)]
  rfl

end

/-! ## Sync ranges (R287) -/

section
variable {s : State} {k : Packet} {o : SyncAllocate} {c : Context}

/-- The overflow words of the die that an allocation asks for, and those that it has where it asks for none. -/
abbrev State.ovfAsked (s : State) (o : SyncAllocate) : Nat := o.ovf.getD (s.dieAt o.die).ovfWords

/-- The range of an allocation lies in its space, beside the overflow area that it asks for. -/
def State.rangeOk (s : State) (o : SyncAllocate) : Prop :=
  o.lo ≤ o.hi ∧ ((o.space = 0 ∧ o.hi < 2 ^ 20 + s.ovfAsked o) ∨ (o.space = 1 ∧ o.hi < 1024) ∨ (o.space = 2 ∧ o.hi < 256) ∨
    (o.space = 3 ∧ o.hi < 4096)) ∧ s.ovfAsked o ≤ 2 ^ 26

/-- Another context holds part of the range. -/
def State.rangeHeld (s : State) (o : SyncAllocate) : Bool :=
  s.contexts.any fun c => c.id != o.id && c.sync.any fun r =>
    r.1 == o.die && r.2.1 == o.space && r.2.2.1 ≤ o.hi && o.lo ≤ r.2.2.2

/-- The overflow area that is asked for leaves out an overflow word that a context holds. -/
def State.ovfShort (s : State) (o : SyncAllocate) : Bool :=
  s.contexts.any fun c => c.sync.any fun r => r.1 == o.die && r.2.1 == 0 && 2 ^ 20 + s.ovfAsked o ≤ r.2.2.2

/-- The overflow area that is asked for reaches no page in use (log 17). -/
def State.ovfRoom (s : State) (o : SyncAllocate) : Bool :=
  let first := 2 ^ 25 - ceilDiv (s.ovfAsked o) 512
  s.ovfAsked o ≤ (s.dieAt o.die).ovfWords ||
    !((s.recs.filter fun r => r.home == o.die).any fun r =>
      (r.inTier false o.die && r.pages.any fun e => first < e.1 + e.2) || r.copies.any fun e => first ≤ e.2)

/-- A die with an allocation's overflow area, the deques of its range empty. -/
def Die.allocates (x : Die) (o : SyncAllocate) (ovf : Nat) : Die :=
  { x with
    ovfWords := ovf
    deques := if o.space = 1 then x.deques.filter fun e => !(o.lo ≤ e.1 && e.1 ≤ o.hi) else x.deques
    flaws := x.flaws.filter fun e => !(o.space == 1 && e.1.1 == 1 && e.1.2.2 == 0 && o.lo ≤ e.1.2.1 && e.1.2.1 ≤ o.hi) }

/-- The device with an allocation. -/
def State.allocates (s : State) (o : SyncAllocate) : State :=
  (s.mapDie o.die fun x => x.allocates o (s.ovfAsked o)).mapCtx o.id fun c =>
    { c with sync := c.sync ++ [(o.die, o.space, o.lo, o.hi)] }

/-- An allocation in range is refused where the range is held or the area cannot be had, and made otherwise. -/
theorem exec_syncAllocate (h : s.serves (.syncAllocate k o) k) (hc : (s.flushed k).ctx? o.id = some c)
    (hd : (s.flushed k).diePresent o.die = true) (hrange : (s.flushed k).rangeOk o) :
    exec (.syncAllocate k o) s =
      let z := s.flushed k
      if (!z.rangeHeld o && !z.ovfShort o) = true then
        if z.ovfRoom o = true then (z.allocates o).answers (.syncAllocate k o) k 0 else z.answers (.syncAllocate k o) k 0x03
      else z.answers (.syncAllocate k o) k 0x05 := by
  change execSyncAllocate k o s = _
  rw [execSyncAllocate, command_serves h, State.ofCtx_some hc]
  dsimp only
  rw [Cmd.ends_check, Cmd.ends_check, Cmd.ends_check, hd, Bool.true_and, if_pos]
  · rfl
  · obtain ⟨hle, hspace, hovf⟩ := hrange
    rcases hspace with ⟨hsp, hhi⟩ | ⟨hsp, hhi⟩ | ⟨hsp, hhi⟩ | ⟨hsp, hhi⟩ <;>
      exact decide_eq_true ⟨by omega, hovf, hle, by rw [hsp]; exact hhi⟩

theorem State.rangeHeld_iff : s.rangeHeld o = true ↔
    ∃ x ∈ s.contexts, x.id ≠ o.id ∧ ∃ r ∈ x.sync, r.1 = o.die ∧ r.2.1 = o.space ∧ r.2.2.1 ≤ o.hi ∧ o.lo ≤ r.2.2.2 := by
  simp only [State.rangeHeld, List.any_eq_true, Bool.and_eq_true, bne_iff_ne, beq_iff_eq, decide_eq_true_eq, and_assoc]

theorem State.ovfShort_iff : s.ovfShort o = true ↔
    ∃ x ∈ s.contexts, ∃ r ∈ x.sync, r.1 = o.die ∧ r.2.1 = 0 ∧ 2 ^ 20 + s.ovfAsked o ≤ r.2.2.2 := by
  simp only [State.ovfShort, List.any_eq_true, Bool.and_eq_true, beq_iff_eq, decide_eq_true_eq, and_assoc]

theorem State.ovfRoom_iff : s.ovfRoom o = true ↔
    let first := 2 ^ 25 - ceilDiv (s.ovfAsked o) 512
    s.ovfAsked o ≤ (s.dieAt o.die).ovfWords ∨ ∀ r ∈ s.recs, r.home = o.die →
      (r.inTier false o.die = true → ∀ e ∈ r.pages, e.1 + e.2 ≤ first) ∧ ∀ e ∈ r.copies, e.2 < first := by
  simp only [State.ovfRoom, Bool.or_eq_true, decide_eq_true_eq, Bool.not_eq_true', List.any_eq_false, List.mem_filter, beq_iff_eq,
    Bool.and_eq_true, List.any_eq_true, not_or, not_and, not_exists, Nat.not_lt, Nat.not_le, and_imp]

/-- An allocation changes its own die alone. -/
theorem State.dieAt_allocates (s : State) (o : SyncAllocate) :
    (s.allocates o).dieAt o.die = (s.dieAt o.die).allocates o (s.ovfAsked o) ∧
      ∀ d, d ≠ o.die → (s.allocates o).dieAt d = s.dieAt d := by
  have hdie (d : Nat) := s.dieAt_mapDie o.die d fun x => x.allocates o (s.ovfAsked o)
  exact ⟨(hdie o.die).trans (if_pos rfl), fun d hd => (hdie d).trans (if_neg hd)⟩

end

/-! ## Pool ways (R370) -/

section
variable {s : State} {k : Packet} {die ways : Nat}

/-- A die with a number of pool ways. -/
abbrev State.setWays (s : State) (die ways : Nat) : State := s.mapDie die fun x => { x with poolWays := ways }

variable (h : s.serves (.poolWays k die ways) k) (hd : (s.flushed k).diePresent die = true) (hways : ways ≤ 12)
include h hd hways

theorem exec_poolWays_raise (hmore : ((s.flushed k).dieAt die).poolWays ≤ ways) : exec (.poolWays k die ways) s =
    (((s.flushed k).clearWays die ways).setWays die ways).answers (.poolWays k die ways) k 0 := by
  change execPoolWays k die ways s = _
  rw [execPoolWays, command_serves h, Cmd.ends_check, if_pos (Bool.and_eq_true_iff.2 ⟨hd, decide_eq_true hways⟩), if_pos hmore]
  rfl

section
variable (hless : ways < ((s.flushed k).dieAt die).poolWays) {y : State}
  (hy : (s.flushed k).shrinkPool die (ways * wayPages) = y)
include hless hy

/-- Fewer ways: a record in use in those that leave is awaited. -/
theorem exec_poolWays_wait {r : Rec} (hr : r ∈ y.recs) (hbeyond : r.beyond die (ways * wayPages) = true)
    (huse : r.running = true ∨ r.moving = true) :
    exec (.poolWays k die ways) s = .next (y.keepStarted (.poolWays k die ways)) := by
  change execPoolWays k die ways s = _
  rw [execPoolWays, command_serves h, Cmd.ends_check, if_pos (Bool.and_eq_true_iff.2 ⟨hd, decide_eq_true hways⟩),
    if_neg (Nat.not_le.2 hless), hy]
  dsimp only
  rw [if_pos (List.any_eq_true.2 ⟨r, hr, by simpa [hbeyond] using huse⟩)]
  rfl

/-- Fewer ways and nothing in use in those that leave: their pages go to lower ones, where they fit. -/
theorem exec_poolWays_lower
    (hidle : ∀ r ∈ y.recs, r.beyond die (ways * wayPages) = true → r.running = false ∧ r.moving = false) :
    exec (.poolWays k die ways) s =
      ((y.lowerPages die (ways * wayPages)).elim (Cmd.done 0x03 y) fun u => .done 0 (u.setWays die ways)).ends
        (.poolWays k die ways) k := by
  change execPoolWays k die ways s = _
  rw [execPoolWays, command_serves h, Cmd.ends_check, if_pos (Bool.and_eq_true_iff.2 ⟨hd, decide_eq_true hways⟩),
    if_neg (Nat.not_le.2 hless), hy]
  dsimp only
  rw [if_neg]
  · cases y.lowerPages die (ways * wayPages) <;> rfl
  · rw [Bool.not_eq_true, List.any_eq_false]
    intro r hr
    by_cases hbeyond : r.beyond die (ways * wayPages) = true
    · simp [hidle r hr hbeyond]
    · simp [hbeyond]

end

end

/-! ## Maps and slot tables (R404, R409) -/

section
variable {s : State} {k : Packet}

/-- A tensor in HBM is exposed at a page boundary that no other range reaches. -/
theorem exec_map {id handle base : Nat} {c : Context} {r : Rec} (h : s.serves (.map k id handle base) k)
    (hc : (s.flushed k).ctx? id = some c) (hr : (s.flushed k).liveRec id handle = some r) (hhbm : r.inHbm = true)
    (hbase : base % pageBytes = 0)
    (hfree : ∀ c ∈ (s.flushed k).contexts, ∀ e ∈ c.maps, ∀ x, (s.flushed k).recAt c.id e.1 = some x →
      ¬(e.2 < base + r.bytes ∧ base < e.2 + x.bytes)) :
    exec (.map k id handle base) s =
      State.answers ((s.flushed k).mapCtx id fun c => { c with maps := c.maps ++ [(handle, base)] }) (.map k id handle base) k 0 := by
  change execMap k id handle base s = _
  rw [execMap, command_serves h, State.ofCtx_some hc]
  simp only [hr]
  rw [Cmd.ends_check, Cmd.ends_check, if_pos (Bool.and_eq_true_iff.2 ⟨hhbm, beq_iff_eq.2 hbase⟩), if_pos]
  · rfl
  · rw [Bool.not_eq_true', List.any_eq_false]
    intro c hc
    rw [List.any_eq_true]
    rintro ⟨e, he, hclash⟩
    split at hclash
    · rename_i x hx
      exact hfree c hc e he x hx (by simpa using hclash)
    · exact Bool.false_ne_true hclash

/-- The slot table that a list of entries gives. -/
def slotTableOf (es : List (Option (Nat × Nat))) : Store (Option (Nat × Nat)) :=
  (List.range 32).foldl (fun m i => Store.set none m i ((es[i]?).getD none)) []

theorem get_slotTableOf (es : List (Option (Nat × Nat))) {i : Nat} (hi : i < 32) :
    Store.get none (slotTableOf es) i = (es[i]?).getD none :=
  Store.get_foldl_set_of_mem none Function.injective_id (fun i => (es[i]?).getD none) [] (List.mem_range.2 hi)

theorem exec_slotTable {die : Nat} {es : List (Option (Nat × Nat))} (h : s.serves (.slotTable k die es) k)
    (hd : (s.flushed k).diePresent die = true) (hlen : es.length = 32) (hes : ∀ p, some p ∈ es → p.1 < 256 ∧ p.2 < 64) :
    exec (.slotTable k die es) s = State.answers ((s.flushed k).mapDie die fun x => { x with slotTable := slotTableOf es })
      (.slotTable k die es) k 0 := by
  change execSlotTable k die es s = _
  rw [execSlotTable, command_serves h, Cmd.ends_check, if_pos]
  · rfl
  · rw [hd, hlen, beq_self_eq_true, Bool.true_and, Bool.true_and, List.all_eq_true]
    intro e he
    cases e with
    | none => rfl
    | some p => simpa using hes p he

end

/-- Settles O43: each command, once served, comes to its effect and status. -/
theorem resourceCommandsPerform : Obligations.ResourceCommandsPerform := by
  intro k s z
  refine ⟨fun slot owner k1 k2 h hlo hhi ho h1 h2 => exec_keyLoad h hlo hhi ho h1 h2, fun slot h => exec_keyDestroy h,
    fun e owner key ps h he ho hk hps => ?ownerLoad, fun e ps h he hps => ?ownerDestroy, fun o c h hc hd => ?allocate,
    fun die ways h hd hmore hways => exec_poolWays_raise h hd hways hmore, fun die ways h hd hless hways => ?lower,
    fun id hn base c r h hc hr hhbm hbase hfree => exec_map h hc hr hhbm hbase hfree, fun die es h hd hlen hes => ?table⟩
  case ownerLoad =>
    have hport := z.portAt_mapPorts (Port.withOwner e owner key) (fun x => x.setEntry_setEntry _ _ _) ps
    obtain ⟨hkeys, hcore⟩ := z.mapPorts_keeps (Port.withOwner e owner key) ps
    exact ⟨_, exec_ownerKeyLoad h he ho hk hps, fun p hp => (hport p).trans (if_pos hp), fun p hp => (hport p).trans (if_neg hp),
      hkeys, hcore⟩
  case ownerDestroy =>
    have hport := z.portAt_mapPorts (Port.withoutOwner e) (fun x => x.setEntry_setEntry _ _ _) ps
    obtain ⟨hkeys, hcore⟩ := z.mapPorts_keeps (Port.withoutOwner e) ps
    refine ⟨_, exec_ownerKeyDestroy h he hps, fun p hp => ?_, fun p hp => (hport p).trans (if_neg hp), hkeys, hcore⟩
    have hentry (i : Nat) := (z.portAt p).entry_setEntry e i OwnerEntry.empty
    rw [hport, if_pos hp]
    exact ⟨(hentry e).trans (if_pos rfl), fun i hi => (hentry i).trans (if_neg hi)⟩
  case allocate =>
    intro ovf hle hspace hovf hshort
    have hexec := exec_syncAllocate h hc hd ⟨hle, hspace, hovf⟩
    refine ⟨fun hheld => ?held, fun hfree hroom => ?made⟩
    case held =>
      rw [hexec]
      refine if_neg ?_
      rw [State.rangeHeld_iff.2 hheld]
      exact Bool.false_ne_true
    case made =>
      have hfree' : z.rangeHeld o = false := by
        rw [Bool.eq_false_iff, Ne, State.rangeHeld_iff]
        rintro ⟨x, hx, hid, r, hr, hclash⟩
        exact hfree x hx hid r hr hclash
      have hshort' : z.ovfShort o = false := by
        rw [Bool.eq_false_iff, Ne, State.ovfShort_iff]
        rintro ⟨x, hx, r, hr, hclash⟩
        exact hshort x hx r hr hclash
      obtain ⟨hown, hothers⟩ := z.dieAt_allocates o
      refine ⟨z.allocates o, hexec.trans ?_, rfl, hothers, hown⟩
      dsimp only
      rw [hfree', hshort', State.ovfRoom_iff.2 hroom]
      rfl
  case lower =>
    intro y
    refine ⟨fun ⟨r, hr, hbeyond, huse⟩ => exec_poolWays_wait h hd hways hless rfl hr hbeyond huse, fun hidle => ?_⟩
    have hexec := exec_poolWays_lower h hd hways hless (y := y) rfl hidle
    exact ⟨fun u hu => by rw [hexec, hu]; rfl, fun hnone => by rw [hexec, hnone]; rfl⟩
  case table =>
    have hdie (d : Nat) := z.dieAt_mapDie die d fun x => { x with slotTable := slotTableOf es }
    refine ⟨_, exec_slotTable h hd hlen hes, fun i hi => ?_, fun d hne => (hdie d).trans (if_neg hne), rfl, rfl⟩
    rw [hdie, if_pos rfl]
    exact get_slotTableOf es hi

end Sys2Proof.Machine
end

/-! PROOFS. What stays of the host's side when tensors are written at their home, with all that precedes such a write
(spec/13_die_memory_model.md R303, R311; spec/18_package_residency.md R376, R377, R380, R382, R388), tensors that are within reach
(R379), and contexts by identifier. -/
section
namespace Sys2Proof.Machine

/-! ## The host's side is left alone -/

section
variable (s : State)

/-- A run of changes leaves the host as each of them does. -/
theorem State.foldl_host {α : Type} (l : List α) {f : State → α → State}
    (hf : ∀ (s : State) (a : α), (f s a).host = s.host) : (l.foldl f s).host = s.host := by
  induction l generalizing s with
  | nil => rfl
  | cons a l ih => exact (ih _).trans (hf s a)

/-- So does a run of changes that answers something beside the state. -/
theorem State.foldl_snd_host {α β : Type} (l : List α) {f : β × State → α → β × State} (p : β × State)
    (hf : ∀ p a, (f p a).2.host = p.2.host) : (l.foldl f p).2.host = p.2.host := by
  induction l generalizing p with
  | nil => rfl
  | cons a l ih => exact (ih _).trans (hf p a)

theorem State.ite_host {s : State} {p : Prop} [Decidable p] {t u : State} (ht : t.host = s.host) (hu : u.host = s.host) :
    (if p then t else u).host = s.host := by
  split <;> assumption

/-! ### Injections and stored granules (R350, R399) -/

@[simp] theorem State.fireFor_host (t : Nat × Nat) (array : Nat) : (s.fireFor t array).2.host = s.host := by
  unfold State.fireFor
  split
  · rfl
  · dsimp only
    split <;> rfl

@[simp] theorem State.mapRec_host (c h : Nat) (f : Rec → Rec) : (s.mapRec c h f).host = s.host := rfl
@[simp] theorem State.setHome_host (r : Rec) (g : Nat) (x : Flaw) : (s.setHome r g x).host = s.host := rfl
@[simp] theorem State.sidePut_host (d k : Nat) (l : Option Line) : (s.sidePut d k l).host = s.host := rfl
@[simp] theorem State.hbmSend_host (key a op : Nat) (v : V512) (m : W64) (x : Flaw) :
    (s.hbmSend key a op v m x).host = s.host := rfl
@[simp] theorem State.writeCell_host (k g key : Nat) (v : V512) (x : Flaw) : (s.writeCell k g key v x).host = s.host := rfl
@[simp] theorem State.untranslate_host (c h : Nat) : (s.untranslate c h).host = s.host := rfl

@[simp] theorem State.logHome_host (r : Rec) (p : Nat × Nat × Nat) (x : Flaw) : (s.logHome r p x).host = s.host :=
  State.ite_host rfl rfl

@[simp] theorem State.correctCell_host (k g : Nat) : (s.correctCell k g).host = s.host := by
  unfold State.correctCell
  split
  · exact State.ite_host rfl rfl
  · rfl

@[simp] theorem State.correctSpill_host (i : Nat) : (s.correctSpill i).host = s.host := by
  unfold State.correctSpill
  split
  · exact State.ite_host rfl rfl
  · rfl

@[simp] theorem State.hbmStore_host (t : Nat × Nat) (r : Rec) (g op : Nat) (v : V512) (m : Nat) (x : Flaw) :
    (s.hbmStore t r g op v m x).host = s.host := by
  simp [State.hbmStore]

/-! ### Lines and granules at the home (R239, R311, R391) -/

@[simp] theorem State.sideOut_host (k : Nat) (l : Line) : (s.sideOut k l).host = s.host := by
  unfold State.sideOut
  split
  · rfl
  · refine State.ite_host ((State.hbmStore_host _ _ _ _ _ _ _ _).trans ?_) rfl
    exact State.ite_host (s.logHome_host _ _ _) rfl

@[simp] theorem State.sideInstall_host (t : Nat × Nat) (d : Nat) (l : Line) (hint : Nat) :
    (s.sideInstall t d l hint).host = s.host := by
  unfold State.sideInstall
  split
  · rfl
  · split
    · rfl
    · rename_i k old aged _
      have haged := s.foldl_host aged (f := fun s e => s.sidePut d e.1 e.2) fun _ _ => rfl
      cases old <;> simp [haged]

@[simp] theorem State.sawHome_host (r : Rec) (g : Nat) : (s.sawHome r g).host = s.host := by
  unfold State.sawHome
  refine State.ite_host rfl ?_
  split
  · simp
  · dsimp only
    split <;> simp

@[simp] theorem State.dropCopies_host (d : Nat) (keep : Option Nat) (a : Nat) : (s.dropCopies d keep a).host = s.host := by
  refine s.foldl_host _ fun s p => State.ite_host rfl ?_
  split <;> rfl

@[simp] theorem State.homePut_host (t : Nat × Nat) (keep : Option Nat) (r : Rec) (g hint : Nat) (v : V512) (m : Nat) (x : Flaw) :
    (s.homePut t keep r g hint v m x).host = s.host := by
  unfold State.homePut
  refine State.ite_host (by simp) ?_
  dsimp only
  split
  · simp
  · exact State.ite_host (by simp) (by simp)

@[simp] theorem State.sawLine_host (q a : Nat) : (s.sawLine q a).host = s.host := by
  unfold State.sawLine
  split
  · rfl
  · exact State.ite_host rfl rfl

@[simp] theorem State.writeHome_host (q : Nat) (l : Line) : (s.writeHome q l).host = s.host := by
  unfold State.writeHome
  split
  · exact (State.homePut_host _ _ _ _ _ _ _ _ _).trans (State.ite_host (s.sawLine_host _ _) rfl)
  · rfl

@[simp] theorem State.recall_host (a : Nat) : (s.recall a).host = s.host := by
  refine s.foldl_host _ fun s q => ?_
  split
  · exact State.ite_host (s.writeHome_host _ _) rfl
  · rfl

@[simp] theorem State.homeGran_host (c h g : Nat) (v : V512) (m : Nat) : (s.homeGran c h g v m).2.host = s.host := by
  unfold State.homeGran
  split
  · rfl
  · dsimp only
    split_ifs <;> simp

@[simp] theorem State.homeWrite_host (c h off : Nat) (bs : List Byte) : (s.homeWrite c h off bs).2.host = s.host :=
  State.foldl_snd_host _ _ fun p _ => p.2.homeGran_host _ _ _ _ _

/-! ### Records that change their place, and page copies (R367, R382, R388) -/

@[simp] theorem State.storeCells_host (c h : Nat) : (s.storeCells c h).host = s.host := by
  unfold State.storeCells
  split
  · rfl
  · refine s.foldl_host _ fun s u => ?_
    split <;> rfl

@[simp] theorem State.freeCells_host (c h : Nat) : (s.freeCells c h).host = s.host := by
  unfold State.freeCells
  split
  · rfl
  · refine s.foldl_host _ fun s u => ?_
    split <;> rfl

@[simp] theorem State.relocate_host (c h : Nat) (f : Rec → Rec) : (s.relocate c h f).host = s.host := by
  simp [State.relocate]

@[simp] theorem State.dropLines_host (r : Rec) : (s.dropLines r).host = s.host := by
  unfold State.dropLines
  simp only [State.untranslate_host, apply_ite State.host, State.mapDie_host, ite_self]
  rw [State.foldl_host _ _ fun s e => s.sideOut_host _ _]
  refine s.foldl_host _ fun s q => ?_
  have hwrites (l : List Line) : (l.foldl (fun s l => s.writeHome q l) s).host = s.host :=
    s.foldl_host l fun s l => s.writeHome_host q l
  exact State.ite_host (hwrites _) (hwrites _)

@[simp] theorem State.dropReserve_host (p : Rec → Bool) : (s.dropReserve p).host = s.host :=
  s.foldl_host _ fun s _ => s.foldl_host _ fun s _ => s.foldl_host _ fun _ _ => rfl

@[simp] theorem State.freeRec_host (r : Rec) : (s.freeRec r).host = s.host := by
  simp [State.freeRec]

@[simp] theorem State.sweep_host (c phase n : Nat) : (State.sweep c phase n s).host = s.host := by
  induction n generalizing s with
  | zero => rfl
  | succ n ih =>
    rw [State.sweep]
    split
    · rfl
    · exact (ih _).trans (s.freeRec_host _)

@[simp] theorem State.unpack_host (c h : Nat) : (s.unpack c h).host = s.host := by
  unfold State.unpack
  split
  · rfl
  · exact State.ite_host rfl (by simp)

@[simp] theorem State.pageCopy_host (c h p : Nat) : (s.pageCopy c h p).host = s.host := by
  unfold State.pageCopy
  split
  · refine State.ite_host rfl (State.ite_host rfl ?_)
    split
    · rfl
    · exact (State.mapRec_host _ _ _ _).trans (s.foldl_host _ fun _ _ => State.writeCell_host _ _ _ _ _ _)
  · rfl

@[simp] theorem State.beforeWrite_host (c h off n : Nat) (reissue : Bool) : (s.beforeWrite c h off n reissue).host = s.host := by
  have hcopies : ((pagesOf off n).foldl (fun s p => s.pageCopy c h p) (s.unpack c h)).host = s.host :=
    (State.foldl_host _ _ fun s p => s.pageCopy_host c h p).trans (s.unpack_host c h)
  refine State.ite_host (s.unpack_host c h) (State.ite_host ?_ hcopies)
  exact (State.sweep_host _ _ _ _).trans hcopies

end

/-! ## Tensors within reach (R379, R380) -/

section
variable {s : State} {ctx h : Nat} {r : Rec}

/-- A resident tensor is there at once. -/
theorem State.bringBack_of_resident (hr : s.recAt ctx h = some r) (haway : r.away = false) : s.bringBack ctx h = (.ok, s) := by
  have hsettled : s.settledRef ctx h = some .ok := by
    rw [State.settledRef, hr]
    simp [haway]
  rw [State.bringBack, State.makeResident, hsettled]

theorem State.reach_read_of_resident (hr : s.recAt ctx h = some r) (haway : r.away = false) :
    s.reach ctx h false = (.ok, s) := by
  rw [State.reach, State.bringBack_of_resident hr haway]
  rfl

/-- A write to a resident tensor waits for no other where no dropped one depends on it. -/
theorem State.reach_write_of_resident (hr : s.recAt ctx h = some r) (haway : r.away = false) (hdep : s.dependent ctx h = none) :
    s.reach ctx h true = (.ok, s) := by
  rw [State.reach, State.bringBack_of_resident hr haway]
  dsimp only
  rw [hdep]
  rfl

end

/-! ## Contexts by identifier -/

theorem State.id_of_ctx? {s : State} {i : Nat} {c : Context} (h : s.ctx? i = some c) : c.id = i :=
  beq_iff_eq.1 (List.find?_some (p := fun c : Context => c.id == i) h)

/-- A change of a context that keeps identifiers is what its identifier finds afterwards. -/
theorem State.ctx?_mapCtx_self (s : State) (i : Nat) {f : Context → Context} (hf : ∀ c, (f c).id = c.id) :
    (s.mapCtx i f).ctx? i = (s.ctx? i).map f := by
  have hid (c : Context) : ((if c.id = i then f c else c).id == i) = (c.id == i) := by
    split
    · rw [hf]
    · rfl
  have hfind : (s.mapCtx i f).ctx? i = (s.ctx? i).map fun c => if c.id = i then f c else c := by
    simp only [State.ctx?, State.mapCtx, List.find?_map, Function.comp_def, hid]
  rw [hfind]
  exact Option.map_congr fun c h => if_pos (State.id_of_ctx? h)

theorem State.mapCtx_unchanged (s : State) (i : Nat) : s.mapCtx i (fun c => c) = s := by
  simp [State.mapCtx]

end Sys2Proof.Machine
end

/-! PROOFS. Host accesses over CXL.mem (spec/13_die_memory_model.md R303, R311; spec/20_package_host_firmware.md R409): those that
reach no mapped tensor, reads and writes. -/
section
namespace Sys2Proof.Machine

/-! ## Host accesses over CXL.mem (R303, R311) -/

/-- The host's side without a started access. -/
abbrev State.accessDone (s : State) (a : HostAccess) : State :=
  s.mapHost fun h => { h with started := h.started.erase (.hostMemAccess a) }

section
variable {s : State} {a : HostAccess} {c : Context} {r : Rec} (hc : s.ctx? a.ctx = some c) (hr : s.recAt a.ctx a.handle = some r)
include hc hr

theorem exec_hostMemAccess_unmapped (hmap : ∀ e ∈ c.maps, e.1 ≠ a.handle) :
    exec (.hostMemAccess a) s = .next (s.accessDone a) := by
  have hnone : (c.maps.any fun e => e.1 == a.handle) = false := List.any_eq_false.2 fun e he => by simpa using hmap e he
  change execHostMemAccess a s = _
  rw [execHostMemAccess, hc, hr]
  dsimp only
  rw [hnone]
  rfl

variable (hmap : ∃ e ∈ c.maps, e.1 = a.handle) (haway : r.away = false)
include hmap haway

/-- A read of a mapped tensor in range is answered with its bytes at the home. -/
theorem exec_hostMemAccess_read (hdata : a.data = none) (hlen : 0 < a.len) (hrange : a.off + a.len ≤ r.bytes) :
    exec (.hostMemAccess a) s =
      let t := s.homeFetch a.ctx a.handle a.off a.len
      .next ((t.accessDone a).mapHost fun h =>
        { h with reply := t.homeRead a.ctx a.handle a.off a.len
                 replyBad := !(s.homeMarks a.ctx a.handle a.off a.len).isEmpty }) := by
  have hsome : (c.maps.any fun e => e.1 == a.handle) = true := List.any_eq_true.2 (by simpa using hmap)
  change execHostMemAccess a s = _
  rw [execHostMemAccess, hc, hr]
  simp only [hdata, hsome]
  rw [if_neg (by simp; omega)]
  simp [State.reach_read_of_resident hr haway]

/-- A write to a mapped tensor in range, of no window that is out, is performed at the home. -/
theorem exec_hostMemAccess_write {bs : List Byte} (hdata : a.data = some bs) (hbs : bs ≠ [])
    (hrange : a.off + bs.length ≤ r.bytes) (hdep : s.dependent a.ctx a.handle = none)
    (hwin : ∀ w ∈ s.fabric.windows, ¬(w.2.ctx = a.ctx ∧ w.2.handle = a.handle ∧ w.2.state ≠ 0)) :
    exec (.hostMemAccess a) s =
      .next (((s.beforeWrite a.ctx a.handle a.off bs.length false).homeWrite a.ctx a.handle a.off bs).2.accessDone a) := by
  have hsome : (c.maps.any fun e => e.1 == a.handle) = true := List.any_eq_true.2 (by simpa using hmap)
  have hout : (s.fabric.windows.any fun w => w.2.ctx == a.ctx && w.2.handle == a.handle && w.2.state != 0) = false :=
    List.any_eq_false.2 fun w hw => by simpa [and_assoc] using hwin w hw
  change execHostMemAccess a s = _
  rw [execHostMemAccess, hc, hr]
  simp only [hdata, hsome]
  rw [if_neg (by simpa using ⟨hrange, hbs⟩)]
  simp [State.reach_write_of_resident hr haway hdep, hout, State.mapCtx_unchanged]

end

/-- Settles O47: an access that is not mapped only leaves the started ones; a read is answered with the tensor's bytes at the home,
where fetching them keeps the registers, and a write puts its bytes there, which never reaches the host's side. -/
theorem hostAccessesReachTensors : Obligations.HostAccessesReachTensors := by
  intro a s c r hc hr gone
  refine ⟨fun hmap => exec_hostMemAccess_unmapped hc hr hmap, fun hmap haway => ⟨fun hdata hlen hrange hmarks => ?read,
    fun bs hdata hbs hrange hdep hwin => ?write⟩⟩
  case read =>
    obtain ⟨-, einj, hcore⟩ := (s.quiet_homeFetch a.ctx a.handle a.off a.len).core
    refine ⟨_, exec_hostMemAccess_read hc hr hmap haway hdata hlen hrange, ?_, (congrArg Core.regs hcore :), rfl⟩
    change (!(s.homeMarks a.ctx a.handle a.off a.len).isEmpty) = false
    rw [hmarks]
    rfl
  case write =>
    have hhost : ((s.beforeWrite a.ctx a.handle a.off bs.length false).homeWrite a.ctx a.handle a.off bs).2.host = s.host := by
      simp
    exact ⟨_, exec_hostMemAccess_write hc hr hmap haway hdata hbs hrange hdep hwin, rfl, (congrArg HostSide.mem hhost :)⟩

end Sys2Proof.Machine
end

/-! PROOFS. The phase commit and the rollback (spec/13_die_memory_model.md R312; spec/14_die_dispatch_specialisation.md R326;
spec/18_package_residency.md R382, R383): when each happens, and what it comes to. -/
section
namespace Sys2Proof.Machine

/-! ## The commit (R312, R326) -/

section
variable {s : State} {c : Context}

theorem exec_phaseCommit_early (hc : s.ctx? s.unit = some c) (hcommit : s.canCommit s.unit = false) :
    exec .phaseCommit s = .next s := by
  change execPhaseCommit s = _
  rw [execPhaseCommit, hc]
  dsimp only
  rw [hcommit]
  rfl

/-- The device once the squares have written back a context's lines and its next phase has begun, its page copies discarded. -/
def State.nextPhase (s : State) (ctx : Nat) : State :=
  (((List.range 16).foldl (fun s q => s.commitSquare ctx q) (s.performHeld ctx)).mapCtx ctx Context.nextPhase).dropReserve
    fun r => r.ctx == ctx

/-- The number of a context's phase; 0 of none. -/
def State.phaseOf (s : State) (ctx : Nat) : Nat := (s.ctx? ctx).elim 0 Context.phase

/-- A commit that is due: what is retained in vain and the records of races go, held writes leave, and the streams go on. -/
theorem exec_phaseCommit_due (hc : s.ctx? s.unit = some c) (hcommit : s.canCommit s.unit = true)
    (hready : s.heldReady s.unit = true) :
    exec .phaseCommit s =
      let d := s.nextPhase s.unit
      .next ((((State.sweep s.unit (d.phaseOf s.unit) d.recs.length d).clearRecords s.unit).releaseEgress s.unit).passPhase
        s.unit) := by
  change execPhaseCommit s = _
  rw [execPhaseCommit, hc]
  dsimp only
  rw [hcommit, hready, if_neg (by decide), ← State.nextPhase, State.phaseOf]
  cases (s.nextPhase s.unit).ctx? s.unit <;> rfl

/-! ## The rollback (R383) -/

theorem exec_rollback_undue (hc : s.ctx? s.unit = some c) (hdue : c.rollback = false) : exec .rollback s = .next s := by
  change execRollback s = _
  rw [execRollback, hc]
  dsimp only
  rw [hdue]
  rfl

/-- While operations that the context's tasks issued are under way, only the tasks end. -/
theorem exec_rollback_busy (hc : s.ctx? s.unit = some c) (hdue : c.rollback = true)
    (hbusy : (s.endTasks c.id).ctxBusy c.id = true) : exec .rollback s = .next (s.endTasks c.id) := by
  change execRollback s = _
  rw [execRollback, hc]
  dsimp only
  rw [hdue, hbusy]
  rfl

/-- The device with a context's pages, records, sync state and streams as its last commit left them. -/
def State.rolledBack (s : State) (c : Context) : State :=
  ((((s.restorePages c.id).restoreRecs c.id c.phase).restoreSync c).restartStreams c).clearRecords c.id

/-- A context's writes that are held in egress are dropped. -/
def State.dropHeld (s : State) (ctx : Nat) : State :=
  { s with fabric := { s.fabric with out := s.fabric.out.filter fun x => !(x.held && x.ctx == ctx) } }

@[simp] theorem State.dropHeld_recs (s : State) (ctx : Nat) : (s.dropHeld ctx).recs = s.recs := rfl
@[simp] theorem State.dropHeld_dies (s : State) (ctx : Nat) : (s.dropHeld ctx).dies = s.dies := rfl
@[simp] theorem State.dropHeld_core (s : State) (ctx : Nat) : (s.dropHeld ctx).core = s.core := rfl

/-- A context as a rollback leaves it. -/
def Context.rolledBack (c : Context) : Context :=
  { c with rollback := false, lost := false, savedWords := [], savedDeques := [], savedNamed := [], dirtyOut := [],
           egressGone := [], satCnt := 0, rdrFull := false, mapFull := false }

/-- Once nothing of the context is under way its state is restored; nothing is reported where no window was written and no copy
had left. -/
theorem exec_rollback_restores (hc : s.ctx? s.unit = some c) (hdue : c.rollback = true)
    (hbusy : (s.endTasks c.id).ctxBusy c.id = false) (hscans : (s.endTasks c.id).scans.any (fun j => j.ctx == c.id) = false)
    (hlost : c.lost = false) (hout : c.dirtyOut = []) (hgone : c.egressGone = []) :
    exec .rollback s = .next ((((s.endTasks c.id).rolledBack c).dropHeld c.id).mapCtx c.id Context.rolledBack) := by
  change execRollback s = _
  rw [execRollback, hc]
  dsimp only
  rw [hdue, hbusy, hscans, hlost, hout, hgone]
  rfl

end

/-- Settles O35: a commit and a rollback happen in the order of their parts, and neither early. -/
theorem phasesCommitAndRollBack : Obligations.PhasesCommitAndRollBack := by
  intro s c hc
  have hid : c.id = s.unit := State.id_of_ctx? hc
  refine ⟨exec_phaseCommit_early hc, fun hcommit hready => ?commit, ⟨rfl, rfl, rfl, rfl, rfl, rfl⟩, exec_rollback_undue hc,
    fun hdue => ⟨exec_rollback_busy hc hdue, fun hbusy hscans hlost hout hgone => ?restore⟩⟩
  case commit =>
    rw [hid, exec_phaseCommit_due hc hcommit hready]
    dsimp only [State.phaseOf]
    rw [← State.nextPhase]
    cases (s.nextPhase s.unit).ctx? s.unit <;> rfl
  case restore =>
    rw [← State.rolledBack]
    refine ⟨_, exec_rollback_restores hc hdue hbusy hscans hlost hout hgone, State.dropHeld_recs _ c.id,
      State.dropHeld_dies _ c.id, State.dropHeld_core _ c.id, fun c' hc' => ?_⟩
    rw [State.ctx?_mapCtx_self (f := Context.rolledBack) (hf := fun _ => rfl)] at hc'
    obtain ⟨k, -, rfl⟩ := Option.map_eq_some_iff.1 hc'
    exact ⟨rfl, rfl, rfl, rfl⟩

end Sys2Proof.Machine
end

/-! PROOFS. The reset state, and how command packets complete (spec/20_package_host_firmware.md R402, R409, R410). -/
section
namespace Sys2Proof.Machine

/-- Settles O60: the reset state has power and stands in STATE 1. -/
theorem resetIsLegal : Obligations.ResetIsLegal := ⟨.inr (.inl rfl), by decide⟩

/-! ## Completion values (R409) -/

section
variable (s : State)

/-- A completion value is written to its address alone; it shows the event flag of the context whose first queue it is for. -/
theorem State.writeCompletion_none {slot queue caddr index status : Nat} (h : queue ≠ 0 ∨ ∀ c ∈ s.contexts, c.slot ≠ slot) :
    s.writeCompletion slot queue caddr index status =
      { s with host := { s.host with mem := s.host.mem.writeN caddr (toBytes 8 (index * 256 + status)) } } := by
  have hnone : s.contexts.find? (fun c => c.slot == slot && queue == 0) = none := by
    rw [List.find?_eq_none]
    rcases h with hq | hc
    · simp [hq]
    · exact fun c hc' => by simp [hc c hc']
  simp [State.writeCompletion, hnone, State.mapHost, flaggedWord, completion]

theorem State.writeCompletion_first {slot caddr index status : Nat} {c : Context}
    (h : s.contexts.find? (fun c => c.slot == slot) = some c) :
    (s.writeCompletion slot 0 caddr index status).host.mem =
      s.host.mem.writeN caddr (toBytes 8 (index * 256 + status + if c.flag then 0x80 else 0)) := by
  simp only [State.writeCompletion, beq_self_eq_true, Bool.and_true, h]
  rfl

/-- A completion value changes host memory and the context that it is for. -/
theorem State.writeCompletion_keeps (slot queue caddr index status : Nat) :
    ∃ mem contexts, s.writeCompletion slot queue caddr index status =
      { s with host := { s.host with mem := mem }, contexts := contexts } := by
  unfold State.writeCompletion
  dsimp only
  split <;> exact ⟨_, _, rfl⟩

end

section
variable {s : State} {self : Instr} {k : Packet} {body : State → Cmd}

/-- A packet that the executive has reached, and at which its queue has stopped. -/
theorem command_stopped (hstate : s.host.state = 4) (hahead : s.queueAhead self k = false) (h : s.stoppedAt k = true) :
    command self k s body = s.answers self k 0x06 := by
  simp [command, hstate, hahead, h, State.answers]

theorem command_bad (hstate : s.host.state = 4) (hahead : s.queueAhead self k = false) (hstopped : s.stoppedAt k = false)
    (h : k.bad = true) : command self k s body = s.answers self k 0x01 := by
  simp [command, hstate, hahead, hstopped, h, State.answers]

theorem command_bufs (hstate : s.host.state = 4) (hahead : s.queueAhead self k = false) (hstopped : s.stoppedAt k = false)
    (hbad : k.bad = false) (h : Packet_bufsOk k = false) : command self k s body = s.answers self k 0x02 := by
  simp [command, hstate, hahead, hstopped, hbad, h, State.answers]

/-- No command is performed outside STATE 4. -/
theorem command_state (h : s.host.state ≠ 4) : command self k s body = .next s := by
  simp [command, h]

end

theorem exec_contextCreate_command (k : Packet) (id : Nat) (s : State) :
    ∃ body, exec (.contextCreate k id) s = command (.contextCreate k id) k s body :=
  ⟨_, (rfl : execContextCreate k id s = _)⟩

/-- Settles O41: a completion value is written in its form, and the checks of a packet come in their order. -/
theorem commandsComplete : Obligations.CommandsComplete := by
  refine ⟨fun t self k status => ?written, fun k id s hstate hahead => ?checks, fun k id s hstate => ?early⟩
  case written =>
    let z := t.mapHost fun h => { h with started := h.started.erase self }
    obtain ⟨mem, contexts, hkeeps⟩ := z.writeCompletion_keeps k.slot k.queue k.caddr k.index status
    refine ⟨_, rfl, fun i hi => ?_, ?_, ?_, ?_, ?_, fun hnone => ?_, fun c hq hc => ?_⟩
    · rw [State.finish, hkeeps] at hi
      exact List.mem_of_mem_erase hi
    iterate 4 rw [State.finish, hkeeps]; rfl
    · rw [State.finish, z.writeCompletion_none hnone]
      exact ⟨rfl, rfl⟩
    · rw [State.finish, hq, z.writeCompletion_first hc]
      rfl
  case checks =>
    obtain ⟨body, hexec⟩ := exec_contextCreate_command k id s
    rw [hexec]
    exact ⟨command_stopped hstate hahead, command_bad hstate hahead, command_bufs hstate hahead⟩
  case early =>
    obtain ⟨body, hexec⟩ := exec_contextCreate_command k id s
    rw [hexec, command_state hstate]

end Sys2Proof.Machine
end

/-! PROOFS. Warm resets, power and clock events (spec/20_package_host_firmware.md R401, R402, R410, R412; spec/15 R343). -/
section
namespace Sys2Proof.Machine

/-! ## Warm resets (R401, R410) -/

section
variable (s : State)

theorem State.stackAt_warmReset (hp : s.powered = true) (n : Nat) :
    s.warmReset.stackAt n = { s.stackAt n with queue := [] } := by
  rw [State.warmReset, hp]
  exact Store.get_mapVals Stack.init (fun x => { x with queue := [] }) rfl s.hbmStacks n

theorem State.portAt_warmReset (hp : s.powered = true) (p : Nat) :
    s.warmReset.portAt p = { Port.init with epoch := (s.portAt p).epoch } := by
  rw [State.warmReset, hp]
  exact Store.get_mapVals Port.init (fun x => { Port.init with epoch := x.epoch }) rfl s.fabric.ports p

theorem State.dieAt_warmReset (hp : s.powered = true) (d : Nat) : s.warmReset.dieAt d = (s.dieAt d).afterReset := by
  rw [State.warmReset, hp]
  exact Store.get_mapVals Die.init Die.afterReset rfl s.dies d

/-- The three events that reset a device with power do the same. -/
theorem exec_of_resets {i : Instr} (h : i = .reset ∨ i = .cxlReset ∨ i = .cxlLinkLoss) : exec i s = .next s.warmReset := by
  rcases h with rfl | rfl | rfl <;> rfl

/-- A warm reset abandons what the device had begun, and keeps HBM cells, host memory, link epochs and what was retired. -/
theorem resets_leave (hp : s.powered = true) {i : Instr} (hi : i = .reset ∨ i = .cxlReset ∨ i = .cxlLinkLoss) :
    ∃ t : State, exec i s = .next t ∧ t.host.state = 1 ∧ t.host.mem = s.host.mem ∧ t.core = Core.init ∧ t.others = [] ∧
      t.contexts = [] ∧ t.recs = [] ∧ t.keys = [] ∧ t.launches = [] ∧ t.reqs = [] ∧ t.host.kick = [] ∧ t.host.started = [] ∧
      (∀ n, (t.stackAt n).cells = (s.stackAt n).cells ∧ (t.stackAt n).repaired = (s.stackAt n).repaired ∧
        (t.stackAt n).queue = []) ∧
      (∀ p, (t.portAt p).epoch = (s.portAt p).epoch ∧ (t.portAt p).owners = []) ∧
      (∀ d, (t.dieAt d).streams = [] ∧ (t.dieAt d).words = [] ∧ (t.dieAt d).errlog = [] ∧
        (t.dieAt d).retired = (s.dieAt d).retired) := by
  have hreset : s.warmReset = _ := if_neg (Bool.eq_false_iff.1 (congrArg not hp))
  refine ⟨s.warmReset, exec_of_resets s hi, congrArg (·.host.state) hreset, congrArg (·.host.mem) hreset, congrArg (·.core) hreset,
    congrArg (·.others) hreset, congrArg (·.contexts) hreset, congrArg (·.recs) hreset, congrArg (·.keys) hreset,
    congrArg (·.launches) hreset, congrArg (·.reqs) hreset, congrArg (·.host.kick) hreset, congrArg (·.host.started) hreset,
    fun n => ?_, fun p => ?_, fun d => ?_⟩
  · rw [s.stackAt_warmReset hp]
    exact ⟨rfl, rfl, rfl⟩
  · rw [s.portAt_warmReset hp]
    exact ⟨rfl, rfl⟩
  · rw [s.dieAt_warmReset hp]
    exact ⟨rfl, rfl, rfl, rfl⟩

/-! ## Power (R402, R412) -/

theorem exec_powerUp : exec .powerUp s = .next (if s.powered then s else s.unpowered true) := rfl

theorem match_module {α : Type} (f : Form) (a b : α) : (match f with | .module_ => a | _ => b) = if f = .module_ then a else b := by
  cases f <;> rfl

/-- Only a module removes its own power. -/
theorem exec_thermalShutdown : exec .thermalShutdown s =
    .next (if s.form = .module_ then (if s.powered then s.unpowered false else s) else s) := by
  change execThermalShutdown s = _
  exact congrArg Host.Outcome.next (match_module ..)

/-! ## Clocks (R343, R412) -/

/-- A square whose clock throttling leaves alone. -/
def State.unthrottled (s : State) : Bool := s.squareFixed s.unit || decide ((s.squareAt s.unit).mhz < 1050)

/-- A droop that stretches no clock. -/
def State.unstretched (s : State) (n : Nat) : Bool := s.squareFixed s.unit || decide (n = 0) || decide (8 < n)

section
variable (hd : s.diePresent (s.unit / 4) = true)
include hd

theorem exec_powerLimitThrottle : exec .powerLimitThrottle s = .next (if s.form = .module_ then (if s.unthrottled then s
    else s.setSquare s.unit { s.squareAt s.unit with mhz := (s.squareAt s.unit).mhz - 50 }) else s) := by
  change execPowerLimitThrottle s = _
  exact (if_pos hd).trans (congrArg Host.Outcome.next (match_module ..))

theorem exec_droopStretch (n : Nat) : exec (.droopStretch n) s =
    .next (if s.unstretched n then s else s.setSquare s.unit { s.squareAt s.unit with stretch := n }) := by
  change execDroopStretch n s = _
  exact if_pos hd

end

end

/-- Settles O46: what the resets, the loss of power and the events of the clocks leave. -/
theorem resetsAndPower : Obligations.ResetsAndPower := by
  refine ⟨fun s hp i hi => resets_leave s hp hi,
    fun s => ⟨fun hp => (exec_powerUp s).trans (congrArg _ (if_pos hp)),
      fun hp => ⟨s.unpowered true, (exec_powerUp s).trans (congrArg _ (if_neg (Bool.eq_false_iff.1 hp))), rfl, rfl, rfl, rfl, rfl, rfl⟩,
      fun hf hp => ⟨s.unpowered false, (exec_thermalShutdown s).trans (congrArg _ ((if_pos hf).trans (if_pos hp))),
        rfl, rfl, rfl, rfl, rfl⟩,
      fun hf => (exec_thermalShutdown s).trans (congrArg _ (if_neg hf))⟩,
    fun s hd => ?clocks⟩
  case clocks =>
    intro x
    refine ⟨fun hf hfix hmhz => (exec_powerLimitThrottle s hd).trans (congrArg _ ((if_pos hf).trans (if_neg ?slower))),
      fun h => (exec_powerLimitThrottle s hd).trans (congrArg _ ((if_congr Iff.rfl (if_pos ?fixed) rfl).trans (ite_self _))),
      fun n h1 h8 hfix => (exec_droopStretch s hd n).trans (congrArg _ (if_neg ?droop)),
      fun n hfix => (exec_droopStretch s hd n).trans (congrArg _ (if_pos ?steady))⟩
    case slower => exact Bool.eq_false_iff.1 (Bool.or_eq_false_iff.2 ⟨hfix, decide_eq_false (Nat.not_lt.2 hmhz)⟩)
    case fixed => exact Bool.or_eq_true_iff.2 (h.imp_right decide_eq_true)
    case droop =>
      exact Bool.eq_false_iff.1 (Bool.or_eq_false_iff.2 ⟨Bool.or_eq_false_iff.2 ⟨hfix, decide_eq_false (Nat.ne_of_gt h1)⟩,
        decide_eq_false (Nat.not_lt.2 h8)⟩)
    case steady => exact Bool.or_eq_true_iff.2 (.inl (Bool.or_eq_true_iff.2 (.inl hfix)))

end Sys2Proof.Machine
end

/-! PROOFS. Kick registers, the registers of BAR0, firmware, training and service slots (spec/20_package_host_firmware.md R401 to R406). -/
section
namespace Sys2Proof.Machine

/-! ## Kick registers (R406) -/

section
variable (s : State)

theorem exec_kick {slot q : Nat} (hslot : slot < 256) (hq : q < 64) (hp : s.powered = true) (size v : Nat) :
    exec (.kick slot q size v) s = .next (s.kickWrite slot q size v) := by
  change execKick slot q size v s = _
  exact (if_pos ⟨hslot, hq⟩).trans (congrArg Host.Outcome.next (if_pos hp))

/-- A kick register after a 4-byte write: the write is taken where it is ahead of the register (R406). -/
def kickMerge (old v : Nat) : Nat := if (v % 2 ^ 32 + 2 ^ 32 - old) % 2 ^ 32 < 2 ^ 31 then v % 2 ^ 32 else old

/-- A 4-byte write changes kick registers alone. -/
theorem State.kickWrite_eq (slot q v : Nat) : ∃ kick : Store Nat, s.kickWrite slot q 4 v = s.mapHost (fun h => { h with kick := kick }) ∧
    ∀ j, Store.get 0 kick j = if j = queueKey slot q then kickMerge (Store.get 0 s.host.kick (queueKey slot q)) v
      else Store.get 0 s.host.kick j := by
  have hfour : s.kickWrite slot q 4 v = if _ then _ else s := if_neg (not_not.2 rfl)
  by_cases hahead : (v % 2 ^ 32 + 2 ^ 32 - Store.get 0 s.host.kick (queueKey slot q)) % 2 ^ 32 < 2 ^ 31
  · exact ⟨_, hfour.trans (if_pos hahead), fun j => (Store.get_set ..).trans (if_congr Iff.rfl (if_pos hahead).symm rfl)⟩
  · refine ⟨s.host.kick, hfour.trans (if_neg hahead), fun j => ?_⟩
    split
    · rename_i hj
      exact (congrArg (Store.get 0 s.host.kick) hj).trans (if_neg hahead).symm
    · rfl

/-! ## The registers of BAR0 (R401) -/

/-- What a write to BAR0 comes to, by the register that it reaches. -/
def State.registerWritten (s : State) (off size v : Nat) : State :=
  if off = 0x8 ∧ size = 8 ∧ s.host.state = 1 then s.mapHost fun h => { h with fwbase := BitVec.ofNat 64 v }
  else if off = 0x10 ∧ size = 4 ∧ v = 1 then s.fwGo
  else if off = 0x18 ∧ size = 4 ∧ v = 0x52455354 then s.warmReset
  else if 0x10000 ≤ off ∧ off < 0x20000 then
    (if off % 4 = 0 ∨ size ≠ 4 then s.kickWrite ((off - 0x10000) / 256) (off % 256 / 4) size v else s)
  else s

theorem exec_registerWrite (off size v : Nat) (hp : s.powered = true) :
    exec (.registerWrite off size v) s = .next (s.registerWritten off size v) := by
  change execRegisterWrite off size v s = _
  exact congrArg Host.Outcome.next (if_neg (Bool.eq_false_iff.1 (congrArg not hp)))

theorem exec_fwgo (hp : s.powered = true) : exec .fwgo s = .next s.fwGo := by
  change execFwgo s = _
  exact congrArg Host.Outcome.next (if_pos hp)

section
variable {off size v : Nat}

theorem State.registerWritten_fwbase (hstate : s.host.state ≠ 1) : s.registerWritten 0x8 size v = s :=
  (if_neg fun h => hstate h.2.2).trans ((if_neg (by simp)).trans ((if_neg (by simp)).trans (if_neg (by simp))))

theorem State.registerWritten_fwgo : s.registerWritten 0x10 4 1 = s.fwGo := (if_neg (by simp)).trans (if_pos ⟨rfl, rfl, rfl⟩)

theorem State.registerWritten_reset : s.registerWritten 0x18 4 0x52455354 = s.warmReset :=
  (if_neg (by simp)).trans ((if_neg (by simp)).trans (if_pos ⟨rfl, rfl, rfl⟩))

variable (hlo : 0x10000 ≤ off) (hhi : off < 0x20000)
include hlo hhi

omit hhi in
theorem ne_of_kick {n : Nat} (hn : n < 0x10000) : off ≠ n := Nat.ne_of_gt (Nat.lt_of_lt_of_le hn hlo)

theorem State.registerWritten_kick : s.registerWritten off size v =
    if off % 4 = 0 ∨ size ≠ 4 then s.kickWrite ((off - 0x10000) / 256) (off % 256 / 4) size v else s :=
  (if_neg fun h => ne_of_kick hlo (by decide) h.1).trans ((if_neg fun h => ne_of_kick hlo (by decide) h.1).trans
    ((if_neg fun h => ne_of_kick hlo (by decide) h.1).trans (if_pos ⟨hlo, hhi⟩)))

theorem kick_slot_lt : (off - 0x10000) / 256 < 256 := Nat.div_lt_of_lt_mul (Nat.sub_lt_left_of_lt_add hlo hhi)

omit hlo hhi in
theorem kick_queue_lt (off : Nat) : off % 256 / 4 < 64 := Nat.div_lt_of_lt_mul (Nat.mod_lt off (by decide))

end

theorem registers_act (off size v : Nat) (hp : s.powered = true) :
    (off = 0x8 → size = 8 → s.host.state = 1 →
      exec (.registerWrite off size v) s = .next { s with host := { s.host with fwbase := BitVec.ofNat 64 v } }) ∧
    (off = 0x8 → s.host.state ≠ 1 → exec (.registerWrite off size v) s = .next s) ∧
    (off = 0x10 → size = 4 → v = 1 → exec (.registerWrite off size v) s = exec .fwgo s) ∧
    (off = 0x18 → size = 4 → v = 0x52455354 → exec (.registerWrite off size v) s = exec .reset s) ∧
    (0x10000 ≤ off → off < 0x20000 → (off % 4 = 0 ∨ size ≠ 4) →
      exec (.registerWrite off size v) s = exec (.kick ((off - 0x10000) / 256) (off % 256 / 4) size v) s) ∧
    (0x10000 ≤ off → off < 0x20000 → off % 4 ≠ 0 → size = 4 → exec (.registerWrite off size v) s = .next s) := by
  refine ⟨fun h hsize hstate => (exec_registerWrite s off size v hp).trans (congrArg Host.Outcome.next (if_pos ⟨h, hsize, hstate⟩)),
    fun h hstate => (exec_registerWrite s off size v hp).trans (congrArg Host.Outcome.next ?_),
    fun h hsize hv => (exec_registerWrite s off size v hp).trans ((congrArg Host.Outcome.next ?_).trans (exec_fwgo s hp).symm),
    fun h hsize hv => (exec_registerWrite s off size v hp).trans (congrArg Host.Outcome.next ?_),
    fun hlo hhi h => (exec_registerWrite s off size v hp).trans ((congrArg Host.Outcome.next
      ((s.registerWritten_kick hlo hhi).trans (if_pos h))).trans
        (exec_kick s (kick_slot_lt hlo hhi) (kick_queue_lt off) hp size v).symm),
    fun hlo hhi h hsize => (exec_registerWrite s off size v hp).trans (congrArg Host.Outcome.next
      ((s.registerWritten_kick hlo hhi).trans (if_neg (not_or.2 ⟨h, not_not.2 hsize⟩))))⟩
  · exact h ▸ s.registerWritten_fwbase hstate
  · exact h ▸ hsize ▸ hv ▸ s.registerWritten_fwgo
  · exact h ▸ hsize ▸ hv ▸ s.registerWritten_reset

section
variable {c q : Nat} (hc : c < 256) (hq : q < 64)

theorem kickOff_le : 0x10000 ≤ 0x10000 + 256 * c + 4 * q := (Nat.le_add_right ..).trans (Nat.le_add_right ..)

theorem kickOff_aligned : (0x10000 + 256 * c + 4 * q) % 4 = 0 :=
  Nat.mod_eq_zero_of_dvd (Nat.dvd_add (Nat.dvd_add (by decide) (Dvd.dvd.mul_right (by decide) c)) (Nat.dvd_mul_right 4 q))

include hq in
theorem kickOff_part : 4 * q < 256 := Nat.mul_lt_mul_of_pos_left hq (by decide)

include hq in
theorem kickOff_queue : (0x10000 + 256 * c + 4 * q) % 256 / 4 = q :=
  have hmod : (0x10000 + 256 * c + 4 * q) % 256 = 4 * q :=
    (congrArg (fun n => (n + 4 * q) % 256) (Nat.mul_add 256 256 c).symm).trans
      ((Nat.mul_add_mod ..).trans (Nat.mod_eq_of_lt (kickOff_part hq)))
  (congrArg (· / 4) hmod).trans (Nat.mul_div_cancel_left q (by decide))

include hq in
theorem kickOff_slot : (0x10000 + 256 * c + 4 * q - 0x10000) / 256 = c :=
  (congrArg (· / 256) ((congrArg (· - 0x10000) (Nat.add_assoc ..)).trans (Nat.add_sub_cancel_left ..))).trans
    ((Nat.mul_add_div (by decide) c (4 * q)).trans (congrArg (c + ·) (Nat.div_eq_of_lt (kickOff_part hq))))

include hc hq

theorem kickOff_lt : 0x10000 + 256 * c + 4 * q < 0x20000 :=
  Nat.lt_of_le_of_lt (Nat.add_le_add (Nat.add_le_add_left (Nat.mul_le_mul_left 256 (Nat.le_of_lt_succ hc)) 0x10000)
    (Nat.mul_le_mul_left 4 (Nat.le_of_lt_succ hq))) (by decide)

/-- A read of a kick register returns it. -/
theorem State.bar0_kick : s.bar0 (0x10000 + 256 * c + 4 * q) = some (Store.get 0 s.host.kick (c * 64 + q)) :=
  (if_neg (ne_of_kick kickOff_le (by decide))).trans ((if_neg (ne_of_kick kickOff_le (by decide))).trans
    ((if_pos ⟨kickOff_le, kickOff_lt hc hq, kickOff_aligned⟩).trans
      (congrArg (fun n => some (Store.get 0 s.host.kick n)) (congr (congrArg queueKey (kickOff_slot hq)) (kickOff_queue hq)))))

end

/-! ## Firmware (R402, R403) -/

/-- Loading firmware changes dies alone. -/
theorem State.loadFw_foldl_keeps (ds : List Nat) (image : List Byte) :
    (ds.foldl (fun s d => s.loadFw d image) s).core = s.core ∧ (ds.foldl (fun s d => s.loadFw d image) s).host = s.host ∧
      (ds.foldl (fun s d => s.loadFw d image) s).recs = s.recs := by
  induction ds generalizing s with
  | nil => exact ⟨rfl, rfl, rfl⟩
  | cons d ds ih => exact ih (s.loadFw d image)

theorem State.fwImage_loadFw (d : Nat) (image : List Byte) : ((s.loadFw d image).dieAt d).fwImage = image :=
  congrArg Die.fwImage ((State.dieAt_mapDie ..).trans (if_pos rfl))

theorem State.fwImage_loadFw_of_eq (d e : Nat) {image : List Byte} (h : (s.dieAt e).fwImage = image) :
    ((s.loadFw d image).dieAt e).fwImage = image := by
  by_cases he : e = d
  · subst he
    exact s.fwImage_loadFw e image
  · exact (congrArg Die.fwImage ((State.dieAt_mapDie ..).trans (if_neg he))).trans h

theorem State.fwImage_loadFw_foldl_of_eq (ds : List Nat) {image : List Byte} {d : Nat} (h : (s.dieAt d).fwImage = image) :
    ((ds.foldl (fun s d => s.loadFw d image) s).dieAt d).fwImage = image := by
  induction ds generalizing s with
  | nil => exact h
  | cons e ds ih => exact ih _ (s.fwImage_loadFw_of_eq e d h)

/-- Each of some dies has the image that they are loaded with. -/
theorem State.fwImage_loadFw_foldl {ds : List Nat} (image : List Byte) {d : Nat} (hd : d ∈ ds) :
    ((ds.foldl (fun s d => s.loadFw d image) s).dieAt d).fwImage = image := by
  induction hd generalizing s with
  | head ds => exact State.fwImage_loadFw_foldl_of_eq _ ds (s.fwImage_loadFw d image)
  | tail e _ ih => exact ih _

theorem State.fwGo_keeps (hstate : s.host.state ≠ 1) : s.fwGo = s :=
  if_pos hstate

/-- What the device is told of an image that verifies. -/
abbrev State.fwTold (s : State) : State := s.mapHost fun x => { x with
  state := 3, fail := 0, svn := ofBytes (s.host.mem.readN (s.host.fwbase.toNat + 8) 4)
  fwVer := ofBytes (s.host.mem.readN (s.host.fwbase.toNat + 12) 4) }

/-- An image that verifies goes to every die. -/
theorem State.fwGo_verified (hstate : s.host.state = 1) (h : fwCheck s.host.mem s.host.fwbase.toNat = 0) :
    s.fwGo = ([0, 1, 2, 3].filter s.diePresent).foldl
      (fun t d => t.loadFw d (fwBytes s.host.mem s.host.fwbase.toNat)) s.fwTold := by
  rw [State.fwGo, if_neg (not_not.2 hstate)]
  dsimp only
  rw [h]
  rfl

/-- A die that holds an image. -/
def Die.withImage (image : List Byte) (x : Die) : Die := { x with fwImage := image }

/-- An image that fails its check stays in the first die. -/
theorem State.fwGo_failed (hstate : s.host.state = 1) {n : Nat} (hn : n ≠ 0)
    (h : fwCheck s.host.mem s.host.fwbase.toNat = n) :
    s.fwGo = (s.mapDie 0 (Die.withImage (fwBytes s.host.mem s.host.fwbase.toNat))).mapHost fun x =>
      { x with state := 5, fail := n } := by
  rw [State.fwGo, if_neg (not_not.2 hstate)]
  dsimp only
  rw [h]
  cases n with
  | zero => exact absurd rfl hn
  | succ n => rfl

/-- FWGO changes the dies and what the host sees. -/
theorem State.fwGo_leaves (hstate : s.host.state = 1) :
    s.fwGo.core = s.core ∧ s.fwGo.host.mem = s.host.mem ∧ s.fwGo.recs = s.recs := by
  by_cases hn : fwCheck s.host.mem s.host.fwbase.toNat = 0
  · obtain ⟨hcore, hhost, hrecs⟩ := s.fwTold.loadFw_foldl_keeps ([0, 1, 2, 3].filter s.diePresent)
      (fwBytes s.host.mem s.host.fwbase.toNat)
    rw [s.fwGo_verified hstate hn]
    exact ⟨hcore, (congrArg HostSide.mem hhost).trans rfl, hrecs⟩
  · rw [s.fwGo_failed hstate hn rfl]
    exact ⟨rfl, rfl, rfl⟩

/-- FWGO in STATE 1 verifies the image (R402). -/
theorem fwgo_verifies (hp : s.powered = true) (hstate : s.host.state = 1) :
    let n := fwCheck s.host.mem s.host.fwbase.toNat
    ∃ t : State, exec .fwgo s = .next t ∧ t.core = s.core ∧ t.host.mem = s.host.mem ∧ t.recs = s.recs ∧
      (n = 0 → t.host.state = 3 ∧ t.host.fwVer = ofBytes (s.host.mem.readN (s.host.fwbase.toNat + 12) 4) ∧
        t.host.svn = ofBytes (s.host.mem.readN (s.host.fwbase.toNat + 8) 4) ∧
        ∀ d, d < 4 → s.diePresent d = true → (t.dieAt d).fwImage = fwBytes s.host.mem s.host.fwbase.toNat) ∧
      (n ≠ 0 → t.host.state = 5 ∧ t.host.fail = n ∧ (t.dieAt 0).fwImage = fwBytes s.host.mem s.host.fwbase.toNat ∧
        ∀ d, d ≠ 0 → t.dieAt d = s.dieAt d) := by
  intro n
  have hkeeps := s.fwGo_leaves hstate
  refine ⟨s.fwGo, exec_fwgo s hp, hkeeps.1, hkeeps.2.1, hkeeps.2.2, fun hn => ?_, fun hn => ?_⟩
  · have hgo := s.fwGo_verified hstate hn
    have hhost := (congrArg State.host hgo).trans (s.fwTold.loadFw_foldl_keeps _ _).2.1
    refine ⟨congrArg HostSide.state hhost, congrArg HostSide.fwVer hhost, congrArg HostSide.svn hhost, fun d hd hpresent => ?_⟩
    exact (congrArg (fun t => (State.dieAt t d).fwImage) hgo).trans
      (State.fwImage_loadFw_foldl _ _ (List.mem_filter.2 ⟨List.mem_range (n := 4).2 hd, hpresent⟩))
  · have hgo := s.fwGo_failed hstate hn rfl
    have hdie (d : Nat) := (congrArg (State.dieAt · d) hgo).trans (State.dieAt_mapDie s 0 d (Die.withImage (fwBytes s.host.mem s.host.fwbase.toNat)))
    exact ⟨congrArg (·.host.state) hgo, congrArg (·.host.fail) hgo, congrArg Die.fwImage ((hdie 0).trans (if_pos rfl)),
      fun d hd => (hdie d).trans (if_neg hd)⟩

/-! ## Training (R403) -/

/-- Each of some different ports is changed once. -/
theorem State.portAt_mapPorts_nodup (f : Port → Port) {ps : List Nat} (hps : ps.Nodup) (q : Nat) :
    (s.mapPorts f ps).portAt q = if q ∈ ps then f (s.portAt q) else s.portAt q := by
  induction ps generalizing s with
  | nil => simp [State.mapPorts]
  | cons p ps ih =>
    obtain ⟨hp, hps⟩ := List.nodup_cons.1 hps
    rw [State.mapPorts, List.foldl_cons, ← State.mapPorts, ih _ hps, State.portAt_setPort]
    by_cases hq : q = p
    · subst hq
      simp [hp]
    · simp [hq]

theorem State.mapPorts_host (f : Port → Port) (ps : List Nat) : (s.mapPorts f ps).host = s.host := by
  induction ps generalizing s with
  | nil => rfl
  | cons p ps ih => exact ih _

/-- The ports of the device. -/
theorem State.mem_ports {p : Nat} : p ∈ (List.range (scalePorts + 4)).filter s.hasPort ↔ s.hasPort p = true := by
  rw [List.mem_filter, List.mem_range, and_iff_right_iff_imp]
  intro h
  rw [State.hasPort, Bool.and_eq_true, decide_eq_true_eq] at h
  exact h.1

theorem exec_training_early (hstate : s.host.state ≠ 3) : exec .training s = .next s := by
  change execTraining s = _
  rw [execTraining, if_pos hstate]

/-- Training gives key slot 0 a key, trains the ports and comes to STATE 4. -/
theorem training_leaves (hstate : s.host.state = 3) :
    ∃ t : State, exec .training s = .next t ∧ t.host.state = 4 ∧ (Store.get KeySlot.empty t.keys 0).valid = true ∧
      (Store.get KeySlot.empty t.keys 0).owner = 0 ∧ (∀ n, n ≠ 0 → Store.get KeySlot.empty t.keys n = Store.get KeySlot.empty s.keys n) ∧
      (∀ p, t.portAt p = if s.hasPort p then (s.portAt p).trained else s.portAt p) ∧ t.core = s.core ∧ t.host.mem = s.host.mem := by
  have hports := s.portAt_mapPorts_nodup Port.trained (List.nodup_range.filter s.hasPort (l := List.range (scalePorts + 4)))
  have hhost := s.mapPorts_host Port.trained ((List.range (scalePorts + 4)).filter s.hasPort)
  obtain ⟨hkeys, hcore⟩ := s.mapPorts_keeps Port.trained ((List.range (scalePorts + 4)).filter s.hasPort)
  have hexec : exec .training s = _ := congrArg Host.Outcome.next (if_neg (not_not.2 hstate))
  refine ⟨_, hexec, rfl, ?_, ?_, fun n hn => ?_, fun p => ?_, hcore, congrArg (·.mem) hhost⟩
  · dsimp only
    rw [Store.get_set_self]
  · dsimp only
    rw [Store.get_set_self]
  · dsimp only
    rw [Store.get_set_ne _ _ _ hn]
    exact congrArg (Store.get KeySlot.empty · n) hkeys
  · refine (hports p).trans ?_
    simp only [State.mem_ports]

/-! ## Service slots (R404) -/

/-- The queue that a service slot owns, where that has packets. -/
def State.ownQueue (s : State) (x : Die) : Option Nat :=
  match Store.get none x.slotTable x.serviceSlot with
  | some (c, q) => if s.pending (queueKey c q) ≠ 0 then some (queueKey c q) else none
  | none => none

/-- A queue is served, where there is one. -/
def State.serveFound (z : State) (o : Option Nat) : State := match o with | some q => z.serve q | none => z

theorem exec_serviceSlot (hd : s.diePresent s.unit = true) : exec .serviceSlot s = .next
    (if s.host.state ≠ 4 then s
     else (s.setDie s.unit { s.dieAt s.unit with serviceSlot := ((s.dieAt s.unit).serviceSlot + 1) % 32 }).serveFound
       ((s.ownQueue (s.dieAt s.unit)).or s.bestQueue)) := by
  change execServiceSlot s = _
  exact atDie_next _ hd

section
variable {s : State} {x : Die}

theorem State.ownQueue_some {c q : Nat} (h : Store.get none x.slotTable x.serviceSlot = some (c, q))
    (hpending : s.pending (queueKey c q) ≠ 0) : s.ownQueue x = some (queueKey c q) := by
  rw [State.ownQueue, h]
  exact if_pos hpending

theorem State.ownQueue_none
    (h : ∀ c q, Store.get none x.slotTable x.serviceSlot = some (c, q) → s.pending (queueKey c q) = 0) : s.ownQueue x = none := by
  rw [State.ownQueue]
  cases hslot : Store.get none x.slotTable x.serviceSlot with
  | none => rfl
  | some e => exact if_neg (not_not.2 (h e.1 e.2 hslot))

end

/-- A service slot serves its own queue where that has packets, and the best one otherwise. -/
theorem serviceSlot_serves (hd : s.diePresent s.unit = true) (hstate : s.host.state = 4) :
    let x := s.dieAt s.unit
    let z := s.setDie s.unit { x with serviceSlot := (x.serviceSlot + 1) % 32 }
    (∀ c q, Store.get none x.slotTable x.serviceSlot = some (c, q) → s.pending (queueKey c q) ≠ 0 →
      exec .serviceSlot s = .next (z.serve (queueKey c q))) ∧
    ((∀ c q, Store.get none x.slotTable x.serviceSlot = some (c, q) → s.pending (queueKey c q) = 0) → exec .serviceSlot s = .next
      (match s.bestQueue with | some q => z.serve q | none => z)) := by
  intro x z
  have hserve : exec .serviceSlot s = .next (z.serveFound ((s.ownQueue x).or s.bestQueue)) :=
    (exec_serviceSlot s hd).trans (congrArg Host.Outcome.next (if_neg (not_not.2 hstate)))
  exact ⟨fun c q hslot hpending => hserve.trans
      (congrArg (fun o => Host.Outcome.next (z.serveFound (o.or s.bestQueue))) (State.ownQueue_some hslot hpending)),
    fun hempty => hserve.trans
      (congrArg (fun o => Host.Outcome.next (z.serveFound (o.or s.bestQueue))) (State.ownQueue_none hempty))⟩

end

/-- Settles O45: kick registers merge, and each host register acts in its STATE alone. -/
theorem hostRegistersAct : Obligations.HostRegistersAct := by
  refine ⟨fun slot q v s hslot hq hp => ?kick, fun off size v s hp => registers_act s off size v hp,
    fun s => ⟨rfl, rfl, rfl, rfl, fun c q hc hq => s.bar0_kick hc hq⟩,
    fun s hp => ⟨fun h => (exec_fwgo s hp).trans (congrArg _ (s.fwGo_keeps h)), fwgo_verifies s hp⟩,
    fun s => ⟨exec_training_early s, training_leaves s⟩,
    fun s hd => ⟨fun h => (exec_serviceSlot s hd).trans (congrArg _ (if_pos h)), serviceSlot_serves s hd⟩⟩
  case kick =>
    intro old
    have ⟨kick, heq, hkick⟩ := s.kickWrite_eq slot q v
    exact ⟨_, (exec_kick s hslot hq hp 4 v).trans (congrArg _ heq), (hkick _).trans (if_pos rfl), fun j hj => (hkick j).trans (if_neg hj),
      rfl, rfl, rfl⟩

end Sys2Proof.Machine
end

/-! PROOFS. Service commands (spec/20_package_host_firmware.md R402, R409, R411): firmware, repair, ports, hearths and events. -/
section
namespace Sys2Proof.Machine

section
variable {s : State} {k : Packet}

/-! ## Checks of a command (R409) -/

theorem Cmd.ends_check_true {self : Instr} {ok : Bool} {status : Nat} {t : State} {c : Cmd} (h : ok = true) :
    (Cmd.check ok status t c).ends self k = c.ends self k :=
  (Cmd.ends_check ..).trans (if_pos h)

theorem Cmd.ends_check_false {self : Instr} {ok : Bool} {status : Nat} {t : State} {c : Cmd} (h : ok = false) :
    (Cmd.check ok status t c).ends self k = t.answers self k status :=
  (Cmd.ends_check ..).trans (if_neg (Bool.eq_false_iff.1 h))

theorem command_serves_ofCtx {self : Instr} {f : State → Context → Cmd} {id : Nat} {c : Context} (h : s.serves self k)
    (hc : (s.flushed k).ctx? id = some c) :
    (command self k s fun z => z.ofCtx id (f z)) = (f (s.flushed k) c).ends self k :=
  (command_serves h).trans (congrArg (Cmd.ends self k) (State.ofCtx_some hc))

theorem Cmd.ends_ite {self : Instr} {p : Prop} [Decidable p] {c d : Cmd} :
    (if p then c else d : Cmd).ends self k = if p then c.ends self k else d.ends self k :=
  apply_ite _ _ _ _

theorem imp_bool {a b : Bool} (h : a = true → b = true) : (!a || b) = true := by
  cases a
  · rfl
  · exact h rfl

/-! ## Firmware (R402, R411) -/

/-- A die takes an image where it is idle and the image is the device's own. -/
theorem exec_dieFirmwareReload {die addr : Nat} (h : s.serves (.dieFirmwareReload k die addr) k)
    (hd : (s.flushed k).diePresent die = true) :
    let z := s.flushed k
    let idle := ((z.dieAt die).streams.all fun e => e.2.isNone) && (dieHearths die).all fun h => (z.coreAt h).mode == .free
    let ver := ofBytes (z.host.mem.readN (addr + 12) 4)
    exec (.dieFirmwareReload k die addr) s =
      if idle ∧ fwCheck z.host.mem addr = 0 ∧ ver = z.host.fwVer then
        State.answers (z.loadFw die (fwBytes z.host.mem addr)) (.dieFirmwareReload k die addr) k 0
      else z.answers (.dieFirmwareReload k die addr) k 0x04 := by
  intro z idle ver
  change execDieFirmwareReload k die addr s = _
  refine (command_serves h).trans ((Cmd.ends_check_true hd).trans ((Cmd.ends_check ..).trans (if_congr ?_ rfl rfl)))
  exact Bool.and_eq_true_iff.trans ((and_congr_left fun _ => Bool.and_eq_true_iff).trans (and_assoc.trans
    (and_congr_right fun _ => and_congr beq_iff_eq beq_iff_eq)))

/-! ## Repair (R411) -/

theorem State.stackAt_setStack (s : State) (n q : Nat) (x : Stack) :
    (s.setStack n x).stackAt q = if q = n then x else s.stackAt q := Store.get_set _ _ _ _ _

/-- Pages are taken out of use in both stacks of a die. -/
theorem State.stackAt_takeOut_first (s : State) (d first count : Nat) : ((s.takeOut d first count).stackAt (2 * d)).repaired =
    (s.stackAt (2 * d)).repaired ++ [(first, count)] :=
  congrArg Stack.repaired ((State.stackAt_setStack ..).trans ((if_neg (Nat.ne_of_lt (Nat.lt_succ_self _))).trans
    ((State.stackAt_setStack ..).trans (if_pos rfl))))

theorem State.stackAt_takeOut_second (s : State) (d first count : Nat) : ((s.takeOut d first count).stackAt (2 * d + 1)).repaired =
    (s.stackAt (2 * d + 1)).repaired ++ [(first, count)] :=
  (congrArg Stack.repaired ((State.stackAt_setStack ..).trans (if_pos rfl))).trans
    (congrArg (fun x : Stack => x.repaired ++ [(first, count)]) ((State.stackAt_setStack ..).trans (if_neg (Nat.succ_ne_self _))))

theorem State.stackAt_takeOut_ne (s : State) {d q : Nat} (h0 : q ≠ 2 * d) (h1 : q ≠ 2 * d + 1) (first count : Nat) :
    (s.takeOut d first count).stackAt q = s.stackAt q :=
  (State.stackAt_setStack ..).trans ((if_neg h1).trans ((State.stackAt_setStack ..).trans (if_neg h0)))

/-- A range of pages in which nothing lies is taken out of use. -/
theorem exec_hbmRepair {die first count : Nat} (h : s.serves (.hbmRepair k die first count) k)
    (hd : (s.flushed k).diePresent die = true) (hcount : 0 < count) (hrange : first + count ≤ (s.flushed k).areaPages (.hbm die))
    (hfree : ∀ r ∈ (s.flushed k).recs, r.hits die first count = false) :
    exec (.hbmRepair k die first count) s =
      ((s.flushed k).takeOut die first count).answers (.hbmRepair k die first count) k 0 := by
  have hnone : (s.flushed k).recs.filter (fun r => r.hits die first count) = [] :=
    List.filter_eq_nil_iff.2 fun r hr => Bool.eq_false_iff.1 (hfree r hr)
  change execHbmRepair k die first count s = _
  refine (command_serves h).trans ((Cmd.ends_check_true (Bool.and_eq_true_iff.2 ⟨hd, decide_eq_true ⟨hcount, hrange⟩⟩)).trans ?_)
  rw [hnone]
  rfl

/-! ## Ports (R411) -/

/-- Some port of the device retrains. -/
def State.retrains (s : State) : Bool := (List.range (scalePorts + 4)).any fun p => (s.portAt p).retraining.isSome

theorem State.retrains_iff (s : State) : s.retrains = true ↔ ∃ p, p < 68 ∧ (s.portAt p).retraining ≠ none :=
  List.any_eq_true.trans (exists_congr fun _ => and_congr List.mem_range Option.isSome_iff_ne_none)

/-- What the retraining of a port comes to: a port retrains in two executions, alone. -/
def State.portRetrained (z : State) (k : Packet) (port : Nat) : Cmd :=
  let me := some (k.slot, k.queue, k.index)
  if (z.portAt port).retraining = me then .done 0 (z.setPort port (z.portAt port).trained)
  else if z.retrains then .wait z
  else .wait (z.setPort port { z.portAt port with retraining := me })

theorem exec_portRetrain {port : Nat} (h : s.serves (.portRetrain k port) k) (hp : (s.flushed k).hasPort port = true) :
    exec (.portRetrain k port) s = ((s.flushed k).portRetrained k port).ends (.portRetrain k port) k := by
  change execPortRetrain k port s = _
  exact (command_serves h).trans (Cmd.ends_check_true hp)

/-! ## Hearths (R411) -/

/-- A mask without a hearth. -/
def maskWithout (h m : Nat) : Nat := if bit m (h % 64) then m - 2 ^ (h % 64) else m

/-- A partition without a hearth. -/
def Context.withoutHearth (h : Nat) (c : Context) : Context :=
  { c with masks := Store.set 0 c.masks (dieOf h) (maskWithout h (Store.get 0 c.masks (dieOf h)))
           newMask := Store.set none c.newMask (dieOf h) ((Store.get none c.newMask (dieOf h)).map (maskWithout h)) }

/-- A spare takes the place of a hearth. -/
def State.useSpare (s : State) (h : Nat) : State :=
  (s.setDie (dieOf h) { s.dieAt (dieOf h) with spares := (s.dieAt (dieOf h)).spares - 1 }).setCoreAt h Core.init

/-- A hearth leaves its die and every partition. -/
def State.retireHearth (s : State) (h : Nat) : State :=
  { s.setDie (dieOf h) { s.dieAt (dieOf h) with retired := (s.dieAt (dieOf h)).retired ++ [h] } with
    contexts := s.contexts.map (Context.withoutHearth h) }

/-- What the retirement of a hearth comes to: one that is free gives way to a spare, or leaves. -/
def State.hearthRetired (z : State) (k : Packet) (h : Nat) : Host.Outcome State Fault Refusal :=
  if (z.coreAt h).mode = .free then
    if (z.dieAt (dieOf h)).spares ≠ 0 then (z.useSpare h).answers (.hearthRetirement k h) k 0
    else (z.retireHearth h).answers (.hearthRetirement k h) k 0
  else z.answers (.hearthRetirement k h) k 0x05

theorem exec_hearthRetirement {h : Nat} (hs : s.serves (.hearthRetirement k h) k) (hh : (s.flushed k).hearthOk h = true) :
    exec (.hearthRetirement k h) s = (s.flushed k).hearthRetired k h := by
  change execHearthRetirement k h s = _
  exact (command_serves hs).trans ((Cmd.ends_check_true hh).trans ((Cmd.ends_check ..).trans
    (if_congr beq_iff_eq Cmd.ends_ite rfl)))

/-- A change of one hearth changes cores alone. -/
theorem State.setCoreAt_field {α : Type} {p : State → α}
    (hp : ∀ (t : State) (c : Core) (o : Store Core), p { t with core := c, others := o } = p t)
    (s : State) (h : Nat) (c : Core) : p (s.setCoreAt h c) = p s :=
  (apply_ite p ..).trans ((if_congr Iff.rfl (hp s _ s.others) (hp s s.core _)).trans (ite_self _))

theorem State.dieAt_useSpare (z : State) (h : Nat) :
    ((z.useSpare h).dieAt (dieOf h)).spares = (z.dieAt (dieOf h)).spares - 1 :=
  (State.setCoreAt_field (p := fun s => (s.dieAt (dieOf h)).spares) (fun _ _ _ => rfl) ..).trans
    (congrArg Die.spares (Store.get_set_self ..))

theorem State.coreAt_useSpare_self (z : State) (h : Nat) : (z.useSpare h).coreAt h = Core.init :=
  (State.coreAt_setCoreAt ..).trans (if_pos rfl)

theorem State.coreAt_useSpare_ne (z : State) {h g : Nat} (hg : g ≠ h) : (z.useSpare h).coreAt g = z.coreAt g :=
  (State.coreAt_setCoreAt ..).trans (if_neg hg)

theorem State.dieAt_retireHearth (z : State) (h : Nat) :
    ((z.retireHearth h).dieAt (dieOf h)).retired = (z.dieAt (dieOf h)).retired ++ [h] :=
  congrArg Die.retired (Store.get_set_self _ _ _ _)

/-! ## Events (R409) -/

/-- What an event read has for its buffer: the context's events, and then what the logs of the dies hold of it. -/
def State.eventWords (s : State) (id : Nat) (c : Context) : List (BitVec 64) :=
  c.events ++ [0, 1, 2, 3].flatMap fun d => (s.dieAt d).errlog.filter fun w => bits w.toNat 52 12 == id

/-- The state after an event read. -/
def State.readEvents (z t : State) (id : Nat) (c : Context) (b : Buffer) : State :=
  ((t.hostWrite b.addr (((z.eventWords id c).take (b.len / 8)).flatMap fun w => toBytes 8 w.toNat)).mapCtx id fun x =>
    { x with events := x.events.drop (min c.events.length (b.len / 8)) }).setFlag id
      ((c.events.drop (min c.events.length (b.len / 8))).any flagged)

/-- What an event read comes to, by whether its buffer is in reach. -/
def State.eventCmd (z : State) (id : Nat) (c : Context) (b : Buffer) : Attempt × State → Cmd
  | (.pending, t) => .wait t
  | (.fail, t) => .done 0x03 t
  | (.ok, t) => .done 0 (z.readEvents t id c b)

section
variable {z : State} {id : Nat} {c : Context} {b : Buffer} {a : Attempt × State}

theorem State.eventCmd_ok (h : a.1 = .ok) : z.eventCmd id c b a = .done 0 (z.readEvents a.2 id c b) := by
  obtain ⟨a, t⟩ := a
  subst h
  rfl

theorem State.eventCmd_fail (h : a.1 = .fail) : z.eventCmd id c b a = .done 0x03 a.2 := by
  obtain ⟨a, t⟩ := a
  subst h
  rfl

theorem State.eventCmd_pending (h : a.1 = .pending) : z.eventCmd id c b a = .wait a.2 := by
  obtain ⟨a, t⟩ := a
  subst h
  rfl

end

theorem exec_eventRead {id : Nat} {c : Context} {b : Buffer} {bs : List Buffer} (hbufs : k.bufs = b :: bs)
    (h : s.serves (.eventRead k id) k) (hc : (s.flushed k).ctx? id = some c) :
    exec (.eventRead k id) s =
      ((s.flushed k).eventCmd id c b ((s.flushed k).hostReach b.addr)).ends (.eventRead k id) k := by
  have hsome : (id == 0 || ((s.flushed k).ctx? id).isSome) = true := Bool.or_eq_true_iff.2 (.inr (congrArg Option.isSome hc))
  change execEventRead k id s = _
  refine (command_serves h).trans ?_
  rw [hbufs]
  refine (Cmd.ends_check_true hsome).trans (congrArg (Cmd.ends _ k) ?_)
  rw [hc]
  rcases (s.flushed k).hostReach b.addr with ⟨_ | _ | _, _⟩ <;> rfl

end

/-- Settles O44: each service command, once served, comes to its effect and status. -/
theorem serviceCommandsPerform : Obligations.ServiceCommandsPerform := by
  intro k s z
  refine ⟨fun die addr h hd => exec_dieFirmwareReload h hd, fun die first count h hd hcount hrange hfree => ⟨_,
      exec_hbmRepair h hd hcount hrange hfree, z.stackAt_takeOut_first .., z.stackAt_takeOut_second ..,
      fun q h0 h1 => z.stackAt_takeOut_ne h0 h1 .., rfl⟩,
    fun port h hp => ?port, fun x => ⟨rfl, rfl, rfl, rfl⟩, fun h hs hh => ?hearth, fun id c b bs hbufs h hc => ?events⟩
  case port =>
    intro me
    refine ⟨fun hme => (exec_portRetrain h hp).trans (congrArg (Cmd.ends _ k) (if_pos hme)),
      fun hme hother => (exec_portRetrain h hp).trans (congrArg (Cmd.ends _ k) ((if_neg hme).trans (if_pos (z.retrains_iff.2 hother)))),
      fun hnone => (exec_portRetrain h hp).trans (congrArg (Cmd.ends _ k) ((if_neg ?_).trans (if_neg ?_)))⟩
    · have hlt : port < 68 := of_decide_eq_true (Bool.and_eq_true_iff.1 hp).1
      exact fun hme => Option.some_ne_none _ (hme.symm.trans (hnone port hlt))
    · exact fun hother => (z.retrains_iff.1 hother).elim fun p hp => hp.2 (hnone p hp.1)
  case hearth =>
    exact ⟨fun hmode => (exec_hearthRetirement hs hh).trans (if_neg hmode),
      fun hmode hspares => ⟨z.useSpare h, (exec_hearthRetirement hs hh).trans ((if_pos hmode).trans (if_pos hspares)),
        z.coreAt_useSpare_self h, z.dieAt_useSpare h, fun g hg => z.coreAt_useSpare_ne hg⟩,
      fun hmode hspares => ⟨z.retireHearth h,
        (exec_hearthRetirement hs hh).trans ((if_pos hmode).trans (if_neg (not_not.2 hspares))),
        z.dieAt_retireHearth h ▸ List.mem_append_right _ (List.mem_singleton_self h), fun g => rfl⟩⟩
  case events =>
    intro logs n near
    exact ⟨fun hok => (exec_eventRead hbufs h hc).trans (congrArg (Cmd.ends _ k) (State.eventCmd_ok hok)),
      fun hfail => (exec_eventRead hbufs h hc).trans (congrArg (Cmd.ends _ k) (State.eventCmd_fail hfail)),
      fun hpending => (exec_eventRead hbufs h hc).trans (congrArg (Cmd.ends _ k) (State.eventCmd_pending hpending))⟩

end Sys2Proof.Machine
end

/-! PROOFS. Context, partition and stream commands (spec/20_package_host_firmware.md R405 to R409; spec/10 R263; spec/14 R318). -/
section
namespace Sys2Proof.Machine

section
variable {s : State} {k : Packet}

/-! ## Contexts (R405, R407, R409) -/

/-- A slot that no context holds. -/
def State.slotFree (s : State) (n : Nat) : Bool := !(s.contexts.any fun c => c.slot == n)

theorem State.slotFree_iff (s : State) (n : Nat) : s.slotFree n = true ↔ ∀ c ∈ s.contexts, c.slot ≠ n := by
  simp [State.slotFree]

/-- The slot that a context is given, where one is free. -/
def State.slotGiven (s : State) : Option Nat :=
  let slots := (List.range 256).filter s.slotFree
  slots[Config.choose s.free % slots.length]?

/-- A context is given a free slot, where one is. -/
theorem State.slotGiven_of_free {s : State} (h : ∃ n, n < 256 ∧ ∀ c ∈ s.contexts, c.slot ≠ n) :
    ∃ m, m < 256 ∧ (∀ c ∈ s.contexts, c.slot ≠ m) ∧ s.slotGiven = some m := by
  obtain ⟨n, hn, hfree⟩ := h
  have hmem : n ∈ (List.range 256).filter s.slotFree := List.mem_filter.2 ⟨List.mem_range.2 hn, (s.slotFree_iff n).2 hfree⟩
  have hlt := Nat.mod_lt (Config.choose s.free) (List.length_pos_of_mem hmem)
  obtain ⟨hrange, hm⟩ := List.mem_filter.1 (List.getElem_mem hlt)
  exact ⟨_, List.mem_range.1 hrange, (s.slotFree_iff _).1 hm, List.getElem?_eq_getElem hlt⟩

/-- What a context create that is served comes to, from the device whose buffers have been flushed. -/
def State.contextCreated (z : State) (k : Packet) (id : Nat) : Host.Outcome State Fault Refusal :=
  if 1 ≤ id ∧ id < 4096 then
    if (z.ctx? id).isNone then
      (z.slotGiven.elim (Cmd.done 0x03 z) fun n =>
        .done 0 { z with contexts := z.contexts ++ [Context.new id n], free := z.free + 1 }).ends (.contextCreate k id) k
    else z.answers (.contextCreate k id) k 0x05
  else z.answers (.contextCreate k id) k 0x02

theorem exec_contextCreate {id : Nat} (h : s.serves (.contextCreate k id) k) :
    exec (.contextCreate k id) s = (s.flushed k).contextCreated k id := by
  change execContextCreate k id s = _
  refine (command_serves h).trans ?_
  refine ((Cmd.ends_check ..).trans (if_congr decide_eq_true_iff ((Cmd.ends_check ..).trans ?_) rfl))
  refine if_congr Iff.rfl (congrArg (Cmd.ends _ _) ?_) rfl
  change (match (s.flushed k).slotGiven with | none => _ | some n => _ : Cmd) = _
  cases (s.flushed k).slotGiven <;> rfl

section
variable {id : Nat} (h : s.serves (.contextCreate k id) k) (hlo : 1 ≤ id) (hhi : id < 4096)
include h hlo hhi

theorem exec_contextCreate_held (hheld : ((s.flushed k).ctx? id).isSome = true) :
    exec (.contextCreate k id) s = (s.flushed k).answers (.contextCreate k id) k 0x05 :=
  (exec_contextCreate h).trans
    ((if_pos ⟨hlo, hhi⟩).trans (if_neg (by rw [Option.isNone_eq_false_iff.2 hheld]; exact Bool.false_ne_true)))

/-- A new context is given a free slot. -/
theorem exec_contextCreate_new (hnew : (s.flushed k).ctx? id = none)
    (hfree : ∃ n, n < 256 ∧ ∀ c ∈ (s.flushed k).contexts, c.slot ≠ n) :
    ∃ n, n < 256 ∧ (∀ c ∈ (s.flushed k).contexts, c.slot ≠ n) ∧ exec (.contextCreate k id) s =
      State.answers { s.flushed k with contexts := (s.flushed k).contexts ++ [Context.new id n], free := (s.flushed k).free + 1 }
        (.contextCreate k id) k 0 := by
  obtain ⟨m, hm, hfree', hgiven⟩ := State.slotGiven_of_free hfree
  refine ⟨m, hm, hfree', (exec_contextCreate h).trans ((if_pos ⟨hlo, hhi⟩).trans ((if_pos (Option.isNone_iff_eq_none.2 hnew)).trans ?_))⟩
  rw [hgiven]
  rfl

end

/-- A property of the four dies. -/
theorem dies_all {p : Nat → Bool} : ([0, 1, 2, 3].all p) = true ↔ ∀ d, d < 4 → p d = true :=
  List.all_eq_true.trans (forall_congr' fun _ => imp_congr (List.mem_range (n := 4)) Iff.rfl)

theorem exec_contextSet_streams {o : ContextSet} {c : Context} (h : s.serves (.contextSet k o) k)
    (hc : (s.flushed k).ctx? o.id = some c) (hstreams : (s.flushed k).streamsOf o.id ≠ []) :
    exec (.contextSet k o) s = (s.flushed k).answers (.contextSet k o) k 0x05 := by
  change execContextSet k o s = _
  refine (command_serves_ofCtx h hc).trans ?_
  exact Cmd.ends_check_false (Bool.eq_false_iff.2 (mt List.isEmpty_iff.1 hstreams))

/-- What a context set gives a context. -/
def Context.afterSet (o : ContextSet) (c : Context) : Context :=
  { c with fixed := bit o.mode 0, det := bit o.mode 1, adaptive := bit o.mode 2, raceEn := bit o.mode 3
           handler := bits o.mode 4 20, res := o.res, owner := o.owner, peers := o.peers }

theorem exec_contextSet {o : ContextSet} {c : Context} (h : s.serves (.contextSet k o) k)
    (hc : (s.flushed k).ctx? o.id = some c) (hstreams : (s.flushed k).streamsOf o.id = []) (hmode : o.mode < 2 ^ 24)
    (hres : Residency_ok o.res = true) (howner : ∀ n, o.owner = some n → n < 64) (hpeers : ∀ p ∈ o.peers, p.1 < 64)
    (hmasks : ∀ d, d < 4 → ∀ m ∈ Store.get 0 c.masks d :: (Store.get none c.newMask d).toList,
      (bit o.mode 0 = true → wholeSquares m = true) ∧ (s.flushed k).modeClear o.id d m (bit o.mode 0) = true) :
    exec (.contextSet k o) s = ((s.flushed k).mapCtx o.id (Context.afterSet o)).answers (.contextSet k o) k 0 := by
  have hmasks' : ([0, 1, 2, 3].all fun d => (Store.get 0 c.masks d :: (Store.get none c.newMask d).toList).all fun m =>
      (!bit o.mode 0 || wholeSquares m) && (s.flushed k).modeClear o.id d m (bit o.mode 0)) = true :=
    dies_all.2 fun d hd => List.all_eq_true.2 fun m hm =>
      Bool.and_eq_true_iff.2 ⟨imp_bool (hmasks d hd m hm).1, (hmasks d hd m hm).2⟩
  have hpeers' : (o.peers.all fun p => decide (p.1 < 64)) = true := List.all_eq_true.2 fun p hp => decide_eq_true (hpeers p hp)
  change execContextSet k o s = _
  refine (command_serves_ofCtx h hc).trans ?_
  refine (Cmd.ends_check_true (List.isEmpty_iff.2 hstreams)).trans ((Cmd.ends_check_true (decide_eq_true hmode)).trans
    ((Cmd.ends_check_true ?_).trans (Cmd.ends_check_true hmasks')))
  refine Bool.and_eq_true_iff.2 ⟨Bool.and_eq_true_iff.2 ⟨hres, ?_⟩, hpeers'⟩
  cases ho : o.owner with
  | none => rfl
  | some n => exact decide_eq_true (howner n ho)

/-- A context's streams stop and its tasks end before it leaves. -/
def State.endContext (s : State) (id : Nat) : State := ((s.streamsOf id).foldl (fun s e => s.setStream e.1 none) s).endTasks id

theorem exec_contextDestroy {id : Nat} {c : Context} (h : s.serves (.contextDestroy k id) k)
    (hc : (s.flushed k).ctx? id = some c) :
    exec (.contextDestroy k id) s =
      let y := (s.flushed k).endContext id
      if y.ctxBusy id || y.scans.any (fun j => j.ctx == id) then .next (y.keepStarted (.contextDestroy k id))
      else (y.freeContext c).answers (.contextDestroy k id) k 0 := by
  change execContextDestroy k id s = _
  exact (command_serves_ofCtx h hc).trans Cmd.ends_ite

/-! ## Partitions (R263, R408) -/

/-- A mask of a partition waits for its swap. -/
def State.swapsAhead (s : State) (id : Nat) : Bool :=
  match s.ctx? id with | some x => [0, 1, 2, 3].any fun d => (Store.get none x.newMask d).isSome | none => false

theorem noSwap {masks : Store (Option Nat)} (hnone : ∀ d, d < 4 → Store.get none masks d = none) :
    ([0, 1, 2, 3].any fun d => (Store.get none masks d).isSome) = false :=
  List.any_eq_false.2 fun d hd => Bool.eq_false_iff.1 (congrArg Option.isSome (hnone d (List.mem_range (n := 4).1 hd)))

theorem State.swapsAhead_true {z : State} {id d : Nat} {x : Context} (hx : z.ctx? id = some x) (hd : d < 4)
    (hwait : (Store.get none x.newMask d).isSome = true) : z.swapsAhead id = true := by
  rw [State.swapsAhead, hx]
  exact List.any_eq_true.2 ⟨d, List.mem_range (n := 4).2 hd, hwait⟩

theorem State.swapsAhead_false {z : State} {id : Nat}
    (hdone : ∀ x, z.ctx? id = some x → ∀ d, d < 4 → Store.get none x.newMask d = none) : z.swapsAhead id ≠ true := by
  rw [State.swapsAhead]
  cases hx : z.ctx? id with
  | none => exact Bool.false_ne_true
  | some x => exact Bool.eq_false_iff.1 (noSwap (hdone x hx))

/-- The mask that a partition command gives a die. -/
def givenMask (mask0 : Nat) (masks : List Nat) (d : Nat) : Nat := ((mask0 :: masks)[d]?).getD 0

/-- What a partition that passes its checks comes to, with its new masks. -/
def State.partitioned (z : State) (k : Packet) (id mask0 : Nat) (masks : List Nat) : Host.Outcome State Fault Refusal :=
  let t := [0, 1, 2, 3].foldl (fun s d => s.setPartition id d (givenMask mask0 masks d)) z
  if t.swapsAhead id then .next (t.keepStarted (.partition k id mask0 masks))
  else t.answers (.partition k id mask0 masks) k 0

theorem exec_partition {id mask0 : Nat} {masks : List Nat} {c : Context} (h : s.serves (.partition k id mask0 masks) k)
    (hc : (s.flushed k).ctx? id = some c) (hnone : ∀ d, d < 4 → Store.get none c.newMask d = none) (hlen : masks.length = 3)
    (hok : ∀ d, d < 4 → givenMask mask0 masks d = 0 ∨
      ((s.flushed k).diePresent d = true ∧ (s.flushed k).maskOk d (givenMask mask0 masks d) = true))
    (hfree : ∀ d, d < 4 → (s.flushed k).maskTaken id d (givenMask mask0 masks d) = false ∧
      (c.fixed = true → wholeSquares (givenMask mask0 masks d) = true) ∧
      (s.flushed k).modeClear id d (givenMask mask0 masks d) c.fixed = true)
    (hpower : c.fixed = true → (s.flushed k).lpddr = true → Config.powerHeadroom ((s.flushed k).fixedSquares id (givenMask mask0 masks)) = true) :
    exec (.partition k id mask0 masks) s = (s.flushed k).partitioned k id mask0 masks := by
  change execPartition k id mask0 masks s = _
  refine (command_serves_ofCtx h hc).trans ?_
  refine (congrArg (Cmd.ends _ k) (if_neg (Bool.eq_false_iff.1 (noSwap hnone)))).trans
    ((Cmd.ends_check_true (Bool.and_eq_true_iff.2 ⟨beq_iff_eq.2 hlen, dies_all.2 fun d hd => ?_⟩)).trans
      ((Cmd.ends_check_true (dies_all.2 fun d hd => ?_)).trans ((Cmd.ends_check_true ?_).trans Cmd.ends_ite)))
  · exact Bool.or_eq_true_iff.2 ((hok d hd).imp beq_iff_eq.2 Bool.and_eq_true_iff.2)
  · have hd := hfree d hd
    exact Bool.and_eq_true_iff.2 ⟨Bool.and_eq_true_iff.2 ⟨congrArg not hd.1, imp_bool hd.2.1⟩, hd.2.2⟩
  · exact (Bool.or_assoc ..).trans (imp_bool fun hfixed => imp_bool (hpower hfixed))

section
variable (s : State)

theorem State.mapCoreAt_field {α : Type} {p : State → α}
    (hp : ∀ (t : State) (c : Core) (o : Store Core), p { t with core := c, others := o } = p t)
    (s : State) (h : Nat) (f : Core → Core) : p (s.mapCoreAt h f) = p s := State.setCoreAt_field hp s h _

theorem State.mapCoreAt_contexts (h : Nat) (f : Core → Core) : (s.mapCoreAt h f).contexts = s.contexts :=
  State.mapCoreAt_field (fun _ _ _ => rfl) s h f

/-- An image at its hearth, before what it brings to its street. -/
def State.imageOn (r : Ready) (h clk : Nat) : State :=
  ((s.fresh.2.mapCoreAt h fun c => c.resumeImage r.image s.nextId clk).mapImages fun x =>
    if x = r then none else some x).squareFence (squareOf h) false true

/-- An image that is put on its hearth changes no more than streets beside it. -/
theorem State.putImage_field {α : Type} {p : State → α} (hp : ∀ (t : State) (n : Nat) (x : Street), p (t.setStreet n x) = p t)
    (r : Ready) (h : Nat) : ∃ clk, p (s.putImage r h) = p (s.imageOn r h clk) :=
  ⟨_, (apply_ite p ..).trans ((if_congr Iff.rfl (hp ..) rfl).trans (ite_self _))⟩

theorem State.putImage_contexts (r : Ready) (h : Nat) : (s.putImage r h).contexts = s.contexts :=
  (s.putImage_field (p := State.contexts) (fun _ _ _ => rfl) r h).elim fun _ heq => heq.trans (State.mapCoreAt_contexts ..)

theorem State.shadowIn_contexts (ins : List (Nat × Ready)) (e : Nat × Ready) : (s.shadowIn ins e).contexts = s.contexts :=
  (apply_ite State.contexts ..).trans ((if_congr Iff.rfl (State.putImage_contexts ..) rfl).trans (ite_self _))

theorem State.foldl_shadowIn_contexts (ins es : List (Nat × Ready)) :
    (es.foldl (fun s e => s.shadowIn ins e) s).contexts = s.contexts := by
  induction es generalizing s with
  | nil => rfl
  | cons e es ih => exact (ih _).trans (s.shadowIn_contexts ins e)

/-- A context whose mask of a die has been swapped. -/
def Context.swapMask (die mask : Nat) (c : Context) : Context :=
  { c with masks := Store.set 0 c.masks die mask, newMask := Store.set none c.newMask die none }

/-- After a swap the context has its new mask. -/
theorem State.masks_swapPartition (id die mask : Nat) {c : Context} (h : (s.swapPartition id die mask).ctx? id = some c) :
    Store.get 0 c.masks die = mask := by
  have hctx := (congrArg (List.find? fun c => c.id == id) (State.foldl_shadowIn_contexts _ _ _)).symm.trans (by exact h)
  obtain ⟨x, -, rfl⟩ := Option.map_eq_some_iff.1 ((State.ctx?_mapCtx_self _ id (f := Context.swapMask die mask) fun _ => rfl).symm.trans hctx)
  exact Store.get_set_self _ _ _ _

/-- A partition changes its mask at once where no hearth of it is in use; otherwise those hearths are asked to leave first. -/
theorem State.setPartition_eq (id die mask : Nat) {c : Context} (hc : s.ctx? id = some c) (hm : Store.get 0 c.masks die ≠ mask) :
    let resident := (dieHearths die).filter fun h => (s.coreAt h).mode != .free && (s.coreAt h).task.ctx == id
    s.setPartition id die mask = if resident = [] then s.swapPartition id die mask
      else (resident.foldl (fun s h => s.mapCoreAt h Core.askPreempt) s).mapCtx id fun c =>
        { c with newMask := Store.set none c.newMask die (some mask) } := by
  intro resident
  rw [State.setPartition]
  simp only [hc, beq_iff_eq, hm, if_false, List.isEmpty_iff]
  rfl

end

/-! ## Streams (R318, R409) -/

/-- A stream admitted on a range of a tensor. -/
def StreamAdmit_stream (o : StreamAdmit) (serial : Nat) : Stream :=
  { ctx := o.id, handle := o.handle, off := o.start, stop_ := o.start + o.len, pri := o.pri
    run := if o.len = 0 then .ended else .running, slots := [], stop := false, afterPhase := o.start
    phaseSlots := [], serial := serial }

/-- The first slot of a die that no stream holds. -/
def State.firstSlot (z : State) (die : Nat) : Option Nat := (List.range 16).find? fun n => (z.streamAt ⟨die, n⟩).isNone

theorem State.firstSlot_some (z : State) {die n : Nat} (hn : n < 16) (hfree : z.streamAt ⟨die, n⟩ = none)
    (hbelow : ∀ m, m < n → (z.streamAt ⟨die, m⟩).isSome = true) : z.firstSlot die = some n :=
  List.find?_range_eq_some.2 ⟨congrArg Option.isNone hfree, List.mem_range.2 hn,
    fun m hm => congrArg not (Option.isNone_eq_false_iff.2 (hbelow m hm))⟩

theorem State.firstSlot_none (z : State) {die : Nat} (hfull : ∀ n, n < 16 → (z.streamAt ⟨die, n⟩).isSome = true) :
    z.firstSlot die = none :=
  List.find?_eq_none.2 fun n hn => Bool.eq_false_iff.1 (Option.isNone_eq_false_iff.2 (hfull n (List.mem_range.1 hn)))

/-- A stream is admitted in the first slot of its die that is free. -/
theorem exec_streamAdmit {o : StreamAdmit} {c : Context} {r : Rec} (h : s.serves (.streamAdmit k o) k)
    (hc : (s.flushed k).ctx? o.id = some c) (hd : (s.flushed k).diePresent o.die = true)
    (hr : (s.flushed k).liveRec o.id o.handle = some r) (hraw : r.raw = true) (hlen : o.start + o.len ≤ r.bytes) (hpri : o.pri < 4) :
    exec (.streamAdmit k o) s =
      let z := s.flushed k
      ((z.firstSlot o.die).elim (Cmd.done 0x03 z) fun n =>
        .done 0 (({ z with nextId := z.nextId + 1 } : State).setStream ⟨o.die, n⟩
          (some (StreamAdmit_stream o z.nextId)))).ends (.streamAdmit k o) k := by
  have hfits : ((s.flushed k).diePresent o.die && (match (s.flushed k).liveRec o.id o.handle with
      | some r => r.raw && decide (o.start + o.len ≤ r.bytes) | none => false) && decide (o.pri < 4)) = true := by
    refine Bool.and_eq_true_iff.2 ⟨Bool.and_eq_true_iff.2 ⟨hd, ?_⟩, decide_eq_true hpri⟩
    rw [hr]
    exact Bool.and_eq_true_iff.2 ⟨hraw, decide_eq_true hlen⟩
  change execStreamAdmit k o s = _
  refine (command_serves_ofCtx h hc).trans ?_
  refine (Cmd.ends_check_true hfits).trans (congrArg (Cmd.ends _ k) ?_)
  change (match (s.flushed k).firstSlot o.die with | none => _ | some n => _ : Cmd) = _
  cases (s.flushed k).firstSlot o.die <;> rfl

/-- A record that waits for a launch. -/
def opwaits : Option Instr → Bool
  | some (.opwait _ _ _ _) => true
  | _ => false

theorem opwaits_some (i : Instr) : opwaits (some i) = (i.ctorIdx == (Instr.opwait ⟨0, 0⟩ 0 false 0).ctorIdx) := by
  induction i
  case opwait => exact Eq.refl true
  all_goals exact Eq.refl false

theorem opwaits_iff : {r : Option Instr} → opwaits r = true ↔ ∃ st mask cont h, r = some (.opwait st mask cont h)
  | none => iff_of_false Bool.false_ne_true fun ⟨_, _, _, _, h⟩ => Option.some_ne_none _ h.symm
  | some i => ⟨fun h => Instr.opwait.elim i (beq_iff_eq.1 ((opwaits_some i).symm.trans h)) fun st mask cont h =>
      ⟨st, mask, cont, h, rfl⟩, fun ⟨_, _, _, _, h⟩ => congrArg opwaits h⟩

/-- What the stop of a stream that is served comes to: the stream leaves at once, but one that waits at another record than OPWAIT
executes it first. -/
def State.streamStopped (z : State) (k : Packet) (st : StreamId) (x : Stream) : Host.Outcome State Fault Refusal :=
  if x.run = .waiting ∧ opwaits (z.recordOf st x) = false then
    .next ((z.mapStream st fun y => { y with stop := true }).keepStarted (.streamStop k st))
  else State.answers (z.setStream st none) (.streamStop k st) k 0

theorem exec_streamStop {st : StreamId} {x : Stream} (h : s.serves (.streamStop k st) k)
    (hx : (s.flushed k).streamAt st = some x) : exec (.streamStop k st) s = (s.flushed k).streamStopped k st x := by
  change execStreamStop k st s = _
  refine (command_serves h).trans ?_
  change (match (s.flushed k).streamAt st with | none => _ | some x => _ : Cmd).ends _ _ = _
  rw [hx]
  exact Cmd.ends_ite

end

/-- Settles O42: each command of contexts, partitions and streams, once served, comes to its effect and status. -/
theorem contextCommandsPerform : Obligations.ContextCommandsPerform := by
  intro k s z
  refine ⟨fun id h => ⟨fun hid => (exec_contextCreate h).trans (if_neg hid), exec_contextCreate_held h, exec_contextCreate_new h⟩,
    fun o c h hc => ⟨exec_contextSet_streams h hc, exec_contextSet h hc⟩,
    fun id c h hc => exec_contextDestroy h hc, fun id mask0 masks c h hc hnone hlen => ?partition,
    fun id die mask c hc hm => ?swap, fun o c r h hc hd hr hraw hlen hpri => ?newStream, fun st x h hx => ?stop⟩
  case partition =>
    intro m hok hfree hpower t
    have heq := exec_partition h hc hnone hlen hok hfree hpower
    exact ⟨fun hdone => heq.trans (if_neg (State.swapsAhead_false hdone)),
      fun x d hx hd hwait => heq.trans (if_pos (State.swapsAhead_true hx hd hwait))⟩
  case swap =>
    intro resident
    have heq := z.setPartition_eq id die mask hc hm
    exact ⟨fun hnone => ⟨heq.trans (if_pos hnone), fun c' hc' => z.masks_swapPartition id die mask hc'⟩,
      fun hsome => heq.trans (if_neg hsome)⟩
  case newStream =>
    have heq := exec_streamAdmit h hc hd hr hraw hlen hpri
    refine ⟨fun n hn hfree hbelow => heq.trans ?_, fun hfull => heq.trans ?_⟩
    · exact congrArg (Cmd.ends _ k) (congrArg (Option.elim · _ _) (z.firstSlot_some hn hfree hbelow))
    · exact congrArg (Cmd.ends _ k) (congrArg (Option.elim · _ _) (z.firstSlot_none hfull))
  case stop =>
    have heq := exec_streamStop h hx
    refine ⟨fun hrun => heq.trans (if_neg fun h => hrun h.1), fun hrun hwait => heq.trans (if_neg fun h => ?_),
      fun hrun hwait => heq.trans (if_pos ⟨hrun, ?_⟩)⟩
    · exact Bool.false_ne_true (h.2.symm.trans (opwaits_iff.2 hwait))
    · refine Bool.eq_false_iff.2 fun hat => ?_
      obtain ⟨st', mask, cont, h, hrec⟩ := opwaits_iff.1 hat
      exact hwait st' mask cont h hrec

end Sys2Proof.Machine
end

/-! PROOFS. Requests of peers, replies and time-outs (spec/23_fabric.md R435, R436, R441). -/
section
namespace Sys2Proof.Machine

section
variable {s : State}

/-! ## Requests (R435, R436) -/

/-- A request that has been taken up no longer waits. -/
abbrev State.takenUp (s : State) (r : RemoteIn) : State :=
  { s with fabric := { s.fabric with inn := s.fabric.inn.filter fun x => x.id != r.id } }

/-- The status that a request meets at its window. -/
abbrev State.statusAt (s : State) (r : RemoteIn) : Nat :=
  let w := s.windowAt r.pkt.win
  s.requestStatus r w (s.recAt w.ctx w.handle)

theorem exec_remoteRequest {r : RemoteIn} (h : s.fabric.inn.find? (fun r => r.id == s.unit) = some r) :
    exec .remoteRequest s = if r.held.isSome || 1 < r.pkt.op ||
        (r.pkt.op == 0 && (s.dependent (s.windowAt r.pkt.win).ctx (s.windowAt r.pkt.win).handle).isSome)
      then .next s else .next (s.performRemote r) := by
  change execRemoteRequest s = _
  rw [execRemoteRequest, h]

/-- A held request stays. -/
theorem exec_remoteRequest_held {r : RemoteIn} (h : s.fabric.inn.find? (fun r => r.id == s.unit) = some r)
    (hheld : r.held.isSome = true) : exec .remoteRequest s = .next s :=
  (exec_remoteRequest h).trans (if_pos (Bool.or_eq_true_iff.2 (.inl (Bool.or_eq_true_iff.2 (.inl hheld)))))

/-- A request that nothing holds is performed. -/
theorem exec_remoteRequest_free {r : RemoteIn} (h : s.fabric.inn.find? (fun r => r.id == s.unit) = some r)
    (hop : r.pkt.op ≤ 1) (hheld : r.held = none)
    (hdep : r.pkt.op = 0 → s.dependent (s.windowAt r.pkt.win).ctx (s.windowAt r.pkt.win).handle = none) :
    exec .remoteRequest s = .next (s.performRemote r) := by
  have hwaits : (r.pkt.op == 0 && (s.dependent (s.windowAt r.pkt.win).ctx (s.windowAt r.pkt.win).handle).isSome) = false := by
    by_cases h0 : r.pkt.op = 0
    · exact Bool.and_eq_false_iff.2 (.inr (congrArg Option.isSome (hdep h0)))
    · exact Bool.and_eq_false_iff.2 (.inl (beq_eq_false_iff_ne.2 h0))
  exact (exec_remoteRequest h).trans (if_neg (Bool.eq_false_iff.1 (Bool.or_eq_false_iff.2
    ⟨Bool.or_eq_false_iff.2 ⟨congrArg Option.isSome hheld, decide_eq_false (Nat.not_lt.2 hop)⟩, hwaits⟩)))

/-- A request that meets a status moves no bytes. -/
theorem State.performRemote_refused {r : RemoteIn} (h : s.statusAt r ≠ 0) :
    s.performRemote r = (s.takenUp r).sendReply r (s.statusAt r) [] :=
  if_pos h

section
variable {r : RemoteIn} {w : Window} {x : Option Rec}

theorem State.requestStatus_revoked (h : r.gone = true ∨ w.state = 2 ∨ w.state = 3) : s.requestStatus r w x = 3 := if_pos h

/-- A window that is not revoked refuses what its entry does not allow. -/
theorem State.requestStatus_refused (hgone : r.gone = false) (hstate : w.state ≠ 2 ∧ w.state ≠ 3)
    (h : w.state = 0 ∨ s.ownerOf r ≠ w.peer ∨ bit w.acc (if r.pkt.op = 0 then 1 else 0) = false) : s.requestStatus r w x = 4 :=
  (if_neg (not_or.2 ⟨Bool.eq_false_iff.1 hgone, not_or.2 hstate⟩)).trans (if_pos (h.imp_right (Or.imp_right .inl)))

end

/-! ## Replies (R441) -/

/-- The request that a reply answers. -/
def RemoteIn.answers (r : RemoteIn) (x : RemoteOut) : Bool :=
  x.pkt.tag == r.pkt.tag && x.pkt.dst == r.pkt.src && x.pkt.op + 2 == r.pkt.op && x.status.isNone && x.tries != 0 && !x.held &&
    x.eth == decide (scalePorts ≤ r.port)

/-- A reply that no request awaits is dropped. -/
theorem exec_remoteReply_stray {r : RemoteIn} (h : s.fabric.inn.find? (fun r => r.id == s.unit && 1 < r.pkt.op) = some r)
    (hx : (s.takenUp r).fabric.out.find? r.answers = none) : exec .remoteReply s = .next (s.takenUp r) := by
  change execRemoteReply s = _
  rw [execRemoteReply, h]
  change (match (s.takenUp r).fabric.out.find? r.answers with | none => _ | some x => _ : Host.Outcome State Fault Refusal) = _
  rw [hx]

/-- A reply that brings no data ends its request with its status. -/
theorem exec_remoteReply_status {r : RemoteIn} {x : RemoteOut}
    (h : s.fabric.inn.find? (fun r => r.id == s.unit && 1 < r.pkt.op) = some r)
    (hx : (s.takenUp r).fabric.out.find? r.answers = some x) (hdata : x.pkt.op = 0 ∨ 3 ≤ r.pkt.status) :
    exec .remoteReply s = .next ((((s.takenUp r).focus x.hearth).focus s.coreId).packetDone x r.pkt.status) := by
  have hop : ¬(x.pkt.op = 1 ∧ r.pkt.status < 3) := fun hread =>
    hdata.elim (fun h0 => Nat.zero_ne_one (h0.symm.trans hread.1)) fun h3 => Nat.not_lt.2 h3 hread.2
  change execRemoteReply s = _
  rw [execRemoteReply, h]
  change (match (s.takenUp r).fabric.out.find? r.answers with | none => _ | some x => _ : Host.Outcome State Fault Refusal) = _
  rw [hx]
  refine (if_neg ?_).trans (congrArg Host.Outcome.next ?_)
  · rw [if_neg hop]
    exact Bool.false_ne_true
  · rw [if_neg hop]

/-! ## Time-outs (R441) -/

theorem exec_remoteTimeout_early {x : RemoteOut} (h : s.fabric.out.find? (fun x => x.id == s.unit) = some x) (htries : x.tries = 0) :
    exec .remoteTimeout s = .next s := by
  change execRemoteTimeout s = _
  rw [execRemoteTimeout, h]
  exact if_pos (.inr (.inr htries))

section
variable {x : RemoteOut} (h : s.fabric.out.find? (fun x => x.id == s.unit) = some x) (hheld : x.held = false)
  (hstatus : x.status = none)
include h hheld hstatus

omit h in
theorem RemoteOut.awaits (htries : x.tries ≠ 0) : ¬(x.held ∨ x.status.isSome = true ∨ x.tries = 0) :=
  not_or.2 ⟨Bool.eq_false_iff.1 hheld, not_or.2 ⟨Bool.eq_false_iff.1 (congrArg Option.isSome hstatus), htries⟩⟩

theorem exec_remoteTimeout_last (htries : 2 ≤ x.tries) : exec .remoteTimeout s = .next (s.packetDone x 4) := by
  change execRemoteTimeout s = _
  rw [execRemoteTimeout, h]
  exact (if_neg (RemoteOut.awaits hheld hstatus (Nat.ne_of_gt (Nat.lt_of_lt_of_le (by decide) htries)))).trans (if_pos htries)

/-- A request is sent again once. -/
theorem exec_remoteTimeout_again (htries : x.tries = 1) {y : RemoteOut}
    (hy : ((s.dropOut x.id).sendOut x (if x.eth then none else some x.port)).fabric.out.find? (fun y => y.id == x.id) = some y) :
    exec .remoteTimeout s =
      let z := (s.dropOut x.id).sendOut x (if x.eth then none else some x.port)
      .next (if y.status.isSome then z.packetDone y 4 else z) := by
  change execRemoteTimeout s = _
  rw [execRemoteTimeout, h]
  refine (if_neg (RemoteOut.awaits hheld hstatus (htries ▸ Nat.one_ne_zero))).trans ((if_neg (htries ▸ by decide)).trans ?_)
  dsimp only
  rw [hy]

end

end

/-- Settles O48: requests are performed or refused whole, replies and time-outs end what they belong to. -/
theorem peersAreServed : Obligations.PeersAreServed := by
  refine ⟨fun s r hr hop => ?request, fun s r hr => ⟨exec_remoteReply_stray hr, fun x hx => exec_remoteReply_status hr hx⟩,
    fun s x hx hheld hstatus => ⟨exec_remoteTimeout_early hx, exec_remoteTimeout_last hx hheld hstatus,
      fun htries y => exec_remoteTimeout_again hx hheld hstatus htries⟩⟩
  intro w z st
  have hlive {n : Nat} (h : w.state = n) (h2 : n ≠ 2) (h3 : n ≠ 3) : w.state ≠ 2 ∧ w.state ≠ 3 := h ▸ ⟨h2, h3⟩
  exact ⟨exec_remoteRequest_held hr, fun hheld hdep => ⟨exec_remoteRequest_free hr hop hheld hdep,
    fun hst => (exec_remoteRequest_free hr hop hheld hdep).trans (congrArg _ (State.performRemote_refused hst)),
    fun h => State.requestStatus_revoked h,
    fun hgone h0 => State.requestStatus_refused hgone (hlive h0 (by decide) (by decide)) (.inl h0),
    fun hgone h1 howner => State.requestStatus_refused hgone (hlive h1 (by decide) (by decide)) (.inr (.inl howner)),
    fun hgone h1 hacc => State.requestStatus_refused hgone (hlive h1 (by decide) (by decide)) (.inr (.inr hacc))⟩⟩

end Sys2Proof.Machine
end

/-! PROOFS. Flit replay, discards, received packets and revocation (spec/23_fabric.md R429, R431, R432, R438, R442). -/
section
namespace Sys2Proof.Machine

/-! ## Isolation (R432) -/

/-- An entry of a port that is isolated where it was active. -/
def Port.isolated (x : Port) (o : Nat) : Port :=
  if (x.entry o).state = 1 then x.setEntry o { x.entry o with state := 2 } else x

theorem Port.entry_isolated_self (x : Port) (o : Nat) : (x.isolated o).entry o =
    if (x.entry o).state = 1 then { x.entry o with state := 2 } else x.entry o :=
  (apply_ite (Port.entry · o) ..).trans (if_congr Iff.rfl ((Port.entry_setEntry ..).trans (if_pos rfl)) rfl)

theorem Port.entry_isolated_ne (x : Port) {o i : Nat} (h : i ≠ o) : (x.isolated o).entry i = x.entry i :=
  (apply_ite (Port.entry · i) ..).trans ((if_congr Iff.rfl ((Port.entry_setEntry ..).trans (if_neg h)) rfl).trans (ite_self _))

theorem Port.state_isolated (x : Port) (o : Nat) : ((x.isolated o).entry o).state =
    if (x.entry o).state = 1 then 2 else (x.entry o).state :=
  (congrArg OwnerEntry.state (x.entry_isolated_self o)).trans (apply_ite OwnerEntry.state ..)

theorem Port.discards_isolated (x : Port) (o : Nat) : ((x.isolated o).entry o).discards = (x.entry o).discards :=
  (congrArg OwnerEntry.discards (x.entry_isolated_self o)).trans ((apply_ite OwnerEntry.discards ..).trans (ite_self _))

theorem Port.entry_down (x : Port) (i : Nat) : ({ x with down := true, replays := 0 } : Port).entry i = x.entry i := rfl

/-- What isolation makes of an entry's state. -/
def isolatedState (n : Nat) : Nat := if n = 1 then 2 else n

theorem isolatedState_twice (n : Nat) : isolatedState (isolatedState n) = isolatedState n := by
  unfold isolatedState
  split <;> simp [*]

theorem Port.isolatedState_isolated (x : Port) (o i : Nat) :
    isolatedState ((x.isolated o).entry i).state = isolatedState (x.entry i).state := by
  by_cases h : i = o
  · subst h
    exact (congrArg isolatedState (x.state_isolated i)).trans (isolatedState_twice _)
  · exact congrArg (isolatedState ·.state) (x.entry_isolated_ne h)

theorem Port.entry_foldl_of_not_mem (x : Port) {os : List Nat} {i : Nat} (h : i ∉ os) :
    (os.foldl Port.isolated x).entry i = x.entry i := by
  induction os generalizing x with
  | nil => rfl
  | cons o os ih =>
    exact (ih _ (List.not_mem_of_not_mem_cons h)).trans (x.entry_isolated_ne (List.ne_of_not_mem_cons h))

theorem Port.state_isolated_foldl (x : Port) {os : List Nat} {i : Nat} (h : i ∈ os) :
    ((os.foldl Port.isolated x).entry i).state = isolatedState (x.entry i).state := by
  induction os generalizing x with
  | nil => exact absurd h List.not_mem_nil
  | cons o os ih =>
    by_cases hmem : i ∈ os
    · exact (ih _ hmem).trans (x.isolatedState_isolated o i)
    · have hi : i = o := (List.mem_cons.1 h).resolve_right hmem
      subst hi
      exact (congrArg OwnerEntry.state (Port.entry_foldl_of_not_mem _ hmem)).trans (x.state_isolated i)

section
variable (s : State) (port o : Nat)

/-- An event flag changes its context, and what the host sees. -/
theorem State.setFlag_field {α : Type} {p : State → α} (hp : ∀ (t : State) (f : HostSide → HostSide), p (t.mapHost f) = p t)
    (ctx : Nat) (flag : Bool) : p (s.setFlag ctx flag) = p (s.mapCtx ctx fun c => { c with flag := flag }) := by
  unfold State.setFlag
  dsimp only
  cases (s.ctx? ctx).bind (·.word) with
  | none => rfl
  | some w => exact hp _ fun h => { h with mem := h.mem.writeN w.1 (flaggedWord w.2 flag) }

theorem State.postEvent_keeps (ctx : Nat) (w : W64) :
    (s.postEvent ctx w).fabric = s.fabric ∧ (s.postEvent ctx w).recs = s.recs :=
  ⟨State.setFlag_field _ (fun _ _ => rfl) _ _, State.setFlag_field _ (fun _ _ => rfl) _ _⟩

theorem State.postEvents_keep (cs : List Context) (w : W64) :
    (cs.foldl (fun s c => s.postEvent c.id w) s).fabric = s.fabric ∧
      (cs.foldl (fun s c => s.postEvent c.id w) s).recs = s.recs := by
  induction cs generalizing s with
  | nil => exact ⟨rfl, rfl⟩
  | cons c cs ih =>
    obtain ⟨hfabric, hrecs⟩ := s.postEvent_keeps c.id w
    exact ⟨(ih _).1.trans hfabric, (ih _).2.trans hrecs⟩

/-- Isolation changes its entry of the port and what contexts are told. -/
theorem State.portAt_isolate : (s.isolate port o).portAt port = (s.portAt port).isolated o := by
  unfold State.isolate Port.isolated
  dsimp only
  split
  · exact (congrArg (fun f : Fabric => Store.get Port.init f.ports port) (State.postEvents_keep _ _ _).1).trans
      (Store.get_set_self _ _ _ _)
  · rfl

theorem State.isolate_keeps : (s.isolate port o).fabric.inn = s.fabric.inn ∧ (s.isolate port o).recs = s.recs := by
  unfold State.isolate
  dsimp only
  split
  · exact ⟨(congrArg Fabric.inn (State.postEvents_keep _ _ _).1).trans rfl, (State.postEvents_keep _ _ _).2.trans rfl⟩
  · exact ⟨rfl, rfl⟩

theorem State.portAt_isolate_foldl (os : List Nat) :
    (os.foldl (fun s o => s.isolate port o) s).portAt port = os.foldl Port.isolated (s.portAt port) := by
  induction os generalizing s with
  | nil => rfl
  | cons o os ih => rw [List.foldl_cons, ih, s.portAt_isolate, List.foldl_cons]

/-! ## Links (R429, R431) -/

/-- A port that goes down takes its active entries with it. -/
theorem State.portAt_portFault : (s.portFault port).portAt port =
    { (List.range ownerEntries).foldl Port.isolated (s.portAt port) with down := true, replays := 0 } := by
  rw [State.portFault, State.portAt_setPort, if_pos rfl, State.portAt_isolate_foldl]

theorem exec_flitReplay (hunit : s.unit < 64) (hport : s.hasPort s.unit = true) : exec .flitReplay s =
    let x := s.portAt s.unit
    if x.down then .next s
    else if 8 ≤ x.replays then .next (s.portFault s.unit)
    else .next (s.setPort s.unit { x with replays := x.replays + 1 }) := by
  change execFlitReplay s = _
  exact if_pos ⟨hunit, hport⟩

/-- A flit is replayed until eight replays have failed (R429). -/
theorem flitReplay_fails (hunit : s.unit < 64) (hport : s.hasPort s.unit = true) :
    let x := s.portAt s.unit
    (x.down = true → exec .flitReplay s = .next s) ∧
    (x.down = false → x.replays < 8 → exec .flitReplay s = .next (s.setPort s.unit { x with replays := x.replays + 1 })) ∧
    (x.down = false → 8 ≤ x.replays →
      ∃ t : State, exec .flitReplay s = .next t ∧ (t.portAt s.unit).down = true ∧ (t.portAt s.unit).replays = 0 ∧
        ∀ o, o < 64 → ((t.portAt s.unit).entry o).state = if (x.entry o).state = 1 then 2 else (x.entry o).state) := by
  intro x
  have hdown : x.down = false → ¬x.down = true := Bool.eq_false_iff.1
  refine ⟨fun h => (exec_flitReplay s hunit hport).trans (if_pos h),
    fun h hlt => (exec_flitReplay s hunit hport).trans ((if_neg (hdown h)).trans (if_neg (Nat.not_le.2 hlt))),
    fun h hge => ⟨s.portFault s.unit, (exec_flitReplay s hunit hport).trans ((if_neg (hdown h)).trans (if_pos hge)),
      congrArg Port.down (s.portAt_portFault _), congrArg Port.replays (s.portAt_portFault _), fun o ho => ?_⟩⟩
  exact (congrArg (fun y : Port => (y.entry o).state) (s.portAt_portFault _)).trans
    ((congrArg OwnerEntry.state (Port.entry_down _ o)).trans (x.state_isolated_foldl (List.mem_range.2 ho)))

theorem exec_discardInterval (hunit : s.unit < 64) (hport : s.hasPort s.unit = true) : exec .discardInterval s = .next
    (s.setPort s.unit { s.portAt s.unit with
      owners := Store.mapVals OwnerEntry.empty (fun e => { e with discards := 0 }) (s.portAt s.unit).owners }) := by
  change execDiscardInterval s = _
  exact if_pos ⟨hunit, hport⟩

/-- The counts of a port begin again each interval (R431). -/
theorem discardInterval_begins (hunit : s.unit < 64) (hport : s.hasPort s.unit = true) :
    ∃ t : State, exec .discardInterval s = .next t ∧
      (∀ o, (t.portAt s.unit).entry o = { (s.portAt s.unit).entry o with discards := 0 }) ∧
      (∀ p, p ≠ s.unit → t.portAt p = s.portAt p) ∧ t.core = s.core := by
  refine ⟨_, exec_discardInterval s hunit hport, fun o => ?_, fun p hp => ?_, rfl⟩
  · rw [State.portAt_setPort, if_pos rfl]
    exact Store.get_mapVals OwnerEntry.empty (fun e => { e with discards := 0 }) rfl _ o
  · rw [State.portAt_setPort, if_neg hp]

/-! ## Received packets (R432, R442) -/

/-- A packet that passes its checks ends the replays of its port. -/
def State.linkServes (s : State) (n : Nat) : State := if n < scalePorts then s.setPort n { s.portAt n with replays := 0 } else s

theorem State.linkServes_keeps (n : Nat) : (s.linkServes n).nextId = s.nextId ∧
    (s.linkServes n).fabric.inn = s.fabric.inn ∧ (s.linkServes n).recs = s.recs := by
  unfold State.linkServes
  split <;> exact ⟨rfl, rfl, rfl⟩

section
variable (p : FabPacket) (hport : s.hasPort s.unit = true) (hup : s.unit < 64 → (s.portAt s.unit).down = false)
include hport hup

theorem exec_packetReceive : exec (.packetReceive p) s =
    if !s.packetOk s.unit p then .next (if s.unit < scalePorts then s.discard s.unit p.owner else s)
    else if 3 < p.op then .next s
    else
      let t := s.fresh.2.linkServes s.unit
      let held := if p.op = 0 ∧ s.windowDet p.win = true then some (s.windowAt p.win).ctx else none
      .next { t with fabric := { t.fabric with inn := t.fabric.inn ++ [⟨s.nextId, s.unit, p, held, false⟩] } } := by
  change execPacketReceive p s = _
  exact (if_pos hport).trans (if_neg fun h => Bool.false_ne_true ((hup h.1).symm.trans h.2))

/-- A packet that passes its checks waits to be performed. -/
theorem packetReceive_waits (hok : s.packetOk s.unit p = true) (hop : p.op ≤ 3) :
    ∃ t : State, exec (.packetReceive p) s = .next t ∧ t.nextId = s.nextId + 1 ∧ t.fabric.inn = s.fabric.inn ++
        [⟨s.nextId, s.unit, p, if p.op = 0 ∧ s.windowDet p.win = true then some (s.windowAt p.win).ctx else none, false⟩] ∧
      t.recs = s.recs := by
  obtain ⟨hid, hinn, hrecs⟩ := s.fresh.2.linkServes_keeps s.unit
  exact ⟨_, (exec_packetReceive s p hport hup).trans ((if_neg (Bool.eq_false_iff.1 (congrArg not hok))).trans
    (if_neg (Nat.not_lt.2 hop))), hid, congrArg (· ++ [_]) hinn, hrecs⟩

theorem packetReceive_bad (hbad : s.packetOk s.unit p = false) :
    exec (.packetReceive p) s = .next (if s.unit < 64 then s.discard s.unit p.owner else s) :=
  (exec_packetReceive s p hport hup).trans (if_pos (congrArg not hbad))

end

/-- A port with one discard more at an entry. -/
def State.countDiscard (s : State) (port o : Nat) : State :=
  s.setPort port ((s.portAt port).setEntry o
    { (s.portAt port).entry o with discards := min (((s.portAt port).entry o).discards + 1) 255 })

theorem State.entry_countDiscard : ((s.countDiscard port o).portAt port).entry o =
    { (s.portAt port).entry o with discards := min (((s.portAt port).entry o).discards + 1) 255 } :=
  (congrArg (Port.entry · o) ((State.portAt_setPort ..).trans (if_pos rfl))).trans ((Port.entry_setEntry ..).trans (if_pos rfl))

/-- A discard counts at its entry, and the sixteenth isolates it (R432). -/
theorem State.discard_leaves :
    let e := (s.portAt port).entry o
    (s.discard port o).fabric.inn = s.fabric.inn ∧ (s.discard port o).recs = s.recs ∧
      (((s.discard port o).portAt port).entry o).discards = min (e.discards + 1) 255 ∧
      (((s.discard port o).portAt port).entry o).state = if e.discards + 1 = 16 ∧ e.state = 1 then 2 else e.state := by
  intro e
  have hentry := s.entry_countDiscard port o
  by_cases h16 : e.discards + 1 = 16
  · have heq : s.discard port o = (s.countDiscard port o).isolate port o := if_pos h16
    have hport := congrArg (Port.entry · o) ((s.countDiscard port o).portAt_isolate port o)
    obtain ⟨hinn, hrecs⟩ := (s.countDiscard port o).isolate_keeps port o
    rw [heq]
    refine ⟨hinn, hrecs, ?_, ?_⟩
    · exact (congrArg OwnerEntry.discards hport).trans ((Port.discards_isolated ..).trans (congrArg OwnerEntry.discards hentry))
    · refine (congrArg OwnerEntry.state hport).trans ((Port.state_isolated ..).trans ?_)
      rw [hentry]
      exact if_congr (and_iff_right h16).symm rfl rfl
  · have heq : s.discard port o = s.countDiscard port o := if_neg h16
    rw [heq, hentry]
    exact ⟨rfl, rfl, rfl, (if_neg fun h => h16 h.1).symm⟩

/-! ## Revocation (R438) -/

theorem State.windowAt_setWindow (n q : Nat) (w : Window) :
    (s.setWindow n w).windowAt q = if q = n then w else s.windowAt q := Store.get_set _ _ _ _ _

theorem exec_revokeEffect (hunit : s.unit < 1024) : exec .revokeEffect s =
    if (s.windowAt s.unit).state = 1 ∧ (s.windowAt s.unit).revoker.isSome = true then
      .next (s.setWindow s.unit { s.windowAt s.unit with state := 2 }) else .next s := by
  change execRevokeEffect s = _
  exact if_pos hunit

theorem exec_revokeDrainDone (hunit : s.unit < 1024) : exec .revokeDrainDone s =
    if (s.windowAt s.unit).state = 2 then
      .next ((s.mapRec (s.windowAt s.unit).ctx (s.windowAt s.unit).handle fun r => { r with pins := r.pins - 1 }).setWindow s.unit
        { s.windowAt s.unit with state := 3 }) else .next s := by
  change execRevokeDrainDone s = _
  exact if_pos hunit

/-- A request of a window whose entry is free again. -/
def RemoteIn.quarantined (n : Nat) (r : RemoteIn) : RemoteIn :=
  if r.pkt.op = 0 ∧ r.pkt.win = n then { r with gone := true } else r

theorem exec_windowQuarantineEnd (hunit : s.unit < 1024) : exec .windowQuarantineEnd s =
    if (s.windowAt s.unit).state = 3 ∧ s.revokerWaits (s.windowAt s.unit) = false ∧ s.windowQuiet s.unit = true then
      .next (({ s with fabric := { s.fabric with inn := s.fabric.inn.map (RemoteIn.quarantined s.unit) } } : State).setWindow
        s.unit Window.free) else .next s := by
  change execWindowQuarantineEnd s = _
  exact if_pos hunit

/-- A revocation takes effect, drains and ends its quarantine. -/
theorem revocation_steps (hunit : s.unit < 1024) :
    let w := s.windowAt s.unit
    (w.state = 1 → w.revoker.isSome = true →
      exec .revokeEffect s = .next (s.setWindow s.unit { w with state := 2 })) ∧
    (w.state ≠ 1 ∨ w.revoker = none → exec .revokeEffect s = .next s) ∧
    (w.state = 2 → ∃ t : State, exec .revokeDrainDone s = .next t ∧ t.windowAt s.unit = { w with state := 3 } ∧
      (∀ n, n ≠ s.unit → t.windowAt n = s.windowAt n) ∧
      t.recs = s.recs.map (fun r => if r.ctx = w.ctx ∧ r.handle = w.handle then { r with pins := r.pins - 1 } else r)) ∧
    (w.state ≠ 2 → exec .revokeDrainDone s = .next s) ∧
    (w.state = 3 → s.revokerWaits w = false → s.windowQuiet s.unit = true →
      let off (r : RemoteIn) : RemoteIn := if r.pkt.op = 0 ∧ r.pkt.win = s.unit then { r with gone := true } else r
      exec .windowQuarantineEnd s =
        .next (({ s with fabric := { s.fabric with inn := s.fabric.inn.map off } } : State).setWindow s.unit Window.free)) ∧
    (w.state ≠ 3 ∨ s.revokerWaits w = true ∨ s.windowQuiet s.unit = false → exec .windowQuarantineEnd s = .next s) := by
  intro w
  refine ⟨fun h1 hrev => (exec_revokeEffect s hunit).trans (if_pos ⟨h1, hrev⟩),
    fun h => (exec_revokeEffect s hunit).trans (if_neg fun h' => ?_),
    fun h2 => ⟨_, (exec_revokeDrainDone s hunit).trans (if_pos h2), (State.windowAt_setWindow ..).trans (if_pos rfl),
      fun n hn => (State.windowAt_setWindow ..).trans (if_neg hn), rfl⟩,
    fun h2 => (exec_revokeDrainDone s hunit).trans (if_neg h2),
    fun h3 hwaits hquiet => (exec_windowQuarantineEnd s hunit).trans (if_pos ⟨h3, hwaits, hquiet⟩),
    fun h => (exec_windowQuarantineEnd s hunit).trans (if_neg fun h' => ?_)⟩
  · rcases h with h | h
    · exact h h'.1
    · exact Bool.false_ne_true ((congrArg Option.isSome h).symm.trans h'.2)
  · rcases h with h | h | h
    · exact h h'.1
    · exact Bool.false_ne_true (h'.2.1.symm.trans h)
    · exact Bool.false_ne_true (h.symm.trans h'.2.2)

end

/-- Settles O49: replay, discards, received packets and revocation, each at its port or window. -/
theorem fabricPortsAndWindows : Obligations.FabricPortsAndWindows :=
  ⟨⟨flitReplay_fails, discardInterval_begins, fun p s hport hup => ⟨packetReceive_waits s p hport hup,
    fun hunit hbad => (packetReceive_bad s p hport hup hbad).trans (congrArg _ (if_neg (Nat.not_lt.2 hunit))),
    fun hunit hbad => ⟨s.discard s.unit p.owner, (packetReceive_bad s p hport hup hbad).trans (congrArg _ (if_pos hunit)),
      s.discard_leaves s.unit p.owner⟩⟩⟩, revocation_steps⟩

end Sys2Proof.Machine
end

/-! PROOFS. Streams and what their records come to (spec/14_die_dispatch_specialisation.md R318, R319, R321). -/
section
namespace Sys2Proof.Machine

section
variable {s t : State} {st : StreamId} {x : Stream} {c : Context}

/-! ## Streams by their slot -/

theorem State.streamAt_setStream_self (s : State) (st : StreamId) (y : Option Stream) : (s.setStream st y).streamAt st = y :=
  (congrArg (fun d => Store.get none (Die.streams d) st.slot) ((State.dieAt_mapDie ..).trans (if_pos rfl))).trans (Store.get_set_self ..)

theorem State.streamAt_setStream_ne (s : State) {st st' : StreamId} (h : st' ≠ st) (y : Option Stream) :
    (s.setStream st y).streamAt st' = s.streamAt st' := by
  by_cases hd : st'.die = st.die
  · have hslot : st'.slot ≠ st.slot := fun hslot => h (congr (congrArg StreamId.mk hd) hslot)
    refine (congrArg (fun d => Store.get none (Die.streams d) st'.slot) ((State.dieAt_mapDie ..).trans (if_pos hd))).trans
      ((Store.get_set_ne _ _ _ hslot).trans ?_)
    exact congrArg (fun d => Store.get none (s.dieAt d).streams st'.slot) hd.symm
  · exact congrArg (fun d => Store.get none (Die.streams d) st'.slot) ((State.dieAt_mapDie ..).trans (if_neg hd))

theorem State.mapStream_of_some (h : s.streamAt st = some x) (f : Stream → Stream) :
    s.mapStream st f = s.setStream st (some (f x)) := by
  rw [State.mapStream, h]

/-! ## What a record comes to (R319, R321) -/

/-- The step of a stream whose record came to this. -/
def Recd.ends (s : State) (st : StreamId) (x : Stream) : Recd → Host.Outcome State Fault Refusal
  | .done t => t.recordDone st
  | .wait t => (if x.run = .waiting then t.mapDie st.die fun y => { y with lastStream := (s.dieAt st.die).lastStream } else t).recordWaits st
  | .fault n t => t.recordFaults st x n

/-- A stream that takes its record comes to what the record comes to. -/
theorem onStream_takes (h : s.takes st x c) (k : Stream → Context → State → Recd) :
    onStream st s k = (k x c (s.taken st x)).ends s st x := by
  obtain ⟨hx, hc, hrun, hback⟩ := h
  simp only [onStream, hx, hc, hrun, hback, Bool.not_true, Bool.or_false, Bool.false_eq_true, if_false]
  cases k x c (s.taken st x) <;> rfl

theorem Recd.ends_wait (hrun : x.run = .running) (t : State) : (Recd.wait t).ends s st x = t.recordWaits st :=
  congrArg (State.recordWaits · st) (if_neg (by simp [hrun]))

theorem Recd.ends_failWhen (b : Bool) (n : Nat) (t : State) (r : Recd) :
    (failWhen b n t r).ends s st x = if b then t.recordFaults st x n else r.ends s st x := by
  cases b <;> rfl

theorem Recd.ends_failWhen_true {b : Bool} {n : Nat} {t : State} {r : Recd} (h : b = true) :
    (failWhen b n t r).ends s st x = t.recordFaults st x n :=
  (Recd.ends_failWhen ..).trans (if_pos h)

theorem Recd.ends_faultIf_some {o : Option Nat} {n : Nat} (h : o = some n) (t : State) (r : Recd) :
    (faultIf o t r).ends s st x = t.recordFaults st x n := by
  subst h
  rfl

theorem failWhen_true {b : Bool} {n : Nat} {t : State} {r : Recd} (h : b = true) : failWhen b n t r = .fault n t := if_pos h

theorem failWhen_false {b : Bool} {n : Nat} {t : State} {r : Recd} (h : b = false) : failWhen b n t r = r :=
  if_neg (Bool.eq_false_iff.1 h)

theorem faultIf_none {o : Option Nat} (h : o = none) (t : State) (r : Recd) : faultIf o t r = r := by
  subst h
  rfl

section
variable {a : Attempt × State} {k : State → Recd}

theorem reached_of_eq {t : State} (h : a = (.ok, t)) : reached a k = k t := by
  subst h
  rfl

theorem reached_ok (h : a.1 = .ok) : reached a k = k a.2 := by
  obtain ⟨a, t⟩ := a
  subst h
  rfl

theorem reached_fail (h : a.1 = .fail) : reached a k = .fault 0x07 a.2 := by
  obtain ⟨a, t⟩ := a
  subst h
  rfl

theorem reached_pending (h : a.1 = .pending) : reached a k = .wait a.2 := by
  obtain ⟨a, t⟩ := a
  subst h
  rfl

end

/-- A tensor that stands unpacked in a tier is made resident there by nothing. -/
theorem State.intoTier_of_here {ctx h : Nat} {r : Rec} {pool : Bool} (hr : s.recAt ctx h = some r) (haway : r.away = false)
    (hhere : (if pool then r.inPool else r.inHbm) = true) (hpacked : r.packed = 0) : s.intoTier ctx h pool = (.ok, s) := by
  rw [State.intoTier, State.bringBack_of_resident hr haway]
  dsimp only
  rw [hr]
  exact if_pos (Bool.and_eq_true_iff.2 ⟨hhere, beq_iff_eq.2 hpacked⟩)

end

end Sys2Proof.Machine
end

/-! PROOFS. How streams move on, and the records of scans and windows (spec/14_die_dispatch_specialisation.md R318, R319, R321; spec/19
R396; spec/23 R437, R438). -/
section
namespace Sys2Proof.Machine

/-! ## Streams move on or fault (R318, R319, R321) -/

section
variable {t : State} {st : StreamId} {x : Stream}

/-- A record that has executed moves its stream on by its 32 bytes. -/
theorem recordDone_moves (h : t.streamAt st = some x) :
    ∃ (u : State) (y : Stream), t.recordDone st = .next u ∧ u.streamAt st = some y ∧ y.off = x.off + 32 ∧
      y.slots = x.slots ∧ y.handle = x.handle ∧ (y.run = .ended ↔ x.stop_ ≤ x.off + 32) ∧
      (x.off + 32 < x.stop_ → y.run = .running) ∧ u.recs = t.recs ∧ u.core = t.core ∧ u.launches = t.launches ∧
      ∀ st', st' ≠ st → u.streamAt st' = t.streamAt st' := by
  refine ⟨t.setStream st (some x.past), x.past, congrArg Host.Outcome.next (State.mapStream_of_some h _),
    State.streamAt_setStream_self .., rfl, rfl, rfl, ⟨fun hend => ?_, fun hend => if_pos hend⟩,
    fun hlt => if_neg (Nat.not_le.2 hlt), rfl, rfl, rfl, fun st' hst => State.streamAt_setStream_ne _ hst _⟩
  by_contra hlt
  exact StreamRun.noConfusion ((if_neg hlt).symm.trans hend)

/-- An event that is posted stands last among its context's. -/
theorem State.ctx?_postEvent {ctx : Nat} {c : Context} (h : t.ctx? ctx = some c) (w : W64) :
    ∃ d, (t.postEvent ctx w).ctx? ctx = some d ∧ d.events = c.events ++ [w] :=
  ⟨_, (State.setFlag_field (p := (State.ctx? · ctx)) _ (fun _ _ => rfl) _ _).trans
    ((State.ctx?_mapCtx_self _ _ (f := fun c => { c with flag := true }) fun _ => rfl).trans (congrArg (Option.map _)
      ((State.ctx?_mapCtx_self _ _ (f := fun c => { c with events := c.events ++ [w] }) fun _ => rfl).trans
        (congrArg (Option.map _) h)))), rfl⟩

theorem State.postEvent_streamAt (t : State) (ctx : Nat) (w : W64) (st : StreamId) :
    (t.postEvent ctx w).streamAt st = t.streamAt st ∧ (t.postEvent ctx w).recs = t.recs :=
  ⟨State.setFlag_field (p := (State.streamAt · st)) _ (fun _ _ => rfl) _ _, State.setFlag_field _ (fun _ _ => rfl) _ _⟩

/-- A stream that has faulted at its record. -/
def Stream.faultedAt (n : Nat) (x : Stream) : Stream := { x with run := .faulted n }

/-- A stream that faults stays at its record, and its context is told. -/
theorem recordFaults_stops (h : t.streamAt st = some x) {c : Context} (hc : t.ctx? x.ctx = some c) (n : Nat) :
    ∃ (u : State) (y : Stream) (d : Context), t.recordFaults st x n = .next u ∧ u.streamAt st = some y ∧
      y.run = .faulted n ∧ y.off = x.off ∧ u.recs = t.recs ∧ u.ctx? x.ctx = some d ∧
      d.events = c.events ++ [eventWord 1 st.die st.slot n] := by
  obtain ⟨d, hd, hevents⟩ := State.ctx?_postEvent (t := t.setStream st (some (x.faultedAt n))) hc (eventWord 1 st.die st.slot n)
  obtain ⟨hstream, hrecs⟩ := (t.setStream st (some (x.faultedAt n))).postEvent_streamAt x.ctx (eventWord 1 st.die st.slot n) st
  exact ⟨_, x.faultedAt n, d, congrArg (fun t => Host.Outcome.next (State.postEvent t x.ctx (eventWord 1 st.die st.slot n)))
    (State.mapStream_of_some h (Stream.faultedAt n)), hstream.trans (State.streamAt_setStream_self ..), rfl, rfl, hrecs, hd, hevents⟩

end

section
variable {s : State} {st : StreamId} {x : Stream} {c : Context} (h : s.takes st x c)
include h

/-! ## Scans (R396) -/

theorem exec_scan_bad {o : Scan} (hbad : Scan_bad o = true) : exec (.scan st o) s = (s.taken st x).recordFaults st x 0x02 := by
  change execScan st o s = _
  exact (onStream_takes h _).trans (Recd.ends_failWhen_true hbad)

/-- A scan that has started: its tensors are in use. -/
def State.startScan (st : StreamId) (ctx : Nat) (o : Scan) (t : State) : State :=
  { t.useRecs ctx [o.src, o.res] with nextId := t.nextId + 1, scans := t.scans ++ [⟨t.nextId, st.die, ctx, o⟩] }

/-- A scan whose fields are in order starts once its source lies unpacked in HBM. -/
theorem exec_scan {o : Scan} {r d : Rec} (hbad : Scan_bad o = false) (hsig : c.sigFault st.die o.sigKind o.sigId = none)
    (hr : (s.taken st x).liveRec x.ctx o.src = some r) (hd : (s.taken st x).liveRec x.ctx o.res = some d) (hfmt : r.fmt = o.fmt)
    (hraw : r.raw = false) (hcount : o.first + o.count ≤ r.elems) (hcap : 64 + 8 * o.cap ≤ d.bytes)
    (hpins : r.pins = 0 ∨ r.inPool = false) :
    exec (.scan st o) s = (reached ((s.taken st x).intoTier x.ctx o.src false) (Recd.done <| State.startScan st x.ctx o ·)).ends s st x := by
  change execScan st o s = _
  refine (onStream_takes h _).trans (congrArg (Recd.ends s st x) ((failWhen_false hbad).trans ((faultIf_none hsig _ _).trans ?_)))
  rw [hr, hd]
  refine failWhen_false (Bool.or_eq_false_iff.2 ⟨Bool.or_eq_false_iff.2 ⟨Bool.or_eq_false_iff.2 ⟨Bool.or_eq_false_iff.2
    ⟨bne_eq_false_iff_eq.2 hfmt, hraw⟩, decide_eq_false (Nat.not_lt.2 hcount)⟩, decide_eq_false (Nat.not_lt.2 hcap)⟩, ?_⟩)
  exact Bool.and_eq_false_iff.2 (hpins.imp_left bne_eq_false_iff_eq.2)

/-! ## Windows (R437, R438) -/

omit h in
/-- A tensor that has been exported: its window is open, and it has one pin more. -/
def State.opened (ctx : Nat) (o : TExport) (t : State) : Recd :=
  .done ((t.mapRec ctx o.handle fun r => { r with pins := r.pins + 1 }).setWindow o.w
    ⟨1, o.acc, ctx, o.peer, o.first, o.count, o.handle, none⟩)

omit h in
/-- The checks of a TEXPORT whose fields are in order, one after the other. -/
def State.exports (z : State) (x : Stream) (c : Context) (o : TExport) (r : Rec) : Recd :=
  failWhen c.owner.isNone 0x03 z
    (failWhen ((z.windowAt o.w).state != 0) 0x05 z
      (failWhen (r.pins != 0 && !(if r.place = 0 then r.inPool else r.inHbm)) 0x02 z
        (failWhen r.rfail 0x07 z (reached (z.intoTier x.ctx o.handle (r.place == 0)) (State.opened x.ctx o)))))

theorem exec_texport {o : TExport} {r : Rec} (hacc : o.acc ≠ 0) (hcount : o.count ≠ 0) (hhandle : o.handle ≠ 0)
    (hr : (s.taken st x).liveRec x.ctx o.handle = some r) (hrange : o.first + o.count ≤ ceilDiv r.bytes 64) (hpins : r.pins ≠ 255) :
    exec (.texport st o) s = ((s.taken st x).exports x c o r).ends s st x := by
  change execTexport st o s = _
  refine (onStream_takes h _).trans (congrArg (Recd.ends s st x) ?_)
  dsimp only
  rw [hr]
  refine failWhen_false (Bool.or_eq_false_iff.2 ⟨Bool.or_eq_false_iff.2 ⟨Bool.or_eq_false_iff.2
    ⟨beq_eq_false_iff_ne.2 hacc, beq_eq_false_iff_ne.2 hcount⟩, beq_eq_false_iff_ne.2 hhandle⟩, ?_⟩)
  exact Bool.or_eq_false_iff.2 ⟨decide_eq_false (Nat.not_lt.2 hrange), beq_eq_false_iff_ne.2 hpins⟩

omit h in
section
variable {z : State} {o : TExport} {r : Rec} (hown : c.owner.isSome = true)
include hown

theorem State.exports_busy (hw : (z.windowAt o.w).state ≠ 0) : z.exports x c o r = .fault 0x05 z :=
  (failWhen_false (Option.isNone_eq_false_iff.2 hown)).trans (failWhen_true (bne_iff_ne.2 hw))

variable (hw : (z.windowAt o.w).state = 0)
include hw

theorem State.exports_elsewhere (hp : r.pins ≠ 0) (hplace : (if r.place = 0 then r.inPool else r.inHbm) = false) :
    z.exports x c o r = .fault 0x02 z :=
  (failWhen_false (Option.isNone_eq_false_iff.2 hown)).trans ((failWhen_false (bne_eq_false_iff_eq.2 hw)).trans
    (failWhen_true (Bool.and_eq_true_iff.2 ⟨bne_iff_ne.2 hp, congrArg not hplace⟩)))

/-- A TEXPORT of a tensor that is not pinned, or pinned where its placement is. -/
theorem State.exports_placed (hp : r.pins = 0 ∨ (if r.place = 0 then r.inPool else r.inHbm) = true) : z.exports x c o r =
    failWhen r.rfail 0x07 z (reached (z.intoTier x.ctx o.handle (r.place == 0)) (State.opened x.ctx o)) :=
  (failWhen_false (Option.isNone_eq_false_iff.2 hown)).trans ((failWhen_false (bne_eq_false_iff_eq.2 hw)).trans
    (failWhen_false (Bool.and_eq_false_iff.2 (hp.imp bne_eq_false_iff_eq.2 (congrArg not)))))

end

omit h in
theorem Rec.inPool_of_pool {r : Rec} (h : r.tier = .pool) : r.inPool = true := by
  rw [Rec.inPool, h]

omit h in
theorem Rec.inPool_of_hbm {r : Rec} (h : r.tier = .hbm) : r.inPool = false := by
  rw [Rec.inPool, h]

omit h in
theorem Rec.inHbm_of_hbm {r : Rec} (h : r.tier = .hbm) : r.inHbm = true := by
  rw [Rec.inHbm, h]

omit h in
/-- A tensor that lies where its placement is. -/
theorem Rec.placed_of_tier {r : Rec} (hpool : r.place = 0 → r.tier = .pool) (hhbm : r.place ≠ 0 → r.tier = .hbm) :
    (if r.place = 0 then r.inPool else r.inHbm) = true ∧ r.away = false := by
  by_cases h0 : r.place = 0
  · exact ⟨(if_pos h0).trans (Rec.inPool_of_pool (hpool h0)), congrArg Tier.away (hpool h0)⟩
  · exact ⟨(if_neg h0).trans (Rec.inHbm_of_hbm (hhbm h0)), congrArg Tier.away (hhbm h0)⟩

omit h in
/-- What a TREVOKE comes to. -/
def State.revokes (z : State) (st : StreamId) (x : Stream) (w : Nat) : Recd :=
  let y := z.windowAt w
  if y.revoker = some st then (if y.state = 3 then .done (z.setWindow w { y with revoker := none }) else .wait z)
  else failWhen (y.state != 1 || y.ctx != x.ctx || y.revoker.isSome) 0x05 z (.wait (z.setWindow w { y with revoker := some st }))

theorem exec_trevoke (w : Nat) : exec (.trevoke st w) s = ((s.taken st x).revokes st x w).ends s st x := by
  change execTrevoke st w s = _
  exact onStream_takes h _

omit h in
section
variable {z : State} {w : Nat} (hrev : (z.windowAt w).revoker = none)
include hrev

theorem State.revokes_new : z.revokes st x w = failWhen ((z.windowAt w).state != 1 || (z.windowAt w).ctx != x.ctx ||
    (z.windowAt w).revoker.isSome) 0x05 z (.wait (z.setWindow w { z.windowAt w with revoker := some st })) :=
  if_neg fun hst => Option.some_ne_none st (hst.symm.trans hrev)

theorem State.revokes_starts (hstate : (z.windowAt w).state = 1) (hctx : (z.windowAt w).ctx = x.ctx) :
    z.revokes st x w = .wait (z.setWindow w { z.windowAt w with revoker := some st }) :=
  (State.revokes_new hrev).trans (failWhen_false (Bool.or_eq_false_iff.2
    ⟨Bool.or_eq_false_iff.2 ⟨bne_eq_false_iff_eq.2 hstate, bne_eq_false_iff_eq.2 hctx⟩, congrArg Option.isSome hrev⟩))

theorem State.revokes_foreign (hforeign : (z.windowAt w).state ≠ 1 ∨ (z.windowAt w).ctx ≠ x.ctx) :
    z.revokes st x w = .fault 0x05 z :=
  (State.revokes_new hrev).trans (failWhen_true (Bool.or_eq_true_iff.2
    (.inl (Bool.or_eq_true_iff.2 (hforeign.imp bne_iff_ne.2 bne_iff_ne.2)))))

end

end

/-- Settles O40: a stream moves on or faults, and scans and windows start and end as their checks say. -/
theorem streamsScansAndWindows : Obligations.StreamsScansAndWindows := by
  refine ⟨⟨fun t st x h => recordDone_moves h, fun t st x c n h hc => recordFaults_stops h hc n⟩, fun s st x c h => ?_⟩
  intro z
  refine ⟨fun o hbad => exec_scan_bad h hbad, fun o r d hbad hsig hr hd hfmt hraw hcount hcap hrec htier hpacked => ?scanned,
    fun o r d hbad hsig hr hd hfmt hraw hcount hcap hpins => ?scans,
    fun o r hacc hcount hhandle hr hrec hrange hpins => ?opened, fun w => ?revoked⟩
  case scanned =>
    exact (exec_scan h hbad hsig hr hd hfmt hraw hcount hcap (.inr (Rec.inPool_of_hbm htier))).trans (congrArg (Recd.ends s st x) (reached_of_eq
      (State.intoTier_of_here hrec (congrArg Tier.away htier) ((if_neg Bool.false_ne_true).trans (Rec.inHbm_of_hbm htier)) hpacked)))
  case scans =>
    intro into
    exact ⟨fun hok => (exec_scan h hbad hsig hr hd hfmt hraw hcount hcap hpins).trans (congrArg (Recd.ends s st x) (reached_ok hok)),
      fun hfail => (exec_scan h hbad hsig hr hd hfmt hraw hcount hcap hpins).trans (congrArg (Recd.ends s st x) (reached_fail hfail)),
      fun hpending hrun => (exec_scan h hbad hsig hr hd hfmt hraw hcount hcap hpins).trans
        ((congrArg (Recd.ends s st x) (reached_pending hpending)).trans (Recd.ends_wait hrun _))⟩
  case opened =>
    have heq := exec_texport h hacc hcount hhandle hr hrange hpins
    refine ⟨fun hown => heq.trans (Recd.ends_failWhen_true (Option.isNone_iff_eq_none.2 hown)),
      fun hown hw => heq.trans (congrArg (Recd.ends s st x) (State.exports_busy hown hw)),
      fun hown hw hp hplace => heq.trans (congrArg (Recd.ends s st x) (State.exports_elsewhere hown hw hp hplace)),
      fun hown hw hp hfail => heq.trans (congrArg (Recd.ends s st x) ((State.exports_placed hown hw hp).trans (failWhen_true hfail))),
      fun hown hw hfail hpacked hpool hhbm => ?_⟩
    obtain ⟨hhere, haway⟩ := Rec.placed_of_tier hpool hhbm
    have hinto := State.intoTier_of_here (pool := r.place == 0) hrec haway ((if_congr beq_iff_eq rfl rfl).trans hhere) hpacked
    exact heq.trans (congrArg (Recd.ends s st x) ((State.exports_placed hown hw (.inr hhere)).trans
      ((failWhen_false hfail).trans (reached_of_eq hinto))))
  case revoked =>
    exact ⟨fun hrev hstate => (exec_trevoke h w).trans (congrArg (Recd.ends s st x) ((if_pos hrev).trans (if_pos hstate))),
      fun hrev hstate hctx hrun => (exec_trevoke h w).trans
        ((congrArg (Recd.ends s st x) (State.revokes_starts hrev hstate hctx)).trans (Recd.ends_wait hrun _)),
      fun hrev hforeign => (exec_trevoke h w).trans (congrArg (Recd.ends s st x) (State.revokes_foreign hrev hforeign))⟩

end Sys2Proof.Machine
end

/-! PROOFS. MBOXFREE of a mailbox whose handler runs (spec/14_die_dispatch_specialisation.md R328). -/
section
namespace Sys2Proof.Machine

section
variable {s : State} {st : StreamId} {x : Stream} {c : Context}

/-- While its handler runs, a mailbox that is freed is closed to further handlers, and the stream waits. -/
theorem exec_mboxfree_busy (h : s.takes st x c) {m : Nat} (hm : c.allocated st.die 2 m = true)
    (hbound : ((s.taken st x).boxAt st.die m).bound.isSome = true) (hbusy : ((s.taken st x).boxAt st.die m).busy = true)
    (hrun : x.run = .running) : exec (.mboxfree st m) s =
      State.recordWaits ((s.taken st x).putBox st.die m { (s.taken st x).boxAt st.die m with closing := true }) st := by
  change execMboxfree st m s = _
  rw [execMboxfree, onStream_takes h]
  dsimp only
  rw [Recd.ends_failWhen, if_neg (by simp [hm]), if_neg (by simpa [Option.isSome_iff_ne_none] using hbound), if_pos hbusy,
    Recd.ends_wait hrun]

end

/-! ## A mailbox in use -/

namespace BusyBox

/-- Stream slot 0 of die 0. -/
def slot : StreamId := ⟨0, 0⟩

/-- A stream that runs, in context 1. -/
def stream : Stream :=
  { ctx := 1, handle := 1, off := 0, stop_ := 64, pri := 0, run := .running, slots := [], stop := false, afterPhase := 0
    phaseSlots := [], serial := 0 }

/-- Context 1, which owns mailbox 0 of die 0. -/
def context : Context := { Context.new 1 0 with sync := [(0, 2, 0, 0)] }

/-- Mailbox 0: bound to a handler that runs. -/
def box : Mailbox := { Mailbox.init with bound := some (0, 2, 3, 1), busy := true }

/-- The device with that stream, context and mailbox. -/
def state : State := (({ State.reset with contexts := [context] } : State).setStream slot (some stream)).putBox 0 0 box

theorem takes : state.takes slot stream context := by decide

/-- The mailbox is as it was once the stream has taken its record. -/
theorem boxAt_taken : (state.taken slot stream).boxAt 0 0 = box := by decide

end BusyBox

/-- Refutes O38: an MBOXFREE that waits for a running handler marks the mailbox as closing, which the clause on it leaves out. -/
theorem not_launchRecordsExecute : ¬ Obligations.LaunchRecordsExecute := by
  intro h
  obtain ⟨-, -, -, -, -, -, -, -, hfree, -⟩ := h BusyBox.state BusyBox.slot BusyBox.stream BusyBox.context BusyBox.takes
  have hbox := BusyBox.boxAt_taken
  have hall : BusyBox.context.allocated 0 2 0 = true := by decide
  have hbound : ((BusyBox.state.taken BusyBox.slot BusyBox.stream).boxAt 0 0).bound.isSome = true := by rw [hbox]; rfl
  have hbusy : ((BusyBox.state.taken BusyBox.slot BusyBox.stream).boxAt 0 0).busy = true := by rw [hbox]; rfl
  have hwaits := (hfree 0 hall).2.1 hbound hbusy rfl
  rw [exec_mboxfree_busy BusyBox.takes hall hbound hbusy rfl] at hwaits
  have hclosing := congrArg (fun t => (t.boxAt 0 0).closing) (Host.Outcome.next.inj hwaits)
  exact absurd hclosing (by decide)

end Sys2Proof.Machine
end

/-! PROOFS. Residency records (spec/18_package_residency.md R384 to R390). -/
section
namespace Sys2Proof.Machine

section
variable {s : State} {st : StreamId} {x : Stream} {c : Context} (h : s.takes st x c)
include h

/-! ## Declarations and uses (R385, R386) -/

omit h in
/-- A record that is declared once it has been given its pages; without room the stream faults (R385). -/
def TDecl_placed (ctx handle : Nat) (r : Rec) (place : Option (List (Nat × Nat)) × State) : Recd :=
  place.1.elim (.fault 0x07 place.2) fun pages =>
    .done (({ place.2 with recs := place.2.recs ++ [{ r with pages := pages }] } : State).storeCells ctx handle)

omit h in
/-- What a declaration comes to. -/
def State.declared (z : State) (x : Stream) (c : Context) (o : TDecl) : Recd :=
  let k := Store.get KeySlot.empty z.keys o.key
  let r := TDecl_record o x.ctx c.phase
  failWhen (TDecl_bad o (z.diePresent o.die)) 0x02 z
    (failWhen (!(k.valid && k.owner == x.ctx && o.key != 0)) 0x03 z
      (failWhen (z.recAt x.ctx o.handle).isSome 0x05 z
        (TDecl_placed x.ctx o.handle r (z.placeIn x.ctx o.handle o.die (o.place == 0) r.fullFootprint r.fullFootprint))))

theorem exec_tdecl (o : TDecl) : exec (.tdecl st o) s = ((s.taken st x).declared x c o).ends s st x := by
  change execTdecl st o s = _
  refine (onStream_takes h _).trans (congrArg (Recd.ends s st x) ?_)
  refine congrArg (failWhen _ _ _) (congrArg (failWhen _ _ _) (congrArg (failWhen _ _ _) ?_))
  dsimp only
  rcases (s.taken st x).placeIn x.ctx o.handle o.die (o.place == 0) (TDecl_record o x.ctx c.phase).fullFootprint
    (TDecl_record o x.ctx c.phase).fullFootprint with ⟨_ | _, _⟩ <;> rfl

omit h in
section
variable {z : State} {o : TDecl} (hbad : TDecl_bad o (z.diePresent o.die) = false)
include hbad

theorem State.declared_keyless (hkey : ((Store.get KeySlot.empty z.keys o.key).valid &&
    (Store.get KeySlot.empty z.keys o.key).owner == x.ctx && o.key != 0) = false) : z.declared x c o = .fault 0x03 z :=
  (failWhen_false hbad).trans (failWhen_true (congrArg not hkey))

variable (hkey : ((Store.get KeySlot.empty z.keys o.key).valid &&
    (Store.get KeySlot.empty z.keys o.key).owner == x.ctx && o.key != 0) = true)
include hkey

theorem State.declared_again (hrec : (z.recAt x.ctx o.handle).isSome = true) : z.declared x c o = .fault 0x05 z :=
  (failWhen_false hbad).trans ((failWhen_false (congrArg not hkey)).trans (failWhen_true hrec))

theorem State.declared_new (hrec : z.recAt x.ctx o.handle = none) : z.declared x c o =
    TDecl_placed x.ctx o.handle (TDecl_record o x.ctx c.phase) (z.placeIn x.ctx o.handle o.die (o.place == 0)
      (TDecl_record o x.ctx c.phase).fullFootprint (TDecl_record o x.ctx c.phase).fullFootprint) :=
  (failWhen_false hbad).trans ((failWhen_false (congrArg not hkey)).trans (failWhen_false (congrArg Option.isSome hrec)))

end

omit h in
section
variable {ctx handle : Nat} {r : Rec} {place : Option (List (Nat × Nat)) × State}

theorem TDecl_placed_none (hnone : place.1 = none) : TDecl_placed ctx handle r place = .fault 0x07 place.2 :=
  congrArg (Option.elim · _ _) hnone

theorem TDecl_placed_some {pages : List (Nat × Nat)} (hpages : place.1 = some pages) : TDecl_placed ctx handle r place =
    .done (({ place.2 with recs := place.2.recs ++ [{ r with pages := pages }] } : State).storeCells ctx handle) :=
  congrArg (Option.elim · _ _) hpages

end

omit h in
/-- What a TUSE comes to. -/
def State.usesGiven (z : State) (x : Stream) (c : Context) (us : List (Nat × Nat)) : Recd :=
  failWhen (us.isEmpty || us.any fun u => u.1 == 0) 0x02 z
    (failWhen (us.any fun u => (z.liveRec x.ctx u.1).isNone) 0x08 z
      (.done (us.foldl (fun s u =>
        s.mapRec x.ctx u.1 fun r => { r with nextUse := if u.2 = 4095 then costOff else (c.cstep + u.2) % 2 ^ 32 }) z)))

theorem exec_tuse (us : List (Nat × Nat)) : exec (.tuse st us) s = ((s.taken st x).usesGiven x c us).ends s st x := by
  change execTuse st us s = _
  exact onStream_takes h _

omit h in
theorem State.usesGiven_bad {z : State} {us : List (Nat × Nat)} (hbad : us = [] ∨ ∃ u ∈ us, u.1 = 0) : z.usesGiven x c us = .fault 0x02 z :=
  failWhen_true (Bool.or_eq_true_iff.2 (hbad.imp List.isEmpty_iff.2 fun ⟨u, hu, h0⟩ => List.any_eq_true.2 ⟨u, hu, beq_iff_eq.2 h0⟩))

omit h in
section
variable {z : State} {us : List (Nat × Nat)} (hne : us ≠ []) (hhandles : ∀ u ∈ us, u.1 ≠ 0)
include hne hhandles

theorem TUse_fields : (us.isEmpty || us.any fun u => u.1 == 0) = false :=
  Bool.or_eq_false_iff.2 ⟨Bool.eq_false_iff.2 (mt List.isEmpty_iff.1 hne),
    List.any_eq_false.2 fun u hu => Bool.eq_false_iff.1 (beq_eq_false_iff_ne.2 (hhandles u hu))⟩

theorem State.usesGiven_live (hlive : ∀ u ∈ us, (z.liveRec x.ctx u.1).isSome = true) : z.usesGiven x c us = .done (us.foldl (fun s u =>
    s.mapRec x.ctx u.1 fun r => { r with nextUse := if u.2 = 4095 then costOff else (c.cstep + u.2) % 2 ^ 32 }) z) :=
  (failWhen_false (TUse_fields hne hhandles)).trans (failWhen_false
    (List.any_eq_false.2 fun u hu => Bool.eq_false_iff.1 (Option.isNone_eq_false_iff.2 (hlive u hu))))

theorem State.usesGiven_dead (hdead : ∃ u ∈ us, z.liveRec x.ctx u.1 = none) : z.usesGiven x c us = .fault 0x08 z :=
  (failWhen_false (TUse_fields hne hhandles)).trans (failWhen_true
    (List.any_eq_true.2 (hdead.imp fun _ h => ⟨h.1, Option.isNone_iff_eq_none.2 h.2⟩)))

end

omit h in
/-- The launch that a recipe's record asks for, where it is one without a signal. -/
def launchOf (st : StreamId) (words : List Nat) : Option OpLaunch :=
  match decodeRecord st words with
  | some (.oplaunch _ l) => if l.sigKind = 0 then some l else none
  | _ => none

omit h in
theorem launchOf_of_launch {words : List Nat} {l : OpLaunch} (hl : decodeRecord st words = some (.oplaunch st l))
    (hsig : l.sigKind = 0) : launchOf st words = some l := by
  rw [launchOf, hl]
  exact if_pos hsig

/-! ## Recipes (R387) -/

omit h in
/-- The inputs of a recipe. -/
abbrev TRecipe_inputs (o : TRecipe) : List Nat := [o.in0, o.in1, o.in2, o.in3].take o.nin

omit h in
/-- The words of a recipe's record. -/
abbrev TRecipe_words (o : TRecipe) (r : Rec) (i : Nat) : List Nat :=
  (List.range 8).map fun j => r.word (o.off + 32 * i + 4 * j) 4

omit h in
/-- The launches that a recipe's record asks for, one per record. -/
def TRecipe_launches (st : StreamId) (o : TRecipe) (r : Rec) : List (Option OpLaunch) :=
  (List.range (o.nrec + 1)).map fun i => launchOf st (TRecipe_words o r i)

omit h in
theorem TRecipe_launches_some {o : TRecipe} {r : Rec} {p : OpLaunch → Prop}
    (hlaunch : ∀ i, i < o.nrec + 1 → ∃ l : OpLaunch,
      decodeRecord st (TRecipe_words o r i) = some (.oplaunch st l) ∧ l.sigKind = 0 ∧ p l) :
    ∀ l ∈ TRecipe_launches st o r, ∃ a, l = some a ∧ p a := fun _ hl =>
  have ⟨i, hi, heq⟩ := List.mem_map.1 hl
  have ⟨a, hdecode, hsig, hp⟩ := hlaunch i (List.mem_range.1 hi)
  ⟨a, heq.symm.trans (launchOf_of_launch hdecode hsig), hp⟩

section
variable {ls : List (Option OpLaunch)} {p : OpLaunch → Prop} (hls : ∀ l ∈ ls, ∃ a, l = some a ∧ p a)
include hls

omit h in
theorem any_isNone_of_some : (ls.any (·.isNone)) = false :=
  List.any_eq_false.2 fun l hl => have ⟨_, heq, _⟩ := hls l hl; heq ▸ Bool.false_ne_true

omit h in
theorem any_launch_of_some {f : OpLaunch → Bool} (hf : ∀ a, p a → f a = false) :
    (ls.any fun l => match l with | some l => f l | none => false) = false :=
  List.any_eq_false.2 fun l hl => have ⟨a, heq, hp⟩ := hls l hl; heq ▸ Bool.eq_false_iff.1 (hf a hp)

end

omit h in
/-- What a TRECIPE comes to once the tensor of its records is resident. -/
def State.recipeBound (z : State) (st : StreamId) (x : Stream) (o : TRecipe) (r0 : Rec) : Recd :=
  let r := z.asRead r0
  let s := z.homeFetch x.ctx o.stream o.off (32 * (o.nrec + 1))
  failWhen (decide (r0.bytes < o.off + 32 * (o.nrec + 1))) 0x02 z
    (failWhen ((TRecipe_launches st o r).any (·.isNone)) 0x02 s
      (failWhen ((TRecipe_launches st o r).any fun l =>
          match l with
          | some l => (s.liveRec x.ctx l.kernel).isNone || (s.liveRec x.ctx l.args).isNone
          | none => false) 0x08 s
        (.done (s.mapRec x.ctx o.target fun t =>
          let p : Recipe := ⟨o.stream, o.off, o.nrec + 1, o.work, TRecipe_inputs o, []⟩
          { t with recipe := some { p with refs := r.refsOf p }, rcp := true, rfail := false }))))

omit h in
/-- A recipe whose launches are in order is bound to its target. -/
theorem State.recipeBound_ok {z : State} {o : TRecipe} {r : Rec} (hbytes : o.off + 32 * (o.nrec + 1) ≤ r.bytes)
    (hlaunch : ∀ i, i < o.nrec + 1 → ∃ l : OpLaunch,
      decodeRecord st (TRecipe_words o (z.asRead r) i) = some (.oplaunch st l) ∧ l.sigKind = 0 ∧
      ((z.homeFetch x.ctx o.stream o.off (32 * (o.nrec + 1))).liveRec x.ctx l.kernel).isSome = true ∧
      ((z.homeFetch x.ctx o.stream o.off (32 * (o.nrec + 1))).liveRec x.ctx l.args).isSome = true) :
    z.recipeBound st x o r = .done ((z.homeFetch x.ctx o.stream o.off (32 * (o.nrec + 1))).mapRec x.ctx o.target fun t =>
      let p : Recipe := ⟨o.stream, o.off, o.nrec + 1, o.work, TRecipe_inputs o, []⟩
      { t with recipe := some { p with refs := (z.asRead r).refsOf p }, rcp := true, rfail := false }) :=
  have hls := TRecipe_launches_some hlaunch
  (failWhen_false (decide_eq_false (Nat.not_lt.2 hbytes))).trans ((failWhen_false (any_isNone_of_some hls)).trans
    (failWhen_false (any_launch_of_some hls fun _ h =>
      Bool.or_eq_false_iff.2 ⟨Option.isNone_eq_false_iff.2 h.1, Option.isNone_eq_false_iff.2 h.2⟩)))

section
variable {o : TRecipe} {r : Rec} (hnin : o.nin ≤ 4) (hoff : o.off % 32 = 0) (hlt : o.off < 2 ^ 27) (htarget : o.target ≠ 0)
  (hstream : o.stream ≠ 0) (hinputs : ∀ h ∈ TRecipe_inputs o, h ≠ 0)
include hnin hoff hlt htarget hstream hinputs

omit h in
theorem TRecipe_fields : (o.off % 32 != 0 || 2 ^ 27 ≤ o.off || 4 < o.nin || o.target == 0 || o.stream == 0 ||
    (TRecipe_inputs o).any (· == 0)) = false := by
  simp only [Bool.or_eq_false_iff]
  exact ⟨⟨⟨⟨⟨bne_eq_false_iff_eq.2 hoff, decide_eq_false (Nat.not_le.2 hlt)⟩, decide_eq_false (Nat.not_lt.2 hnin)⟩,
    beq_eq_false_iff_ne.2 htarget⟩, beq_eq_false_iff_ne.2 hstream⟩,
    List.any_eq_false.2 fun h hh => Bool.eq_false_iff.1 (beq_eq_false_iff_ne.2 (hinputs h hh))⟩

/-- A recipe whose fields and tensors are in order comes to what its records say. -/
theorem exec_trecipe (hlive : ((s.taken st x).liveRec x.ctx o.target).isSome = true)
    (hlives : ∀ h ∈ TRecipe_inputs o, ((s.taken st x).liveRec x.ctx h).isSome = true)
    (hr : (s.taken st x).liveRec x.ctx o.stream = some r) (hrec : (s.taken st x).recAt x.ctx o.stream = some r)
    (haway : r.away = false) : exec (.trecipe st o) s = ((s.taken st x).recipeBound st x o r).ends s st x := by
  have hlives' : ((o.target :: o.stream :: TRecipe_inputs o).any fun h => ((s.taken st x).liveRec x.ctx h).isNone) = false :=
    List.any_eq_false.2 (List.forall_mem_cons.2 ⟨Bool.eq_false_iff.1 (Option.isNone_eq_false_iff.2 hlive),
      List.forall_mem_cons.2 ⟨Bool.eq_false_iff.1 (congrArg Option.isNone hr),
        fun h hh => Bool.eq_false_iff.1 (Option.isNone_eq_false_iff.2 (hlives h hh))⟩⟩)
  change execTrecipe st o s = _
  refine (onStream_takes h _).trans (congrArg (Recd.ends s st x) ?_)
  refine (failWhen_false (TRecipe_fields hnin hoff hlt htarget hstream hinputs)).trans ((failWhen_false hlives').trans ?_)
  refine (reached_of_eq (State.reach_read_of_resident hrec haway)).trans ?_
  change (match (s.taken st x).liveRec x.ctx o.stream with
    | none => _
    | some r0 => (s.taken st x).recipeBound st x o r0 : Recd) = _
  rw [hr]

end

/-! ## Releases and pins (R384, R388, R389) -/

section
variable {n : Nat} {r : Rec} (hn : n ≠ 0) (hr : (s.taken st x).liveRec x.ctx n = some r)

omit h in
theorem handleFault_of_none {z : State} {ctx n : Nat} (hnone : z.liveRec ctx n = none) :
    handleFault z ctx n = some (if n = 0 then 0x02 else 0x08) := by
  rw [handleFault, hnone]
  split <;> rfl

omit h in
theorem handleFault_of_live {z : State} {ctx n : Nat} {r : Rec} (hn : n ≠ 0) (hr : z.liveRec ctx n = some r) :
    handleFault z ctx n = none :=
  (if_neg hn).trans (if_neg (Bool.eq_false_iff.1 (congrArg Option.isNone hr)))

theorem exec_trelease_none (hnone : (s.taken st x).liveRec x.ctx n = none) :
    exec (.trelease st n) s = (s.taken st x).recordFaults st x (if n = 0 then 0x02 else 0x08) := by
  change execTrelease st n s = _
  exact (onStream_takes h _).trans (Recd.ends_faultIf_some (handleFault_of_none hnone) _ _)

theorem exec_tunpin_none (hnone : (s.taken st x).liveRec x.ctx n = none) :
    exec (.tunpin st n) s = (s.taken st x).recordFaults st x (if n = 0 then 0x02 else 0x08) := by
  change execTunpin st n s = _
  exact (onStream_takes h _).trans (Recd.ends_faultIf_some (handleFault_of_none hnone) _ _)

theorem exec_tpin_tier3 : exec (.tpin st 3 n) s = (s.taken st x).recordFaults st x 0x02 := by
  change execTpin st 3 n s = _
  exact (onStream_takes h _).trans (Recd.ends_failWhen_true (beq_self_eq_true 3))

omit h in
/-- What the release of a record comes to. -/
def State.releases (z : State) (ctx : Nat) (c : Context) (n : Nat) (r : Rec) : Recd :=
  if r.pins ≠ 0 then .fault 0x05 z
  else if r.running || r.moving then .wait z
  else .done ((z.dropLines r).mapRec ctx n fun r => { r with live := false, retained := true, releasedIn := some c.phase })

omit h in
/-- A record with one pin more. -/
def State.pinned (ctx n : Nat) (t : State) : Recd := .done (t.mapRec ctx n fun r => { r with pins := r.pins + 1 })

omit h in
/-- A record with one pin less; one without a pin is a fault. -/
def State.unpins (z : State) (ctx n : Nat) (r : Rec) : Recd :=
  failWhen (r.pins == 0) 0x05 z (.done (z.mapRec ctx n fun r => { r with pins := r.pins - 1 }))

include hn hr

theorem exec_trelease : exec (.trelease st n) s = ((s.taken st x).releases x.ctx c n r).ends s st x := by
  change execTrelease st n s = _
  refine (onStream_takes h _).trans (congrArg (Recd.ends s st x) ((faultIf_none (handleFault_of_live hn hr) _ _).trans ?_))
  rw [hr]
  rfl

theorem exec_tunpin : exec (.tunpin st n) s = ((s.taken st x).unpins x.ctx n r).ends s st x := by
  change execTunpin st n s = _
  refine (onStream_takes h _).trans (congrArg (Recd.ends s st x) ((faultIf_none (handleFault_of_live hn hr) _ _).trans ?_))
  rw [hr]
  rfl

/-- A tensor that may be pinned in a tier is made resident there, and has one pin more. -/
theorem exec_tpin {tier : Nat} (htier : tier < 3) (hpins : r.pins ≠ 255) (hhere : r.pins = 0 ∨
    (if (if tier = 0 then r.place == 0 else tier == 1) then r.inPool else r.inHbm) = true) (hfail : r.rfail = false) :
    exec (.tpin st tier n) s = (reached ((s.taken st x).intoTier x.ctx n (if tier = 0 then r.place == 0 else tier == 1))
      (State.pinned x.ctx n)).ends s st x := by
  change execTpin st tier n s = _
  refine (onStream_takes h _).trans (congrArg (Recd.ends s st x) ((failWhen_false (beq_eq_false_iff_ne.2 htier.ne)).trans
    ((faultIf_none (handleFault_of_live hn hr) _ _).trans ?_)))
  rw [hr]
  refine (if_neg ?_).trans (if_neg (Bool.eq_false_iff.1 hfail))
  exact not_or.2 ⟨hpins, fun hnot => hhere.elim hnot.1 fun hhere => Bool.false_ne_true (hnot.2.symm.trans hhere)⟩

end

/-! ## Queries (R390) -/

omit h in
/-- The number that a query of a handle brings: the image of its record, or 0. -/
def State.queried (z : State) (ctx n : Nat) : Nat := match z.recAt ctx n with | some r => r.recordImage (z.written r) | none => 0

/-- The image of a handle's record is written to the result. -/
theorem exec_tquery {n q : Nat} {d : Rec} (hn : n ≠ 0) (hq : q ≠ 0) (hd : (s.taken st x).liveRec x.ctx q = some d)
    (hbytes : 64 ≤ d.bytes) (hrec : (s.taken st x).recAt x.ctx q = some d) (haway : d.away = false)
    (hdep : (s.taken st x).dependent x.ctx q = none) :
    exec (.tquery st n q) s = State.recordDone
      (((s.taken st x).beforeWrite x.ctx q 0 64 false).homeWrite x.ctx q 0 (toBytes 64
        ((s.taken st x).queried x.ctx n))).2 st := by
  have hlong : (match (s.taken st x).liveRec x.ctx q with | some r => decide (r.bytes < 64) | none => true) = false := by
    rw [hd]
    exact decide_eq_false (Nat.not_lt.2 hbytes)
  have hbs := toBytes_length 64 ((s.taken st x).queried x.ctx n)
  change execTquery st n q s = (Recd.done (((s.taken st x).beforeWrite x.ctx q 0 64 false).homeWrite x.ctx q 0
    (toBytes 64 ((s.taken st x).queried x.ctx n))).2).ends s st x
  refine (onStream_takes h _).trans (congrArg (Recd.ends s st x) ?_)
  refine (failWhen_false (Bool.or_eq_false_iff.2 ⟨beq_eq_false_iff_ne.2 hn, beq_eq_false_iff_ne.2 hq⟩)).trans
    ((failWhen_false hlong).trans ((reached_of_eq (State.reach_write_of_resident hrec haway hdep)).trans ?_))
  exact congrArg (fun m => Recd.done (((s.taken st x).beforeWrite x.ctx q 0 m false).homeWrite x.ctx q 0
    (toBytes 64 ((s.taken st x).queried x.ctx n))).2) hbs

end

theorem ite_self_of_ne {a b : Bool} (h : a = !b) : (if a then a else b) = true := by
  subst h
  cases b <;> rfl

/-- Settles O39: each residency record comes to its effect, its wait or its fault. -/
theorem residencyRecordsExecute : Obligations.ResidencyRecordsExecute := by
  intro s st x c h z keyOk
  refine ⟨fun o => ?declare, fun us hne hhandles => ?uses, fun us hbad => ?nouse, fun o r => ?recipe,
    fun n r hn hr => ?held, fun n hnone => ⟨exec_trelease_none h hnone, exec_tunpin_none h hnone⟩,
    fun n q d hn hq hd hbytes hrec haway hdep => exec_tquery h hn hq hd hbytes hrec haway hdep⟩
  case declare =>
    refine ⟨fun hbad => (exec_tdecl h o).trans (Recd.ends_failWhen_true hbad),
      fun hbad => ⟨fun hkey => (exec_tdecl h o).trans (congrArg (Recd.ends s st x) (State.declared_keyless hbad hkey)),
        fun hkey hrec => (exec_tdecl h o).trans (congrArg (Recd.ends s st x) (State.declared_again hbad hkey hrec)), fun hkey hrec => ?_⟩⟩
    exact ⟨fun hnone => (exec_tdecl h o).trans (congrArg (Recd.ends s st x) ((State.declared_new hbad hkey hrec).trans (TDecl_placed_none hnone))),
      fun pages hpages => (exec_tdecl h o).trans
        (congrArg (Recd.ends s st x) ((State.declared_new hbad hkey hrec).trans (TDecl_placed_some hpages)))⟩
  case uses =>
    exact ⟨fun hlive => (exec_tuse h us).trans (congrArg (Recd.ends s st x) (State.usesGiven_live hne hhandles hlive)),
      fun hdead => (exec_tuse h us).trans (congrArg (Recd.ends s st x) (State.usesGiven_dead hne hhandles hdead))⟩
  case nouse => exact (exec_tuse h us).trans (congrArg (Recd.ends s st x) (State.usesGiven_bad hbad))
  case recipe =>
    intro inputs hnin hoff hlt htarget hstream hinputs hlive hlives hr hrec haway hbytes y z' p hlaunch
    exact (exec_trecipe h hnin hoff hlt htarget hstream hinputs hlive hlives hr hrec haway).trans
      (congrArg (Recd.ends s st x) (State.recipeBound_ok hbytes hlaunch))
  case held =>
    refine ⟨fun hpins => (exec_trelease h hn hr).trans (congrArg (Recd.ends s st x) (if_pos hpins)),
      fun hpins hrun huse => (exec_trelease h hn hr).trans ((congrArg (Recd.ends s st x) ((if_neg (not_not.2 hpins)).trans
        (if_pos (Bool.or_eq_true_iff.2 huse)))).trans (Recd.ends_wait hrun _)),
      fun hpins hidle hstill => (exec_trelease h hn hr).trans (congrArg (Recd.ends s st x) ((if_neg (not_not.2 hpins)).trans
        (if_neg (Bool.eq_false_iff.1 (Bool.or_eq_false_iff.2 ⟨hidle, hstill⟩))))),
      fun hpins => (exec_tunpin h hn hr).trans (congrArg (Recd.ends s st x) (failWhen_true (beq_iff_eq.2 hpins))),
      fun hpins => (exec_tunpin h hn hr).trans (congrArg (Recd.ends s st x) (failWhen_false (beq_eq_false_iff_ne.2 hpins))),
      fun tier htier hpins hfail haway hpacked hrec hpool hside => ?_, fun tier htier hpins hfail => ?_, exec_tpin_tier3 h⟩
    · have hhere := (congrArg (fun b : Bool => if b then r.inPool else r.inHbm) hpool).trans (ite_self_of_ne hside)
      exact (exec_tpin h hn hr htier hpins.ne (.inr hhere) hfail).trans
        (congrArg (Recd.ends s st x) (reached_of_eq (State.intoTier_of_here hrec haway hhere hpacked)))
    · intro into
      have heq := exec_tpin h hn hr htier (by rw [hpins]; decide) (.inl hpins) hfail
      exact ⟨fun hok => heq.trans (congrArg (Recd.ends s st x) (reached_ok hok)),
        fun hbad => heq.trans (congrArg (Recd.ends s st x) (reached_fail hbad)),
        fun hpending hrun => heq.trans ((congrArg (Recd.ends s st x) (reached_pending hpending)).trans (Recd.ends_wait hrun _))⟩

end Sys2Proof.Machine
end

/-! PROOFS. Tensors that are brought back (spec/18_package_residency.md R379). -/
section
namespace Sys2Proof.Machine

section
variable {s : State} {ctx h : Nat} {r : Rec}

/-! ## References that are settled (R379) -/

theorem State.settledRef_none (hr : s.recAt ctx h = none) : s.settledRef ctx h = some .fail := by
  rw [State.settledRef, hr]

theorem State.settledRef_resident (hr : s.recAt ctx h = some r) (haway : r.away = false) : s.settledRef ctx h = some .ok := by
  rw [State.settledRef, hr]
  simp [haway]

theorem State.settledRef_failed (hr : s.recAt ctx h = some r) (haway : r.away = true) (hfail : r.rfail = true) :
    s.settledRef ctx h = some .fail := by
  rw [State.settledRef, hr]
  simp [haway, hfail]

/-- A tensor that is away, without a failed or running attempt, is brought back. -/
theorem State.settledRef_open (hr : s.recAt ctx h = some r) (haway : r.away = true) (hfail : r.rfail = false)
    (hrebuild : r.rebuild = 0) : s.settledRef ctx h = none := by
  rw [State.settledRef, hr]
  simp [haway, hfail, hrebuild]

theorem State.makeResident_settled {a : Attempt} (ha : s.settledRef ctx h = some a) (n : Nat) :
    s.makeResident ctx n h = (a, s) := by
  cases n with
  | zero => rw [State.makeResident, ha]; rfl
  | succ n => rw [State.makeResident, ha]

/-! ## Recipes that start (R379) -/

/-- References that are brought back in their order, until one is not resident. -/
def State.readied (ctx n : Nat) (a : Attempt × State) (refs : List Nat) : Attempt × State :=
  refs.foldl (fun (a : Attempt × State) i => match a with | (.ok, s) => State.makeResident ctx n i s | r => r) a

theorem State.readied_resident {n : Nat} {refs : List Nat}
    (hres : ∀ i ∈ refs, ∃ q, s.recAt ctx i = some q ∧ q.away = false) : State.readied ctx n (.ok, s) refs = (.ok, s) := by
  induction refs with
  | nil => rfl
  | cons i refs ih =>
    obtain ⟨q, hq, haway⟩ := hres i List.mem_cons_self
    exact (congrArg (State.readied ctx n · refs) (State.makeResident_settled (State.settledRef_resident hq haway) n)).trans
      (ih fun i hi => hres i (List.mem_cons_of_mem _ hi))

/-- The recipe `p` of the tensor `h` starts where what it names has been brought back. -/
def State.startRecipe (ctx h : Nat) (r : Rec) (p : Recipe) : Attempt × State → Attempt × State
  | (.fail, s) => (.fail, s.failResident ctx h)
  | (.pending, s) => (.pending, s)
  | (.ok, s) =>
    let (pages, s1) := (s.useRecs ctx (h :: s.recipeRefs ctx p)).placeIn ctx h r.home (r.place == 0) r.fullFootprint r.fullFootprint
    let refs := (s.recipeRefs ctx p).drop p.names.length
    let x := { r with rebuild := 1, redo := some { p with refs := refs } }
    let s2 := (s1.untranslate ctx h).mapRec ctx h fun q =>
      { q with moving := true, rebuild := 1, redo := x.redo, pages := pages.getD [] }
    if pages.isSome then (.pending, (s2.freePages x).reissue x) else (.fail, s2.endRebuild x false)

/-- The start of a recipe, of which all is resident, is a search for pages. -/
theorem State.startRecipe_ok (p : Recipe) : (State.startRecipe ctx h r p (.ok, s)).2 =
    let place := (s.useRecs ctx (h :: s.recipeRefs ctx p)).placeIn ctx h r.home (r.place == 0) r.fullFootprint r.fullFootprint
    let x := { r with rebuild := 1, redo := some { p with refs := (s.recipeRefs ctx p).drop p.names.length } }
    let y := (place.2.untranslate ctx h).mapRec ctx h fun q =>
      { q with moving := true, rebuild := 1, redo := x.redo, pages := place.1.getD [] }
    if place.1.isSome then (y.freePages x).reissue x else y.endRebuild x false := by
  rw [State.startRecipe]
  rcases (s.useRecs ctx (h :: s.recipeRefs ctx p)).placeIn ctx h r.home (r.place == 0) r.fullFootprint r.fullFootprint with ⟨_ | _, _⟩ <;> rfl

/-- All that a recipe names is brought back, and the recipe starts. -/
def State.runRecipe (s : State) (ctx h : Nat) (r : Rec) (p : Recipe) : Attempt × State :=
  let inputs := State.readied ctx s.recs.length (.ok, s) (p.inputs ++ [p.stream])
  State.startRecipe ctx h r p (State.readied ctx s.recs.length inputs (inputs.2.recipeRefs ctx p))

theorem State.runRecipe_resident {p : Recipe}
    (hres : ∀ i ∈ p.inputs ++ [p.stream] ++ s.recipeRefs ctx p, ∃ q, s.recAt ctx i = some q ∧ q.away = false) :
    s.runRecipe ctx h r p = State.startRecipe ctx h r p (.ok, s) := by
  rw [State.runRecipe, State.readied_resident fun i hi => hres i (List.mem_append_left _ hi)]
  exact congrArg _ (State.readied_resident fun i hi => hres i (List.mem_append_right _ hi))

/-! ## Tensors that are brought back -/

section
variable (hr : s.recAt ctx h = some r) (hopen : s.settledRef ctx h = none)
include hr hopen

/-- A spilled tensor returns where it finds room. -/
theorem State.bringBack_spilled (htier : r.tier = .lpddr) : s.bringBack ctx h =
    let place := s.placeIn ctx h r.home (r.place == 0) r.footprint r.footprint
    place.1.elim (.fail, place.2.failResident ctx h) fun pages =>
      (.ok, (place.2.dropLines r).relocate ctx h fun r => { r with tier := r.atPlace, pages := pages }) := by
  rw [State.bringBack, State.makeResident, hopen, hr]
  refine (if_pos htier).trans ?_
  rcases s.placeIn ctx h r.home (r.place == 0) r.footprint r.footprint with ⟨_ | _, _⟩ <;> rfl

/-- A dropped tensor is brought back by what its recipe says. -/
theorem State.bringBack_dropped (htier : r.tier ≠ .lpddr) :
    s.bringBack ctx h = r.recipe.elim (.fail, s.failResident ctx h) (s.runRecipe ctx h r) := by
  rw [State.bringBack, State.makeResident, hopen, hr]
  refine (if_neg htier).trans ?_
  cases r.recipe <;> rfl

/-- A dropped tensor without a recipe cannot be brought back. -/
theorem State.bringBack_lost (htier : r.tier ≠ .lpddr) (hrecipe : r.recipe = none) :
    s.bringBack ctx h = (.fail, s.failResident ctx h) :=
  (State.bringBack_dropped hr hopen htier).trans (congrArg (Option.elim · _ _) hrecipe)

/-- The recipe of a dropped tensor starts where all that it names is resident. -/
theorem State.bringBack_recipe (htier : r.tier ≠ .lpddr) {p : Recipe} (hrecipe : r.recipe = some p)
    (hres : ∀ i ∈ p.inputs ++ [p.stream] ++ s.recipeRefs ctx p, ∃ q, s.recAt ctx i = some q ∧ q.away = false) :
    s.bringBack ctx h = State.startRecipe ctx h r p (.ok, s) :=
  (State.bringBack_dropped hr hopen htier).trans ((congrArg (Option.elim · _ _) hrecipe).trans
    (State.runRecipe_resident hres))

end

end

/-- Settles O36: a reference is settled, or its tensor is brought back, re-issued or marked. -/
theorem tensorsMadeResident : Obligations.TensorsMadeResident := by
  intro id h s leads
  have hleads {t : State} (ht : (s.bringBack id h).2 = t) : leads t :=
    congrArg (fun t => Host.Outcome.next ([0, 1, 2, 3].foldl State.tryAllNamed t)) ht
  have hsettled {a : Attempt} (ha : s.settledRef id h = some a) : leads s :=
    hleads (congrArg Prod.snd (State.makeResident_settled ha _))
  refine ⟨fun hnone => hsettled (State.settledRef_none hnone), fun r hr =>
    ⟨fun haway => hsettled (State.settledRef_resident hr haway),
      fun haway hfail => hsettled (State.settledRef_failed hr haway hfail), fun haway hfail hrebuild htier => ?spilled,
      fun haway hfail hrebuild htier hrecipe => hleads (congrArg Prod.snd
        (State.bringBack_lost hr (State.settledRef_open hr haway hfail hrebuild) htier hrecipe)),
      fun p haway hfail hrebuild htier hrecipe hres => hleads ((congrArg Prod.snd
        (State.bringBack_recipe hr (State.settledRef_open hr haway hfail hrebuild) htier hrecipe hres)).trans
          (State.startRecipe_ok p))⟩⟩
  case spilled =>
    intro place
    have hback := State.bringBack_spilled hr (State.settledRef_open hr haway hfail hrebuild) htier
    have hpair {a : Attempt} {t : State} (ht : s.bringBack id h = (a, t)) : leads t := hleads (congrArg Prod.snd ht)
    refine ⟨fun pages hpages => hpair (a := .ok) (hback.trans ?_), fun hnone => hpair (a := .fail) (hback.trans ?_)⟩
    · exact congrArg (Option.elim · _ _) hpages
    · exact congrArg (Option.elim · _ _) hnone

end Sys2Proof.Machine
end

/-! PROOFS. The ports of HBM stacks and the end of a scan (spec/19_package_memory.md R392 to R395, R397). -/
section
namespace Sys2Proof.Machine

section
variable {s : State}

/-! ## Sending (R392) -/

theorem atStack_next {k : Nat → State → State} (h : s.diePresent (s.unit / 2) = true) : atStack s k = .next (k s.unit s) := if_pos h

/-- A request takes the tag `g`. -/
def State.tagReq (s : State) (k : Nat) (r : HbmReq) (g : Nat) : State :=
  { s.setStack k ((s.stackAt k).mapReq r.id fun r => { r with tag := some g }) with free := s.free + 1 }

/-- What the head of a port does: it takes one of its pseudo-channel's free tags. -/
def State.tagHead (s : State) (k : Nat) (r : HbmReq) : State :=
  let ts := (s.stackAt k).freeTags r.pc
  match ts[Config.choose s.free % ts.length]? with
  | none => s
  | some g => s.tagReq k r g

/-- The request `r` of the port `k`, where it is found, acts. -/
def State.onReq (s : State) (f : HbmReq → State) : Option HbmReq → State
  | none => s
  | some r => f r

section
variable (hd : s.diePresent (s.unit / 2) = true) {r : HbmReq}
  (hr : (s.stackAt s.unit).queue.find? (fun r => r.tag.isNone) = some r)
include hd hr

theorem exec_hbmRequestSend : exec .hbmRequestSend s = .next (s.tagHead s.unit r) := by
  change execHbmRequestSend s = _
  exact (atStack_next hd).trans (congrArg (fun o => Host.Outcome.next (s.onReq (s.tagHead s.unit) o)) hr)

/-- The head takes a tag that is free. -/
theorem hbmRequestSend_tag (hfree : (s.stackAt s.unit).freeTags r.pc ≠ []) :
    ∃ (t : State) (g : Nat), exec .hbmRequestSend s = .next t ∧ g ∈ (s.stackAt s.unit).freeTags r.pc ∧
      t.stackAt s.unit = (s.stackAt s.unit).mapReq r.id (fun r => { r with tag := some g }) ∧ t.recs = s.recs ∧ t.core = s.core := by
  have hlt := Nat.mod_lt (Config.choose s.free) (List.length_pos_iff.2 hfree)
  have ht : s.tagHead s.unit r = s.tagReq s.unit r
      ((s.stackAt s.unit).freeTags r.pc)[Config.choose s.free % ((s.stackAt s.unit).freeTags r.pc).length] := by
    rw [State.tagHead, List.getElem?_eq_getElem hlt]
  exact ⟨_, _, (exec_hbmRequestSend hd hr).trans (congrArg Host.Outcome.next ht), List.getElem_mem hlt,
    Store.get_set_self _ _ _ _, rfl, rfl⟩

/-- Without a free tag the whole port stalls. -/
theorem hbmRequestSend_stalls (hfull : (s.stackAt s.unit).freeTags r.pc = []) : exec .hbmRequestSend s = .next s := by
  rw [exec_hbmRequestSend hd hr, State.tagHead, hfull]
  rfl

end

/-! ## Performing (R393, R394) -/

section
variable (hd : s.diePresent (s.unit / 2) = true) {n : Nat} {r : HbmReq}
  (hr : (s.stackAt s.unit).queue.find? (fun r => r.id == n) = some r)
include hd hr

/-- A request in the state `t` is answered. -/
def State.answerReq (t : State) (k n status : Nat) (v : V512) (check : BitVec 16) : State :=
  t.setStack k ((t.stackAt k).mapReq n fun e => { e with reply := some (status, v, check) })

/-- What performing a request does to the state `s` where nothing holds it back. -/
def State.performReq (s : State) (k n : Nat) (r : HbmReq) : State :=
  if r.op = 1 ∨ (r.op = 2 ∧ r.mask = BitVec.allOnes 64) then (s.writeCell k r.gran r.key r.data r.flaw).answerReq k n 0 0 0
  else
    let (status, v, check) := s.readCell k r.gran r.key
    if r.op = 0 then (s.correctCell k r.gran).answerReq k n status v check
    else
      let t := s.sawCell k r.gran (s.keyAt r.key).owner
      if status ≠ 0 then t.answerReq k n status 0 0
      else (t.writeCell k r.gran r.key (mergeBytes v r.data r.mask.toNat) r.flaw).answerReq k n 0 0 0

/-- What holds a request back: it has no tag, it has a reply, or an earlier one to its granule is open. -/
def Stack.holdsBack (x : Stack) (n : Nat) (r : HbmReq) : Prop :=
  r.tag.isNone ∨ r.reply.isSome = true ∨
    ((x.queue.takeWhile fun e => e.id != n).any fun e => e.gran == r.gran && e.reply.isNone) = true

omit hd hr in
theorem Stack.not_holdsBack {x : Stack} (htag : r.tag.isSome = true) (hreply : r.reply = none)
    (hahead : ((x.queue.takeWhile fun e => e.id != n).any fun e => e.gran == r.gran && e.reply.isNone) = false) :
    ¬ x.holdsBack n r := by
  rw [Stack.holdsBack, hreply, hahead, Option.isNone_eq_false_iff.2 htag]
  decide

/-- A request that nothing holds back is performed. -/
theorem exec_hbmRequestPerform (hheld : ¬ (s.stackAt s.unit).holdsBack n r) :
    exec (.hbmRequestPerform n) s = .next (s.performReq s.unit n r) := by
  change execHbmRequestPerform n s = _
  exact (atStack_next hd).trans (congrArg Host.Outcome.next ((congrArg (s.onReq _) hr).trans (if_neg hheld)))

omit hd hr in
/-- A read answers with what its granule holds. -/
theorem State.performReq_read (hop : r.op = 0) (k : Nat) : s.performReq k n r = (s.correctCell k r.gran).setStack k
    (((s.correctCell k r.gran).stackAt k).mapReq n fun e => { e with reply := some (s.readCell k r.gran r.key) }) :=
  (if_neg (by simp [hop])).trans (if_pos hop)

omit hd hr in
/-- A whole write of good data stores its granule. -/
theorem State.performReq_write (hop : r.op = 1) (hflaw : r.flaw = Flaw.clean) (k : Nat) :
    s.performReq k n r = (s.writeCell k r.gran r.key r.data Flaw.clean).answerReq k n 0 0 0 :=
  hflaw ▸ if_pos (.inl hop)

omit hd hr in
/-- A granule that is written stands in its cell, and the other cells stay. -/
theorem State.cells_writeCell (s : State) (k g key : Nat) (v : V512) (x : Flaw) (j : Nat) :
    Store.get none ((s.writeCell k g key v x).stackAt k).cells j =
      if j = g then some (s.cellOf key (hbmTweak k g) v x) else Store.get none (s.stackAt k).cells j := by
  rw [State.writeCell, State.setCell, State.stackAt_setStack, if_pos rfl, Store.get_set]

omit hd hr in
/-- An answer leaves the cells. -/
theorem State.cells_answerReq (t : State) (k n g : Nat) :
    Store.get none ((t.answerReq k n 0 0 0).stackAt k).cells g = Store.get none (t.stackAt k).cells g :=
  (congrArg (fun x => Store.get none (Stack.cells x) g) (Store.get_set_self _ _ _ _)).trans rfl

/-- A reply frees its request's tag. -/
theorem exec_hbmReply (hreply : r.reply.isSome = true) : exec (.hbmReply n) s =
    .next (s.setStack s.unit { s.stackAt s.unit with queue := (s.stackAt s.unit).queue.filter fun e => e.id != n }) := by
  change execHbmReply n s = _
  exact (atStack_next hd).trans (congrArg Host.Outcome.next
    ((congrArg (s.onReq _) hr).trans (if_neg fun h => nomatch (Option.isNone_iff_eq_none.1 h) ▸ hreply)))

end

/-! ## The end of a scan (R395, R397) -/

/-- The end of the scan `j` of the tensor `r`. -/
def State.endScan (s : State) (j : ScanJob) (r : Rec) : State :=
  let found := s.scanFound j.o r
  let kept := found.take j.o.cap
  let bytes := scanHeader (Scan_status (s.scanMarks j.o r)) kept.length (min found.length (2 ^ 32 - 1)) ++
    kept.flatMap fun e => toBytes 8 (e.1 % 2 ^ 32 + e.2 * 2 ^ 32)
  let z := (((s.sawScan j.o r).beforeWrite j.ctx j.o.res 0 bytes.length false).homeWrite j.ctx j.o.res 0 bytes).2
  (({ z.unuseRecs j.ctx [j.o.src, j.o.res] with scans := z.scans.filter fun x => x.id != j.id } : State).signal
    noTask j.ctx j.die j.o.sigKind j.o.sigId 0x20 []).tryAllNamed j.die

/-- The end of a scan that met no mark. -/
theorem State.endScan_unmarked {s : State} {j : ScanJob} {r : Rec} (hmarks : s.scanMarks j.o r = []) :
    s.endScan j r =
      let found := s.scanFound j.o r
      let kept := found.take j.o.cap
      let bytes := scanHeader 0 kept.length (min found.length (2 ^ 32 - 1)) ++
        kept.flatMap fun e => toBytes 8 (e.1 % 2 ^ 32 + e.2 * 2 ^ 32)
      let z := (((s.sawScan j.o r).beforeWrite j.ctx j.o.res 0 bytes.length false).homeWrite j.ctx j.o.res 0 bytes).2
      (({ z.unuseRecs j.ctx [j.o.src, j.o.res] with scans := z.scans.filter fun x => x.id != j.id } : State).signal
        noTask j.ctx j.die j.o.sigKind j.o.sigId 0x20 []).tryAllNamed j.die := by
  rw [State.endScan, hmarks]
  rfl

/-- What a scan does whose records are `r` and `d`. -/
def State.scanEnds (s : State) (j : ScanJob) (r d : Rec) : Host.Outcome State Fault Refusal :=
  if s.scanBehind j = true ∨ d.moving = true ∨ (d.away && !d.rfail) = true ∨ (s.dependent j.ctx j.o.res).isSome = true then .next s
  else .next (s.endScan j r)

section
variable {j : ScanJob} {r d : Rec}

theorem exec_scanComplete (hj : s.scans.find? (fun j => j.id == s.unit) = some j)
    (hr : s.recAt j.ctx j.o.src = some r) (hd : s.recAt j.ctx j.o.res = some d) :
    exec .scanComplete s = s.scanEnds j r d := by
  change execScanComplete s = _
  rw [execScanComplete, hj]
  dsimp only
  rw [hr, hd]
  rfl

/-- A scan waits behind another one, or for its result tensor. -/
theorem State.scanEnds_waits (h : s.scanBehind j = true ∨ d.moving = true ∨ (d.away = true ∧ d.rfail = false) ∨
    (s.dependent j.ctx j.o.res).isSome = true) : s.scanEnds j r d = .next s :=
  if_pos (h.imp_right (Or.imp_right (Or.imp_left fun ⟨haway, hfail⟩ => by rw [haway, hfail]; rfl)))

/-- A scan that waits for nothing ends. -/
theorem State.scanEnds_next (hbehind : s.scanBehind j = false) (hmoving : d.moving = false)
    (haway : d.away = false ∨ d.rfail = true) (hdep : s.dependent j.ctx j.o.res = none) :
    s.scanEnds j r d = .next (s.endScan j r) := by
  refine if_neg ?_
  rw [hbehind, hmoving, hdep]
  rcases haway with haway | haway <;> simp [haway]

end

end

/-- Settles O37: requests at HBM ports are sent, performed and answered, and a scan ends with its result. -/
theorem hbmPortAndScans : Obligations.HbmPortAndScans := by
  refine ⟨fun s hd => ⟨fun r hr hfree => hbmRequestSend_tag hd hr hfree, fun r hr hfull => hbmRequestSend_stalls hd hr hfull,
    fun n r hr htag hreply hahead => ?perform, fun n r hr hreply => ⟨_, exec_hbmReply hd hr hreply, Store.get_set_self _ _ _ _, rfl⟩⟩,
    fun s j r d hj hr hd => ⟨fun h => (exec_scanComplete hj hr hd).trans (State.scanEnds_waits h),
      fun hbehind hmoving haway hdep hmarks => (exec_scanComplete hj hr hd).trans
        ((State.scanEnds_next hbehind hmoving haway hdep).trans (congrArg Host.Outcome.next (State.endScan_unmarked hmarks)))⟩⟩
  have hexec := exec_hbmRequestPerform hd hr (Stack.not_holdsBack htag hreply hahead)
  exact ⟨fun hop => hexec.trans (congrArg Host.Outcome.next (State.performReq_read hop _)), fun hop hflaw =>
    ⟨_, hexec.trans (congrArg Host.Outcome.next (State.performReq_write hop hflaw _)), Store.get_set_self _ _ _ _,
      fun g hg => (State.cells_answerReq _ _ _ _).trans ((s.cells_writeCell _ _ _ _ _ g).trans (if_neg hg)),
      _, (State.cells_answerReq _ _ _ _).trans ((s.cells_writeCell _ _ _ _ _ _).trans (if_pos rfl)), rfl, rfl⟩⟩

end Sys2Proof.Machine
end

/-! PROOFS. Placing tasks, resuming images and ageing (spec/14_die_dispatch_specialisation.md R329 to R331; spec/01 R15, R31; spec/10
R264). -/
section
namespace Sys2Proof.Machine

section
variable {s : State} {l : Launch}

/-! ## A task at its start (R15, R27) -/

section
variable (c : Core) (l : Launch) (ord started clk : Nat)

theorem Core.readX_startTask {n : Nat} (hn : n < 64) : (c.startTask l ord started clk).readX n = 0 :=
  (if_congr Iff.rfl rfl (if_neg (Nat.not_le.2 hn))).trans (ite_self 0)

/-- The kernel's values stand in the registers from 64 on (R31). -/
theorem Core.readX_startTask_known {n : Nat} (hn : n < 32) :
    (c.startTask l ord started clk).readX (64 + n) = (l.kvals[n]?).getD 0 := by
  have hpos : 64 + n ≠ 0 := Nat.ne_of_gt (Nat.add_pos_left (by decide) n)
  rw [Core.readX, if_neg hpos, if_pos (Nat.le_add_right 64 n), Nat.add_sub_cancel_left]
  exact Store.get_foldl_set_of_mem 0 Function.injective_id (fun i => (l.kvals[i]?).getD 0) [] (List.mem_range.2 hn)

theorem Core.readP_startTask (n : Nat) : (c.startTask l ord started clk).readP n = (n == 0) := by
  rw [Core.readP]
  exact Bool.or_false _

theorem Core.pad_startTask : (c.startTask l ord started clk).pad.mem = c.pad.mem := by
  change (match l.bankInit with | none => _ | some bs => _ : Pad).mem = _
  cases l.bankInit <;> rfl

/-- What a task finds on its hearth. -/
def Core.Started (c : Core) (l : Launch) (x : Core) : Prop :=
  x.mode = .running ∧ x.task.launch = l.id ∧ x.task.ord = l.next ∧ x.task.wid = BitVec.ofNat 64 (widOf l.widths l.extents l.next) ∧
    x.code = l.code ∧ x.seq.pc = l.code.entry ∧ x.fly = [] ∧ x.wait = .none ∧ (∀ n, n < 64 → x.readX n = 0) ∧
    (∀ n, n < 32 → x.readX (64 + n) = (l.kvals[n]?).getD 0) ∧ (∀ n, x.readP n = (n == 0)) ∧ x.pad.mem = c.pad.mem ∧ x.st.srkey = l.seed

theorem Core.started_startTask : c.Started l (c.startTask l l.next started clk) :=
  ⟨rfl, rfl, rfl, rfl, rfl, rfl, rfl, rfl, fun _ hn => Core.readX_startTask _ _ _ _ _ hn,
    fun _ hn => Core.readX_startTask_known _ _ _ _ _ hn, Core.readP_startTask _ _ _ _ _, Core.pad_startTask _ _ _ _ _, rfl⟩

end

/-! ## A task alone on a hearth (R329, R330) -/

theorem Launch.groupSize_alone (hfuse : l.code.fuseReq = false) : l.groupSize = 1 := by
  rw [Launch.groupSize, hfuse]
  rfl

/-- A task that starts alone changes its hearth, and the count of saturated records of its context. -/
theorem State.startTask_alone {α : Type} {p : State → α} (hp : ∀ (t : State) (id : Nat) (f : Context → Context), p (t.mapCtx id f) = p t)
    (s : State) (hfuse : l.code.fuseReq = false) (ord h : Nat) :
    ∃ clk, p (s.startTask l ord h) = p (s.fresh.2.mapCoreAt h fun c => c.startTask l ord s.nextId clk) := by
  have heq : s.startTask l ord h = if (joined [] l.known).2 then State.countSat _ l.ctx else _ := if_neg (Bool.eq_false_iff.1 hfuse)
  exact ⟨_, (congrArg p heq).trans ((apply_ite p ..).trans ((if_congr Iff.rfl (hp ..) rfl).trans (ite_self _)))⟩

/-- A launch that stands alone places its next task. -/
def State.launched (s : State) (l : Launch) : State :=
  { s with launches := s.launches.map fun x => if x.id = l.id then { x with next := x.next + 1, asked := false } else x }

theorem State.placeFresh_alone (s : State) (hfuse : l.code.fuseReq = false) (h : Nat) :
    s.placeFresh l [h] = (s.launched l).startTask l l.next h := by
  rw [State.placeFresh, Launch.groupSize_alone hfuse, hfuse]
  rfl

section
variable {n : Nat} (hd : s.diePresent s.unit = true) (hcand : s.nextCand s.unit = some (.fresh l, l, n))
include hd hcand

theorem exec_taskPlace {base : List Nat} (hshape : s.shapeFor l n [] = some base) :
    exec .taskPlace s = .next (s.placeFresh l base) := by
  change execTaskPlace s = _
  refine (atDie_next _ hd).trans (congrArg Host.Outcome.next ?_)
  rw [hcand]
  dsimp only
  rw [hshape]

/-- Without a free shape the task asks for one. -/
theorem exec_taskPlace_full (hshape : s.shapeFor l n [] = none) : exec .taskPlace s = .next (s.askFor (.fresh l) l n) := by
  change execTaskPlace s = _
  refine (atDie_next _ hd).trans (congrArg Host.Outcome.next ?_)
  rw [hcand]
  dsimp only
  rw [hshape]

end

theorem State.askFor_asked (s : State) (hasked : l.asked = true) (n : Nat) : s.askFor (.fresh l) l n = s :=
  if_pos (Bool.or_eq_true_iff.2 (.inl hasked))

/-- A task that is placed alone starts on its hearth, and nothing else changes but its launch. -/
theorem State.placeFresh_leaves (s : State) (hfuse : l.code.fuseReq = false) (h : Nat) :
    (∀ g, g ≠ h → (s.placeFresh l [h]).coreAt g = s.coreAt g) ∧
      (s.placeFresh l [h]).launches = s.launches.map (fun x => if x.id = l.id then { x with next := x.next + 1, asked := false } else x) ∧
      (s.placeFresh l [h]).nextId = s.nextId + 1 ∧ (s.placeFresh l [h]).streets = s.streets ∧ (s.placeFresh l [h]).recs = s.recs ∧
      (s.coreAt h).Started l ((s.placeFresh l [h]).coreAt h) := by
  rw [s.placeFresh_alone hfuse]
  have hcore (g : Nat) := (s.launched l).startTask_alone (p := (State.coreAt · g)) (fun _ _ _ => rfl) hfuse l.next h
  refine ⟨fun g hg => ?_, ?_, ?_, ?_, ?_, ?_⟩
  · exact (hcore g).elim fun _ heq => heq.trans ((State.coreAt_mapCoreAt ..).trans (if_neg hg))
  · exact ((s.launched l).startTask_alone (p := State.launches) (fun _ _ _ => rfl) hfuse l.next h).elim fun _ heq =>
      heq.trans (State.mapCoreAt_launches ..)
  · exact ((s.launched l).startTask_alone (p := State.nextId) (fun _ _ _ => rfl) hfuse l.next h).elim fun _ heq =>
      heq.trans (State.mapCoreAt_field (fun _ _ _ => rfl) ..)
  · exact ((s.launched l).startTask_alone (p := State.streets) (fun _ _ _ => rfl) hfuse l.next h).elim fun _ heq =>
      heq.trans (State.mapCoreAt_streets ..)
  · exact ((s.launched l).startTask_alone (p := State.recs) (fun _ _ _ => rfl) hfuse l.next h).elim fun _ heq =>
      heq.trans (State.mapCoreAt_field (fun _ _ _ => rfl) ..)
  · exact (hcore h).elim fun _ heq => (heq.trans ((State.coreAt_mapCoreAt ..).trans (if_pos rfl))) ▸ Core.started_startTask ..

/-! ## Images that resume (R264) -/

section
variable {r : Ready} {n : Nat} {base : List Nat}

theorem exec_taskResume (hd : s.diePresent s.unit = true) (hcand : s.nextCand s.unit = some (.back r, l, n))
    (hshape : s.shapeOf l (.back r) n [] = some base) : exec .taskResume s = .next (s.placeImages l (s.groupImages l r) base) := by
  change execTaskResume s = _
  refine (atDie_next _ hd).trans (congrArg Host.Outcome.next ?_)
  rw [hcand]
  dsimp only
  rw [hshape]

theorem State.placeImages_alone (s : State) (hfuse : l.code.fuseReq = false) (r : Ready) (h : Nat) :
    s.placeImages l [r] [h] = s.putImage r h := by
  rw [State.placeImages, hfuse]
  rfl

/-- An image goes on at its hearth, and leaves the images that wait. -/
theorem State.putImage_resumes (s : State) (r : Ready) (h : Nat) :
    (∃ clk, (s.putImage r h).coreAt h = (s.coreAt h).resumeImage r.image s.nextId clk) ∧
      (∀ g, g ≠ h → (s.putImage r h).coreAt g = s.coreAt g) ∧
      (s.putImage r h).ready = s.ready.filterMap fun x => if x = r then none else some x :=
  have hcore (g : Nat) := s.putImage_field (p := (State.coreAt · g)) (fun _ _ _ => rfl) r h
  ⟨(hcore h).imp fun _ heq => heq.trans ((State.coreAt_mapCoreAt ..).trans (if_pos rfl)),
    fun g hg => (hcore g).elim fun _ heq => heq.trans ((State.coreAt_mapCoreAt ..).trans (if_neg hg)),
    (s.putImage_field (p := State.ready) (fun _ _ _ => rfl) r h).elim fun _ heq =>
      heq.trans (congrArg (List.filterMap _) (State.mapCoreAt_field (p := State.ready) (fun _ _ _ => rfl) ..))⟩

/-- The images that wait but for one. -/
theorem filterMap_others (rs : List Ready) (r : Ready) :
    rs.filterMap (fun x => if x = r then none else some x) = rs.filter fun x => !decide (x = r) := by
  rw [← List.filterMap_eq_filter]
  refine List.filterMap_congr fun x _ => ?_
  by_cases hx : x = r
  · exact (if_pos hx).trans (if_neg (by simp [hx])).symm
  · exact (if_neg hx).trans (if_pos (by simp [hx])).symm

end

end

/-! ## Ageing (R331) -/

/-- A task not yet placed, or an image, moves up by one. -/
theorem priorityAging_raises (n : Nat) (s : State) : ∃ t : State, exec (.priorityAging n) s = .next t ∧ t.core = s.core ∧
    t.others = s.others ∧
    (s.unit = 0 → t.ready = s.ready ∧
      t.launches = s.launches.map fun l => if l.id = n ∧ l.next < l.total then { l with cur := l.cur - 1 } else l) ∧
    (s.unit ≠ 0 → t.launches = s.launches ∧
      t.ready = s.ready.map fun r =>
        if r.image.task.launch = n ∧ r.image.task.ord + 1 = s.unit then { r with cur := r.cur - 1 } else r) := by
  by_cases h0 : s.unit = 0
  · exact ⟨_, congrArg Host.Outcome.next (if_pos h0), rfl, rfl, fun _ => ⟨rfl, rfl⟩, fun h => absurd h0 h⟩
  · refine ⟨_, congrArg Host.Outcome.next (if_neg h0), rfl, rfl, fun h => absurd h h0, fun _ => ⟨rfl, ?_⟩⟩
    exact congrFun List.filterMap_eq_map' s.ready

/-- Settles O32: a ready task starts, an image resumes, and what waits ages. -/
theorem tasksArePlaced : Obligations.TasksArePlaced := by
  refine ⟨fun s l h hd hcand hfuse hshape => ⟨s.placeFresh l [h], exec_taskPlace hd hcand hshape, s.placeFresh_leaves hfuse h⟩,
    fun s l n base hd hcand => ⟨exec_taskPlace hd hcand, fun hshape hasked =>
      (exec_taskPlace_full hd hcand hshape).trans (congrArg _ (s.askFor_asked hasked n)), exec_taskPlace_full hd hcand⟩,
    fun s r l n base hd hcand hshape => ⟨exec_taskResume hd hcand hshape, fun h hn hbase hfuse hgroup => ?resume⟩,
    priorityAging_raises⟩
  case resume =>
    have hput : s.placeImages l (s.groupImages l r) base = s.putImage r h := by
      rw [hgroup, hbase]
      exact s.placeImages_alone hfuse r h
    have hkeeps := s.putImage_resumes r h
    exact ⟨_, (exec_taskResume hd hcand hshape).trans (congrArg _ hput), hkeeps.1, hkeeps.2.1, hkeeps.2.2.trans (filterMap_others _ _)⟩

end Sys2Proof.Machine
end

/-! PROOFS. The station of the device, its form, power and STATE (spec/00_scope.md R1; spec/20_package_host_firmware.md R402): hearths, records,
cells, caches, landing and the end of a bundle keep it. -/
section
namespace Sys2Proof.Machine

/-- Where the device stands between steps: its form, its power and its STATE (R1, R402). -/
def State.station (s : State) : Form × Bool × Nat := (s.form, s.powered, s.host.state)

/-- A run of changes that carries a state along keeps the station where each change does. -/
theorem station_foldl_of {α β : Type} (π : β → State) {f : β → α → β} (hf : ∀ b a, (π (f b a)).station = (π b).station)
    (b : β) (l : List α) : (π (l.foldl f b)).station = (π b).station := by
  induction l generalizing b with
  | nil => rfl
  | cons a l ih => exact (ih (f b a)).trans (hf b a)

@[simp] theorem station_foldl {α : Type} {f : State → α → State} (hf : ∀ s a, (f s a).station = s.station) (s : State)
    (l : List α) : (l.foldl f s).station = s.station := station_foldl_of (fun s => s) hf s l

@[simp] theorem station_ite {p : Prop} [Decidable p] (t u : State) :
    (if p then t else u).station = if p then t.station else u.station := apply_ite _ _ _ _

theorem station_of_snd {α : Type} {p : α × State} {a : α} {t s : State} (h : p = (a, t)) (hp : p.2.station = s.station) :
    t.station = s.station := by
  rw [← hp, h]

/-! A choice keeps the station where each branch does -/

section
variable {x : Form × Bool × Nat} {c : Prop} [Decidable c]

theorem ite_station_of {β : Type} (π : β → State) {p q : β} (hp : (π p).station = x) (hq : (π q).station = x) :
    (π (if c then p else q)).station = x := by
  split
  · exact hp
  · exact hq

theorem ite_station {t u : State} (ht : t.station = x) (hu : u.station = x) : (if c then t else u).station = x :=
  ite_station_of (fun s => s) ht hu

theorem ite_snd_station {α : Type} {p q : α × State} (hp : p.2.station = x) (hq : q.2.station = x) :
    (if c then p else q).2.station = x := ite_station_of Prod.snd hp hq
end

section
variable (s : State)
@[simp] theorem State.withRecs_station (l : List Rec) : ({ s with recs := l } : State).station = s.station := rfl
@[simp] theorem State.withLaunches_station (l : List Launch) : ({ s with launches := l } : State).station = s.station := rfl
@[simp] theorem State.withReqs_station (l : List SyncReq) : ({ s with reqs := l } : State).station = s.station := rfl
@[simp] theorem State.withFabric_station (x : Fabric) : ({ s with fabric := x } : State).station = s.station := rfl
@[simp] theorem State.withScans_station (l : List ScanJob) : ({ s with scans := l } : State).station = s.station := rfl
@[simp] theorem State.withContextsFabric_station (l : List Context) (x : Fabric) :
    ({ s with contexts := l, fabric := x } : State).station = s.station := rfl
end

section
variable (s : State)

/-! ## Hearths -/

@[simp] theorem State.setCoreAt_station (h : Nat) (c : Core) : (s.setCoreAt h c).station = s.station := ite_station rfl rfl

@[simp] theorem State.focus_station (h : Nat) : (s.focus h).station = s.station := ite_station rfl rfl
@[simp] theorem State.mapCore_station (f : Core → Core) : (s.mapCore f).station = s.station := rfl

@[simp] theorem State.mapCoreAt_station (h : Nat) (f : Core → Core) : (s.mapCoreAt h f).station = s.station := by
  simp [State.mapCoreAt]

@[simp] theorem State.mapDie_station (d : Nat) (f : Die → Die) : (s.mapDie d f).station = s.station := rfl
@[simp] theorem State.setStreet_station (n : Nat) (x : Street) : (s.setStreet n x).station = s.station := rfl
@[simp] theorem State.setSquare_station (n : Nat) (x : Square) : (s.setSquare n x).station = s.station := rfl
@[simp] theorem State.mapCtx_station (id : Nat) (f : Context → Context) : (s.mapCtx id f).station = s.station := rfl

/-! ## Errors in the hearth's own arrays (spec/15 R348 to R351) -/

@[simp] theorem State.logError_station (d : Nat) (w : W64) : (s.logError d w).station = s.station := rfl

@[simp] theorem State.sawWords_station (ctx : Nat) (p : OwnUnit) (ws : List Nat) :
    (s.sawWords ctx p ws).station = s.station := by
  unfold State.sawWords
  dsimp only
  split <;> rfl

@[simp] theorem State.logTrap_station (t : Trap) : (s.logTrap t).station = s.station := by
  unfold State.logTrap
  split <;> simp

/-! ## Results in flight (R66 to R69, R91) -/

/-! ## Landing records (R163 to R166) -/

@[simp] theorem State.mapTask_station (launch ord : Nat) (f : Core → Core) :
    (s.mapTask launch ord f).station = s.station := rfl

@[simp] theorem State.mapImages_station (f : Ready → Option Ready) : (s.mapImages f).station = s.station := rfl

@[simp] theorem State.freezeBy_station (f : Freeze) : (s.freezeBy f).station = s.station := by
  cases f with
  | plain => rfl
  | full q => rfl
  | wait => exact ite_station rfl rfl
  | stream n req => exact ite_station rfl rfl
  | flue n req => exact ite_station rfl rfl
  | fill => exact ite_station rfl rfl
  | win w row => exact ite_station rfl rfl

/-! ## Ending a task -/

@[simp] theorem State.useRecs_station (ctx : Nat) (hs : List Nat) : (s.useRecs ctx hs).station = s.station := rfl
@[simp] theorem State.unuseRecs_station (ctx : Nat) (hs : List Nat) : (s.unuseRecs ctx hs).station = s.station := rfl

@[simp] theorem State.unpin_station (q : Nat) (as : List Nat) : (s.unpin q as).station = s.station := ite_station rfl rfl

@[simp] theorem State.dropFill_station : s.dropFill.station = s.station := by
  unfold State.dropFill
  split
  · rfl
  · dsimp only
    split <;> exact s.unpin_station _ _

@[simp] theorem State.vacate_station (n : Nat) : (s.vacate n).station = s.station := ite_station rfl rfl
@[simp] theorem State.leaveStreet_station : s.leaveStreet.station = s.station := ite_station (State.vacate_station _ _) rfl

@[simp] theorem State.taskEnd_station (fail : Option Nat) : (s.taskEnd fail).station = s.station := by
  refine (ite_station (State.mapCoreAt_station _ _ _) rfl).trans ?_
  exact (ite_station (State.leaveStreet_station _) rfl).trans s.dropFill_station

@[simp] theorem State.fail_station (cause : Nat) (double : Bool) : (s.fail cause double).station = s.station := by
  refine (State.taskEnd_station _ _).trans ((State.focus_station _ _).trans ?_)
  refine (station_foldl (fun s g => ?_) _ _).trans (ite_station rfl rfl)
  exact (State.taskEnd_station _ _).trans (s.focus_station g)

/-! ## Taking a trap (R250 to R254) -/

@[simp] theorem State.stopPartner_station : s.stopPartner.station = s.station :=
  ite_station (ite_station rfl (s.setCoreAt_station _ _)) rfl

@[simp] theorem State.takeTrap_station (t : Trap) (slot : Nat) (reissue : Bool) (resume : Seq) (repleft pcRep : Nat) :
    (s.takeTrap t slot reissue resume repleft pcRep).station = s.station := by
  have hlog : (if fatalCause t.cause then s.logTrap t else s).station = s.station := ite_station (s.logTrap_station t) rfl
  have hstop := (State.stopPartner_station _).trans hlog
  unfold State.takeTrap
  refine ite_station ((State.fail_station _ _ _).trans hstop) ?_
  split
  · exact (State.fail_station _ _ _).trans hstop
  · exact ite_station hstop hstop

/-! ## Operands -/

/-! ## Errors -/

@[simp] theorem State.fireFor_station (t : Nat × Nat) (array : Nat) : (s.fireFor t array).2.station = s.station := by
  unfold State.fireFor
  split
  · rfl
  · exact ite_snd_station rfl rfl

@[simp] theorem State.fireOwn_station (p : OwnUnit) : (s.fireOwn p).station = s.station := ite_station rfl rfl

@[simp] theorem State.wroteUnit_station (u : Nat) (places : List Nat) : (s.wroteUnit u places).station = s.station :=
  (State.fireOwn_station _ _).trans (ite_station rfl (s.sawWords_station _ _ _))

/-! ## Cells -/

@[simp] theorem State.setStack_station (k : Nat) (x : Stack) : (s.setStack k x).station = s.station := rfl
@[simp] theorem State.setCell_station (k g : Nat) (c : Option HbmCell) : (s.setCell k g c).station = s.station := rfl

@[simp] theorem State.writeCell_station (k g key : Nat) (v : V512) (x : Flaw) :
    (s.writeCell k g key v x).station = s.station := rfl

@[simp] theorem State.correctCell_station (k g : Nat) : (s.correctCell k g).station = s.station := by
  unfold State.correctCell
  split <;> simp

@[simp] theorem State.freeCell_station (k g : Nat) : (s.freeCell k g).station = s.station := rfl

@[simp] theorem State.correctSpill_station (i : Nat) : (s.correctSpill i).station = s.station := by
  unfold State.correctSpill
  split
  · exact ite_station rfl rfl
  · rfl

@[simp] theorem State.setSpill_station (i : Nat) (c : Option HbmCell) : (s.setSpill i c).station = s.station := rfl

/-! ## Race -/

@[simp] theorem State.acquire_station (q : List Tag) : (s.acquire q).station = s.station := ite_station rfl rfl

@[simp] theorem State.raceAccess_station (d : Nat) (w : Who) (g : Nat) (write : Bool) :
    (s.raceAccess d w g write).2.station = s.station := by
  unfold State.raceAccess
  split
  · rfl
  · refine ite_snd_station rfl ?_
    dsimp only
    split
    · exact ite_snd_station rfl rfl
    · exact ite_snd_station rfl (ite_station rfl rfl)

@[simp] theorem State.report_station (q g : Nat) (w : Who) : (s.report q g w).station = s.station := rfl

/-! ## Records (R366) -/

@[simp] theorem State.mapRec_station (ctx h : Nat) (f : Rec → Rec) : (s.mapRec ctx h f).station = s.station := rfl

/-! ## HBM port traffic and the memory-side cache (R239, R370, R391, R394) -/

@[simp] theorem State.sidePut_station (d k : Nat) (l : Option Line) : (s.sidePut d k l).station = s.station := rfl

@[simp] theorem State.logHome_station (r : Rec) (at_ : Nat × Nat × Nat) (x : Flaw) :
    (s.logHome r at_ x).station = s.station := ite_station rfl rfl

@[simp] theorem State.setHome_station (r : Rec) (g : Nat) (x : Flaw) : (s.setHome r g x).station = s.station := rfl

@[simp] theorem State.hbmStore_station (t : Nat × Nat) (r : Rec) (g op : Nat) (v : V512) (mask : Nat)
    (x : Flaw) :
    (s.hbmStore t r g op v mask x).station = s.station := s.fireFor_station t 0x06

@[simp] theorem State.sideOut_station (k : Nat) (l : Line) : (s.sideOut k l).station = s.station := by
  unfold State.sideOut
  split <;> simp

@[simp] theorem State.sideInstall_station (t : Nat × Nat) (d : Nat) (l : Line) (hint : Nat) :
    (s.sideInstall t d l hint).station = s.station := by
  unfold State.sideInstall
  split
  · rfl
  · split
    · rfl
    · rename_i k old aged _
      have haged : (aged.foldl (fun s e => s.sidePut d e.1 e.2) s).station = s.station :=
        station_foldl (fun s e => State.sidePut_station _ _ _ _) s _
      cases old <;> simp [haged]

@[simp] theorem State.storeCells_station (ctx h : Nat) : (s.storeCells ctx h).station = s.station := by
  unfold State.storeCells
  split
  · rfl
  · exact station_foldl (fun s u => by split <;> simp) s _

@[simp] theorem State.freeCells_station (ctx h : Nat) : (s.freeCells ctx h).station = s.station := by
  unfold State.freeCells
  split
  · rfl
  · exact station_foldl (fun s u => by split <;> simp) s _

@[simp] theorem State.relocate_station (ctx h : Nat) (f : Rec → Rec) : (s.relocate ctx h f).station = s.station := by
  simp [State.relocate]

@[simp] theorem State.sawHome_station (r : Rec) (g : Nat) : (s.sawHome r g).station = s.station := by
  unfold State.sawHome
  refine ite_station rfl ?_
  split
  · exact s.logHome_station _ _ _
  · dsimp only
    split
    · exact (State.correctCell_station _ _ _).trans (s.logHome_station _ _ _)
    · exact (State.correctSpill_station _ _).trans (s.logHome_station _ _ _)
    · exact s.logHome_station _ _ _

@[simp] theorem State.homeTouch_station (t : Nat × Nat) (r : Rec) (g hint : Nat) :
    (s.homeTouch t r g hint).station = s.station := by
  refine ite_station rfl (station_foldl (fun s u => ?_) s _)
  dsimp only
  split
  · rfl
  · exact State.sideInstall_station _ _ _ _ _

/-! ## Images -/

@[simp] theorem State.dropCopies_station (d : Nat) (keep : Option Nat) (a : Nat) :
    (s.dropCopies d keep a).station = s.station :=
  station_foldl (fun s p => by simp only [station_ite]; split <;> [rfl; split <;> simp]) s _

@[simp] theorem State.homePut_station (t : Nat × Nat) (keep : Option Nat) (r : Rec) (g hint : Nat) (v : V512) (mask : Nat)
    (x : Flaw) :
    (s.homePut t keep r g hint v mask x).station = s.station := by
  have hdrop := s.dropCopies_station r.home keep (r.phys g)
  unfold State.homePut
  refine ite_station ((State.fireFor_station _ _ _).trans hdrop) ?_
  dsimp only
  split
  · exact (State.fireFor_station _ _ _).trans hdrop
  · exact ite_station ((State.sideInstall_station _ _ _ _ _).trans hdrop) ((State.hbmStore_station _ _ _ _ _ _ _ _).trans hdrop)

@[simp] theorem State.sawLine_station (q a : Nat) : (s.sawLine q a).station = s.station := by
  unfold State.sawLine
  split <;> simp

@[simp] theorem State.writeHome_station (q : Nat) (l : Line) : (s.writeHome q l).station = s.station := by
  unfold State.writeHome
  split <;> simp

@[simp] theorem State.install_station (q : Nat) (t : Nat × Nat) (l : Line) (h : Nat) :
    (s.install q t l h).station = s.station := by
  unfold State.install
  split
  · rfl
  · dsimp only
    split
    · rfl
    · refine (State.fireFor_station _ _ _).trans ?_
      split
      · exact ite_station (State.writeHome_station _ _ _) rfl
      · rfl

@[simp] theorem State.sawGran_station (q : Nat) (r : Rec) (g : Nat) : (s.sawGran q r g).station = s.station := by
  unfold State.sawGran
  refine ite_station (s.sawLine_station _ _) ?_
  split
  · exact s.sawLine_station _ _
  · exact s.sawHome_station _ _

/-! ## Granules read and written by a square -/

@[simp] theorem State.readGran_station (q : Nat) (t : Nat × Nat) (r : Rec) (g hint : Nat) :
    (s.readGran q t r g hint).2.2.station = s.station := by
  have hsaw := s.sawGran_station q r g
  unfold State.readGran
  dsimp only
  split
  · exact hsaw
  · exact (State.install_station _ _ _ _ _).trans (ite_station hsaw ((State.homeTouch_station _ _ _ _ _).trans hsaw))

@[simp] theorem State.writeGran_station (q : Nat) (t : Nat × Nat) (r : Rec) (g hint : Nat) (v : V512)
    (mask poison : Nat) :
    (s.writeGran q t r g hint v mask poison).2.station = s.station := by
  have hsaw : (if wholeMask mask then s else s.sawGran q r g).station = s.station := ite_station rfl (s.sawGran_station _ _ _)
  unfold State.writeGran
  refine ite_snd_station hsaw ?_
  refine ite_station ((State.homePut_station _ _ _ _ _ _ _ _ _).trans ?_) ?_
  all_goals
    dsimp only
    split
    · exact (State.fireFor_station _ _ _).trans ((State.dropCopies_station _ _ _ _).trans hsaw)
    · exact (State.install_station _ _ _ _ _).trans ((State.dropCopies_station _ _ _ _).trans hsaw)

@[simp] theorem State.squareFence_station (q : Nat) (wb inv : Bool) : (s.squareFence q wb inv).station = s.station := by
  refine ite_station (ite_station ?_ rfl) rfl
  exact station_foldl (fun s l => s.writeHome_station _ _) s _

@[simp] theorem State.untranslate_station (ctx h : Nat) : (s.untranslate ctx h).station = s.station := rfl
@[simp] theorem State.dropLines_station (r : Rec) : (s.dropLines r).station = s.station := by
  have hwrite (s : State) (q : Nat) (ls : List Line) : (ls.foldl (fun s l => s.writeHome q l) s).station = s.station :=
    station_foldl (fun s l => s.writeHome_station _ _) s _
  unfold State.dropLines
  extract_lets mine of s1 mineOf s2
  have hside : s2.station = s.station := by
    refine (station_foldl (fun s _ => s.sideOut_station _ _) _ _).trans (station_foldl (fun s q => ?_) s _)
    exact ite_station (hwrite s q _) (hwrite s q _)
  refine (State.untranslate_station _ _ _).trans ?_
  split
  · exact hside
  · exact (State.mapDie_station _ _ _).trans hside

/-! ## Before a write (R376, R377, R380, R382) -/

@[simp] theorem State.pageCopy_station (ctx h p : Nat) : (s.pageCopy ctx h p).station = s.station := by
  unfold State.pageCopy
  split
  · refine ite_station rfl (ite_station rfl ?_)
    split
    · rfl
    · refine (State.mapRec_station _ _ _ _).trans (station_foldl (fun s i => ?_) s _)
      exact State.writeCell_station _ _ _ _ _ _
  · rfl

@[simp] theorem State.dropReserve_station (p : Rec → Bool) : (s.dropReserve p).station = s.station := by
  refine (State.withRecs_station _ _).trans (station_foldl (fun s r => ?_) s _)
  exact station_foldl (fun s e => station_foldl (fun s i => State.setCell_station _ _ _ _) s _) s _

@[simp] theorem State.keepRefs_station (r : Rec) : (s.keepRefs r).station = s.station := rfl

@[simp] theorem State.freeRec_station (r : Rec) : (s.freeRec r).station = s.station :=
  (State.withRecs_station _ _).trans <| (State.freeCells_station _ _ _).trans ((State.dropReserve_station _ _).trans (s.dropLines_station r))

@[simp] theorem State.sweep_station (ctx phase n : Nat) : (State.sweep ctx phase n s).station = s.station := by
  induction n generalizing s with
  | zero => rfl
  | succ n ih =>
    rw [State.sweep]
    split
    · rfl
    · simp [ih]

@[simp] theorem State.unpack_station (ctx h : Nat) : (s.unpack ctx h).station = s.station := by
  unfold State.unpack
  split <;> simp

@[simp] theorem State.beforeWrite_station (ctx h off n : Nat) (reissue : Bool) :
    (s.beforeWrite ctx h off n reissue).station = s.station := by
  have hunpack := s.unpack_station ctx h
  have hcopies := (station_foldl (fun s p => s.pageCopy_station ctx h p) _ (pagesOf off n)).trans hunpack
  exact ite_station hunpack (ite_station ((State.sweep_station _ _ _ _).trans hcopies) hcopies)

/-! ## Reads and writes at the home (R303, R311) -/

@[simp] theorem State.recall_station (a : Nat) : (s.recall a).station = s.station :=
  station_foldl (fun s q => by split <;> simp) s _

@[simp] theorem State.homeGran_station (ctx h g : Nat) (v : V512) (mask : Nat) :
    (s.homeGran ctx h g v mask).2.station = s.station := by
  unfold State.homeGran
  split
  · rfl
  next r _ =>
    have hsaw : (if wholeMask mask then s.recall (r.phys g) else (s.recall (r.phys g)).sawHome r g).station = s.station :=
      ite_station (s.recall_station _) ((State.sawHome_station _ _ _).trans (s.recall_station _))
    refine ite_snd_station hsaw ?_
    dsimp only
    exact (State.homePut_station _ _ _ _ _ _ _ _ _).trans hsaw

@[simp] theorem State.homeWrite_station (ctx h off : Nat) (bs : List Byte) :
    (s.homeWrite ctx h off bs).2.station = s.station := station_foldl_of Prod.snd (fun p g => by simp) (0, s) _

@[simp] theorem State.homeFetch_station (ctx h off n : Nat) : (s.homeFetch ctx h off n).station = s.station := by
  unfold State.homeFetch
  split <;> simp

/-! ## Write-back (R66 to R68) -/

@[simp] theorem State.writeEff_station (e : Eff) : (s.writeEff e).station = s.station := by
  cases e with
  | v n v => exact State.fireOwn_station _ _
  | _ => rfl

@[simp] theorem State.orFlags_station (f : Nat) : (s.orFlags f).station = s.station := rfl

@[simp] theorem State.writeBack_station (f : Flight) : (s.writeBack f).station = s.station := by
  have heffs := station_foldl (fun s e => State.writeEff_station s e) s f.effs
  unfold State.writeBack
  dsimp only
  split
  · exact heffs
  · exact heffs

/-! ## Scratch -/

@[simp] theorem State.padPut_station (places : List Nat) (bytes : List Byte) :
    (s.padPut places bytes).station = s.station := by simp [State.padPut]

@[simp] theorem State.putRow_station (w : Win) (f : WinFill) : (s.putRow w f).station = s.station := by
  unfold State.putRow
  split
  · exact s.padPut_station _ _
  · rfl

/-! ## Addressing (R228) -/

@[simp] theorem State.translated_station (h : Nat) : (s.translated h).station = s.station := by
  unfold State.translated
  dsimp only
  split
  · rfl
  · exact ite_station rfl rfl

/-! ## Windows (R245 to R248) -/

@[simp] theorem State.pick_station : s.pick.2.station = s.station := rfl

@[simp] theorem State.cancelFill_station (w : Win) (f : WinFill) : (s.cancelFill w f).station = s.station := by
  unfold State.cancelFill
  split <;> simp

@[simp] theorem State.closeWin_station (n : Nat) : (s.closeWin n).station = s.station := by simp [State.closeWin]

/-! ## Issue (R294) -/

/-! ## The end of a bundle -/

@[simp] theorem State.dropLateFill_station (k : Checkpoint) : (s.dropLateFill k).station = s.station := by
  unfold State.dropLateFill
  split <;> simp

@[simp] theorem State.release_station (replayed : Bool) : (s.release replayed).station = s.station := by
  unfold State.release
  extract_lets _ s1 g d d1
  have hfirst : s1.station = s.station := by
    refine ite_station ((station_foldl (fun s g => ?_) _ _).trans (s.setStreet_station _ _)) rfl
    exact ite_station (s.mapCoreAt_station _ _) rfl
  refine ite_station ?_ hfirst
  split
  · refine (State.mapCoreAt_station _ _ _).trans ((State.focus_station _ _).trans ((State.dropLateFill_station _ _).trans ?_))
    exact (State.focus_station _ _).trans ((State.setCoreAt_station _ _ _).trans hfirst)
  · exact (State.setCoreAt_station _ _ _).trans hfirst

@[simp] theorem State.resume_station : s.resume.station = s.station := by
  unfold State.resume
  split
  · rfl
  · dsimp only
    split
    · exact ite_station (State.release_station _ _) (s.fail_station _ _)
    · exact ite_station ((State.release_station _ _).trans (s.dropLateFill_station _)) (s.fail_station _ _)

@[simp] theorem State.arrive_station (t pc : Nat) (k : Ctl) : (s.arrive t pc k).station = s.station := by
  cases k <;> rfl

@[simp] theorem State.applyCtl_station (at_ : Nat) (k : Ctl) : (s.applyCtl at_ k).station = s.station := by
  cases k with
  | decouple => exact ite_station rfl rfl
  | trap code => exact State.takeTrap_station _ _ _ _ _ _ _
  | fuse n => exact State.arrive_station _ _ _ _
  | rejoin => exact State.arrive_station _ _ _ _
  | pair on =>
    cases on with
    | true => rfl
    | false => exact State.mapCoreAt_station _ _ _
  | _ => rfl

@[simp] theorem State.closeBundle_station (at_ : Nat) : (s.closeBundle at_).station = s.station := by
  unfold State.closeBundle
  dsimp only
  split
  · exact State.applyCtl_station _ _ _
  · rfl

@[simp] theorem State.writeDue_station (n : Nat) : (s.writeDue n).station = s.station := by
  induction n generalizing s with
  | zero => rfl
  | succ n ih =>
    rw [State.writeDue]
    split
    · rfl
    · simp [ih]

@[simp] theorem State.goOn_station : s.goOn.station = s.station :=
  ite_station ((State.closeBundle_station _ _).trans (s.writeDue_station _)) rfl

/-! ## Flue -/

/-! ## Fills (R212 to R214) -/

@[simp] theorem State.pushed_station (n v : Nat) : (s.pushed n v).2.station = s.station := by
  unfold State.pushed
  split <;> rfl

/-! ## Groups (R217, R257) -/

/-! ## Beats (R150, R216) -/

/-! ## Arrival and landing of a fill (R213, R214, R283) -/

@[simp] theorem State.pin_station (q a : Nat) : (s.pin q a).2.station = s.station := by
  unfold State.pin
  dsimp only
  split
  · rfl
  · exact ite_snd_station rfl rfl

theorem Tile.once_station (t : Tile) (k : Nat)
    {read : State → List Byte × Option (Nat × Nat) × List Nat × List Nat × State}
    (hread : ∀ s, (read s).2.2.2.2.station = s.station) : (t.once k read).st.station = t.st.station := by
  unfold Tile.once
  split
  · rfl
  · exact hread t.st

@[simp] theorem tileRead_station (t : Tile) (r : Rec) (w : Who) (off n hint : Nat) :
    (tileRead t r w off n hint).st.station = t.st.station := by
  refine station_foldl_of Tile.st (fun t g => t.once_station g fun s => ?_) { t with bytes := [] } _
  dsimp only
  split <;> simp

@[simp] theorem padChunks_station (t : Tile) (a n : Nat) : (padChunks t a n).st.station = t.st.station := by
  refine station_foldl_of Tile.st (fun t g => t.once_station g fun s => ?_) { t with bytes := [] } _
  dsimp only
  split
  · rfl
  · exact station_foldl (fun s u => State.sawWords_station _ _ _ _) s _

theorem ite_row_station {x : Form × Bool × Nat} {c : Prop} [Decidable c] {p q : Nat × List Nat × Nat × Tile}
    (hp : p.2.2.2.st.station = x) (hq : q.2.2.2.st.station = x) : (if c then p else q).2.2.2.st.station = x :=
  ite_station_of (fun r : Nat × List Nat × Nat × Tile => r.2.2.2.st) hp hq

@[simp] theorem tileRow_station (t : Tile) (f : Fill) (h n0 k0 hint : Nat) :
    (tileRow t f h n0 k0 hint).2.2.2.st.station = t.st.station := by
  have hread (t : Tile) (r : Rec) (w : Who) (off n : Nat) := tileRead_station t r w off n hint
  have htwo (t : Tile) (r : Rec) (w : Who) (off n off' n' : Nat) := (hread (tileRead t r w off n hint) r w off' n').trans (hread t r w off n)
  unfold tileRow
  dsimp only
  split
  · rfl
  · exact ite_row_station rfl (ite_row_station (hread _ _ _ _ _) (ite_row_station
      (ite_row_station (htwo _ _ _ _ _ _ _) (htwo _ _ _ _ _ _ _)) (ite_row_station (hread _ _ _ _ _) (hread _ _ _ _ _))))

@[simp] theorem State.fillRow_station : s.fillRow.station = s.station := by
  unfold State.fillRow
  split
  · rfl
  next f _ =>
    refine ite_station rfl ?_
    extract_lets sh fb kb t0 r
    show r.2.2.2.st.station = _
    cases hsrc : f.src with
    | tile h n0 k0 hint =>
      simp only [r, hsrc]
      exact tileRow_station t0 _ _ _ _ _
    | pad a =>
      simp only [r, hsrc]
      exact ite_row_station ((padChunks_station _ _ _).trans (padChunks_station t0 _ _)) (padChunks_station t0 _ _)

@[simp] theorem State.landFill_station : s.landFill.station = s.station := by
  unfold State.landFill
  split
  · rfl
  · refine ite_station ?_ rfl
    dsimp only
    split <;> exact s.unpin_station _ _

end

end Sys2Proof.Machine
end

/-! PROOFS. The station: sync engines, launches, residency, streams and copies keep it. -/
section
namespace Sys2Proof.Machine

section
variable (s : State)

/-! ## Sync state, and what a rollback restores of it (R301) -/

@[simp] theorem State.putNamed_station (d i : Nat) (x : Named) : (s.putNamed d i x).station = s.station := rfl
@[simp] theorem State.putBox_station (d i : Nat) (x : Mailbox) : (s.putBox d i x).station = s.station := rfl

@[simp] theorem State.storeOverflow_station (d i : Nat) : (s.storeOverflow d i).station = s.station := ite_station rfl rfl

@[simp] theorem State.setWord_station (ctx d i : Nat) (x : SWord) : (s.setWord ctx d i x).station = s.station :=
  State.storeOverflow_station _ _ _

@[simp] theorem State.setDeque_station (ctx d i : Nat) (x : Deque) : (s.setDeque ctx d i x).station = s.station := rfl
@[simp] theorem State.setNamed_station (ctx d i : Nat) (x : Named) : (s.setNamed ctx d i x).station = s.station := rfl

/-! ## Requests -/

@[simp] theorem State.reply_station (id : Nat) (val : W64) (status : Nat) (got : List Tag) (bad : Bool) :
    (s.reply id val status got bad).station = s.station := rfl

@[simp] theorem State.fireMonitors_station (d i : Nat) : (s.fireMonitors d i).station = s.station := by
  refine (State.mapDie_station _ _ _).trans (station_foldl (fun s m => ?_) s _)
  split <;> simp

/-! ## Errors of sync state (R302, spec/15 R348 to R351) -/

@[simp] theorem State.sawWord_station (d ctx i : Nat) (ret : Bool) : (s.sawWord d ctx i ret).station = s.station :=
  ite_station rfl (ite_station rfl rfl)

@[simp] theorem State.sawPart_station (d ctx : Nat) (k : Nat × Nat × Nat) (ret : Bool) :
    (s.sawPart d ctx k ret).station = s.station := ite_station rfl (ite_station rfl rfl)

@[simp] theorem State.injectWord_station (t : Nat × Nat) (d i : Nat) : (s.injectWord t d i).station = s.station :=
  ite_station (s.fireFor_station _ _) (s.fireFor_station _ _)

@[simp] theorem State.injectPart_station (t : Nat × Nat) (d space i part : Nat) :
    (s.injectPart t d space i part).station = s.station := by simp [State.injectPart]

@[simp] theorem State.performWord_station (r : SyncReq) : (s.performWord r).station = s.station := by
  have hsaw := s.sawWord_station (syncDie r.addr) r.ctx (syncIndex r.addr) r.ret.isSome
  refine ite_station ((State.reply_station _ _ _ _ _ _).trans hsaw) ((State.reply_station _ _ _ _ _ _).trans ?_)
  split
  · refine (State.fireMonitors_station _ _ _).trans ((State.injectWord_station _ _ _ _).trans ?_)
    exact (State.setWord_station _ _ _ _ _).trans hsaw
  · exact hsaw

@[simp] theorem State.performWaita_station (r : SyncReq) : (s.performWaita r).station = s.station := by
  have hsaw := s.sawWord_station (syncDie r.addr) r.ctx (syncIndex r.addr) false
  exact ite_station hsaw (ite_station hsaw (ite_station hsaw hsaw))

@[simp] theorem State.performDeque_station (r : SyncReq) : (s.performDeque r).station = s.station := by
  have hsaw := s.sawPart_station (syncDie r.addr) r.ctx (1, syncIndex r.addr, 0) r.ret.isSome
  unfold State.performDeque
  refine ite_station ?_ (ite_station (ite_station ?_ ?_) (ite_station ?_ (ite_station ?_ ?_)))
  · rw [State.reply_station, hsaw]
  · rw [State.reply_station, hsaw]
  · rw [State.reply_station, State.injectPart_station, State.mapDie_station, State.setDeque_station, hsaw]
  · rw [State.reply_station, hsaw]
  · rw [State.reply_station, State.sawPart_station, hsaw]
  · rw [State.reply_station, State.injectPart_station, State.setDeque_station, State.sawPart_station, hsaw]

/-! ## Counters and mailboxes (R298, R299) -/

@[simp] theorem State.lowerNamed_station (t : Nat × Nat) (ctx d n b : Nat) (known : List Tag) :
    (s.lowerNamed t ctx d n b known).station = s.station := ite_station rfl (State.injectPart_station _ _ _ _ _ _)

@[simp] theorem State.postBox_station (t : Nat × Nat) (d m : Nat) (msg : W64) (known : List Tag) (req : Nat) :
    (s.postBox t d m msg known req).station = s.station := by
  have hpost (b : Mailbox) := (State.injectPart_station _ t d 2 m 0).trans (s.putBox_station d m b)
  exact ite_station (ite_station (hpost _) (hpost _)) rfl

@[simp] theorem State.signal_station (t : Nat × Nat) (ctx d kind id : Nat) (msg : W64) (known : List Tag) :
    (s.signal t ctx d kind id msg known).station = s.station := by
  unfold State.signal
  split
  · split
    · rfl
    · exact (State.lowerNamed_station _ _ _ _ _ _ _).trans (s.sawPart_station _ _ _ _)
  · split
    · rfl
    · have hsaw := s.sawPart_station d ctx (2, id, 0) false
      exact ite_station hsaw ((State.postBox_station _ _ _ _ _ _ _).trans hsaw)
  · rfl

@[simp] theorem State.performNotify_station (r : SyncReq) : (s.performNotify r).station = s.station := by
  unfold State.performNotify
  dsimp only
  split
  · rfl
  · have hsaw := s.sawPart_station (syncDie r.addr) r.ctx (2, syncIndex r.addr, 0) r.ret.isSome
    exact ite_station hsaw ((State.postBox_station _ _ _ _ _ _ _).trans hsaw)

@[simp] theorem State.performDcnt_station (r : SyncReq) : (s.performDcnt r).station = s.station := by
  unfold State.performDcnt
  dsimp only
  split
  · rfl
  · have hsaw := s.sawPart_station (syncDie r.addr) r.ctx (3, syncIndex r.addr, 0) r.ret.isSome
    exact ite_station hsaw ((State.lowerNamed_station _ _ _ _ _ _ _).trans hsaw)

@[simp] theorem State.performSync_station (r : SyncReq) : (s.performSync r).station = s.station := by
  unfold State.performSync
  split
  · exact s.performWaita_station r
  · exact s.performNotify_station r
  · exact s.performDeque_station r
  · exact s.performDeque_station r
  · exact s.performDeque_station r
  · exact s.performDcnt_station r
  · exact s.performWord_station r

/-! ## Specialise -/

@[simp] theorem State.pruneSpec_station (d : Nat) : (s.pruneSpec d).station = s.station := ite_station rfl rfl

@[simp] theorem State.specialise_station (d : Nat) (c : Context) (r : Rec) (kvals : List W64) :
    (s.specialise d c r kvals).2.2.station = s.station := by
  refine ite_station_of (fun p : Code × Option (BitVec 256) × State => p.2.2) rfl ?_
  dsimp only
  split <;> rfl

/-! ## What the host reads of a launch (R409) -/

@[simp] theorem State.keepFailure_station (ctx : Nat) (st : StreamId) (l status : Nat) :
    (s.keepFailure ctx st l status).station = s.station := rfl

/-! ## Launch slots -/

@[simp] theorem State.setStream_station (st : StreamId) (x : Option Stream) : (s.setStream st x).station = s.station :=
  rfl

@[simp] theorem State.mapStream_station (st : StreamId) (f : Stream → Stream) :
    (s.mapStream st f).station = s.station := by
  unfold State.mapStream
  split <;> simp

@[simp] theorem State.setSlot_station (st : StreamId) (serial l : Nat) (x : LaunchSlot) :
    (s.setSlot st serial l x).station = s.station := by simp [State.setSlot]

@[simp] theorem State.readAsk_station (a : Ask) : (s.readAsk a).station = s.station := by simp [State.readAsk]

@[simp] theorem State.beginLaunch_station (a : Ask) (countStep : Bool) :
    (s.beginLaunch a countStep).2.2.station = s.station := by
  have hread := s.readAsk_station a
  unfold State.beginLaunch
  dsimp only
  split
  · exact hread
  · refine (State.withLaunches_station _ _).trans ((State.specialise_station _ _ _ _ _).trans ?_)
    split
    · exact hread
    · exact hread

@[simp] theorem State.beginSlot_station (a : Ask) (st : StreamId) (serial l : Nat) (countStep : Bool) :
    (s.beginSlot a st serial l countStep).2.station = s.station := by simp [State.beginSlot]

@[simp] theorem State.tryNamed_station (d n : Nat) : (s.tryNamed d n).station = s.station := by
  unfold State.tryNamed
  dsimp only
  split
  · rfl
  · exact ite_station rfl (State.beginSlot_station _ _ _ _ _ _)

@[simp] theorem State.tryAllNamed_station (d : Nat) : (s.tryAllNamed d).station = s.station := by
  simp [State.tryAllNamed]

@[simp] theorem State.launchSlot_station (a : Ask) (st : StreamId) (serial l : Nat) (countStep : Bool) :
    (s.launchSlot a st serial l countStep).station = s.station := by simp [State.launchSlot]

/-! ## Shapes (R329, R330) -/

@[simp] theorem State.startTask_station (l : Launch) (ord h : Nat) : (s.startTask l ord h).station = s.station := by
  have hstart (f : Core → Core) : (s.fresh.2.mapCoreAt h f).station = s.station := State.mapCoreAt_station _ _ _
  have hcount (f : Core → Core) {b : Prop} [Decidable b] :
      (if b then (s.fresh.2.mapCoreAt h f).countSat l.ctx else s.fresh.2.mapCoreAt h f).station = s.station :=
    ite_station (hstart f) (hstart f)
  exact ite_station (hcount _) (hcount _)

@[simp] theorem State.placeFresh_station (l : Launch) (base : List Nat) :
    (s.placeFresh l base).station = s.station := by simp [State.placeFresh]

/-! ## Pre-emption (R260, R332) -/

@[simp] theorem State.requestPreempt_station (h : Nat) : (s.requestPreempt h).station = s.station := by
  simp [State.requestPreempt]

@[simp] theorem State.askFor_station (c : Cand) (l : Launch) (streets : Nat) :
    (s.askFor c l streets).station = s.station := by
  have hask (vs : List Nat) : (vs.foldl (fun s h => s.mapCoreAt h Core.askPreempt) s).station = s.station :=
    station_foldl (fun s _ => s.mapCoreAt_station _ _) s vs
  refine ite_station rfl ?_
  cases c with
  | fresh l => exact hask _
  | back r => exact hask _

@[simp] theorem State.putImage_station (r : Ready) (h : Nat) : (s.putImage r h).station = s.station := by
  have hput (t : State) (f : Core → Core) (g : Ready → Option Ready) :
      (((t.mapCoreAt h f).mapImages g).squareFence (squareOf h) false true).station = t.station :=
    (State.squareFence_station _ _ _ _).trans ((State.mapImages_station _ _).trans (State.mapCoreAt_station _ _ _))
  exact ite_station ((State.setStreet_station _ _ _).trans (hput s.fresh.2 _ _)) (hput s.fresh.2 _ _)

@[simp] theorem State.placeImages_station (l : Launch) (rs : List Ready) (base : List Nat) :
    (s.placeImages l rs base).station = s.station := by simp [State.placeImages]

@[simp] theorem State.takeImage_station (h : Nat) : (s.takeImage h).2.station = s.station := by
  have hfence : ((match (s.coreAt h).mat.fill with | some f => s.unpin f.square f.pins | none => s).squareFence
      (squareOf h) true false).station = s.station := by
    refine (State.squareFence_station _ _ _ _).trans ?_
    split
    · exact s.unpin_station _ _
    · rfl
  have htake (c : Core) := (State.setCoreAt_station _ h c).trans hfence
  exact ite_station ((State.vacate_station _ _).trans (htake _)) (htake _)

@[simp] theorem State.freeSaved_station (h : Nat) : (s.freeSaved h).station = s.station := s.takeImage_station h

@[simp] theorem State.shadowOut_station (id h : Nat) : (s.shadowOut id h).station = s.station :=
  ite_station (s.takeImage_station h) rfl

@[simp] theorem State.shadowIn_station (ins : List (Nat × Ready)) (e : Nat × Ready) :
    (s.shadowIn ins e).station = s.station := ite_station (s.putImage_station _ _) rfl

@[simp] theorem State.swapPartition_station (id d m : Nat) : (s.swapPartition id d m).station = s.station := by
  simp [State.swapPartition]

/-! ## The end of a launch (R323, R328) -/

@[simp] theorem State.endLaunch_station (l : Launch) : (s.endLaunch l).station = s.station := by
  have hprune := State.pruneSpec_station { s with launches := s.launches.filter fun x => x.id != l.id } l.die
  unfold State.endLaunch
  dsimp only
  split
  · rw [State.tryAllNamed_station, State.signal_station]
    refine ite_station (ite_station ?_ hprune) ((State.keepFailure_station _ _ _ _ _).trans (ite_station ?_ hprune))
    · exact (State.setSlot_station _ _ _ _ _).trans hprune
    · exact (State.setSlot_station _ _ _ _ _).trans hprune
  · exact ite_station hprune hprune
  · exact hprune

@[simp] theorem State.launchHandler_station (d m : Nat) : (s.launchHandler d m).station = s.station := by
  unfold State.launchHandler
  extract_lets b
  cases b.bound with
  | none => rfl
  | some x =>
    cases b.busy || b.closing with
    | true => rfl
    | false =>
      cases b.queue with
      | nil => rfl
      | cons e rest =>
        refine ite_station rfl ?_
        dsimp only
        generalize hb : State.beginLaunch _ _ _ = y
        have hbegin : y.2.2.station = s.station := by rw [← hb, State.beginLaunch_station, State.putBox_station]
        obtain ⟨n, id, t⟩ := y
        exact ite_station hbegin ((State.logError_station _ _ _).trans ((State.putBox_station _ _ _ _).trans hbegin))

/-! ## Choosing victims (R372 to R374, R378) -/

@[simp] theorem State.applyAct_station (a : Act) (r : Rec) : (s.applyAct a r).station = s.station := by
  have hdrop := s.dropLines_station r
  unfold State.applyAct
  refine (State.withRecs_station _ _).trans ?_
  cases a with
  | spill => exact (State.relocate_station _ _ _ _).trans hdrop
  | pack => exact (State.relocate_station _ _ _ _).trans hdrop
  | drop =>
    refine (station_foldl (fun s h => s.mapRec_station _ _ _) _ _).trans ((State.mapRec_station _ _ _ _).trans ?_)
    exact (State.freeCells_station _ _ _).trans ((State.keepRefs_station _ _).trans hdrop)

@[simp] theorem State.roomLoop_station (c : Context) (d : Nat) (pool : Bool) (n quota k : Nat) (skip : List Nat) :
    (State.roomLoop c d pool n quota k skip s).2.station = s.station := by
  induction k generalizing skip s with
  | zero => rfl
  | succ k ih =>
    refine ite_snd_station rfl ?_
    dsimp only
    split
    · rfl
    next r _ =>
      have hmeasure (f : Rec → Rec) {b : Prop} [Decidable b] : (if b then s.mapRec r.ctx r.handle f else s).station = s.station :=
        ite_station rfl rfl
      split
      · exact (ih _ _).trans (hmeasure _)
      · exact (ih _ _).trans ((State.applyAct_station _ _ _).trans (hmeasure _))

@[simp] theorem State.room_station (ctx d : Nat) (pool : Bool) (n : Nat) :
    (s.room ctx d pool n).2.station = s.station := by
  unfold State.room
  split <;> simp

@[simp] theorem State.placeIn_station (ctx h d : Nat) (pool : Bool) (n size : Nat) :
    (s.placeIn ctx h d pool n size).2.station = s.station := by simp [State.placeIn]

/-! ## Making a tensor resident (R379) -/

@[simp] theorem State.failResident_station (ctx h : Nat) : (s.failResident ctx h).station = s.station := rfl

@[simp] theorem State.endRebuild_station (r : Rec) (ok : Bool) : (s.endRebuild r ok).station = s.station := by
  simp [State.endRebuild]

@[simp] theorem State.reissue_station (r : Rec) : (s.reissue r).station = s.station := by
  unfold State.reissue
  split
  · exact s.endRebuild_station r false
  · refine ite_station (s.endRebuild_station r true) (ite_station ?_ (s.endRebuild_station r false))
    exact (State.beginLaunch_station _ _ _).trans (s.homeFetch_station _ _ _ _)

@[simp] theorem State.freePages_station (r : Rec) : (s.freePages r).station = s.station := rfl

@[simp] theorem State.makeResident_station (ctx n h : Nat) : (State.makeResident ctx n h s).2.station = s.station := by
  induction n generalizing h s with
  | zero => rfl
  | succ n ih =>
    have hruns {f : Attempt × State → Nat → Attempt × State} (hf : ∀ a i, (f a i).2.station = a.2.station)
        (is js : List Nat)
        {a : Attempt} {t : State} (ht : js.foldl f (is.foldl f (.ok, s)) = (a, t)) : t.station = s.station :=
      station_of_snd ht ((station_foldl_of Prod.snd hf _ js).trans (station_foldl_of Prod.snd hf (.ok, s) is))
    rw [State.makeResident]
    split
    · rfl
    · rfl
    · split
      · split
        all_goals
          rename_i hplace
          simp [station_of_snd hplace (s.placeIn_station _ _ _ _ _ _)]
      · split
        · simp
        · dsimp only
          split
          all_goals
            rename_i t ht
            have hstation : t.station = s.station := by
              refine hruns (fun a i => ?_) _ _ ht
              split <;> simp [ih]
          · simp [hstation]
          · exact hstation
          · split <;> simp [hstation]

@[simp] theorem State.bringBack_station (ctx h : Nat) : (s.bringBack ctx h).2.station = s.station := by
  simp [State.bringBack]

/-! ## Running a record (R319 to R321) -/

@[simp] theorem State.setFlag_station (ctx : Nat) (flag : Bool) : (s.setFlag ctx flag).station = s.station := by
  unfold State.setFlag
  dsimp only
  split <;> rfl

@[simp] theorem State.postEvent_station (ctx : Nat) (w : W64) : (s.postEvent ctx w).station = s.station := by
  simp [State.postEvent]

@[simp] theorem State.streamFault_station (st : StreamId) (ctx code : Nat) :
    (s.streamFault st ctx code).station = s.station := by simp [State.streamFault]

@[simp] theorem State.taken_station (st : StreamId) (x : Stream) : (s.taken st x).station = s.station := by
  simp [State.taken]

/-! ## Launches, named tasks, mailboxes -/

@[simp] theorem State.reach_station (ctx h : Nat) (write : Bool) : (s.reach ctx h write).2.station = s.station := by
  have hback := s.bringBack_station ctx h
  unfold State.reach
  split
  next t ht =>
    rw [ht] at hback
    refine ite_snd_station hback ?_
    split
    · exact hback
    · exact (t.bringBack_station _ _).trans hback
  · exact hback

@[simp] theorem State.reachAll_station (ctx : Nat) (hs : List Nat) : (s.reachAll ctx hs).2.station = s.station := by
  refine station_foldl_of Prod.snd
    (f := fun (a : Attempt × State) h => match a with | (.ok, s) => s.reach ctx h false | r => r) (fun a h => ?_) (.ok, s) _
  split <;> simp

/-! ## Residency (spec/18 R384 to R390) -/

@[simp] theorem State.intoTier_station (ctx h : Nat) (pool : Bool) : (s.intoTier ctx h pool).2.station = s.station := by
  have hback := s.bringBack_station ctx h
  unfold State.intoTier
  split
  next t ht =>
    rw [ht] at hback
    split
    · exact hback
    · refine ite_snd_station hback (ite_snd_station hback ?_)
      dsimp only
      split
      · exact (State.placeIn_station _ _ _ _ _ _ _).trans hback
      · rw [State.relocate_station, State.dropLines_station, State.mapRec_station, State.placeIn_station]
        exact hback
  · exact hback

/-! ## Windows of the fabric (spec/23 R437, R438) -/

@[simp] theorem State.setWindow_station (w : Nat) (x : Window) : (s.setWindow w x).station = s.station := rfl

/-! ## Packets -/

@[simp] theorem State.setPort_station (n : Nat) (x : Port) : (s.setPort n x).station = s.station := rfl

@[simp] theorem State.sealPacket_station (port : Nat) (p : FabPacket) : (s.sealPacket port p).2.station = s.station :=
  rfl

theorem State.station_of_nextPlane {ctx : Nat} {not : Option Nat} {p : Nat} {t : State}
    (h : s.nextPlane ctx not = some (p, t)) : t.station = s.station := by
  simp only [State.nextPlane, Option.ite_none_left_eq_some, Option.map_eq_some_iff, Prod.mk.injEq] at h
  obtain ⟨-, q, -, -, rfl⟩ := h
  rfl

@[simp] theorem State.sendOut_station (r : RemoteOut) (not : Option Nat) : (s.sendOut r not).station = s.station := by
  unfold State.sendOut
  refine ite_station ?_ ?_
  · split <;> rfl
  · split
    · rfl
    next hplane => exact (State.withFabric_station _ _).trans ((State.sealPacket_station _ _ _).trans (s.station_of_nextPlane hplane))

@[simp] theorem State.launchOut_station (r : RemoteOut) : (s.launchOut r).station = s.station := by
  unfold State.launchOut
  split
  · rfl
  · exact ite_station (s.sendOut_station _ _) (s.sendOut_station _ _)

/-! ## Reading and writing ranges -/

@[simp] theorem readRange_station (q : Nat) (r : Rec) (w : Who) (off n hint : Nat) :
    (readRange s q r w off n hint).st.station = s.station := by
  unfold readRange
  refine (station_foldl_of Got.st (fun t g => ?_) _ _).trans rfl
  dsimp only
  split <;> simp

@[simp] theorem writeRange_station (q ctx h : Nat) (w : Who) (off : Nat) (bs : List Byte) (hint : Nat) (reissue : Bool)
    (poison : Nat → Nat) : (writeRange s q ctx h w off bs hint reissue poison).2.station = s.station := by
  unfold writeRange
  dsimp only
  refine (station_foldl_of Prod.snd (fun a g => ?_) _ _).trans (ite_station rfl (s.beforeWrite_station _ _ _ _ _))
  split
  · rfl
  next r _ =>
    have hrace := a.2.raceAccess_station r.home w (granAddr h g) true
    exact ite_snd_station hrace ((State.writeGran_station _ _ _ _ _ _ _ _ _).trans hrace)

/-! ## Rows of a TCOPY -/

@[simp] theorem tensorRow_station (o : CopyOp) (q : Nat) (r : Rec) (c : List Int) (count w : Nat) :
    (tensorRow s o q r c count w).st.station = s.station := by
  have hrow (c : Prop) [Decidable c] (a b : Row) (ha : a.st.station = s.station) (hb : b.st.station = s.station) :
      (if c then a else b).st.station = s.station := ite_station_of Row.st ha hb
  have hread (off n : Nat) := readRange_station s q r o.who off n o.hint
  exact hrow _ _ _ rfl (hrow _ _ _ ((readRange_station _ _ _ _ _ _ _).trans (hread _ _)) (hread _ _))

@[simp] theorem padRow_station (ctx off n w : Nat) : (padRow s ctx off n w).st.station = s.station := by
  unfold padRow
  dsimp only
  split
  · rfl
  · exact station_foldl (fun s u => State.sawWords_station _ _ _ _) s _

@[simp] theorem State.padRowPut_station (off : Nat) (bs : List Byte) (mark : Nat → Nat) :
    (s.padRowPut off bs mark).station = s.station := ite_station (s.padPut_station _ _) (s.padPut_station _ _)

@[simp] theorem copyRow_station (o : CopyOp) (q : Nat) (c : CopyDesc) (a : Done) (r : Nat) :
    (copyRow o q c a r).st.station = a.st.station := by
  unfold copyRow
  extract_lets s src dst f ws wd po row v mine
  have hrow : row.st.station = a.st.station := by
    clear_value src
    cases src with
    | none => exact padRow_station s _ _ _ _
    | some x => exact tensorRow_station s _ _ _ _ _ _
  clear_value row dst
  cases dst with
  | none => exact (State.padRowPut_station _ _ _ _).trans hrow
  | some x =>
    refine ite_snd_station ((writeRange_station _ _ _ _ _ _ _ _ _ _).trans ?_) ?_
    · exact (writeRange_station _ _ _ _ _ _ _ _ _ _).trans hrow
    · exact (writeRange_station _ _ _ _ _ _ _ _ _ _).trans hrow

@[simp] theorem State.opFlags_station (o : CopyOp) (f : Nat) : (s.opFlags o f).station = s.station := rfl
@[simp] theorem State.sendData_station (t : Transit) : (s.sendData t).station = s.station := rfl

@[simp] theorem remoteRow_station (o : CopyOp) (c : CopyDesc) (rem : Remote) (held : Bool) (a : Done) (r : Nat) :
    (remoteRow o c rem held a r).st.station = a.st.station := by
  unfold remoteRow
  extract_lets s h peer loc pad po w n row mine send bad
  have hrow : row.st.station = a.st.station := by
    clear_value loc
    refine ite_station_of Row.st ?_ rfl
    cases loc with
    | none => exact padRow_station s _ _ _ _
    | some x => exact tensorRow_station s _ _ _ _ _ _
  have hsend (s : State) (x : RemoteOut) : (send s x).station = s.station :=
    ite_station rfl (ite_station rfl (State.launchOut_station s.fresh.2 _))
  exact (station_foldl hsend _ _).trans hrow

/-! ## COPY_PERFORM -/

@[simp] theorem State.mapOp_station (id : Nat) (f : CopyOp → CopyOp) : (s.mapOp id f).station = s.station := rfl

@[simp] theorem winRow_station (o : CopyOp) (r : Rec) (w : Nat) (bfmt : Store Nat) (row : Int) :
    (winRow s o r w bfmt row).station = s.station := by
  refine ite_station rfl ?_
  have hread (off n : Nat) := readRange_station s 0 r o.who off n o.hint
  refine ite_station_of Got.st ?_ ?_
  · exact (readRange_station _ _ _ _ _ _ _).trans (hread _ _)
  · exact hread _ _

@[simp] theorem State.performCopy_station (o : CopyOp) (c : CopyDesc) : (s.performCopy o c).station = s.station := by
  unfold State.performCopy
  extract_lets q start rows finish
  have hfinish {d : Done} (n : Nat) (l : List Nat) (hd : d.st.station = s.station) : (finish d n l).station = s.station := hd
  cases c.remote with
  | some rem => exact hfinish _ _ (station_foldl_of Done.st (fun a r => remoteRow_station _ _ _ _ _ _) start _)
  | none =>
    refine ite_station ?_ (ite_station ?_ ?_)
    · split
      · exact hfinish _ _ rfl
      · exact hfinish _ _ (station_foldl_of Done.st (fun a r => readRange_station _ _ _ _ _ _ _) start _)
    · split
      · exact hfinish _ _ rfl
      · exact hfinish _ _ (writeRange_station _ _ _ _ _ _ _ _ _ _)
    · exact hfinish _ _ (station_foldl_of Done.st (fun a r => copyRow_station _ _ _ _ _) start _)

@[simp] theorem State.performFailed_station (o : CopyOp) (h : Nat) : (s.performFailed o h).station = s.station := by
  have hrun {α : Type} (f : α → Transit) (l : List α) : (l.foldl (fun s a => s.sendData (f a)) s).station = s.station :=
    station_foldl (fun _ _ => State.sendData_station _ _) s l
  unfold State.performFailed
  extract_lets m end_
  have hend (t : State) (st : Nat) (ht : t.station = s.station) : (end_ t st).station = s.station := ht
  cases o.kind with
  | tld q h off k => exact hend _ _ (hrun _ _)
  | tst h off data => exact hend _ _ rfl
  | tpref h off len => exact hend _ _ rfl
  | win w h rows bfmt => exact hend _ _ (hrun _ _)
  | copy c =>
    refine ite_station (hend _ _ (hrun _ _)) (ite_station (hend _ _ rfl) (ite_station (hend _ _ rfl) ?_))
    split
    · exact ite_station (hend _ _ rfl) (s.performCopy_station o c)
    · exact s.performCopy_station o c

@[simp] theorem State.bringUnpacked_station (ctx h : Nat) : (s.bringUnpacked ctx h).station = s.station := by
  unfold State.bringUnpacked
  split
  · rfl
  · have hroom := s.room_station ctx
    exact ite_station ((State.unpack_station _ _ _).trans (hroom _ _ _)) (hroom _ _ _)

@[simp] theorem State.afterFills_station (o : CopyOp) : (s.afterFills o).station = s.station := by
  refine (station_foldl (fun s p => State.mapCore_station _ _) _ _).trans ?_
  exact station_foldl (fun s p => station_foldl (fun s e => State.putRow_station _ _ _) s _) s _

theorem State.withSnap_station (o : CopyOp) {k : State → State} (hk : ∀ t, (k t).station = t.station) :
    (s.withSnap o k).station = s.station := by
  unfold State.withSnap
  split <;> simp [hk]

@[simp] theorem State.performLocal_station (o : CopyOp) : (s.performLocal o).station = s.station := by
  unfold State.performLocal
  dsimp only
  split
  · simp
  · split
    · split
      · simp
      · exact (State.mapOp_station _ _ _).trans (station_foldl (fun s j => by simp) _ _)
    · split <;> simp
    · split
      · simp
      · refine (State.mapOp_station _ _ _).trans ((readRange_station _ _ _ _ _ _ _).trans ?_)
        split <;> simp
    · split
      · simp
      · exact (State.mapOp_station _ _ _).trans (station_foldl (fun s j => by simp) _ _)
    · simp

@[simp] theorem State.performOp_station (o : CopyOp) : (s.performOp o).station = s.station :=
  s.withSnap_station o fun t => by simp

/-! ## COPY_COMPLETE (R232, R236) -/

@[simp] theorem State.flushFor_station (o : CopyOp) : (s.flushFor o).station = s.station := by simp [State.flushFor]

@[simp] theorem State.completeOp_station (o : CopyOp) : (s.completeOp o).station = s.station := by
  unfold State.completeOp
  split <;> simp

/-! ## Replies -/

@[simp] theorem State.dropReq_station (id : Nat) : (s.dropReq id).station = s.station := rfl

@[simp] theorem State.endWaita_station (r : SyncReq) (val : Bool) (got : List Tag) (inv : Bool) :
    (s.endWaita r val got inv).station = s.station := by simp [State.endWaita]

/-! ## The ends of waits (R240, R294, R345) -/

@[simp] theorem State.writeRows_station (m : Nat) : (s.writeRows m).station = s.station := by simp [State.writeRows]

end

end Sys2Proof.Machine
end

/-! PROOFS. The station: slot operations keep it. -/
section
namespace Sys2Proof.Machine

/-! ## What an operation comes to keeps the station -/

/-- Where an outcome takes effect, the device stands at `x`. -/
def Res.stands (x : Form × Bool × Nat) (r : Res) : Prop := ∀ t, r = .ok t → t.station = x

section
variable {s : State} {x : Form × Bool × Nat}

theorem stands_ok {t : State} (h : t.station = x) : (Res.ok t).stands x := fun _ ht => Res.ok.inj ht ▸ h

theorem stands_trap (t : Trap) : (Res.trap t).stands x := fun _ h => nomatch h

theorem stands_freeze (f : Freeze) : (Res.freeze f).stands x := fun _ h => nomatch h

theorem stands_raise (cause addr : Nat) : (raise cause addr).stands x := stands_trap _

theorem stands_tensorTrap (cause h : Nat) (c : List Int) : (tensorTrap cause h c).stands x := stands_trap _

theorem stands_ite {p : Prop} [Decidable p] {k l : Res} (hk : k.stands x) (hl : l.stands x) : (if p then k else l).stands x := by
  split
  · exact hk
  · exact hl

/-! Sources and checks: what they hand on to is all that can take effect -/

theorem stands_withV {n : Nat} {k : V512 → Res} (hk : ∀ v, (k v).stands x) : (withV s n k).stands x := fun t h => by
  obtain ⟨v, hv, -⟩ := withV_ok h
  exact hk v t hv

theorem stands_withX {n : Nat} {k : W64 → Res} (hk : ∀ v, (k v).stands x) : (withX s n k).stands x := fun t h => by
  obtain ⟨v, hv, -⟩ := withX_ok h
  exact hk v t hv

theorem stands_readGroup {v n : Nat} {k : List V512 → Res} (hk : ∀ vs, (k vs).stands x) : (readGroup s v n k).stands x := by
  induction n generalizing v k with
  | zero => exact hk []
  | succ n ih => exact stands_withV fun v => ih fun vs => hk (v :: vs)

theorem stands_withOld {o : Long} {full : Bool} {k : Nat → Res} (hk : ∀ v, (k v).stands x) : (withOld s o full k).stands x :=
  stands_ite (hk 0) (stands_withV fun v => hk v.toNat)

theorem stands_padAddr {a : AReg} {disp : Int} {len align : Nat} {k : Nat → Res} (hk : ∀ a, (k a).stands x) :
    (padAddr a disp len align k).stands x := stands_ite (stands_raise _ _) (hk _)

theorem stands_landed {a : Nat} {places : List Nat} {k : Res} (hk : k.stands x) : (landed s a places k).stands x := by
  unfold landed
  split
  · exact hk
  · exact stands_ite (stands_freeze _) (stands_raise _ _)

theorem stands_withRec {h : Nat} {c : List Int} {k : Rec → Res} (hk : ∀ r, (k r).stands x) : (withRec s h c k).stands x := by
  unfold withRec
  refine stands_ite (stands_tensorTrap _ _ _) ?_
  split
  · exact stands_tensorTrap _ _ _
  · exact hk _

theorem stands_withOffset {h : Nat} {c : List Int} {n : Nat} {k : Rec → Nat → Res} (hk : ∀ r a, (k r a).stands x) :
    (withOffset s h c n k).stands x := by
  refine stands_withRec fun r => ?_
  split
  · exact stands_tensorTrap _ _ _
  · exact hk r _

theorem stands_withTier {r : Rec} {c : List Int} {k : Res} (hk : k.stands x) : (withTier s r c k).stands x :=
  stands_ite hk (stands_ite (stands_freeze _) (stands_ite (stands_tensorTrap _ _ _) (stands_ite (stands_tensorTrap _ _ _) hk)))

theorem stands_withLeast {r : Rec} {c : List Int} {d n : Nat} {k : Res} (hk : k.stands x) : (withLeast s r c d n k).stands x :=
  stands_ite (stands_tensorTrap _ _ _) hk

theorem stands_withRace {m : Nat} {k : Res} (hk : k.stands x) : (withRace s m k).stands x := by
  unfold withRace
  split
  · exact stands_raise _ _
  · exact stands_ite (stands_freeze _) hk

theorem stands_withFill {early : Bool} {k : Res} (hk : k.stands x) : (withFill s early k).stands x := by
  unfold withFill
  split
  · exact hk
  · exact stands_ite (stands_freeze _) (stands_ite (stands_raise _ _) hk)

theorem stands_needGroup {b : Bool} {k : Res} (hk : k.stands x) : (needGroup s b k).stands x := stands_ite hk (stands_raise _ _)

end

/-! Steps that change the hearth in focus on their way -/

section
variable {s : State} {x : Form × Bool × Nat} (hs : s.station = x)
include hs

theorem stands_guarded {g : Nat} {k : Res} (hk : k.stands x) : (guarded g s k).stands x := stands_ite hk (stands_ok hs)

theorem stands_withRnd {o : Long} {k : Rnd → (Nat → Nat) → State → Res} (hk : ∀ rd r t, t.station = x → (k rd r t).stands x) :
    (withRnd o s k).stands x := by
  unfold withRnd
  dsimp only
  split
  · exact hk _ _ (s.mapCore _) hs
  · exact hk _ _ s hs

theorem stands_padRead {v : View} {a : Nat} {places : List Nat} {k : Nat → State → Res}
    (hk : ∀ v t, t.station = x → (k v t).stands x) : (padRead s v a places k).stands x := fun t h =>
  hk _ (s.usePorts false places) hs t (padRead_ok h)

theorem stands_padWrite {v : View} {places : List Nat} {n : Nat} : (padWrite s v places n).stands x := fun t h => by
  rw [padWrite_ok h]
  exact (s.padPut_station places _).trans hs

theorem stands_readStream {n : Nat} {k : V512 → State → Res} (hk : ∀ v t, t.station = x → (k v t).stands x) :
    (readStream s n k).stands x := fun t h => by
  obtain ⟨e, r, v, -, -, -, hv⟩ := readStream_ok h
  exact hk v (s.mapCore fun c => (c.setQ n r).took) hs t hv

theorem stands_readElems {q n : Nat} {k : List V512 → State → Res} (hk : ∀ vs t, t.station = x → (k vs t).stands x) :
    (readElems s q n k).stands x := by
  induction n generalizing s k with
  | zero => exact hk [] s hs
  | succ n ih => exact stands_readStream hs fun v t ht => ih ht fun vs u hu => hk (v :: vs) u hu

theorem stands_readFlue {n : Nat} {k : V512 → State → Res} (hk : ∀ v t, t.station = x → (k v t).stands x) :
    (readFlue s n k).stands x := by
  unfold readFlue
  split
  · exact stands_raise _ _
  · exact stands_freeze _
  · split
    · exact stands_raise _ _
    · exact hk _ (s.mapCore _) hs

theorem stands_accept {cl : Bool} {hint padded tail : Nat} {mk : Nat → CopyKind} {k : Nat → State → Res}
    (hk : ∀ id t, t.station = x → (k id t).stands x) : (accept s cl hint padded tail mk k).stands x :=
  stands_ite (stands_freeze _)
    (hk _ _ ((station_foldl (f := State.translated) (fun s h => s.translated_station h) s.fresh.2 _).trans hs))

theorem stands_queueFill {n : Nat} {w : Win} {r0 : Int} {k : Nat} {f : State → Res} (hf : ∀ t, t.station = x → (f t).stands x) :
    (queueFill s n w r0 k f).stands x := by
  unfold queueFill
  dsimp only
  split
  · exact stands_raise _ _
  · exact stands_accept hs fun id t ht => hf _ ht

theorem stands_issueSync {o : Long} {op space : Nat} {a b b1 : W64} {pd : Nat} :
    (issueSync o op space s a b b1 pd).stands x := by
  refine stands_ite (stands_raise _ _) (stands_ite (stands_raise _ _) (stands_ite (stands_raise _ _)
    (stands_ite (stands_raise _ _) ?_)))
  refine stands_ite (stands_withRace (stands_ite (stands_freeze _) (stands_ok ?_))) (stands_ite (stands_freeze _) (stands_ok ?_))
  all_goals
    dsimp only
    split <;> exact hs

theorem stands_atomic1 {o : Long} {op space : Nat} : (atomic1 o op space s).stands x :=
  stands_guarded hs (stands_withX fun _ => stands_withX fun _ => stands_issueSync hs)

theorem stands_atomic0 {o : Long} {op space : Nat} : (atomic0 o op space s).stands x :=
  stands_guarded hs (stands_withX fun _ => stands_issueSync hs)

/-! Vector results -/

variable {sl : Slot} {o : Long}

theorem stands_withVV {k : Nat → Nat → Res} (hk : ∀ a b, (k a b).stands x) : (withVV s o k).stands x :=
  stands_guarded hs (stands_withV fun a => stands_withV fun b => hk a.toNat b.toNat)

theorem stands_withV1 {k : Nat → Res} (hk : ∀ a, (k a).stands x) : (withV1 s o k).stands x :=
  stands_guarded hs (stands_withV fun a => hk a.toNat)

theorem stands_vResult {cls v flags : Nat} : (vResult sl o cls v flags s).stands x := stands_ok hs

theorem stands_vLanes {cls w : Nat} {lane : Nat → Nat × Nat} : (vLanes sl o cls w lane s).stands x := by
  unfold vLanes
  exact stands_withOld fun _ => stands_vResult hs

theorem stands_vAll {cls w : Nat} {lane : Nat → Nat × Nat} : (vAll sl o cls w lane s).stands x := stands_ok hs

theorem stands_vMask {cls w : Nat} {lane : Nat → Bool × Nat} : (vMask sl o cls w lane s).stands x := stands_ok hs

/-! Families of V operations -/

theorem stands_viBin (f : Fmt → Int → Int → Int) : (viBin sl o f s).stands x := by
  unfold viBin
  exact stands_withVV hs fun _ _ => stands_vLanes hs

theorem stands_viBits (f : Nat → Nat → Nat) : (viBits sl o f s).stands x := by
  unfold viBits
  exact stands_withVV hs fun _ _ => stands_vLanes hs

theorem stands_viUn (f : Fmt → Nat → Nat) : (viUn sl o f s).stands x := by
  unfold viUn
  exact stands_withV1 hs fun _ => stands_vLanes hs

theorem stands_viShift (f : Nat → Nat → Nat → Nat) : (viShift sl o f s).stands x := by
  unfold viShift
  exact stands_ite (stands_withV1 hs fun _ => stands_vLanes hs) (stands_withVV hs fun _ _ => stands_vLanes hs)

theorem stands_viRed (f : Fmt → List Int → Int) : (viRed sl o f s).stands x := by
  unfold viRed
  exact stands_withV1 hs fun _ => stands_vResult hs

theorem stands_vfBin (f : Rnd → Val → Val → Val × Nat) : (vfBin sl o f s).stands x := by
  unfold vfBin
  exact stands_withVV hs fun _ _ => stands_withRnd hs fun _ _ _ ht => stands_vLanes ht

theorem stands_vfFma (f : Bool) : (vfFma sl o f s).stands x := by
  unfold vfFma
  exact stands_withVV hs fun _ _ => stands_withV fun _ => stands_withRnd hs fun _ _ _ ht => stands_vAll ht

theorem stands_vfTrans (f : Fmt → Rnd → Nat → Val → Nat × Nat) : (vfTrans sl o f s).stands x := by
  unfold vfTrans
  exact stands_withV1 hs fun _ => stands_withRnd hs fun _ _ _ ht => stands_vLanes ht

theorem stands_vfMinMax (f : Bool) : (vfMinMax sl o f s).stands x := by
  unfold vfMinMax
  exact stands_withVV hs fun _ _ => stands_vLanes hs

theorem stands_vfSign (f : Fmt → Nat → Nat) : (vfSign sl o f s).stands x := by
  unfold vfSign
  exact stands_withV1 hs fun _ => stands_vLanes hs

theorem stands_maskOp (v : W64) : (maskOp sl o v s).stands x := stands_guarded hs (stands_ok hs)

/-! V operations of no family -/

theorem stands_opVpack : (opVpack sl o s).stands x := by
  unfold opVpack
  exact stands_withVV hs fun _ _ => stands_vLanes hs

theorem stands_opVshuf : (opVshuf sl o s).stands x := by
  unfold opVshuf
  exact stands_withVV hs fun _ _ => stands_vLanes hs

theorem stands_opVfscale : (opVfscale sl o s).stands x := by
  unfold opVfscale
  exact stands_withVV hs fun _ _ => stands_withRnd hs fun _ _ _ ht => stands_vLanes ht

theorem stands_opVunpack : (opVunpack sl o s).stands x := by
  unfold opVunpack
  exact stands_withV1 hs fun _ => stands_vLanes hs

theorem stands_opVdqmx : (opVdqmx sl o s).stands x := by
  unfold opVdqmx
  exact stands_withV1 hs fun _ => stands_withRnd hs fun _ _ _ ht => stands_vLanes ht

theorem stands_opVmad : (opVmad sl o s).stands x := by
  unfold opVmad
  exact stands_withVV hs fun _ _ => stands_withV fun _ => stands_vAll hs

theorem stands_opVperm : (opVperm sl o s).stands x := by
  unfold opVperm
  exact stands_withVV hs fun _ _ => stands_withV fun _ => stands_vAll hs

theorem stands_opVsel : (opVsel sl o s).stands x := by
  unfold opVsel
  exact stands_withVV hs fun _ _ => stands_vAll hs

theorem stands_opVcmp : (opVcmp sl o s).stands x := by
  unfold opVcmp
  exact stands_withVV hs fun _ _ => stands_vMask hs

theorem stands_opVfcmp : (opVfcmp sl o s).stands x := by
  unfold opVfcmp
  exact stands_withVV hs fun _ _ => stands_vMask hs

theorem stands_opVfclass : (opVfclass sl o s).stands x := by
  unfold opVfclass
  exact stands_withV1 hs fun _ => stands_vMask hs

theorem stands_opVcmpr : (opVcmpr sl o s).stands x := by
  unfold opVcmpr
  exact stands_withV1 hs fun _ => stands_vAll hs

theorem stands_opVexpd : (opVexpd sl o s).stands x := by
  unfold opVexpd
  exact stands_withV1 hs fun _ => stands_vAll hs

theorem stands_opVrfmax : (opVrfmax sl o s).stands x := by
  unfold opVrfmax
  exact stands_withV1 hs fun _ => stands_vResult hs

theorem stands_opVrfadd : (opVrfadd sl o s).stands x := by
  unfold opVrfadd
  exact stands_withV1 hs fun _ => stands_withRnd hs fun _ _ _ ht => stands_vResult ht

theorem stands_opVcvt : (opVcvt sl o s).stands x := by
  unfold opVcvt
  exact stands_withV1 hs fun _ => stands_withRnd hs fun _ _ _ ht => stands_withOld fun _ => stands_vResult ht

theorem stands_opVqmx : (opVqmx sl o s).stands x := by
  unfold opVqmx
  exact stands_ite (stands_withVV hs fun _ _ => stands_vResult hs) (stands_withV1 hs fun _ => stands_vResult hs)

theorem stands_opViota : (opViota sl o s).stands x := by
  unfold opViota
  exact stands_guarded hs (stands_vAll hs)

theorem stands_opVbcast : (opVbcast sl o s).stands x := by
  unfold opVbcast
  exact stands_ite (stands_guarded hs (stands_withX fun _ => stands_vLanes hs)) (stands_withV1 hs fun _ => stands_vLanes hs)

theorem stands_opVlrot : (opVlrot sl o s).stands x := by
  unfold opVlrot
  exact stands_withV1 hs fun _ => stands_ite (stands_withX fun _ => stands_vLanes hs) (stands_vLanes hs)

theorem stands_opVrng : (opVrng sl o s).stands x := by
  unfold opVrng
  exact stands_guarded hs (stands_withV fun _ => stands_withX fun _ => stands_vLanes hs)

theorem stands_opMpop : (opMpop sl o s).stands x := stands_guarded hs (stands_ok hs)

end

/-! ## Operations of the other slots -/

section
variable {s : State} {x : Form × Bool × Nat} (hs : s.station = x)
include hs

/-! The C slot -/

theorem stands_withCtl {k : Ctl} : (withCtl s k).stands x := stands_ok hs

theorem stands_openLoop {n i : Nat} {stages : Option Nat} : (openLoop n i stages s).stands x := by
  refine stands_ite (stands_raise _ _) (stands_ite (stands_raise _ _) (stands_ite (stands_raise _ _)
    (stands_ite (stands_raise _ _) (stands_ite (stands_withCtl hs) (stands_ite (stands_raise _ _) ?_)))))
  split <;> exact stands_withCtl hs

theorem stands_opNext {o : S0} : (opNext o s).stands x := by
  refine stands_guarded hs ?_
  split
  · exact stands_raise _ _
  · exact stands_ite (stands_withCtl hs) (stands_raise _ _)

theorem stands_opLexit {o : S0} : (opLexit o s).stands x := by
  refine stands_guarded hs ?_
  split
  · exact stands_raise _ _
  · exact stands_withCtl hs

/-! The S and A slots -/

theorem stands_opMfs {o : S1I} : (opMfs o s).stands x := by
  unfold opMfs
  split
  · exact stands_raise _ _
  · exact stands_guarded hs (stands_ok hs)

theorem stands_opMts {o : S1I} : (opMts o s).stands x := by
  unfold opMts
  split
  · exact stands_raise _ _
  · exact stands_guarded hs (stands_ite (stands_raise _ _) (stands_ok hs))

theorem stands_opAstep {o : S3} : (opAstep o s).stands x := by
  unfold opAstep
  refine stands_guarded hs ?_
  split
  · exact stands_raise _ _
  · exact stands_ok hs

theorem stands_opWopen {o : S3X} : (opWopen o s).stands x :=
  stands_guarded hs (stands_withRec fun _ => stands_ite (stands_tensorTrap _ _ _) (stands_ite (stands_raise _ _)
    (stands_withTier (stands_withLeast (stands_queueFill (s := (s.closeWin _).useRecs _ _) ((s.closeWin_station _).trans hs)
      fun _ ht => stands_ok ht)))))

theorem stands_opWadv {o : S3} : (opWadv o s).stands x :=
  stands_guarded hs (stands_ite (stands_raise _ _) (stands_ite (stands_ok hs) (stands_ite (stands_raise _ _)
    (stands_withRec fun _ => stands_withTier (stands_withLeast
      (stands_queueFill ((station_foldl (fun s f => s.cancelFill_station _ f) s _).trans hs) fun _ ht => stands_ok ht))))))

theorem stands_opWclose {o : S3} : (opWclose o s).stands x :=
  stands_guarded hs (stands_ite (stands_ok ((s.closeWin_station _).trans hs)) (stands_raise _ _))

/-! The F slot -/

theorem stands_opFill {o : S2I} : (opFill o s).stands x :=
  stands_guarded hs (stands_padAddr fun _ => stands_ite (stands_raise _ _) (stands_padWrite hs))

theorem stands_opFlpush {o : S3X} : (opFlpush o s).stands x := by
  have push : ∀ (v : V512) (t : State), t.station = x →
      (if t.core.flueRoom o.f1 1 then Res.ok (t.pushFlue o.f1 (t.core.now + 1) ((t.core.flueOf o.f1).entry v))
        else raise 0x06 o.f1).stands x := fun v t ht => stands_ite (stands_ok ht) (stands_raise _ _)
  exact stands_guarded hs (stands_ite (stands_readStream hs push) (stands_withV fun v => push v s hs))

theorem stands_opFlpop {o : S3X} : (opFlpop o s).stands x :=
  stands_guarded hs (stands_readFlue hs fun _ _ ht => stands_ok ht)

/-! The X slot -/

theorem stands_opTpref {o : Long} : (opTpref o s).stands x := by
  refine stands_guarded hs (stands_withX fun h => ?_)
  split
  · exact stands_ok hs
  · split
    · exact stands_ok hs
    · exact stands_ite (stands_ok hs) (stands_accept hs fun _ _ ht => stands_ok ht)

theorem stands_copyGo {c : CopyDesc} {hint : Nat} {src dst : Option Rec} : (copyChecked.go s c hint src dst).stands x := by
  unfold copyChecked.go
  dsimp only
  split
  · exact stands_raise _ _
  · exact stands_ite (stands_raise _ _) (stands_accept hs fun _ _ ht => stands_ok ht)

theorem stands_copyChecked {c : CopyDesc} {ring : AReg} {hint : Nat} {src dst : Option Rec} :
    (copyChecked s c ring hint src dst).stands x := by
  have tier : ∀ (y : Option Rec) (co : List Int) (k : Res), k.stands x →
      (match y with | some r => withTier s r co k | none => k).stands x := fun y co k hk => by
    cases y with
    | none => exact hk
    | some r => exact stands_withTier hk
  have least : ∀ k : Res, k.stands x → (match src with
      | some r => if c.kind = 4 then withLeast s r (rowCoords c c.sc 0) c.d 0 k else k
      | none => k).stands x := fun k hk => by
    cases src with
    | none => exact hk
    | some r => exact stands_ite (stands_withLeast hk) hk
  refine stands_ite (stands_raise _ _) ?_
  split
  · exact stands_trap _
  · refine tier _ _ _ (tier _ _ _ (least _ ?_))
    split
    · exact stands_ite (stands_tensorTrap _ _ _) (stands_ite (stands_raise _ _) (stands_copyGo hs))
    · exact stands_copyGo hs

theorem stands_opTcopy {o : Long} : (opTcopy o s).stands x :=
  stands_guarded hs (stands_withV fun _ => stands_ite (stands_raise _ _) (stands_ite (stands_tensorTrap _ _ _)
    (stands_ite (stands_tensorTrap _ _ _) (stands_copyChecked hs))))

/-! The M slot -/

theorem stands_opMldb {o : Long} : (opMldb o s).stands x := by
  refine stands_guarded hs (stands_padAddr fun a => ?_)
  dsimp only
  split
  · exact stands_raise _ _
  · refine stands_landed ?_
    split
    · exact stands_raise _ _
    · exact stands_ite (stands_raise _ _) (stands_ok hs)

theorem stands_opMtfetch {o : Long} : (opMtfetch o s).stands x :=
  stands_guarded hs (stands_withX fun _ => stands_withX fun _ => stands_withRec fun r => stands_ite (stands_raise _ _)
    (stands_ite (stands_tensorTrap _ _ _) (stands_withTier (stands_withLeast (stands_ite (stands_raise _ _)
      (stands_ok ((s.translated_station r.handle).trans hs)))))))

theorem stands_opMshift {o : Long} : (opMshift o s).stands x := by
  refine stands_guarded hs (stands_withFill ?_)
  split
  · exact stands_raise _ _
  · exact stands_ok hs

theorem stands_pushPlane {o : Long} {e c v : Nat} : (pushPlane o e c v s).stands x := stands_ok hs

theorem stands_opMpush {o : Long} : (opMpush o s).stands x :=
  stands_guarded hs (stands_ite (stands_raise _ _) (stands_withFill (stands_ite
    (stands_readFlue hs fun _ t ht => stands_pushPlane (s := (t.pushed _ _).2.mapCore _) ((t.pushed_station _ _).trans ht))
    (stands_withV fun _ => stands_pushPlane hs))))

theorem stands_beatOp {o : Long} : (beatOp o s).stands x :=
  stands_guarded hs (stands_ite (stands_raise _ _) (stands_ite (stands_readElems hs fun _ _ ht => stands_ok ht)
    (stands_readGroup fun _ => stands_ok hs)))

theorem stands_opMdrain {o : Long} : (opMdrain o s).stands x := by
  refine stands_guarded hs (stands_ite (stands_raise _ _) (stands_ite (stands_raise _ _) (stands_ok ?_)))
  dsimp only
  split <;> split <;> exact hs

/-! ## Every slot operation -/

/-- No slot operation moves the station, in whatever slot it runs. -/
theorem runOp_stands (sl : Slot) (i : Instr) : (runOp sl i s).stands x := by
  unfold runOp
  cases i with
  | br o | bri o | ret o | trap o => exact stands_guarded hs (stands_withCtl hs)
  | brp o => exact stands_guarded hs (stands_ite (stands_ok hs) (stands_withCtl hs))
  | loop o | sloop o => exact stands_guarded hs (stands_openLoop hs)
  | next o => exact stands_opNext hs
  | lexit o => exact stands_opLexit hs
  | halt o => exact stands_guarded hs (stands_withRace (stands_withCtl hs))
  | eret o => exact stands_ite (stands_guarded hs (stands_withCtl hs)) (stands_raise _ _)
  | fuse o | rejoin o | decouple o | pair o => exact stands_guarded hs (stands_needGroup (stands_withCtl hs))
  | sbar o | sqbar o => exact stands_guarded hs (stands_needGroup (stands_withRace (stands_withCtl hs)))
  | mfs o => exact stands_opMfs hs
  | mts o => exact stands_opMts hs
  | alea o => exact stands_guarded hs (stands_ite (stands_raise _ _) (stands_ok hs))
  | astep o => exact stands_opAstep hs
  | wopen o => exact stands_opWopen hs
  | wadv o => exact stands_opWadv hs
  | wclose o => exact stands_opWclose hs
  | fill o => exact stands_opFill hs
  | flpush o => exact stands_opFlpush hs
  | flpop o => exact stands_opFlpop hs
  | lds o | vld o | vldx o =>
    exact stands_guarded hs (stands_padAddr fun _ => stands_padRead hs fun _ _ ht => stands_ok ht)
  | sts o => exact stands_guarded hs (stands_withX fun _ => stands_padAddr fun _ => stands_padWrite hs)
  | vst o | vstx o => exact stands_guarded hs (stands_withV fun _ => stands_padAddr fun _ => stands_padWrite hs)
  | tld o =>
    exact stands_guarded hs (stands_withX fun _ => stands_withOffset fun _ _ => stands_ite (stands_tensorTrap _ _ _)
      (stands_withTier (stands_withLeast (stands_ite (stands_accept hs fun _ _ ht => stands_ok ht) (stands_raise _ _)))))
  | tst o =>
    exact stands_guarded hs (stands_withX fun _ => stands_withOffset fun _ _ => stands_ite (stands_tensorTrap _ _ _)
      (stands_withTier (stands_readGroup fun _ => stands_accept hs fun _ _ ht => stands_ok ht)))
  | tcopy o => exact stands_opTcopy hs
  | tpref o => exact stands_opTpref hs
  | fence o => exact stands_guarded hs (stands_withRace (stands_ok hs))
  | qfence o => exact stands_guarded hs (stands_ite (stands_ok hs) (stands_withRace (stands_ok hs)))
  | vjoin o => exact stands_guarded hs (stands_withX fun _ => stands_ok hs)
  | aadd o | amin o | amax o | aand o | aor o | axor o | axchg o | ast o | afadd o | notify o | dqpush o | dcnt o =>
    exact stands_atomic1 hs
  | ald o | dqpop o | dqsteal o => exact stands_atomic0 hs
  | acas o | waita o => exact stands_guarded hs (stands_withX fun _ => stands_issueSync hs)
  | vadd o | vsub o | vadds o | vsubs o | vmul o | vmulh o | vmin o | vmax o => exact stands_viBin hs _
  | vand o | vor o | vxor o => exact stands_viBits hs _
  | vabs o | vneg o | vclz o | vpopc o => exact stands_viUn hs _
  | vshl o | vshr o | vsar o => exact stands_viShift hs _
  | vradd o | vrmax o | vrmin o => exact stands_viRed hs _
  | vfadd o | vfsub o | vfmul o => exact stands_vfBin hs _
  | vfma o | vfnma o => exact stands_vfFma hs _
  | vfrcp o | vfrsq o | vfexp2 o | vflog2 o => exact stands_vfTrans hs _
  | vfmin o | vfmax o => exact stands_vfMinMax hs _
  | vfabs o | vfneg o => exact stands_vfSign hs _
  | mand o | mor o | mnot o => exact stands_maskOp hs _
  | vpack o => exact stands_opVpack hs
  | vshuf o => exact stands_opVshuf hs
  | vfscale o => exact stands_opVfscale hs
  | vunpack o => exact stands_opVunpack hs
  | vdqmx o => exact stands_opVdqmx hs
  | vmad o => exact stands_opVmad hs
  | vperm o => exact stands_opVperm hs
  | vsel o => exact stands_opVsel hs
  | vcmp o => exact stands_opVcmp hs
  | vfcmp o => exact stands_opVfcmp hs
  | vfclass o => exact stands_opVfclass hs
  | vcmpr o => exact stands_opVcmpr hs
  | vexpd o => exact stands_opVexpd hs
  | vrfmax o => exact stands_opVrfmax hs
  | vrfadd o => exact stands_opVrfadd hs
  | vcvt o => exact stands_opVcvt hs
  | vqmx o => exact stands_opVqmx hs
  | viota o => exact stands_opViota hs
  | vbcast o => exact stands_opVbcast hs
  | vlrot o => exact stands_opVlrot hs
  | vrng o => exact stands_opVrng hs
  | mpop o => exact stands_opMpop hs
  | mldb o => exact stands_opMldb hs
  | mtfetch o => exact stands_opMtfetch hs
  | mshift o => exact stands_opMshift hs
  | mpush o => exact stands_opMpush hs
  | macc o | mtern o => exact stands_beatOp hs
  | mdrain o => exact stands_opMdrain hs
  | call o | lix o | add o | sub o | mul o | mulhs o | mulhn o | divs o | divn o | rems o | remn o | and o | or o
  | xor o | andn o | shl o | shrn o | shrs o | rotl o | mins o | maxs o | minn o | maxn o | clz o | ctz o | popc o
  | bext o | bins o | add128 o | addi o | movi o | cmpEq o | cmpNe o | cmpLts o | cmpLes o | cmpLtn o | cmpLen o
  | cmpAny o | cmpNone o | sel o | pand o | por o | pxor o | pnot o | pmov o | wid o | rank o | aset o | aring o
  | flcfg o | mzero o | mswap o =>
    exact stands_guarded hs (stands_ok hs)
  | _ => exact stands_ok hs

end

end Sys2Proof.Machine
end

/-! PROOFS. The station: an execution, and the cycle of a freeze domain, keep it. -/
section
namespace Sys2Proof.Machine

/-! ## An execution and a cycle of one hearth -/

section
variable (s : State)

@[simp] theorem State.freezeCycle_station (f : Freeze) : (s.freezeCycle f).station = s.station := s.freezeBy_station f

@[simp] theorem State.scrub_station (c : Core) (acts : List Issued) : (s.scrub c acts).station = s.station := by
  unfold State.scrub
  split
  · rfl
  · exact (station_foldl (fun s u => s.sawWords_station _ _ _) _ _).trans (station_foldl (fun s u => s.sawWords_station _ _ _) s _)

@[simp] theorem State.raised_station (t : Trap) (slot : Nat) (re : Bool) (repleft pc : Nat) :
    (s.raised t slot re repleft pc).station = s.station :=
  ite_station rfl ((State.mapCore_station _ _).trans ((State.takeTrap_station _ _ _ _ _ _ _).trans
    ((State.writeDue_station _ _).trans (s.mapCore_station _))))

@[simp] theorem State.deliver_station (d : Delivery) : (s.deliver d).station = s.station := by
  unfold State.deliver
  split
  · rfl
  · exact station_foldl (fun s g => s.mapCoreAt_station _ _) s _

@[simp] theorem State.endCycle_station (last : Bool) : (s.endCycle last).station = s.station := by
  refine ite_station rfl ?_
  split
  · refine ite_station rfl ?_
    split
    · exact (State.closeBundle_station _ _).trans (State.writeDue_station _ _)
    · exact s.closeBundle_station _
  · exact s.closeBundle_station _

@[simp] theorem State.handlerIn_station : s.handlerIn.station = s.station := by
  unfold State.handlerIn
  split
  · rfl
  · exact State.fail_station _ _ _

@[simp] theorem State.fetchHandler_station (t : State) (g : Nat) : (s.fetchHandler t g).station = t.station := by
  refine ite_station rfl ?_
  split
  · exact t.homeFetch_station _ _ _ _
  · rfl

end

/-- What a cycle has come to keeps the station. -/
def Cycle.keeps (x : Form × Bool × Nat) (k : Cycle) : Prop := ∀ t, k = .went t → t.station = x

section
variable {s : State} {x : Form × Bool × Nat}

theorem went_keeps {t : State} (h : t.station = x) : (Cycle.went t).keeps x := fun _ ht => Cycle.went.inj ht ▸ h

theorem hold_keeps : Cycle.hold.keeps x := fun _ h => nomatch h

theorem swap_keeps (n : Nat) : (Cycle.swap n).keeps x := fun _ h => nomatch h

theorem freeze_keeps (f : Freeze) : (Cycle.stands f).keeps x := fun _ h => nomatch h

theorem Cycle.keeps_ite {p : Prop} [Decidable p] {k l : Cycle} (hk : k.keeps x) (hl : l.keeps x) :
    Cycle.keeps x (if p then k else l) := by
  split
  · exact hk
  · exact hl

/-- Where all operations of an execution run, the device stands at `x`. -/
def Ran.keeps (x : Form × Bool × Nat) (r : Ran) : Prop := ∀ t n, r = .ok t n → t.station = x

theorem trap_ran_keeps (t : Trap) (a : Issued) : (Ran.trap t a).keeps x := fun _ _ h => nomatch h

theorem freeze_ran_keeps (f : Freeze) : (Ran.freeze f).keeps x := fun _ _ h => nomatch h

/-- The operations of an execution, run in slot order, keep the station. -/
theorem runActs_keeps {l : List Issued} {m : List (Nat × W64)} (hs : s.station = x) : (runActs l s m).keeps x := by
  induction l generalizing s m with
  | nil =>
    intro t n h
    obtain ⟨rfl, -⟩ := Ran.ok.inj h
    exact hs
  | cons a r ih =>
    rw [runActs]
    split
    · exact trap_ran_keeps _ _
    next m' _ =>
      dsimp only
      split
      · exact trap_ran_keeps _ _
      · split
        next t ht => exact ih (runOp_stands (s := s.mapCore _) hs a.slot a.op t ht)
        · exact trap_ran_keeps _ _
        · exact freeze_ran_keeps _

variable (hs : s.station = x)
include hs

theorem State.stallOr_keeps (due : Bool) : (s.stallOr due).keeps x := Cycle.keeps_ite hold_keeps (went_keeps hs)

theorem State.runBundle_keeps (d : Option Delivery) (b : Bundle) (acts : List Issued) (left : Nat) :
    (s.runBundle d b acts left).keeps x := by
  unfold State.runBundle
  extract_lets c
  split
  · exact went_keeps ((s.raised_station _ _ _ _ _).trans hs)
  · exact freeze_keeps _
  next t m hrun =>
    have ht : t.station = x := runActs_keeps hs t m hrun
    extract_lets mine xres t1 t2 t3
    have ht1 : t1.station = x := by
      cases d <;> exact ht
    have ht2 : t2.station = x := (State.scrub_station t1 c acts).trans ht1
    have ht3 : t3.station = x := by
      show (ite _ _ _ : State).station = x
      split
      · exact (t2.deliver_station _).trans ht2
      · exact ht2
    exact went_keeps ((t3.endCycle_station _).trans ht3)

theorem State.execute_keeps (d : Option Delivery) : (s.execute d).keeps x := by
  have hraised (t : Trap) (slot : Nat) (re : Bool) (left pc : Nat) : (Cycle.went (s.raised t slot re left pc)).keeps x :=
    went_keeps ((s.raised_station _ _ _ _ _).trans hs)
  unfold State.execute
  extract_lets c
  split
  · exact hraised _ _ _ _ _
  · refine Cycle.keeps_ite (hraised _ _ _ _ _) ?_
    split
    · exact hraised _ _ _ _ _
    · dsimp only
      split
      · exact hraised _ _ _ _ _
      · refine Cycle.keeps_ite (s.stallOr_keeps hs _) ?_
        split
        · exact Cycle.keeps_ite (swap_keeps _) (Cycle.keeps_ite (s.stallOr_keeps hs _) (s.runBundle_keeps hs _ _ _ _))
        · exact s.runBundle_keeps hs _ _ _ _

theorem State.lineCycle_keeps (due : Bool) : (s.lineCycle due).keeps x := by
  have hgo (ms : List Nat) (as : List (Nat × Nat)) : Cycle.keeps x (if s.lineOpen ms as then s.stallOr due else .stands .plain) :=
    Cycle.keeps_ite (s.stallOr_keeps hs _) (freeze_keeps _)
  unfold State.lineCycle
  extract_lets go
  cases s.core.wait with
  | line c => cases c <;> exact hgo _ _
  | pairLine at_ => exact hgo _ _
  | _ => exact s.stallOr_keeps hs _

theorem State.waitCycle_keeps : s.waitCycle.keeps x := by
  have hstill (padded : Nat) (due : Bool) : Cycle.keeps x
      (if s.fixed then (if s.core.now < padded then s.stallOr due else .stands .wait) else .stands .plain) :=
    Cycle.keeps_ite (Cycle.keeps_ite (s.stallOr_keeps hs due) (freeze_keeps _)) (freeze_keeps _)
  unfold State.waitCycle
  extract_lets due still
  cases s.core.wait with
  | fence ops reqs fills padded wb inv banks release arrive => exact hstill _ _
  | acquire req padded inv => exact hstill _ _
  | ereting => exact Cycle.keeps_ite (went_keeps (s.resume_station.trans hs)) (went_keeps hs)
  | _ => exact s.lineCycle_keeps hs _

/-- One cycle of the hearth in focus keeps the station. -/
theorem State.memberCycle_keeps : s.memberCycle.keeps x := by
  unfold State.memberCycle
  dsimp only
  refine Cycle.keeps_ite (went_keeps hs) (Cycle.keeps_ite (went_keeps (s.handlerIn_station.trans hs))
    (Cycle.keeps_ite (freeze_keeps _) (Cycle.keeps_ite (s.waitCycle_keeps hs) (Cycle.keeps_ite ?_ (s.execute_keeps hs _)))))
  split
  · exact Cycle.keeps_ite (State.execute_keeps (s := s.mapCore _) hs _) (went_keeps hs)
  · exact Cycle.keeps_ite (s.execute_keeps hs _) (went_keeps hs)

end

/-! ## The cycle of a freeze domain -/

/-- What the cycles of some hearths in turn come to: all taken, the device stands at `x`, or the hearth at which they stop has not
taken its own. -/
def Members (x : Form × Bool × Nat) : Sum State (Nat × Cycle) → Prop
  | .inl t => t.station = x
  | .inr (_, k) => ∀ t, k ≠ .went t

/-- The cycles of some hearths in turn keep the station, or stop at a hearth that has not taken its own. -/
theorem runMembers_ends {base s : State} {held l : List Nat} {x : Form × Bool × Nat} (hs : s.station = x) :
    Members x (runMembers base held l s) := by
  induction l generalizing s with
  | nil => exact hs
  | cons g r ih =>
    rw [runMembers]
    split
    · exact ih hs
    · have hfocus := (s.focus_station g).trans hs
      dsimp only
      split
      next u hu => exact ih (ite_station hfocus (State.memberCycle_keeps hfocus u hu))
      · exact fun _ h => nomatch h
      next hw _ =>
        split
        · exact ih hfocus
        · exact hw



@[simp] theorem State.runDomain_station (s : State) (n : Nat) (held hs : List Nat) : (s.runDomain n held hs).station = s.station := by
  induction n generalizing s held with
  | zero => rfl
  | succ n ih =>
    have hends := runMembers_ends (base := s) (held := held) (l := hs) (s := s) rfl
    rw [State.runDomain]
    split
    next hr =>
      rw [hr] at hends
      exact hends
    · exact (ih _ _).trans (s.mapCoreAt_station _ _)
    · exact ih s _
    · exact (station_foldl (fun s g => s.mapCoreAt_station _ _) _ _).trans ((State.freezeCycle_station _ _).trans (s.focus_station _))
    next t hr =>
      rw [hr] at hends
      exact absurd rfl (hends t)

@[simp] theorem State.issueCycle_station (s : State) : s.issueCycle.station = s.station := by
  have hhandlers (t : State) (hs : List Nat) : (hs.foldl (fun t g => s.fetchHandler t g) t).station = t.station :=
    station_foldl (fun t g => s.fetchHandler_station t g) t hs
  refine ite_station ?_ rfl
  rw [State.focus_station, station_foldl fun s g => s.mapCoreAt_station _ _, hhandlers]
  exact ite_station (station_foldl (fun s g => s.mapCoreAt_station _ _) s _) (s.runDomain_station _ _ _)

end Sys2Proof.Machine
end

/-! PROOFS. The station: HBM ports, the fabric, phases, the host and chimney lines keep it. -/
section
namespace Sys2Proof.Machine

section
variable (s : State)

/-! ## Performing packets (R393, R394, R399) -/

@[simp] theorem State.sawCell_station (k g ctx : Nat) : (s.sawCell k g ctx).station = s.station := by
  unfold State.sawCell
  split
  · exact ite_station rfl (State.correctCell_station _ _ _)
  · rfl

/-! ## Scan units (R395 to R397) -/

@[simp] theorem State.sawScan_station (o : Scan) (r : Rec) : (s.sawScan o r).station = s.station := by
  simp [State.sawScan]

/-! ## Owners and links (R429, R431, R432) -/

@[simp] theorem State.isolate_station (port o : Nat) : (s.isolate port o).station = s.station :=
  ite_station ((station_foldl (fun s _ => s.postEvent_station _ _) _ _).trans (s.setPort_station _ _)) rfl

@[simp] theorem State.portFault_station (port : Nat) : (s.portFault port).station = s.station :=
  (State.setPort_station _ _ _).trans (station_foldl (fun s _ => s.isolate_station _ _) s _)

@[simp] theorem State.discard_station (port o : Nat) : (s.discard port o).station = s.station :=
  ite_station (State.isolate_station _ _ _) rfl

/-! ## Requests of peers (R434 to R436) -/

@[simp] theorem State.sendReply_station (r : RemoteIn) (status : Nat) (payload : List V512) :
    (s.sendReply r status payload).station = s.station := ite_station rfl rfl

@[simp] theorem State.remoteWrite_station (ctx h : Nat) (p : FabPacket) :
    (s.remoteWrite ctx h p).station = s.station := by simp [State.remoteWrite]

@[simp] theorem State.performRemote_station (r : RemoteIn) : (s.performRemote r).station = s.station := by
  have hreply (t : State) (st : Nat) (l : List V512) (ht : t.station = s.station) : (t.sendReply r st l).station = s.station :=
    (t.sendReply_station r st l).trans ht
  refine ite_station (hreply _ _ _ rfl) (ite_station (hreply _ _ _ ((State.remoteWrite_station _ _ _ _).trans ?_)) (hreply _ _ _ ?_))
  · exact ite_station rfl (State.beforeWrite_station _ _ _ _ _ _)
  · exact State.homeFetch_station _ _ _ _ _

@[simp] theorem State.performHeld_station (ctx : Nat) : (s.performHeld ctx).station = s.station := by
  simp [State.performHeld]

/-! ## Replies and time-outs of a remote copy (R441) -/

@[simp] theorem State.dropOut_station (id : Nat) : (s.dropOut id).station = s.station := rfl

@[simp] theorem State.awaited_station (x : RemoteOut) (status : Nat) : (s.awaited x status).station = s.station := by
  simp [State.awaited]

@[simp] theorem State.launchWaiting_station : s.launchWaiting.station = s.station := by
  unfold State.launchWaiting
  split
  · rfl
  · refine ite_station ((State.awaited_station _ _ _).trans ((State.dropOut_station _ _).trans ?_)) ?_
    all_goals exact (State.launchOut_station _ _).trans (s.dropOut_station _)

@[simp] theorem State.packetDone_station (x : RemoteOut) (status : Nat) :
    (s.packetDone x status).station = s.station := by simp [State.packetDone]

@[simp] theorem State.placeReply_station (x : RemoteOut) (o : CopyOp) (c : CopyDesc) (status : Nat) (p : FabPacket) :
    (s.placeReply x o c status p).station = s.station := by
  refine ite_station rfl (ite_station ?_ (s.padRowPut_station _ _ _))
  split
  · rfl
  · split
    · rfl
    · exact writeRange_station s _ _ _ _ _ _ _ _ _

/-! ## The commit -/

@[simp] theorem State.commitSquare_station (ctx q : Nat) : (s.commitSquare ctx q).station = s.station := by
  have hwrite (ls : List Line) : (ls.foldl (fun s l => s.writeHome q l) s).station = s.station :=
    station_foldl (fun s l => s.writeHome_station _ _) s ls
  exact ite_station (hwrite _) (hwrite _)

@[simp] theorem State.clearRecords_station (ctx : Nat) : (s.clearRecords ctx).station = s.station := by
  unfold State.clearRecords
  split <;> simp

@[simp] theorem State.releaseEgress_station (ctx : Nat) : (s.releaseEgress ctx).station = s.station :=
  (State.withFabric_station _ _).trans ((station_foldl (fun s _ => s.launchOut_station _) _ _).trans (s.withFabric_station _))

@[simp] theorem State.passPhase_station (ctx : Nat) : (s.passPhase ctx).station = s.station := by simp [State.passPhase]

/-! ## Rollback (R383) -/

@[simp] theorem State.endTasks_station (ctx : Nat) : (s.endTasks ctx).station = s.station := by
  unfold State.endTasks
  refine (station_foldl (fun s d => State.mapDie_station _ _ _) _ _).trans ?_
  refine (State.withReqs_station _ _).trans ((station_foldl (fun s r => State.endRebuild_station _ _ _) _ _).trans ?_)
  refine (State.withLaunches_station _ _).trans ((State.mapImages_station _ _).trans ?_)
  refine (station_foldl (fun s r => State.unuseRecs_station _ _ _) _ _).trans (station_foldl (fun s h => ?_) _ _)
  split
  · simp
  · rfl

@[simp] theorem State.restorePages_station (ctx : Nat) : (s.restorePages ctx).station = s.station := by
  simp [State.restorePages]

@[simp] theorem State.restoreRecs_station (ctx phase : Nat) : (s.restoreRecs ctx phase).station = s.station := by
  simp [State.restoreRecs]

@[simp] theorem State.restoreSync_station (c : Context) : (s.restoreSync c).station = s.station := by
  unfold State.restoreSync
  refine (station_foldl (fun s e => State.putNamed_station _ _ _ _) _ _).trans ?_
  refine (station_foldl (fun s e => State.mapDie_station _ _ _) _ _).trans ?_
  exact station_foldl (fun s e => (State.storeOverflow_station _ _ _).trans (State.mapDie_station _ _ _)) _ _

@[simp] theorem State.restartStreams_station (c : Context) : (s.restartStreams c).station = s.station := by
  simp [State.restartStreams]

/-! ## Firmware (R402, R403) -/

@[simp] theorem State.loadFw_station (d : Nat) (image : List Byte) : (s.loadFw d image).station = s.station := rfl

/-! ## BAR0 and kick registers (R401, R406) -/

@[simp] theorem State.kickWrite_station (slot q size v : Nat) : (s.kickWrite slot q size v).station = s.station :=
  ite_station rfl (ite_station rfl rfl)

/-! ## HDM ranges and host memory (R303, R311, R409) -/

@[simp] theorem State.hostReach_station (a : Nat) : (s.hostReach a).2.station = s.station := by
  unfold State.hostReach
  split
  · exact s.reach_station _ _ _
  · rfl

@[simp] theorem State.hostWrite_station (a : Nat) (bs : List Byte) : (s.hostWrite a bs).station = s.station := by
  unfold State.hostWrite
  split
  · exact (State.homeWrite_station _ _ _ _ _).trans (s.beforeWrite_station _ _ _ _ _)
  · rfl

@[simp] theorem State.flushBuffer_station (b : Buffer) : (s.flushBuffer b).station = s.station := by
  refine ite_station rfl (station_foldl (fun s q => ?_) s _)
  exact ite_station rfl ((State.setSquare_station _ _ _).trans (station_foldl (fun s l => s.writeHome_station _ _) s _))

/-! ## Packets (R404, R405, R409) -/

@[simp] theorem State.writeCompletion_station (slot queue caddr index status : Nat) :
    (s.writeCompletion slot queue caddr index status).station = s.station := by
  unfold State.writeCompletion
  dsimp only
  split <;> rfl

@[simp] theorem State.finish_station (self : Instr) (k : Packet) (status : Nat) :
    (s.finish self k status).station = s.station := (State.writeCompletion_station _ _ _ _ _ _).trans rfl

@[simp] theorem State.keepStarted_station (self : Instr) : (s.keepStarted self).station = s.station := by
  unfold State.keepStarted
  split <;> rfl

/-! ## Contexts and partitions (R405 to R408) -/

@[simp] theorem State.freeContext_station (c : Context) : (s.freeContext c).station = s.station := by
  unfold State.freeContext
  refine (State.withContextsFabric_station _ _ _).trans ?_
  exact (station_foldl (fun s d => State.mapDie_station _ _ _) _ _).trans
    (station_foldl (fun s r => State.freeRec_station _ _) _ _)

@[simp] theorem State.setPartition_station (id d m : Nat) : (s.setPartition id d m).station = s.station := by
  refine ite_station rfl (ite_station (s.swapPartition_station _ _ _) ?_)
  exact (State.mapCtx_station _ _ _).trans (station_foldl (fun s _ => s.mapCoreAt_station _ _) s _)

/-! ## Sync state, pool, maps, slots (R287, R370, R404, R409) -/

@[simp] theorem State.shrinkPool_station (d cap : Nat) : (s.shrinkPool d cap).station = s.station :=
  station_foldl (fun s _ => ite_station (s.roomLoop_station _ _ _ _ _ _ _) rfl) s _

@[simp] theorem State.clearWays_station (d ways : Nat) : (s.clearWays d ways).station = s.station :=
  (State.mapDie_station _ _ _).trans (station_foldl (fun s _ => s.sideOut_station _ _) s _)

/-! ## Service (R411) -/

@[simp] theorem State.takeOut_station (d first count : Nat) : (s.takeOut d first count).station = s.station := rfl

/-! ## Service slots (R404, R405) -/

@[simp] theorem State.startOne_station (q : Nat) : (s.startOne q).station = s.station := rfl

@[simp] theorem State.serve_station (q : Nat) : (s.serve q).station = s.station := by
  unfold State.serve
  dsimp only
  split
  · rfl
  · exact station_foldl (fun s _ => State.startOne_station _ _) _ _

/-! ## Chimney lines and pair lines (R267, R275 to R280) -/

@[simp] theorem State.joinAll_station (hs : List Nat) : (s.joinAll hs).station = s.station :=
  station_foldl (fun s h => (State.mapCore_station _ _).trans ((State.acquire_station _ _).trans (s.focus_station h))) s _

@[simp] theorem State.shareRequest_station (hs : List Nat) : (s.shareRequest hs).station = s.station :=
  ite_station (station_foldl (fun s _ => s.mapCoreAt_station _ _) s _) rfl

@[simp] theorem State.fusionMismatch_station (h pc : Nat) : (s.fusionMismatch h pc).station = s.station :=
  (State.takeTrap_station _ _ _ _ _ _ _).trans ((State.writeDue_station _ _).trans ((State.mapCore_station _ _).trans (s.focus_station h)))

@[simp] theorem State.streetHigh_station (street : Nat) : (s.streetHigh street).station = s.station := by
  have hfuse (t : State) (hs : List Nat) : ((hs.foldl (fun s h => s.mapCoreAt h fun c => c.fuseIn (h % 8)) t).shareRequest hs).station =
      t.station := (State.shareRequest_station _ _).trans (station_foldl (fun s _ => s.mapCoreAt_station _ _) _ _)
  refine ite_station rfl ?_
  split
  · rfl
  · refine ite_station ((station_foldl (fun s h => s.fusionMismatch_station _ _) _ _).trans (s.setStreet_station _ _)) ?_
    split
    · exact (State.joinAll_station _ _).trans (s.setStreet_station _ _)
    · exact hfuse _ _
    · exact hfuse _ _
    · rfl

@[simp] theorem State.squareHigh_station : s.squareHigh.station = s.station :=
  ite_station rfl ((State.joinAll_station _ _).trans (s.setSquare_station _ _))

/-! ## Upsets (R348) -/

@[simp] theorem State.flipCell_station (r : Rec) (g : Nat) (x : Flaw) : (s.flipCell r g x).station = s.station := by
  unfold State.flipCell
  split <;> rfl

@[simp] theorem State.strike_station (at_ : Strike) (flips : List Nat) : (s.strike at_ flips).station = s.station := by
  cases at_ with
  | own h u => exact s.mapCoreAt_station _ _
  | l2 q w =>
    unfold State.strike
    dsimp only
    split <;> rfl
  | side d w =>
    unfold State.strike
    dsimp only
    split <;> rfl
  | gran ctx h g =>
    unfold State.strike
    dsimp only
    split
    · exact (State.flipCell_station _ _ _ _).trans (s.setHome_station _ _ _)
    · rfl
  | word d i => rfl
  | sync d space i part => rfl

@[simp] theorem State.struck_station : s.struck.station = s.station := by
  unfold State.struck
  split
  · rfl
  · exact State.strike_station _ _ _
  · rfl

end

end Sys2Proof.Machine
end

/-! PROOFS. The station: steps of slot operations, and events of hearths, dies, stacks and the package, keep it. -/
section
namespace Sys2Proof.Machine

/-! ## What a step comes to keeps the station -/

/-- Where a step goes on, the device stands at `x`. -/
def Stays (x : Form × Bool × Nat) (o : Host.Outcome State Fault Refusal) : Prop := ∀ t, o = .next t → t.station = x

/-- What a record comes to leaves the device at `x`. -/
def Recd.keeps (x : Form × Bool × Nat) : Recd → Prop
  | .done s => s.station = x
  | .wait s => s.station = x
  | .fault _ s => s.station = x

/-- What a command comes to leaves the device at `x`. -/
def Cmd.keeps (x : Form × Bool × Nat) : Cmd → Prop
  | .done _ s => s.station = x
  | .wait s => s.station = x

section
variable {s : State} {x : Form × Bool × Nat}

theorem stays_next {t : State} (h : t.station = x) : Stays x (.next t) := fun _ ht => Host.Outcome.next.inj ht ▸ h

theorem stays_fault (f : Fault) : Stays x (.fault f) := fun _ h => nomatch h

theorem stays_ite {p : Prop} [Decidable p] {k l : Host.Outcome State Fault Refusal} (hk : Stays x k) (hl : Stays x l) :
    Stays x (if p then k else l) := by
  split
  · exact hk
  · exact hl

/-! Slot operations as steps of their own -/

theorem stays_settle (hs : s.station = x) {sl : Slot} {r : Res} (hr : r.stands x) : Stays x (settle s sl r) := by
  cases r with
  | ok t => exact stays_next (hr t rfl)
  | trap t => exact stays_next ((s.takeTrap_station _ _ _ _ _ _).trans hs)
  | freeze f => exact stays_next ((s.freezeBy_station _).trans hs)

/-- The C-slot NOP closes its bundle, and that of another slot clears its record. -/
theorem stays_nop (sl : Slot) (s : State) : Stays s.station (exec sl.nop s) := by
  cases sl with
  | c => exact stays_next (s.closeBundle_station _)
  | _ => exact stays_next rfl

/-- A slot operation keeps the station as a step of its own. -/
theorem stays_slot {i : Instr} {sl : Slot} (hi : i.slot = some sl) (s : State) : Stays s.station (exec i s) := by
  by_cases hn : i = sl.nop
  · exact hn ▸ stays_nop sl s
  · have hrun := runOp_stands (s := s) rfl sl i
    cases hr : runOp sl i s with
    | ok t =>
      by_cases hf : ∃ o, i = .flcfg o
      · obtain ⟨o, rfl⟩ := hf
        rw [exec_flcfg]
        refine stays_settle rfl fun u hu => ?_
        cases hi
        rw [hr] at hu
        exact Res.ok.inj hu ▸ hrun t hr
      · rw [exec_of_ok hi hn (not_exists.1 hf) hr]
        refine stays_next ?_
        split
        · exact (t.closeBundle_station _).trans (hrun t hr)
        · exact hrun t hr
    | trap t => 
      rw [exec_of_not_ok hi hn (by simp [hr])]
      exact stays_settle rfl hrun
    | freeze f =>
      rw [exec_of_not_ok hi hn (by simp [hr])]
      exact stays_settle rfl hrun

/-! Places -/

theorem stays_atHearth {k : State → State} (hk : ∀ t, (k t).station = t.station) : Stays s.station (atHearth s k) :=
  stays_ite (stays_next ((hk _).trans (s.focus_station _))) (stays_fault _)

theorem stays_atDie {k : Nat → State → State} (hk : ∀ d t, (k d t).station = t.station) : Stays s.station (atDie s k) :=
  stays_ite (stays_next (hk _ _)) (stays_fault _)

theorem stays_atStack {k : Nat → State → State} (hk : ∀ d t, (k d t).station = t.station) : Stays s.station (atStack s k) :=
  stays_ite (stays_next (hk _ _)) (stays_fault _)

/-! Records -/

theorem keeps_done (hs : s.station = x) : (Recd.done s).keeps x := hs

theorem keeps_wait (hs : s.station = x) : (Recd.wait s).keeps x := hs

theorem keeps_fault (hs : s.station = x) (n : Nat) : (Recd.fault n s).keeps x := hs

theorem keeps_ite {p : Prop} [Decidable p] {k l : Recd} (hk : k.keeps x) (hl : l.keeps x) : Recd.keeps x (if p then k else l) := by
  split
  · exact hk
  · exact hl

theorem keeps_failWhen (hs : s.station = x) {b : Bool} {n : Nat} {k : Recd} (hk : k.keeps x) : (failWhen b n s k).keeps x :=
  keeps_ite hs hk

theorem keeps_faultIf (hs : s.station = x) {o : Option Nat} {k : Recd} (hk : k.keeps x) : (faultIf o s k).keeps x := by
  cases o with
  | none => exact hk
  | some n => exact hs

theorem keeps_reached {r : Attempt × State} (hr : r.2.station = x) {k : State → Recd} (hk : ∀ t, t.station = x → (k t).keeps x) :
    (reached r k).keeps x := by
  obtain ⟨a, t⟩ := r
  cases a with
  | ok => exact hk t hr
  | pending => exact hr
  | fail => exact hr

theorem keeps_writeResult (hs : s.station = x) {ctx h off : Nat} {bs : List Byte} {k : State → Recd}
    (hk : ∀ t, t.station = x → (k t).keeps x) : (writeResult s ctx h off bs k).keeps x :=
  keeps_reached ((s.reach_station _ _ _).trans hs) fun t ht => hk _ (by simp [ht])

theorem stays_onStream {st : StreamId} {k : Stream → Context → State → Recd} (hk : ∀ y c t, (k y c t).keeps t.station) :
    Stays s.station (onStream st s k) := by
  unfold onStream
  split
  · exact stays_fault _
  next y _ =>
    split
    · exact stays_fault _
    next c _ =>
      refine stays_ite (stays_next rfl) ?_
      have hrec := hk y c (s.taken st y)
      rw [State.taken_station] at hrec
      split
      next t ht =>
        rw [ht] at hrec
        exact stays_next ((t.mapStream_station _ _).trans hrec)
      next t ht =>
        rw [ht] at hrec
        refine stays_next ((State.mapStream_station _ _ _).trans ?_)
        split
        · exact (t.mapDie_station _ _).trans hrec
        · exact hrec
      next n t ht =>
        rw [ht] at hrec
        exact stays_next ((t.streamFault_station _ _ _).trans hrec)

/-! Commands -/

theorem Cmd.keeps_done (hs : s.station = x) (n : Nat) : (Cmd.done n s).keeps x := hs

theorem Cmd.keeps_wait (hs : s.station = x) : (Cmd.wait s).keeps x := hs

theorem Cmd.keeps_ite {p : Prop} [Decidable p] {k l : Cmd} (hk : k.keeps x) (hl : l.keeps x) : Cmd.keeps x (if p then k else l) := by
  split
  · exact hk
  · exact hl

theorem Cmd.keeps_check (hs : s.station = x) {ok : Bool} {n : Nat} {k : Cmd} (hk : k.keeps x) : (Cmd.check ok n s k).keeps x :=
  Cmd.keeps_ite hk hs

theorem Cmd.keeps_ofCtx (hs : s.station = x) {id : Nat} {k : Context → Cmd} (hk : ∀ c, (k c).keeps x) : (s.ofCtx id k).keeps x := by
  unfold State.ofCtx
  split
  · exact hk _
  · exact hs

theorem stays_command {self : Instr} {p : Packet} {body : State → Cmd} (hb : ∀ t, (body t).keeps t.station) :
    Stays s.station (command self p s body) := by
  refine stays_next ?_
  have hbody := hb (p.bufs.foldl State.flushBuffer s)
  rw [station_foldl (fun s b => s.flushBuffer_station b)] at hbody
  split
  · rfl
  · split
    · simp
    · split
      · simp
      · split
        · simp
        · split
          · simp
          · split
            next n t ht =>
              rw [ht] at hbody
              exact (t.finish_station _ _ _).trans hbody
            next t ht =>
              rw [ht] at hbody
              exact (t.keepStarted_station _).trans hbody

end

/-! ## Events of hearths, dies and stacks -/

section
variable (s : State)

theorem stays_resultWriteback : Stays s.station (execResultWriteback s) :=
  stays_atHearth fun t => by split <;> simp

theorem stays_landing : Stays s.station (execLanding s) := stays_atHearth fun _ => rfl

theorem stays_planeFillLanding : Stays s.station (execPlaneFillLanding s) := stays_atHearth State.landFill_station

theorem stays_windowRowLanding : Stays s.station (execWindowRowLanding s) :=
  stays_atHearth fun t => by
    cases t.core.dueRow with
    | none => rfl
    | some e => exact t.putRow_station _ _

theorem stays_bundleIssue : Stays s.station (execBundleIssue s) := stays_atHearth State.issueCycle_station

theorem stays_copyPerform (coll : Bool) : Stays s.station (execCopyPerform coll s) :=
  stays_atHearth fun t => by
    split
    · rfl
    · exact ite_station (t.performOp_station _) rfl

theorem stays_dataArrival (n : Nat) : Stays s.station (execDataArrival n s) :=
  stays_atHearth fun t => by
    dsimp only
    cases t.core.eng.transit[n]? with
    | some x => exact ite_station rfl rfl
    | none => exact ite_station ((State.mapCore_station _ _).trans t.fillRow_station) rfl

theorem stays_copyComplete (coll : Bool) : Stays s.station (execCopyComplete coll s) :=
  stays_atHearth fun t => by
    split
    · simp
    · rfl

theorem stays_copyQueueAccept : Stays s.station (execCopyQueueAccept s) := stays_atHearth fun _ => ite_station rfl rfl

theorem stays_syncRequestAccept : Stays s.station (execSyncRequestAccept s) :=
  stays_atHearth fun t => by split <;> rfl

theorem stays_atomicPerform (n : Nat) : Stays s.station (execAtomicPerform n s) :=
  stays_atDie fun d t => by
    split
    · exact ite_station ((State.tryAllNamed_station _ _).trans (t.performSync_station _)) rfl
    · rfl

theorem stays_atomicAck (n : Nat) : Stays s.station (execAtomicAck n s) :=
  stays_atHearth fun t => by
    split
    · rfl
    next r _ =>
      refine ite_station rfl ?_
      have hret : (match r.ret with
          | some q => (t.dropReq n).mapCore fun c : Core =>
            { c.setQ q ((c.qOf q).map fun e => e.arrive r.id 0 r.element r.elemMark) with link := { c.link with frozen := false } }
          | none => t.dropReq n : State).station = t.station := by
        cases r.ret <;> rfl
      have hother := ite_station (c := isAcquire r.order) ((State.acquire_station _ r.got).trans hret) hret
      cases t.core.wait with
      | waita req pd issued timeout inv cancelling => exact ite_station (ite_station rfl (t.endWaita_station _ _ _ _)) hother
      | _ => exact hother

theorem stays_fenceWaitEnd : Stays s.station (execFenceWaitEnd s) :=
  stays_atHearth fun t => by
    refine (station_ite _ _).trans ?_
    split
    · rfl
    · extract_lets done
      split
      next wb inv banks release arrive _ =>
        extract_lets s1 s2
        have hs1 : s1.station = t.station := by simp [s1, done]
        have hs2 : s2.station = t.station := by
          cases release with
          | none => exact hs1
          | some id =>
            show State.station (match s1.reqs.find? _ with | none => s1 | some _ => _) = _
            split
            · exact hs1
            · exact hs1
        split
        · exact s2.goOn_station.trans hs2
        · exact (s2.arrive_station _ _ _).trans hs2
      · simp [done]
      · rfl

theorem stays_waitaTimeout : Stays s.station (execWaitaTimeout s) :=
  stays_atHearth fun t => by
    cases t.core.wait with
    | waita req pd issued timeout inv cancelling => cases cancelling with
      | true => rfl
      | false => exact ite_station rfl rfl
    | _ => rfl

theorem stays_monitorCancelAck : Stays s.station (execMonitorCancelAck s) :=
  stays_atHearth fun t => by
    cases t.core.wait with
    | waita req pd issued timeout inv cancelling =>
      cases cancelling with
      | false => rfl
      | true =>
        dsimp only
        split
        · rfl
        · exact ite_station (t.endWaita_station _ _ _ _) (ite_station (State.endWaita_station _ _ _ _ _) rfl)
    | _ => rfl

theorem stays_chimneyLineHigh (square : Bool) : Stays s.station (execChimneyLineHigh square s) :=
  stays_atHearth fun t => (State.focus_station _ _).trans (ite_station t.squareHigh_station (t.streetHigh_station _))

theorem stays_pairLineMeet : Stays s.station (execPairLineMeet s) :=
  stays_atHearth fun _ => ite_station ((State.shareRequest_station _ _).trans (State.mapCoreAt_station _ _ _)) rfl

theorem stays_haltComplete : Stays s.station (execHaltComplete s) :=
  stays_atHearth fun t => ite_station (ite_station (t.fail_station _ _) (t.taskEnd_station _)) rfl

theorem stays_preemptRequest : Stays s.station (execPreemptRequest s) := stays_atHearth fun t => t.requestPreempt_station _

theorem stays_preemptLand : Stays s.station (execPreemptLand s) :=
  stays_atHearth fun t => ite_station rfl (ite_station rfl (station_foldl (fun t _ => t.mapCoreAt_station _ _) t _))

theorem stays_contextImageWrite : Stays s.station (execContextImageWrite s) :=
  stays_atHearth fun t => ite_station (ite_station rfl (t.freeSaved_station _)) rfl

theorem stays_taskPlace : Stays s.station (execTaskPlace s) :=
  stays_atDie fun d t => by
    cases t.nextCand d with
    | none => rfl
    | some e =>
      obtain ⟨c, l, n⟩ := e
      cases c with
      | fresh f =>
        dsimp only
        split
        · exact t.placeFresh_station _ _
        · exact t.askFor_station _ _ _
      | back r =>
        dsimp only
        split
        · rfl
        · exact t.askFor_station _ _ _

theorem stays_taskResume : Stays s.station (execTaskResume s) :=
  stays_atDie fun d t => by
    cases t.nextCand d with
    | none => rfl
    | some e =>
      obtain ⟨c, l, n⟩ := e
      cases c with
      | fresh f => rfl
      | back r =>
        dsimp only
        split
        · exact t.placeImages_station _ _ _
        · rfl

theorem stays_partitionSwap (id : Nat) : Stays s.station (execPartitionSwap id s) :=
  stays_atDie fun d t => by
    split
    · rfl
    · exact ite_station (t.swapPartition_station _ _ _) rfl

theorem stays_mailboxHandlerLaunch (m : Nat) : Stays s.station (execMailboxHandlerLaunch m s) :=
  stays_atDie fun _ t => t.launchHandler_station _ _

theorem stays_mailboxPost (m : Nat) : Stays s.station (execMailboxPost m s) :=
  stays_atDie fun d t => by
    dsimp only
    cases (t.boxAt d m).waiting with
    | nil => rfl
    | cons e rest => exact ite_station (ite_station rfl rfl) rfl

theorem stays_serviceSlot : Stays s.station (execServiceSlot s) :=
  stays_atDie fun d t => by
    refine ite_station rfl ?_
    dsimp only
    split
    · exact State.serve_station _ _
    · rfl

theorem stays_hbmRequestSend : Stays s.station (execHbmRequestSend s) :=
  stays_atStack fun k t => by
    dsimp only
    cases List.find? _ (t.stackAt k).queue with
    | none => rfl
    | some r =>
      dsimp only
      split <;> rfl

theorem stays_hbmRequestPerform (n : Nat) : Stays s.station (execHbmRequestPerform n s) :=
  stays_atStack fun k t => by
    dsimp only
    split
    · rfl
    · refine ite_station rfl (ite_station rfl (ite_station ?_ (ite_station ?_ ?_)))
      · exact (State.setStack_station _ _ _).trans (t.correctCell_station _ _)
      · exact (State.setStack_station _ _ _).trans (t.sawCell_station _ _ _)
      · exact (State.setStack_station _ _ _).trans ((State.writeCell_station _ _ _ _ _ _).trans (t.sawCell_station _ _ _))

theorem stays_hbmReply (n : Nat) : Stays s.station (execHbmReply n s) :=
  stays_atStack fun k t => by
    dsimp only
    split
    · rfl
    · exact ite_station rfl rfl

/-! ## Events of the package -/

theorem stays_priorityAging (n : Nat) : Stays s.station (execPriorityAging n s) := stays_next (ite_station rfl rfl)

theorem stays_makeResident (id handle : Nat) : Stays s.station (execMakeResident id handle s) :=
  stays_next ((station_foldl State.tryAllNamed_station _ _).trans (s.bringBack_station _ _))

theorem stays_launchComplete : Stays s.station (execLaunchComplete s) := by
  have hnamed (t : State) : ([0, 1, 2, 3].foldl State.tryAllNamed t).station = t.station := station_foldl State.tryAllNamed_station _ _
  unfold execLaunchComplete
  split
  · exact stays_fault _
  next l _ =>
    refine stays_ite (stays_next rfl) ?_
    have hend := s.endLaunch_station l
    cases l.dst with
    | recipe h =>
      dsimp only
      split
      · refine stays_next ((hnamed _).trans (ite_station ?_ ?_))
        · exact (State.reissue_station _ _).trans hend
        · exact (State.endRebuild_station _ _ _).trans hend
      · exact stays_next hend
    | slot st serial n => exact stays_next hend
    | handler m => exact stays_next hend

theorem stays_scanComplete : Stays s.station (execScanComplete s) := by
  unfold execScanComplete
  split
  · exact stays_next rfl
  next j _ =>
    dsimp only
    cases s.recAt j.ctx j.o.src with
    | none => exact stays_next rfl
    | some r =>
      cases s.recAt j.ctx j.o.res with
      | none => exact stays_next rfl
      | some t =>
        refine stays_ite (stays_next rfl) (stays_next ?_)
        refine (State.tryAllNamed_station _ _).trans ((State.signal_station _ _ _ _ _ _ _ _).trans ?_)
        refine (State.withScans_station _ _).trans ((State.unuseRecs_station _ _ _).trans ?_)
        exact (State.homeWrite_station _ _ _ _ _).trans ((State.beforeWrite_station _ _ _ _ _ _).trans (s.sawScan_station _ _))

theorem stays_flitReplay : Stays s.station (execFlitReplay s) :=
  stays_ite (stays_ite (stays_next rfl) (stays_ite (stays_next (s.portFault_station _)) (stays_next (s.setPort_station _ _))))
    (stays_fault _)

theorem stays_discardInterval : Stays s.station (execDiscardInterval s) := stays_ite (stays_next (s.setPort_station _ _)) (stays_fault _)

theorem stays_packetReceive (p : FabPacket) : Stays s.station (execPacketReceive p s) :=
  stays_ite (stays_ite (stays_next rfl) (stays_ite (stays_next (ite_station (s.discard_station _ _) rfl))
    (stays_ite (stays_next rfl) (stays_next ((State.withFabric_station _ _).trans (ite_station rfl rfl)))))) (stays_fault _)

theorem stays_remoteRequest : Stays s.station (execRemoteRequest s) := by
  unfold execRemoteRequest
  split
  · exact stays_fault _
  · exact stays_ite (stays_next rfl) (stays_next (s.performRemote_station _))

theorem stays_remoteReply : Stays s.station (execRemoteReply s) := by
  unfold execRemoteReply
  split
  · exact stays_fault _
  · dsimp only
    split
    · exact stays_next rfl
    · refine stays_ite (stays_next rfl) (stays_next ((State.packetDone_station _ _ _).trans ((State.focus_station _ _).trans ?_)))
      split
      · split
        · exact (State.placeReply_station _ _ _ _ _ _).trans (State.focus_station _ _)
        · exact State.focus_station _ _
      · exact State.focus_station _ _

theorem stays_remoteTimeout : Stays s.station (execRemoteTimeout s) := by
  unfold execRemoteTimeout
  split
  · exact stays_fault _
  next x _ =>
    refine stays_ite (stays_next rfl) (stays_ite (stays_next (s.packetDone_station _ _)) ?_)
    have hsend (not : Option Nat) := (State.sendOut_station _ x not).trans (s.dropOut_station x.id)
    dsimp only
    split
    · exact stays_next (ite_station ((State.packetDone_station _ _ _).trans (hsend _)) (hsend _))
    · exact stays_next (hsend _)

theorem stays_revokeEffect : Stays s.station (execRevokeEffect s) :=
  stays_ite (stays_ite (stays_next (s.setWindow_station _ _)) (stays_next rfl)) (stays_fault _)

theorem stays_revokeDrainDone : Stays s.station (execRevokeDrainDone s) :=
  stays_ite (stays_ite (stays_next ((State.setWindow_station _ _ _).trans (s.mapRec_station _ _ _))) (stays_next rfl)) (stays_fault _)

theorem stays_windowQuarantineEnd : Stays s.station (execWindowQuarantineEnd s) :=
  stays_ite (stays_ite (stays_next ((State.setWindow_station _ _ _).trans (s.withFabric_station _))) (stays_next rfl)) (stays_fault _)

theorem stays_phaseCommit : Stays s.station (execPhaseCommit s) := by
  unfold execPhaseCommit
  split
  · exact stays_fault _
  · refine stays_ite (stays_next rfl) (stays_next ?_)
    refine (State.passPhase_station _ _).trans ((State.releaseEgress_station _ _).trans ((State.clearRecords_station _ _).trans ?_))
    refine (State.sweep_station _ _ _ _).trans ((State.dropReserve_station _ _).trans ((State.mapCtx_station _ _ _).trans ?_))
    exact (station_foldl (fun s q => s.commitSquare_station _ _) _ _).trans (s.performHeld_station _)

theorem stays_rollback : Stays s.station (execRollback s) := by
  unfold execRollback
  split
  · exact stays_fault _
  next c _ =>
    refine stays_ite (stays_next rfl) ?_
    extract_lets s1 s2 s3 fabric s4 s5 s6
    have hs1 : s1.station = s.station := s.endTasks_station _
    have hs2 : s2.station = s.station := by
      refine ite_station ((State.postEvent_station _ _ _).trans hs1) ((State.restoreSync_station _ _).trans ?_)
      exact (State.restoreRecs_station _ _ _).trans ((State.restorePages_station _ _).trans hs1)
    have hs4 : s4.station = s.station :=
      (State.withFabric_station _ _).trans ((State.clearRecords_station _ _).trans ((State.restartStreams_station _ _).trans hs2))
    have hs5 : s5.station = s.station := (station_foldl (fun s h => s.postEvent_station _ _) _ _).trans hs4
    have hs6 : s6.station = s.station := ite_station hs5 ((s5.postEvent_station _ _).trans hs5)
    exact stays_ite (stays_next hs1) (stays_next hs6)

theorem stays_powerLimitThrottle : Stays s.station (execPowerLimitThrottle s) :=
  stays_ite (stays_next (by
    split
    · split <;> rfl
    · rfl)) (stays_fault _)

theorem stays_droopStretch (n : Nat) : Stays s.station (execDroopStretch n s) :=
  stays_ite (stays_next (by split <;> rfl)) (stays_fault _)

theorem stays_kick (slot queue size v : Nat) : Stays s.station (execKick slot queue size v s) :=
  stays_ite (stays_next (by
    split
    · exact s.kickWrite_station _ _ _ _
    · rfl)) (stays_fault _)

theorem stays_hostMemAccess (a : HostAccess) : Stays s.station (execHostMemAccess a s) := by
  unfold execHostMemAccess
  extract_lets self gone
  have hgone (t : State) : (gone t).station = t.station := rfl
  cases s.ctx? a.ctx with
  | none => exact stays_next rfl
  | some c =>
    cases s.recAt a.ctx a.handle with
    | none => exact stays_next rfl
    | some r =>
      refine stays_ite (stays_next rfl) ?_
      have hreach := s.reach_station a.ctx a.handle a.data.isSome
      split
      next t ht =>
        rw [ht] at hreach
        exact stays_next ((t.keepStarted_station _).trans hreach)
      next t ht =>
        rw [ht] at hreach
        exact stays_next hreach
      next t ht =>
        rw [ht] at hreach
        split
        · refine stays_next ((hgone _).trans ((State.homeWrite_station _ _ _ _ _).trans ((State.mapCtx_station _ _ _).trans ?_)))
          exact (t.beforeWrite_station _ _ _ _ _).trans hreach
        · exact stays_next ((t.homeFetch_station _ _ _ _).trans hreach)

end

end Sys2Proof.Machine
end

/-! PROOFS. The station: records of streams and commands keep it. -/
section
namespace Sys2Proof.Machine

/-! ## Records of streams -/

section
variable (s : State)

theorem stays_oplaunch (st : StreamId) (o : OpLaunch) : Stays s.station (execOplaunch st o s) :=
  stays_onStream fun _ _ t => keeps_faultIf rfl (keeps_ite (keeps_wait rfl)
    (keeps_reached (t.reachAll_station _ _) fun u hu => keeps_done ((u.launchSlot_station _ _ _ _ _).trans hu)))

theorem stays_phase (st : StreamId) : Stays s.station (execPhase st s) := by
  unfold execPhase
  split
  · exact stays_fault _
  · exact stays_ite (stays_next rfl) (stays_next ((State.mapStream_station _ _ _).trans (s.taken_station _ _)))

theorem stays_taskdef (st : StreamId) (o : TaskDef) : Stays s.station (execTaskdef st o s) :=
  stays_onStream fun _ _ _ => keeps_failWhen rfl (keeps_done rfl)

theorem stays_taskarm (st : StreamId) (n count : Nat) : Stays s.station (execTaskarm st n count s) :=
  stays_onStream fun _ _ _ => keeps_failWhen rfl (keeps_failWhen rfl
    (keeps_done ((State.tryNamed_station _ _ _).trans (State.setNamed_station _ _ _ _ _))))

theorem stays_opwait (st : StreamId) (mask : Nat) (cont : Bool) (handle : Nat) : Stays s.station (execOpwait st mask cont handle s) :=
  stays_onStream fun _ _ _ => keeps_failWhen rfl (keeps_ite (keeps_wait rfl) (keeps_ite
    (keeps_failWhen rfl (keeps_done rfl)) (keeps_writeResult rfl fun _ hu => keeps_failWhen hu (keeps_done hu))))

theorem stays_mboxbind (st : StreamId) (o : MboxBind) : Stays s.station (execMboxbind st o s) :=
  stays_onStream fun _ _ _ => keeps_failWhen rfl (keeps_failWhen rfl (keeps_done rfl))

theorem stays_mboxfree (st : StreamId) (m : Nat) : Stays s.station (execMboxfree st m s) :=
  stays_onStream fun _ _ t => keeps_failWhen rfl (keeps_ite (keeps_done rfl) (keeps_ite (keeps_wait rfl)
    (keeps_done (station_foldl (fun u w => by split <;> rfl) (t.putBox _ _ _) _))))

theorem stays_specflush (st : StreamId) (all : Bool) (handle : Nat) : Stays s.station (execSpecflush st all handle s) :=
  stays_onStream fun _ _ t => keeps_ite (keeps_done (State.pruneSpec_station _ _)) (by
    split
    · exact keeps_fault rfl _
    · exact keeps_reached (t.reach_station _ _ _) fun u hu => keeps_done ((State.pruneSpec_station _ _).trans hu))

theorem stays_tdecl (st : StreamId) (o : TDecl) : Stays s.station (execTdecl st o s) :=
  stays_onStream fun y c t => keeps_failWhen rfl (keeps_failWhen rfl (keeps_failWhen rfl (by
    have hplace := t.placeIn_station y.ctx o.handle o.die (o.place == 0) (TDecl_record o y.ctx c.phase).fullFootprint
      (TDecl_record o y.ctx c.phase).fullFootprint
    dsimp only
    split
    next u hu =>
      rw [hu] at hplace
      exact keeps_fault hplace _
    next pages u hu =>
      rw [hu] at hplace
      exact keeps_done ((State.storeCells_station _ _ _).trans hplace))))

theorem stays_tuse (st : StreamId) (uses : List (Nat × Nat)) : Stays s.station (execTuse st uses s) :=
  stays_onStream fun _ _ t => keeps_failWhen rfl (keeps_failWhen rfl
    (keeps_done (station_foldl (fun u _ => u.mapRec_station _ _ _) t _)))

theorem stays_trecipe (st : StreamId) (o : TRecipe) : Stays s.station (execTrecipe st o s) :=
  stays_onStream fun y c t => keeps_failWhen rfl (keeps_failWhen rfl (keeps_reached (t.reach_station _ _ _) fun u hu => by
    split
    · exact keeps_fault hu _
    · have hfetch : (u.homeFetch y.ctx o.stream o.off (32 * (o.nrec + 1))).station = t.station := (u.homeFetch_station _ _ _ _).trans hu
      exact keeps_failWhen hu (keeps_failWhen hfetch (keeps_failWhen hfetch (keeps_done hfetch)))))

theorem stays_trelease (st : StreamId) (handle : Nat) : Stays s.station (execTrelease st handle s) :=
  stays_onStream fun _ _ t => keeps_faultIf rfl (by
    split
    · exact keeps_fault rfl _
    · exact keeps_ite (keeps_fault rfl _) (keeps_ite (keeps_wait rfl) (keeps_done ((State.mapRec_station _ _ _ _).trans (t.dropLines_station _)))))

theorem stays_tpin (st : StreamId) (tier handle : Nat) : Stays s.station (execTpin st tier handle s) :=
  stays_onStream fun _ _ t => keeps_failWhen rfl (keeps_faultIf rfl (by
    split
    · exact keeps_fault rfl _
    · exact keeps_ite (keeps_fault rfl _) (keeps_ite (keeps_fault rfl _)
        (keeps_reached (t.intoTier_station _ _ _) fun u hu => keeps_done hu))))

theorem stays_tunpin (st : StreamId) (handle : Nat) : Stays s.station (execTunpin st handle s) :=
  stays_onStream fun _ _ _ => keeps_faultIf rfl (by
    split
    · exact keeps_fault rfl _
    · exact keeps_failWhen rfl (keeps_done rfl))

theorem stays_tquery (st : StreamId) (handle result : Nat) : Stays s.station (execTquery st handle result s) :=
  stays_onStream fun _ _ _ => keeps_failWhen rfl (keeps_failWhen rfl (keeps_writeResult rfl fun _ hu => keeps_done hu))

theorem stays_scan (st : StreamId) (o : Scan) : Stays s.station (execScan st o s) :=
  stays_onStream fun _ _ t => keeps_failWhen rfl (keeps_faultIf rfl (by
    split
    · exact keeps_failWhen rfl (keeps_reached (t.intoTier_station _ _ _) fun u hu => keeps_done hu)
    · exact keeps_fault rfl _))

theorem stays_texport (st : StreamId) (o : TExport) : Stays s.station (execTexport st o s) :=
  stays_onStream fun _ _ t => keeps_failWhen rfl (keeps_failWhen rfl (by
    split
    · exact keeps_fault rfl _
    · exact keeps_failWhen rfl (keeps_failWhen rfl (keeps_failWhen rfl
        (keeps_reached (t.intoTier_station _ _ _) fun u hu => keeps_done hu)))))

theorem stays_trevoke (st : StreamId) (w : Nat) : Stays s.station (execTrevoke st w s) :=
  stays_onStream fun _ _ _ => keeps_ite (keeps_ite (keeps_done rfl) (keeps_wait rfl)) (keeps_failWhen rfl (keeps_wait rfl))

end

/-! ## Commands -/

section
variable (s : State) (k : Packet)

theorem stays_contextCreate (id : Nat) : Stays s.station (execContextCreate k id s) :=
  stays_command fun t => Cmd.keeps_check rfl (Cmd.keeps_check rfl (by
    dsimp only
    split
    · exact Cmd.keeps_done rfl _
    · exact Cmd.keeps_done rfl _))

theorem stays_contextSet (o : ContextSet) : Stays s.station (execContextSet k o s) :=
  stays_command fun _ => Cmd.keeps_ofCtx rfl fun _ => Cmd.keeps_check rfl (Cmd.keeps_check rfl (Cmd.keeps_check rfl
    (Cmd.keeps_check rfl (Cmd.keeps_done rfl _))))

theorem stays_contextDestroy (id : Nat) : Stays s.station (execContextDestroy k id s) :=
  stays_command fun t => Cmd.keeps_ofCtx rfl fun c => by
    extract_lets u v
    have hv : v.station = t.station := (u.endTasks_station _).trans (station_foldl (fun s e => s.setStream_station _ _) t _)
    clear_value v
    exact Cmd.keeps_ite (Cmd.keeps_wait hv) (Cmd.keeps_done ((v.freeContext_station c).trans hv) _)

theorem stays_partition (id mask0 : Nat) (masks : List Nat) : Stays s.station (execPartition k id mask0 masks s) :=
  stays_command fun t => Cmd.keeps_ofCtx rfl fun c => Cmd.keeps_ite (Cmd.keeps_wait rfl) (Cmd.keeps_check rfl
    (Cmd.keeps_check rfl (Cmd.keeps_check rfl (by
      have hset (m : Nat → Nat) (l : List Nat) : (l.foldl (fun s d => s.setPartition id d (m d)) t).station = t.station :=
        station_foldl (fun s d => s.setPartition_station _ _ _) t _
      refine Cmd.keeps_ite (Cmd.keeps_wait ?_) (Cmd.keeps_done ?_ _)
      · exact hset (fun d => ((mask0 :: masks)[d]?).getD 0) _
      · exact hset (fun d => ((mask0 :: masks)[d]?).getD 0) _))))

theorem stays_streamAdmit (o : StreamAdmit) : Stays s.station (execStreamAdmit k o s) :=
  stays_command fun _ => Cmd.keeps_ofCtx rfl fun _ => Cmd.keeps_check rfl (by
    split
    · exact Cmd.keeps_done rfl _
    · exact Cmd.keeps_done rfl _)

theorem stays_streamStop (st : StreamId) : Stays s.station (execStreamStop k st s) :=
  stays_command fun t => by
    split
    · exact Cmd.keeps_done rfl _
    · exact Cmd.keeps_ite (Cmd.keeps_wait (t.mapStream_station _ _)) (Cmd.keeps_done rfl _)

theorem stays_keyLoad (slot owner key1 key2 : Nat) : Stays s.station (execKeyLoad k slot owner key1 key2 s) :=
  stays_command fun _ => Cmd.keeps_check rfl (Cmd.keeps_check rfl (Cmd.keeps_done rfl _))

theorem stays_keyDestroy (slot : Nat) : Stays s.station (execKeyDestroy k slot s) :=
  stays_command fun _ => Cmd.keeps_check rfl (Cmd.keeps_check rfl (Cmd.keeps_done rfl _))

theorem stays_ownerKeyLoad (entry owner key : Nat) (ports : List Nat) : Stays s.station (execOwnerKeyLoad k entry owner key ports s) :=
  stays_command fun t => Cmd.keeps_check rfl (Cmd.keeps_done (station_foldl (fun s _ => s.setPort_station _ _) t _) _)

theorem stays_ownerKeyDestroy (entry : Nat) (ports : List Nat) : Stays s.station (execOwnerKeyDestroy k entry ports s) :=
  stays_command fun t => Cmd.keeps_check rfl (Cmd.keeps_done (station_foldl (fun s _ => s.setPort_station _ _) t _) _)

theorem stays_syncAllocate (o : SyncAllocate) : Stays s.station (execSyncAllocate k o s) :=
  stays_command fun _ => Cmd.keeps_ofCtx rfl fun _ => Cmd.keeps_check rfl (Cmd.keeps_check rfl (Cmd.keeps_check rfl
    (Cmd.keeps_done rfl _)))

/-- A run of changes that may fail keeps the station where it comes through. -/
theorem station_foldl_bind {α : Type} {f : State → α → Option State}
    (hf : ∀ s a t, f s a = some t → t.station = s.station) {l : List α} {s t : State}
    (h : l.foldl (fun (b : Option State) a => b.bind fun s => f s a) (some s) = some t) : t.station = s.station := by
  induction l generalizing s with
  | nil => exact Option.some.inj h ▸ rfl
  | cons a l ih =>
    rw [List.foldl_cons, Option.bind_some] at h
    cases hfirst : f s a with
    | none =>
      rw [hfirst] at h
      have hnone (l : List α) : l.foldl (fun (b : Option State) a => b.bind fun s => f s a) none = none :=
        List.foldl_fixed' (fun _ => rfl) l
      cases (hnone l).symm.trans h
    | some u =>
      rw [hfirst] at h
      exact (ih h).trans (hf s a u hfirst)

theorem State.lowerPages_station {s t : State} {d cap : Nat} (h : s.lowerPages d cap = some t) : t.station = s.station := by
  refine station_foldl_bind (fun s r u hu => ?_) h
  obtain ⟨ps, -, rfl⟩ := Option.map_eq_some_iff.1 hu
  simp

/-- Where a try succeeds, the device stands at `x`. -/
def Perhaps (x : Form × Bool × Nat) (o : Option State) : Prop := ∀ t, o = some t → t.station = x

theorem perhaps_none {x : Form × Bool × Nat} : Perhaps x none := fun _ h => nomatch h

theorem perhaps_some {x : Form × Bool × Nat} {t : State} (h : t.station = x) : Perhaps x (some t) := fun _ ht => Option.some.inj ht ▸ h

theorem perhaps_ite {x : Form × Bool × Nat} {c : Prop} [Decidable c] {p q : Option State} (hp : Perhaps x p) (hq : Perhaps x q) :
    Perhaps x (if c then p else q) := by
  split
  · exact hp
  · exact hq

theorem perhaps_or {x : Form × Bool × Nat} {p q : Option State} (hp : Perhaps x p) (hq : Perhaps x q) : Perhaps x (p.or q) :=
  fun t ht => (Option.or_eq_some_iff.1 ht).elim (hp t) fun h => hq t h.2

theorem State.migrate_station (d : Nat) (r : Rec) : Perhaps s.station (s.migrate d r) := by
  unfold State.migrate
  extract_lets move
  have hmove {u : State} (hu : u.station = s.station) : Perhaps s.station (move u) := fun v hv => by
    obtain ⟨ps, -, rfl⟩ := Option.map_eq_some_iff.1 hv
    exact (State.relocate_station _ _ _ _).trans ((State.dropLines_station _ _).trans hu)
  refine perhaps_ite perhaps_none ?_
  split
  next u hu => exact perhaps_some (hmove rfl u hu)
  · split
    · exact perhaps_none
    next c _ =>
      extract_lets u
      have hu : u.station = s.station := State.roomLoop_station _ _ _ _ _ _ _ _
      split
      next y _ =>
        refine perhaps_ite (perhaps_some hu) (perhaps_or (hmove hu) ?_)
        have hplace := (u.placeIn_station r.ctx r.handle d true y.footprint y.footprint).trans hu
        split
        next ps v hv =>
          rw [hv] at hplace
          exact perhaps_some ((State.relocate_station _ _ _ _).trans ((State.dropLines_station _ _).trans hplace))
        · exact perhaps_none
      · exact perhaps_some hu

theorem stays_poolWays (die ways : Nat) : Stays s.station (execPoolWays k die ways s) :=
  stays_command fun t => Cmd.keeps_check rfl (Cmd.keeps_ite
    (Cmd.keeps_done ((State.mapDie_station _ _ _).trans (t.clearWays_station _ _)) _) (Cmd.keeps_ite
    (Cmd.keeps_wait (t.shrinkPool_station _ _)) (by
      split
      next u hu => exact Cmd.keeps_done ((u.mapDie_station _ _).trans ((State.lowerPages_station hu).trans (t.shrinkPool_station _ _))) _
      · exact Cmd.keeps_done (t.shrinkPool_station _ _) _)))

theorem stays_map (id handle base : Nat) : Stays s.station (execMap k id handle base s) :=
  stays_command fun _ => Cmd.keeps_ofCtx rfl fun _ => by
    split
    · exact Cmd.keeps_done rfl _
    · exact Cmd.keeps_check rfl (Cmd.keeps_check rfl (Cmd.keeps_done rfl _))

theorem stays_slotTable (die : Nat) (entries : List (Option (Nat × Nat))) : Stays s.station (execSlotTable k die entries s) :=
  stays_command fun _ => Cmd.keeps_check rfl (Cmd.keeps_done rfl _)

theorem stays_dieFirmwareReload (die addr : Nat) : Stays s.station (execDieFirmwareReload k die addr s) :=
  stays_command fun _ => Cmd.keeps_check rfl (Cmd.keeps_check rfl (Cmd.keeps_done rfl _))

theorem stays_hbmRepair (die first count : Nat) : Stays s.station (execHbmRepair k die first count s) :=
  stays_command fun t => Cmd.keeps_check rfl (Cmd.keeps_ite (Cmd.keeps_wait rfl) (by
    split
    · exact Cmd.keeps_done rfl _
    next u hu =>
      refine Cmd.keeps_done ((station_foldl_bind (fun s r v hv => ?_) hu).trans (t.takeOut_station _ _ _)) _
      split at hv
      · split at hv
        · exact s.migrate_station _ _ v hv
        · exact Option.some.inj hv ▸ rfl
      · exact Option.some.inj hv ▸ rfl))

theorem stays_portRetrain (port : Nat) : Stays s.station (execPortRetrain k port s) :=
  stays_command fun _ => Cmd.keeps_check rfl (Cmd.keeps_ite (Cmd.keeps_done rfl _) (Cmd.keeps_ite (Cmd.keeps_wait rfl)
    (Cmd.keeps_wait rfl)))

theorem stays_hearthRetirement (h : Nat) : Stays s.station (execHearthRetirement k h s) :=
  stays_command fun _ => Cmd.keeps_check rfl (Cmd.keeps_check rfl (Cmd.keeps_ite
    (Cmd.keeps_done (State.setCoreAt_station _ _ _) _) (Cmd.keeps_done rfl _)))

theorem stays_eventRead (id : Nat) : Stays s.station (execEventRead k id s) :=
  stays_command fun t => by
    split
    · exact Cmd.keeps_done rfl _
    next b _ _ =>
      refine Cmd.keeps_check rfl ?_
      have hreach := t.hostReach_station b.addr
      dsimp only
      split
      next u hu =>
        rw [hu] at hreach
        exact Cmd.keeps_wait hreach
      next u hu =>
        rw [hu] at hreach
        exact Cmd.keeps_done hreach _
      next u hu =>
        rw [hu] at hreach
        exact Cmd.keeps_done ((State.setFlag_station _ _ _).trans ((State.mapCtx_station _ _ _).trans
          ((u.hostWrite_station _ _).trans hreach))) _

end

end Sys2Proof.Machine
end

/-! PROOFS. The device STATE (spec/20_package_host_firmware.md R401 to R403, R410, R412): the events that move it, and what every step keeps. -/
section
namespace Sys2Proof.Machine

/-! ## Legal moves -/

/-- A state to which a device in `s` may go: legal, and of the same form (R1, R402). -/
def State.mayBecome (s t : State) : Prop := t.legal ∧ t.form = s.form

/-- Where the station stands, so does legality. -/
theorem State.mayBecome_of_station {s t : State} (hs : s.legal) (h : t.station = s.station) : s.mayBecome t := by
  obtain ⟨hform, hrest⟩ := Prod.mk.inj h
  obtain ⟨hpowered, hstate⟩ := Prod.mk.inj hrest
  refine ⟨?_, hform⟩
  unfold State.legal
  rw [hpowered, hstate]
  exact hs

/-- A device with power is legal in the STATEs from 1 on that last. -/
theorem State.mayBecome_of_on {s t : State} {n : Nat} (h : t.station = (s.form, true, n)) (hn : n = 1 ∨ n = 3 ∨ n = 4 ∨ n = 5) :
    s.mayBecome t := by
  obtain ⟨hform, hrest⟩ := Prod.mk.inj h
  obtain ⟨hpowered, hstate⟩ := Prod.mk.inj hrest
  refine ⟨?_, hform⟩
  unfold State.legal
  rw [hpowered, hstate]
  constructor
  · exact Or.inr hn
  · obtain rfl | rfl | rfl | rfl := hn <;> decide

/-- Power that comes or goes leaves STATE 1 or STATE 0. -/
theorem State.mayBecome_unpowered (s : State) (on : Bool) : s.mayBecome (s.unpowered on) := by
  cases on with
  | true => exact State.mayBecome_of_on (n := 1) rfl (by decide)
  | false => exact ⟨⟨Or.inl rfl, iff_of_true rfl rfl⟩, rfl⟩

section
variable {s : State} (hs : s.legal)
include hs

/-- A device that is not in STATE 0 has power. -/
theorem State.legal.powered_of_state (h : s.host.state ≠ 0) : s.powered = true := by
  obtain ⟨-, hoff⟩ := hs
  exact Bool.eq_true_of_not_eq_false fun hp => h (hoff.1 hp)

theorem State.mayBecome_warmReset : s.mayBecome s.warmReset := by
  cases hp : s.powered with
  | false =>
    rw [State.warmReset, hp]
    exact State.mayBecome_of_station hs rfl
  | true =>
    rw [State.warmReset, hp]
    exact State.mayBecome_of_on (n := 1) rfl (by decide)

theorem State.mayBecome_fwGo : s.mayBecome s.fwGo := by
  by_cases hstate : s.host.state = 1
  · have hp : s.powered = true := hs.powered_of_state (by omega)
    by_cases hcheck : fwCheck s.host.mem s.host.fwbase.toNat = 0
    · rw [s.fwGo_verified hstate hcheck]
      refine State.mayBecome_of_on (n := 3) ((station_foldl (fun t d => t.loadFw_station _ _) _ _).trans ?_) (by decide)
      rw [← hp]
      rfl
    · rw [s.fwGo_failed hstate hcheck rfl]
      refine State.mayBecome_of_on (n := 5) ?_ (by decide)
      rw [← hp]
      rfl
  · rw [s.fwGo_keeps hstate]
    exact State.mayBecome_of_station hs rfl

/-- Where a step goes on, the device may become what it comes to. -/
def State.leads (s : State) (o : Host.Outcome State Fault Refusal) : Prop := ∀ t, o = .next t → s.mayBecome t

omit hs in
theorem leads_next {t : State} (h : s.mayBecome t) : s.leads (.next t) := fun _ ht => Host.Outcome.next.inj ht ▸ h

theorem leads_of_stays {o : Host.Outcome State Fault Refusal} (h : Stays s.station o) : s.leads o :=
  fun t ht => State.mayBecome_of_station hs (h t ht)

/-! ## The events that move the station (R401 to R403, R410, R412) -/

theorem powerUp_leads : s.leads (exec .powerUp s) := by
  rw [exec_powerUp]
  refine leads_next ?_
  split
  · exact State.mayBecome_of_station hs rfl
  · exact s.mayBecome_unpowered true

theorem thermalShutdown_leads : s.leads (exec .thermalShutdown s) := by
  rw [exec_thermalShutdown]
  refine leads_next ?_
  split
  · split
    · exact s.mayBecome_unpowered false
    · exact State.mayBecome_of_station hs rfl
  · exact State.mayBecome_of_station hs rfl

theorem fwgo_leads : s.leads (exec .fwgo s) := by
  refine leads_next ?_
  split
  · exact State.mayBecome_fwGo hs
  · exact State.mayBecome_of_station hs rfl

theorem training_leads : s.leads (exec .training s) := by
  refine leads_next ?_
  by_cases hstate : s.host.state = 3
  · rw [if_neg (not_not.2 hstate)]
    have hp : s.powered = true := hs.powered_of_state (by omega)
    have hports : (((List.range (scalePorts + 4)).filter s.hasPort).foldl (fun s p => s.setPort p (s.portAt p).trained) s).station =
        s.station := station_foldl (fun s p => s.setPort_station _ _) s _
    refine State.mayBecome_of_on (n := 4) ?_ (by decide)
    exact congrArg (fun y : Form × Bool × Nat => (y.1, y.2.1, 4)) (hports.trans (show s.station = (s.form, true, s.host.state) by
      rw [← hp]
      rfl))
  · rw [if_pos hstate]
    exact State.mayBecome_of_station hs rfl

theorem registerWrite_leads (off size v : Nat) : s.leads (exec (.registerWrite off size v) s) := by
  have hstays {u : State} (hu : u.station = s.station) : s.mayBecome u := State.mayBecome_of_station hs hu
  cases hp : s.powered with
  | false =>
    refine leads_next ?_
    rw [hp]
    exact hstays rfl
  | true =>
    rw [exec_registerWrite s off size v hp, State.registerWritten]
    refine leads_next ?_
    split
    · exact hstays rfl
    · split
      · exact State.mayBecome_fwGo hs
      · split
        · exact State.mayBecome_warmReset hs
        · split
          · split
            · exact hstays (s.kickWrite_station _ _ _ _)
            · exact hstays rfl
          · exact hstays rfl

/-! ## Every event -/

theorem exec_leads_of_noSlot {i : Instr} (hi : i.slot = none) : s.leads (exec i s) := by
  cases i with
  | reset | cxlReset | cxlLinkLoss => exact leads_next (State.mayBecome_warmReset hs)
  | powerUp => exact powerUp_leads hs
  | thermalShutdown => exact thermalShutdown_leads hs
  | fwgo => exact fwgo_leads hs
  | training => exact training_leads hs
  | registerWrite off size v => exact registerWrite_leads hs off size v
  | kick slot queue size v => exact leads_of_stays hs (stays_kick s slot queue size v)
  | contextCreate k id => exact leads_of_stays hs (stays_contextCreate s k id)
  | contextSet k o => exact leads_of_stays hs (stays_contextSet s k o)
  | contextDestroy k id => exact leads_of_stays hs (stays_contextDestroy s k id)
  | partition k id mask0 masks => exact leads_of_stays hs (stays_partition s k id mask0 masks)
  | streamAdmit k o => exact leads_of_stays hs (stays_streamAdmit s k o)
  | streamStop k st => exact leads_of_stays hs (stays_streamStop s k st)
  | keyLoad k slot owner key1 key2 => exact leads_of_stays hs (stays_keyLoad s k slot owner key1 key2)
  | keyDestroy k slot => exact leads_of_stays hs (stays_keyDestroy s k slot)
  | ownerKeyLoad k entry owner key ports => exact leads_of_stays hs (stays_ownerKeyLoad s k entry owner key ports)
  | ownerKeyDestroy k entry ports => exact leads_of_stays hs (stays_ownerKeyDestroy s k entry ports)
  | syncAllocate k o => exact leads_of_stays hs (stays_syncAllocate s k o)
  | poolWays k die ways => exact leads_of_stays hs (stays_poolWays s k die ways)
  | map k id handle base => exact leads_of_stays hs (stays_map s k id handle base)
  | slotTable k die entries => exact leads_of_stays hs (stays_slotTable s k die entries)
  | dieFirmwareReload k die addr => exact leads_of_stays hs (stays_dieFirmwareReload s k die addr)
  | hbmRepair k die first count => exact leads_of_stays hs (stays_hbmRepair s k die first count)
  | portRetrain k port => exact leads_of_stays hs (stays_portRetrain s k port)
  | hearthRetirement k h => exact leads_of_stays hs (stays_hearthRetirement s k h)
  | eventRead k id => exact leads_of_stays hs (stays_eventRead s k id)
  | dataArrival n => exact leads_of_stays hs (stays_dataArrival s n)
  | copyPerform coll => exact leads_of_stays hs (stays_copyPerform s coll)
  | copyComplete coll => exact leads_of_stays hs (stays_copyComplete s coll)
  | atomicPerform n => exact leads_of_stays hs (stays_atomicPerform s n)
  | atomicAck n => exact leads_of_stays hs (stays_atomicAck s n)
  | mailboxPost m => exact leads_of_stays hs (stays_mailboxPost s m)
  | mailboxHandlerLaunch m => exact leads_of_stays hs (stays_mailboxHandlerLaunch s m)
  | chimneyLineHigh square => exact leads_of_stays hs (stays_chimneyLineHigh s square)
  | partitionSwap id => exact leads_of_stays hs (stays_partitionSwap s id)
  | priorityAging n => exact leads_of_stays hs (stays_priorityAging s n)
  | makeResident id handle => exact leads_of_stays hs (stays_makeResident s id handle)
  | hbmRequestPerform n => exact leads_of_stays hs (stays_hbmRequestPerform s n)
  | hbmReply n => exact leads_of_stays hs (stays_hbmReply s n)
  | hostMemAccess a => exact leads_of_stays hs (stays_hostMemAccess s a)
  | packetReceive p => exact leads_of_stays hs (stays_packetReceive s p)
  | oplaunch st o => exact leads_of_stays hs (stays_oplaunch s st o)
  | phase st => exact leads_of_stays hs (stays_phase s st)
  | taskdef st o => exact leads_of_stays hs (stays_taskdef s st o)
  | taskarm st n count => exact leads_of_stays hs (stays_taskarm s st n count)
  | opwait st mask cont handle => exact leads_of_stays hs (stays_opwait s st mask cont handle)
  | mboxbind st o => exact leads_of_stays hs (stays_mboxbind s st o)
  | mboxfree st m => exact leads_of_stays hs (stays_mboxfree s st m)
  | specflush st all handle => exact leads_of_stays hs (stays_specflush s st all handle)
  | tdecl st o => exact leads_of_stays hs (stays_tdecl s st o)
  | tuse st uses => exact leads_of_stays hs (stays_tuse s st uses)
  | trecipe st o => exact leads_of_stays hs (stays_trecipe s st o)
  | trelease st handle => exact leads_of_stays hs (stays_trelease s st handle)
  | tpin st tier handle => exact leads_of_stays hs (stays_tpin s st tier handle)
  | tunpin st handle => exact leads_of_stays hs (stays_tunpin s st handle)
  | tquery st handle result => exact leads_of_stays hs (stays_tquery s st handle result)
  | scan st o => exact leads_of_stays hs (stays_scan s st o)
  | texport st o => exact leads_of_stays hs (stays_texport s st o)
  | trevoke st w => exact leads_of_stays hs (stays_trevoke s st w)
  | droopStretch n => exact leads_of_stays hs (stays_droopStretch s n)
  | powerLimitThrottle => exact leads_of_stays hs (stays_powerLimitThrottle s)
  | serviceSlot => exact leads_of_stays hs (stays_serviceSlot s)
  | bundleIssue => exact leads_of_stays hs (stays_bundleIssue s)
  | resultWriteback => exact leads_of_stays hs (stays_resultWriteback s)
  | landing => exact leads_of_stays hs (stays_landing s)
  | planeFillLanding => exact leads_of_stays hs (stays_planeFillLanding s)
  | windowRowLanding => exact leads_of_stays hs (stays_windowRowLanding s)
  | copyQueueAccept => exact leads_of_stays hs (stays_copyQueueAccept s)
  | fenceWaitEnd => exact leads_of_stays hs (stays_fenceWaitEnd s)
  | syncRequestAccept => exact leads_of_stays hs (stays_syncRequestAccept s)
  | waitaTimeout => exact leads_of_stays hs (stays_waitaTimeout s)
  | monitorCancelAck => exact leads_of_stays hs (stays_monitorCancelAck s)
  | pairLineMeet => exact leads_of_stays hs (stays_pairLineMeet s)
  | haltComplete => exact leads_of_stays hs (stays_haltComplete s)
  | preemptRequest => exact leads_of_stays hs (stays_preemptRequest s)
  | preemptLand => exact leads_of_stays hs (stays_preemptLand s)
  | contextImageWrite => exact leads_of_stays hs (stays_contextImageWrite s)
  | taskResume => exact leads_of_stays hs (stays_taskResume s)
  | taskPlace => exact leads_of_stays hs (stays_taskPlace s)
  | launchComplete => exact leads_of_stays hs (stays_launchComplete s)
  | phaseCommit => exact leads_of_stays hs (stays_phaseCommit s)
  | rollback => exact leads_of_stays hs (stays_rollback s)
  | hbmRequestSend => exact leads_of_stays hs (stays_hbmRequestSend s)
  | scanComplete => exact leads_of_stays hs (stays_scanComplete s)
  | flitReplay => exact leads_of_stays hs (stays_flitReplay s)
  | discardInterval => exact leads_of_stays hs (stays_discardInterval s)
  | remoteRequest => exact leads_of_stays hs (stays_remoteRequest s)
  | remoteReply => exact leads_of_stays hs (stays_remoteReply s)
  | remoteTimeout => exact leads_of_stays hs (stays_remoteTimeout s)
  | revokeEffect => exact leads_of_stays hs (stays_revokeEffect s)
  | revokeDrainDone => exact leads_of_stays hs (stays_revokeDrainDone s)
  | windowQuarantineEnd => exact leads_of_stays hs (stays_windowQuarantineEnd s)
  | _ => exact (Option.some_ne_none _ hi).elim

/-- An instruction takes a legal device to a legal one of its form. -/
theorem exec_mayBecome {i : Instr} {t : State} (h : exec i s = .next t) : s.mayBecome t := by
  cases hi : i.slot with
  | none => exact exec_leads_of_noSlot hs hi t h
  | some sl => exact State.mayBecome_of_station hs (stays_slot hi s t h)

/-! ## Which event happens -/

theorem take_mayBecome {x : Turn} {t : State} (h : s.take x = .next t) : s.mayBecome t := by
  cases x with
  | event u i => exact exec_mayBecome (s := { s with unit := u }) hs h
  | streamFault st ctx code =>
    obtain rfl := Host.Outcome.next.inj h
    exact State.mayBecome_of_station hs (s.streamFault_station _ _ _)

theorem choose_mayBecome {l : List Turn} {t : State} (h : s.choose l = .next t) : s.mayBecome t := by
  unfold State.choose at h
  split at h
  · exact take_mayBecome (s := { s with free := s.free + 1 }) hs h
  · obtain rfl := Host.Outcome.next.inj h
    exact State.mayBecome_of_station hs rfl

theorem autonomous_mayBecome {t : State} (h : s.autonomous = .next t) : s.mayBecome t := by
  unfold State.autonomous at h
  split at h
  · obtain rfl := Host.Outcome.next.inj h
    exact State.mayBecome_of_station hs rfl
  · exact take_mayBecome hs h
  · exact choose_mayBecome hs h

theorem fromOutside_mayBecome {u : Nat} {i : Instr} {t : State} (h : s.fromOutside u i = .next t) : s.mayBecome t := by
  unfold State.fromOutside at h
  split at h
  · exact exec_mayBecome (s := { s with unit := u }) hs h
  · obtain rfl := Host.Outcome.next.inj h
    exact State.mayBecome_of_station hs rfl

theorem step_mayBecome {t : State} (h : step s = .next t) : s.mayBecome t := by
  obtain ⟨hlegal, hform⟩ := State.mayBecome_of_station hs s.struck_station
  have hstruck : s.struck.mayBecome t := by
    unfold step State.advance at h
    dsimp only at h
    split at h
    · exact autonomous_mayBecome hlegal h
    next rest _ =>
      split at h
      · exact autonomous_mayBecome hlegal h
      · exact fromOutside_mayBecome (s := { s.struck with agenda := rest }) hlegal h
    next n u i rest _ => exact autonomous_mayBecome (s := { s.struck with agenda := (n, u, i) :: rest }) hlegal h
  exact ⟨hstruck.1, hstruck.2.trans hform⟩

end

/-- Settles O59: all but eight events keep form, power and STATE, and each of the eight leads to a legal STATE of its own. -/
theorem deviceStateStaysLegal : Obligations.DeviceStateStaysLegal :=
  fun _ _ hs h => step_mayBecome hs h

end Sys2Proof.Machine
end
